-- ==== Sys2Proof/Word.lean ====
section
/-! DEFINITION. The word types of the G5 and the small record types that instructions and events carry. -/
namespace Sys2Proof

/-- A 64-bit register, control register or descriptor word (R165). -/
abbrev Word := BitVec 64
/-- A byte of any memory (R4). -/
abbrev Byte := BitVec 8
/-- A 5-bit register field (R143). -/
abbrev Reg := BitVec 5

/-- The fields of a BX instruction (R149). -/
structure BX where
  d : Reg
  a : Reg
  b : Reg
  c : Reg
  ef : BitVec 5
  dm : BitVec 2
  am : BitVec 2
  bm : BitVec 2
  cm : BitVec 2
  ca : BitVec 1
  cb : BitVec 1
  cc : BitVec 1
  o : BitVec 1
  x : BitVec 1
  t : BitVec 1
  msk : BitVec 2
  rnd : BitVec 3
  sat : BitVec 1
  fn : BitVec 7
  deriving DecidableEq, Repr

/-- The fields of a TX instruction (R156); bits [63:48] are checked zero by the decoder. -/
structure TX where
  d : Reg
  a : Reg
  b : Reg
  c : Reg
  repm1 : BitVec 4
  ca : BitVec 1
  cb : BitVec 1
  cc : BitVec 1
  o : BitVec 1
  x : BitVec 1
  fn : BitVec 7
  deriving DecidableEq, Repr

/-- The fields of a CX instruction (R158); bit 31 is checked zero by the decoder. -/
structure CX where
  d : Reg
  a : Reg
  b : Reg
  ch : BitVec 3
  sig : BitVec 1
  dir : BitVec 2
  opx : BitVec 30
  deriving DecidableEq, Repr

/-- A register that REGISTER_WRITE names: a gang control register of the selected gang (R161), or a device register
(R378, R379, R389, R413, R415, R421, R435). -/
inductive DevReg where
  | control (num : BitVec 12)
  | stkstat (stack : Nat)
  | parst
  | pcpwr (stack : Nat)
  | queueWord (queue : Nat) (word : BitVec 2)
  | peerWord (window : BitVec 8) (word : BitVec 2)
  | grantWord (peer : BitVec 32) (window : BitVec 8) (word : BitVec 2)
  | portRecord (port : BitVec 2) (word : BitVec 3)
  | portPlacement (port : BitVec 2)
  | pasidRoot (pasid : Nat)
  | pasidDomain (pasid : Nat)
  | hotnessClear (pasid : Nat) (page : Nat)
  deriving DecidableEq, Repr

/-- What a parity home is asked to do with bytes of local HBM (R371). -/
inductive HomeKind where
  | read
  | write
  | amo (op : BitVec 4)
  deriving DecidableEq, Repr

/-- One access of local HBM ordered at its parity home (R371): physical address, size in bytes, operand value, the CAS
comparand, and whether the stack meets an error in the data, or in the parity, that ECC and SECDED cannot correct (R374). -/
structure HomeAccess where
  kind : HomeKind
  pa : Nat
  size : Nat
  val : Word
  cmp : Word
  eccError : Bool
  parityError : Bool := false
  deriving DecidableEq, Repr

/-- One access that arrives from the peer device at endpoint `peer` through the grant for its window `win` (R415). -/
structure PeerAccess where
  peer : BitVec 32
  win : BitVec 8
  gen : BitVec 16
  off : Nat
  kind : HomeKind
  size : Nat
  val : Word
  cmp : Word
  deriving DecidableEq, Repr

/-- The delivery asked for at connection set-up (R411). -/
inductive DeliveryMode where
  | rod
  | rud
  | unreliable
  deriving DecidableEq, Repr

/-- What the start sequence meets (R437): whether the flash can be read in step 1, whether the self-test of step 4 passes, the stacks that fail training, whether the
firmware faults before it is ready, and whether it becomes ready at all within the time of step 6. -/
structure StartInputs where
  flashRead : Bool
  selfTest : Bool
  untrained : List Nat
  firmwareFault : Bool
  inTime : Bool
  deriving DecidableEq, Repr

/-- The two moments of a live hand-over (R441): the image arrives and is checked; the key is released. -/
inductive Handover where
  | offer (image : List Byte)
  | release
  deriving DecidableEq, Repr

end Sys2Proof
end

