-- ==== Sys2Proof/Config.lean ====
section
/-! DEFINITION. What one part fixes and the free values: constants without a body, about which nothing can be proved. -/
namespace Sys2Proof.Config

/-- A free value, fresh for each argument (assumption log 2). -/
opaque freeWord : Nat → Word
/-- Cycles that pass between two reads of a die's counter (R22, R24; assumption log 8). -/
opaque elapsed : Nat → Nat
/-- Clocks that a bank is held by a gate or a staged wait, and what an instruction adds to a bank's CONFL and MERGED (R69, R163, R233;
assumption log 8). -/
opaque heldClocks : Nat → Nat
opaque conflicts : Nat → Nat
opaque merges : Nat → Nat
/-- Which of several commands that nothing orders an engine takes next (R397, R409; assumption log 2). -/
opaque pick : Nat → Nat
/-- Where F-addresses of conversion frames begin, in units of 64 frames above the F-space (R308; assumption log 2). -/
opaque conversionBase : BitVec 16
/-- Slots that a buffer of R236 has beyond two, by the buffer's kind (R237 counts on one reserved slot in each). -/
opaque bufferSlots : Nat → Nat
/-- Whether the loader takes an image with an absent block, OFF and LEN 0: R456 has it build such a table, R458 takes every zero field that
is not zero, and every field out of its range, for an error (assumption log 36). -/
opaque absentBlockLoads : Bool
/-- Whether the boot ROM can read what flash holds, or a pushed image, as a firmware image (R437, R440). -/
opaque imageReadable : List Byte → Bool
/-- Whether an image's RSA-4096 signature over its SHA-512 digest checks against the fused Novsis key hash (R437). -/
opaque signatureValid : List Byte → Bool
/-- The version field of a firmware image (R439, R442). -/
opaque imageVersion : List Byte → Word
/-- The device identity in the fuses (R442). -/
opaque deviceId : List Byte
/-- The digest shown for an image that a loss of power has cut (R439, R440). -/
opaque cutImageDigest : List Byte
/-- The RSA-4096 signature of bytes 0 to 639 of an attestation report (R442). -/
opaque signReport : List Byte → List Byte
/-- The version field and the address of the recovery mailbox, and the command core's PC at the freeze (R434). -/
opaque mailboxVersion : Word
opaque mailboxAddress : Word
opaque commandCorePc : Nat → Word
/-- Whether a peer or the host answers a load or an atomic operation with a NAK (R184): by gang, instructions it has committed, and
physical address (assumption log 2). -/
opaque refusesLoad : Nat → Nat → Nat → Bool
/-- Where the command core keeps a gang's context area (R41, R432). -/
opaque contextAddress : Nat → Word
end Sys2Proof.Config
end

