-- ==== Sys2Proof/Syntax.lean ====
section
/-! DEFINITION. The instructions and events of the G5: one constructor for every row of spec/opcode_table.json. Rows with an
encoding carry the fields of it (R142, R149, R156, R158, R160); rows that are steps of another agent carry what names the step. -/
namespace Sys2Proof

/-- One constructor per row of the opcode table. Field names of 32-bit instructions are the table's. -/
inductive Instr where
  /-- ADD: Writes s[a] + s[b] modulo 2^64 to s[d] (R170) -/
  | add (d : BitVec 5) (a : BitVec 5) (b : BitVec 5)
  /-- SUB: Writes s[a] − s[b] modulo 2^64 to s[d] (R170) -/
  | sub (d : BitVec 5) (a : BitVec 5) (b : BitVec 5)
  /-- AND: Writes the bitwise AND of s[a] and s[b] to s[d] (R170) -/
  | and (d : BitVec 5) (a : BitVec 5) (b : BitVec 5)
  /-- OR: Writes the bitwise OR of s[a] and s[b] to s[d] (R170) -/
  | or (d : BitVec 5) (a : BitVec 5) (b : BitVec 5)
  /-- XOR: Writes the bitwise XOR of s[a] and s[b] to s[d] (R170) -/
  | xor (d : BitVec 5) (a : BitVec 5) (b : BitVec 5)
  /-- ANDN: Writes s[a] AND NOT s[b] to s[d] (R170) -/
  | andn (d : BitVec 5) (a : BitVec 5) (b : BitVec 5)
  /-- SLL: Writes s[a] shifted left by bits [5:0] of s[b] to s[d] (R170) -/
  | sll (d : BitVec 5) (a : BitVec 5) (b : BitVec 5)
  /-- SRL: Writes s[a] shifted logically right by bits [5:0] of s[b] to s[d] (R170) -/
  | srl (d : BitVec 5) (a : BitVec 5) (b : BitVec 5)
  /-- SRA: Writes s[a] shifted arithmetically right by bits [5:0] of s[b] to s[d] (R170) -/
  | sra (d : BitVec 5) (a : BitVec 5) (b : BitVec 5)
  /-- ROL: Writes s[a] rotated left by bits [5:0] of s[b] to s[d] (R170) -/
  | rol (d : BitVec 5) (a : BitVec 5) (b : BitVec 5)
  /-- ROR: Writes s[a] rotated right by bits [5:0] of s[b] to s[d] (R170) -/
  | ror (d : BitVec 5) (a : BitVec 5) (b : BitVec 5)
  /-- SLT: Writes 1 to s[d] if s[a] < s[b] as signed values, else 0 (R170) -/
  | slt (d : BitVec 5) (a : BitVec 5) (b : BitVec 5)
  /-- SLTU: Writes 1 to s[d] if s[a] < s[b] as unsigned values, else 0 (R170) -/
  | sltu (d : BitVec 5) (a : BitVec 5) (b : BitVec 5)
  /-- MIN: Writes the signed minimum of s[a] and s[b] to s[d] (R170) -/
  | min (d : BitVec 5) (a : BitVec 5) (b : BitVec 5)
  /-- MAX: Writes the signed maximum of s[a] and s[b] to s[d] (R170) -/
  | max (d : BitVec 5) (a : BitVec 5) (b : BitVec 5)
  /-- MINU: Writes the unsigned minimum of s[a] and s[b] to s[d] (R170) -/
  | minu (d : BitVec 5) (a : BitVec 5) (b : BitVec 5)
  /-- MAXU: Writes the unsigned maximum of s[a] and s[b] to s[d] (R170) -/
  | maxu (d : BitVec 5) (a : BitVec 5) (b : BitVec 5)
  /-- MUL: Writes bits [63:0] of s[a] × s[b] to s[d] (R170) -/
  | mul (d : BitVec 5) (a : BitVec 5) (b : BitVec 5)
  /-- MULH: Writes bits [127:64] of the signed 128-bit product to s[d] (R170) -/
  | mulh (d : BitVec 5) (a : BitVec 5) (b : BitVec 5)
  /-- MULHU: Writes bits [127:64] of the unsigned 128-bit product to s[d] (R170) -/
  | mulhu (d : BitVec 5) (a : BitVec 5) (b : BitVec 5)
  /-- DIV: Writes the signed quotient truncated toward zero to s[d], with the special cases for division by zero and overflow (R171) -/
  | div (d : BitVec 5) (a : BitVec 5) (b : BitVec 5)
  /-- DIVU: Writes the unsigned quotient to s[d], with all ones for division by zero (R171) -/
  | divu (d : BitVec 5) (a : BitVec 5) (b : BitVec 5)
  /-- REM: Writes the signed remainder to s[d], with the special cases for division by zero and overflow (R171) -/
  | rem (d : BitVec 5) (a : BitVec 5) (b : BitVec 5)
  /-- REMU: Writes the unsigned remainder to s[d], with s[a] for division by zero (R171) -/
  | remu (d : BitVec 5) (a : BitVec 5) (b : BitVec 5)
  /-- CLMUL: Writes bits [63:0] of the carry-less product to s[d] (R170) -/
  | clmul (d : BitVec 5) (a : BitVec 5) (b : BitVec 5)
  /-- CLMULH: Writes bits [127:64] of the carry-less product to s[d] (R170) -/
  | clmulh (d : BitVec 5) (a : BitVec 5) (b : BitVec 5)
  /-- CLZ: Writes the number of leading zero bits of s[a] to s[d] (R170) -/
  | clz (d : BitVec 5) (a : BitVec 5)
  /-- CTZ: Writes the number of trailing zero bits of s[a] to s[d] (R170) -/
  | ctz (d : BitVec 5) (a : BitVec 5)
  /-- POPC: Writes the number of 1 bits of s[a] to s[d] (R170) -/
  | popc (d : BitVec 5) (a : BitVec 5)
  /-- SEXT: Writes s[a] sign-extended from the width that the b field codes to s[d] (R172) -/
  | sext (d : BitVec 5) (a : BitVec 5) (w : BitVec 5)
  /-- ZEXT: Writes s[a] zero-extended from the width that the b field codes to s[d] (R172) -/
  | zext (d : BitVec 5) (a : BitVec 5) (w : BitVec 5)
  /-- ADDI: Writes s[a] plus the sign-extended imm15 to s[d] (R173) -/
  | addi (d : BitVec 5) (a : BitVec 5) (i : BitVec 15)
  /-- ANDI: Writes s[a] AND the sign-extended imm15 to s[d] (R173) -/
  | andi (d : BitVec 5) (a : BitVec 5) (i : BitVec 15)
  /-- ORI: Writes s[a] OR the sign-extended imm15 to s[d] (R173) -/
  | ori (d : BitVec 5) (a : BitVec 5) (i : BitVec 15)
  /-- XORI: Writes s[a] XOR the sign-extended imm15 to s[d] (R173) -/
  | xori (d : BitVec 5) (a : BitVec 5) (i : BitVec 15)
  /-- SLLI: Writes s[a] shifted left by the immediate, 0 to 63, to s[d] (R173) -/
  | slli (d : BitVec 5) (a : BitVec 5) (i : BitVec 15)
  /-- SRLI: Writes s[a] shifted logically right by the immediate to s[d] (R173) -/
  | srli (d : BitVec 5) (a : BitVec 5) (i : BitVec 15)
  /-- SRAI: Writes s[a] shifted arithmetically right by the immediate to s[d] (R173) -/
  | srai (d : BitVec 5) (a : BitVec 5) (i : BitVec 15)
  /-- SLTI: Writes 1 to s[d] if s[a] is below the sign-extended immediate as a signed value, else 0 (R173) -/
  | slti (d : BitVec 5) (a : BitVec 5) (i : BitVec 15)
  /-- SLTIU: Writes 1 to s[d] if s[a] is below the sign-extended immediate as an unsigned value, else 0 (R173) -/
  | sltiu (d : BitVec 5) (a : BitVec 5) (i : BitVec 15)
  /-- LIH: Writes imm20 << 12, zero-extended, to s[d] (R174) -/
  | lih (d : BitVec 5) (i : BitVec 20)
  /-- LIM: Writes the sign-extended 47-bit immediate to s[d], as the 64-bit LX instruction (R175) -/
  | lim (d : Reg) (imm : BitVec 47)
  /-- LB: Loads a byte from sequencer-local memory or F-space, sign-extended, into s[d] (R177) -/
  | lb (d : BitVec 5) (a : BitVec 5) (i : BitVec 15)
  /-- LBU: Loads a byte, zero-extended, into s[d] (R177) -/
  | lbu (d : BitVec 5) (a : BitVec 5) (i : BitVec 15)
  /-- LH: Loads a halfword, sign-extended, into s[d] (R177) -/
  | lh (d : BitVec 5) (a : BitVec 5) (i : BitVec 15)
  /-- LHU: Loads a halfword, zero-extended, into s[d] (R177) -/
  | lhu (d : BitVec 5) (a : BitVec 5) (i : BitVec 15)
  /-- LW: Loads a word, sign-extended, into s[d] (R177) -/
  | lw (d : BitVec 5) (a : BitVec 5) (i : BitVec 15)
  /-- LWU: Loads a word, zero-extended, into s[d] (R177) -/
  | lwu (d : BitVec 5) (a : BitVec 5) (i : BitVec 15)
  /-- LD: Loads a doubleword into s[d] (R177) -/
  | ld (d : BitVec 5) (a : BitVec 5) (i : BitVec 15)
  /-- SB: Stores bits [7:0] of s[d] to sequencer-local memory or F-space (R177) -/
  | sb (d : BitVec 5) (a : BitVec 5) (i : BitVec 15)
  /-- SH: Stores bits [15:0] of s[d] (R177) -/
  | sh (d : BitVec 5) (a : BitVec 5) (i : BitVec 15)
  /-- SW: Stores bits [31:0] of s[d] (R177) -/
  | sw (d : BitVec 5) (a : BitVec 5) (i : BitVec 15)
  /-- SD: Stores all 64 bits of s[d] (R177) -/
  | sd (d : BitVec 5) (a : BitVec 5) (i : BitVec 15)
  /-- LDG: Translates s[a] + s[b] under the PASID and sends a G-space load of the given size, order and scope for s[d] (R181) -/
  | ldg (d : BitVec 5) (a : BitVec 5) (b : BitVec 5) (z : BitVec 3) (o : BitVec 2) (c : BitVec 2)
  /-- STG: Translates s[a] + s[b] and writes the low bytes of s[d] to G-space with the given order and scope (R181) -/
  | stg (d : BitVec 5) (a : BitVec 5) (b : BitVec 5) (z : BitVec 3) (o : BitVec 2) (c : BitVec 2)
  /-- AMO: Performs an atomic read-modify-write at s[a] with operand s[b] in the space, size, order and scope selected, returning the old value in s[d] (R187) -/
  | amo (d : BitVec 5) (a : BitVec 5) (b : BitVec 5) (n : BitVec 4) (z : BitVec 1) (o : BitVec 2) (c : BitVec 2) (g : BitVec 1)
  /-- BEQ: Branches to PC + 4 × offset when s[a] = s[b] (R189) -/
  | beq (l : BitVec 5) (a : BitVec 5) (b : BitVec 5) (h : BitVec 10)
  /-- BNE: Branches when s[a] ≠ s[b] (R189) -/
  | bne (l : BitVec 5) (a : BitVec 5) (b : BitVec 5) (h : BitVec 10)
  /-- BLT: Branches when s[a] < s[b] as signed values (R189) -/
  | blt (l : BitVec 5) (a : BitVec 5) (b : BitVec 5) (h : BitVec 10)
  /-- BGE: Branches when s[a] ≥ s[b] as signed values (R189) -/
  | bge (l : BitVec 5) (a : BitVec 5) (b : BitVec 5) (h : BitVec 10)
  /-- BLTU: Branches when s[a] < s[b] as unsigned values (R189) -/
  | bltu (l : BitVec 5) (a : BitVec 5) (b : BitVec 5) (h : BitVec 10)
  /-- BGEU: Branches when s[a] ≥ s[b] as unsigned values (R189) -/
  | bgeu (l : BitVec 5) (a : BitVec 5) (b : BitVec 5) (h : BitVec 10)
  /-- JAL: Writes PC + 4 to s[d] and jumps to PC + 4 × the sign-extended off20 (R190) -/
  | jal (d : BitVec 5) (o : BitVec 20)
  /-- JALR: Jumps to s[a] + imm after a 4-alignment check and writes PC + 4 to s[d] (R191) -/
  | jalr (d : BitVec 5) (a : BitVec 5) (i : BitVec 15)
  /-- CRD: Reads a control register into s[d], after the waits that R92 requires (R195) -/
  | crd (d : BitVec 5) (n : BitVec 12)
  /-- CWR: Writes s[a] to a control register and returns its old value in s[d] (R195) -/
  | cwr (d : BitVec 5) (a : BitVec 5) (n : BitVec 12)
  /-- CSET: ORs s[a] into a control register and returns its old value in s[d] (R195) -/
  | cset (d : BitVec 5) (a : BitVec 5) (n : BitVec 12)
  /-- CCLR: Clears the bits of s[a] in a control register and returns its old value in s[d] (R195) -/
  | cclr (d : BitVec 5) (a : BitVec 5) (n : BitVec 12)
  /-- REGISTER_WRITE: A write to a control or device register that has no row of its own stores the value, with RO and zero fields kept (R195) -/
  | registerWrite (r : DevReg) (v : Word)
  /-- CHSTAT_CANCEL: Writing CN = 1 to a stopped channel discards its remaining copies, frees their scoreboard entries and clears ST and BY (R358) -/
  | chstatCancel (c : BitVec 3)
  /-- CHSTAT_ERROR_CLEAR: Writing 1 to CHSTAT error bits clears them (R343) -/
  | chstatErrorClear (c : BitVec 3) (m : BitVec 7)
  /-- CONVRES_WRITE: A write to CONVRES takes effect after earlier instructions retire, as FWSET does, and clears the frames that move into or out of the reservation (R302) -/
  | convresWrite (v : Word)
  /-- SETEC: Sets ECOUNT to min(s[a], 2^34) and ESTART to 0, and returns the count in s[d] (R201) -/
  | setec (d : BitVec 5) (a : BitVec 5)
  /-- SETEC.t: Sets TCOUNT to min(s[a], 131,072) and ESTART to 0, and returns the count in s[d] (R201) -/
  | setecT (d : BitVec 5) (a : BitVec 5)
  /-- SETSPAN: After earlier work completes, requests a span of s[a] clusters and writes the granted count or 0 to s[d] (R202) -/
  | setspan (d : BitVec 5) (a : BitVec 5)
  /-- FWSET: Installs the window descriptor image at s[a] as window s[b] if it is valid, and writes 1 or 0 to s[d] (R203) -/
  | fwset (d : BitVec 5) (a : BitVec 5) (b : BitVec 5)
  /-- FWGET: Writes the descriptor of window s[b] to the image at s[a] and writes 1 or 0 to s[d] (R203) -/
  | fwget (d : BitVec 5) (a : BitVec 5) (b : BitVec 5)
  /-- OWNER: Resolves the F-address s[a] and writes the window, owner bank and local offset, or a failure reason, to s[d] (R204) -/
  | owner (d : BitVec 5) (a : BitVec 5)
  /-- RQPOP: Waits until the oldest reserved read-queue entry is full, then removes it into s[d] (R205) -/
  | rqpop (d : BitVec 5)
  /-- RQSTAT: Writes RQV + (RQR << 8) to s[d] without waiting (R205) -/
  | rqstat (d : BitVec 5)
  /-- EQPUSH: Appends s[a] as a word of the open command on engine port N (R208) -/
  | eqpush (a : BitVec 5) (p : BitVec 5)
  /-- EQPUSH.last: Appends the final word of a command to port N and releases it to the engine under R135 (R208) -/
  | eqpushLast (a : BitVec 5) (p : BitVec 5)
  /-- EQPOP: Waits for the oldest result of port N, removes it into s[d] and acquires that operation (R209) -/
  | eqpop (d : BitVec 5) (p : BitVec 5)
  /-- EQSTAT: Writes the status word of port N to s[d] and clears its ERR bit (R210) -/
  | eqstat (d : BitVec 5) (p : BitVec 5)
  /-- FENCE: Holds later accesses until the reads, writes or copies in the kind mask are performed at the named scope (R124) -/
  | fence (s : BitVec 5) (k : BitVec 5)
  /-- FENCEB: Arrives at the named barrier once earlier writes, and with .c earlier copies, are performed at the effective scope (R212) -/
  | fenceb (b : BitVec 5) (c : BitVec 5)
  /-- BARRIER_ARRIVAL: A gang is counted as arrived at a barrier once its earlier writes and copies are performed at the effective scope (R126) -/
  | barrierArrival (gang : Nat) (bar : BitVec 5)
  /-- WAITB: Waits for the completion of the phase in which the gang last arrived at the barrier and acquires (R212) -/
  | waitb (b : BitVec 5)
  /-- BARCFG: Sets the member count of the named barrier from s[b] and writes 1 on success or 0 on refusal to s[d] (R213) -/
  | barcfg (d : BitVec 5) (b : BitVec 5) (n : BitVec 5)
  /-- BQWAIT: Waits until every earlier broadcast and tile instruction has retired at every bank (R214) -/
  | bqwait
  /-- SIGWAIT: Waits until the signal at s[a] meets the condition against s[b], then acquires at system scope (R215) -/
  | sigwait (c : BitVec 5) (a : BitVec 5) (b : BitVec 5)
  /-- SIGPOST: Atomically adds or sets s[b] at the signal s[a] as a release at system scope (R215) -/
  | sigpost (c : BitVec 5) (a : BitVec 5) (b : BitVec 5)
  /-- AWSET: Sets walk register N to base s[a] and pattern s[b] for translation prefetch (R362) -/
  | awset (w : BitVec 5) (a : BitVec 5) (b : BitVec 5)
  /-- TRAP: Takes cause 11 with GEVAL set to the 10-bit code (R226) -/
  | trap (l : BitVec 5) (h : BitVec 5)
  /-- ERET: Returns from handler level, re-issuing the pending frame ahead of the instruction at GEPC (R225) -/
  | eret
  /-- ERET.skip: Returns from handler level after marking the frame entry at GQPOS complete (R225) -/
  | eretSkip
  /-- ERET.drop: Returns from handler level after discarding the pending frame and the resume words (R225) -/
  | eretDrop
  /-- BRK: Takes cause 12, or stops the gang for the debugger when DB = 1 (R226) -/
  | brk
  /-- WFE: Clears EV and continues if it is set; otherwise waits for EV to be set, then clears it (R216) -/
  | wfe
  /-- YIELD: Lets the command core pre-empt the gang when a ready queue of equal or higher priority waits (R217) -/
  | yield
  /-- HALT: Retires the gang: cancels stopped channels, waits for outstanding work, discards results, releases the span and performs the post-signal (R47) -/
  | halt
  /-- QSAVE: Waits as BQWAIT does, then stores the pending frame as a 4 KiB record at s[a] (R227) -/
  | qsave (a : BitVec 5)
  /-- QLOAD: Reads a queue-frame record from s[a] into the pending frame if its checks hold, and sets FV (R227) -/
  | qload (a : BitVec 5)
  /-- VADD: Broadcast element add d[i] := a[i] + b[i] (R255) -/
  | vadd (f : BX)
  /-- VSUB: Broadcast element subtract (R255) -/
  | vsub (f : BX)
  /-- VMUL: Broadcast element multiply (R255) -/
  | vmul (f : BX)
  /-- VFMA: Broadcast fused multiply-add a × b + c (R255) -/
  | vfma (f : BX)
  /-- VFMS: Broadcast fused multiply-subtract a × b − c (R255) -/
  | vfms (f : BX)
  /-- VFNMA: Broadcast fused −(a × b) + c (R255) -/
  | vfnma (f : BX)
  /-- VDIV: Broadcast element divide, with integer division by R257 (R255) -/
  | vdiv (f : BX)
  /-- VSQRT: Broadcast element square root (R255) -/
  | vsqrt (f : BX)
  /-- VMIN: Broadcast element minimum (R256) -/
  | vmin (f : BX)
  /-- VMAX: Broadcast element maximum (R256) -/
  | vmax (f : BX)
  /-- VABS: Broadcast element absolute value (R255) -/
  | vabs (f : BX)
  /-- VNEG: Broadcast element negation (R255) -/
  | vneg (f : BX)
  /-- VCPYS: Broadcast copy of the magnitude of a with the sign of b (R255) -/
  | vcpys (f : BX)
  /-- VFUN: Broadcast correctly rounded transcendental function chosen by FN (R260) -/
  | vfun (f : BX)
  /-- VMULH: Broadcast high half of the integer product (R255) -/
  | vmulh (f : BX)
  /-- VAVG: Broadcast rounded half-sum of a and b (R255) -/
  | vavg (f : BX)
  /-- VCLASS: Broadcast floating-point class bits into U16 or U32 elements (R259) -/
  | vclass (f : BX)
  /-- VAND: Broadcast bitwise AND (R261) -/
  | vand (f : BX)
  /-- VOR: Broadcast bitwise OR (R261) -/
  | vor (f : BX)
  /-- VXOR: Broadcast bitwise XOR (R261) -/
  | vxor (f : BX)
  /-- VSLL: Broadcast shift left (R261) -/
  | vsll (f : BX)
  /-- VSRL: Broadcast logical shift right (R261) -/
  | vsrl (f : BX)
  /-- VSRA: Broadcast arithmetic shift right (R261) -/
  | vsra (f : BX)
  /-- VCLMUL: Broadcast low half of the carry-less product (R261) -/
  | vclmul (f : BX)
  /-- VCLMULH: Broadcast high half of the carry-less product (R261) -/
  | vclmulh (f : BX)
  /-- VPOPC: Broadcast population count (R261) -/
  | vpopc (f : BX)
  /-- VCLZ: Broadcast count of leading zeros (R261) -/
  | vclz (f : BX)
  /-- VCMP: Broadcast comparison writing one mask bit per element (R262) -/
  | vcmp (f : BX)
  /-- VSELM: Broadcast select of a or b by mask bit (R264) -/
  | vselm (f : BX)
  /-- VCVTN: Broadcast narrowing conversion between a pair of R94 (R265) -/
  | vcvtn (f : BX)
  /-- VCVTW: Broadcast exact widening conversion between a pair of R94 (R265) -/
  | vcvtw (f : BX)
  /-- VCVTI: Broadcast conversion between integer and other formats (R266) -/
  | vcvti (f : BX)
  /-- VCVTF4: Fused conversion of an F32 array into SF4 tiles with chosen block and band scales (R269) -/
  | vcvtf4 (f : BX)
  /-- VMOV: Broadcast element move (R274) -/
  | vmov (f : BX)
  /-- VIOTA: Broadcast write of splat value plus element index (R274) -/
  | viota (f : BX)
  /-- VREV: Broadcast reversal of element order (R274) -/
  | vrev (f : BX)
  /-- VRESHAPE: Transpose of R rows of L elements, performed by the reshape unit (R275) -/
  | vreshape (f : BX)
  /-- VCOMPRESS: Packs the active source elements to the front of the destination (R276) -/
  | vcompress (f : BX)
  /-- VEXPAND: Spreads consecutive source elements to the active destination positions (R276) -/
  | vexpand (f : BX)
  /-- VREDSUM: Pairwise-tree sum of the active elements to the read queue or memory (R277) -/
  | vredsum (f : BX)
  /-- VREDMAX: Maximum of the active elements (R277) -/
  | vredmax (f : BX)
  /-- VREDMIN: Minimum of the active elements (R277) -/
  | vredmin (f : BX)
  /-- VREDBIT: Bitwise AND, OR or XOR reduction of the active elements (R277) -/
  | vredbit (f : BX)
  /-- VSCAN: Inclusive or exclusive prefix add, max or min (R280) -/
  | vscan (f : BX)
  /-- VFIRST: Index of the first active nonzero element (R277) -/
  | vfirst (f : BX)
  /-- VCOUNT: Count of the active nonzero elements (R277) -/
  | vcount (f : BX)
  /-- VSCATADD: Indexed scatter combining contributions by tree sum into one update per target (R282) -/
  | vscatadd (f : BX)
  /-- VSCATMAX: Indexed scatter of the maximum into each target (R282) -/
  | vscatmax (f : BX)
  /-- VSCATMIN: Indexed scatter of the minimum into each target (R282) -/
  | vscatmin (f : BX)
  /-- VCONFL: For each element, counts the earlier active elements with an equal value (R283) -/
  | vconfl (f : BX)
  /-- VSPADD: Union-add of sparse coordinate lists, per header (R286) -/
  | vspadd (f : BX)
  /-- VSPMUL: Intersection-multiply of sparse coordinate lists, per header (R286) -/
  | vspmul (f : BX)
  /-- VRUNB: Runs block a[i] on the block runner of the owner of each active destination element (R290) -/
  | vrunb (f : BX)
  /-- BLOAD: Loads the block table and blocks into every bank's block store and sets BLKTAB.NBLK (R289) -/
  | bload (f : CX)
  /-- TMMA: Tile matrix multiply-accumulate C += A × B over TCOUNT tiles and REP steps (R334) -/
  | tmma (f : TX)
  /-- TEW: Tile element-wise add, sub, mul, max or min (R337) -/
  | tew (f : TX)
  /-- TACT: Tile activation function (R337) -/
  | tact (f : TX)
  /-- TROWR: Tile row reduction into column 0 (R337) -/
  | trowr (f : TX)
  /-- TSOFT: Tile row softmax (R338) -/
  | tsoft (f : TX)
  /-- TTRN: Tile transpose (R337) -/
  | ttrn (f : TX)
  /-- TCVT: Tile format conversion, including to and from scaled tiles (R339) -/
  | tcvt (f : TX)
  /-- TCPY: Tile copy of all 8,192 bytes with the result tag from the entry (R337) -/
  | tcpy (f : TX)
  /-- TFILL: Fills every element of each tile with a splat value (R337) -/
  | tfill (f : TX)
  /-- TTAGR: Reads TCOUNT frame tags into a U64 array (R315) -/
  | ttagr (f : TX)
  /-- TTAGW: Writes TCOUNT frame tags from a U64 array and advances GEN (R315) -/
  | ttagw (f : TX)
  /-- MTLOAD: Loads checked method-table entries from G-space or F-space into every bank and the context area (R312) -/
  | mtload (f : CX)
  /-- MTINV: Resets a range of method-table entries to their reset state (R313) -/
  | mtinv (f : CX)
  /-- MTQUERY: Searches the method table for an operator and keys and returns the match in s[d] (R314) -/
  | mtquery (f : CX)
  /-- COPY: Commits a byte copy between F-space and G-space on a channel (R346) -/
  | copy (f : CX)
  /-- COPYND: Commits an N-dimensional strided copy described by a shape block (R347) -/
  | copynd (f : CX)
  /-- GATHER: Commits an indexed gather from G-space into F-space (R348) -/
  | gather (f : CX)
  /-- SCATTER: Commits an indexed scatter from F-space into G-space (R348) -/
  | scatter (f : CX)
  /-- DRAIN: Waits until every earlier copy on the channel is complete and visible at system scope (R137) -/
  | drain (f : CX)
  /-- BANK_BEGIN: A bank begins the next broadcast or tile instruction once the skew limit and gate allow (R230) -/
  | bankBegin (b : Nat)
  /-- PULL_ARRIVAL: A pull request arrives at its owner and is held in the pull table until eligible (R234) -/
  | pullArrival (b : Nat)
  /-- PULL_SERVE: The owner serves its earliest eligible pull by reading the bytes and sending the response (R235) -/
  | pullServe (b : Nat)
  /-- PULL_RESPONSE: A pull response arrives at the requester, which performs the waiting element operations (R232) -/
  | pullResponse (b : Nat)
  /-- STAGED_WRITE_PHASE: Once every bank has finished the read phase, each bank writes its staged destination elements (R239) -/
  | stagedWritePhase
  /-- LOAD_RESPONSE: The value of an outstanding LDG or AMO returns and is written to its register (R183) -/
  | loadResponse (d : Reg)
  /-- STG_NAK: A NAK for an STG to peer or host memory drops the write and raises an imprecise global page fault (R185) -/
  | stgNak (gang : Nat) (a : Nat)
  /-- TRAP_ENTRY: A cause is taken: the pending frame is captured, banks stop, trap registers are set and the handler is entered (R220) -/
  | trapEntry
  /-- PAGE_REPLY: The host's reply resumes the gang without its handler if the page is present, or into its handler otherwise (R222) -/
  | pageReply (gang : Nat) (present : Bool)
  /-- PREEMPTION_HALT: On a pre-emption request the gang halts at an instruction boundary and its context area is written (R41) -/
  | preemptionHalt (gang : Nat)
  /-- FIELD_EVICTION: After field-writing engine commands complete, the command core evicts the halted gang's field and tags by copies (R43) -/
  | fieldEviction (gang : Nat)
  /-- CLUSTER_OFFLINE: A cluster of a span is taken offline and the gang takes the span-revoked trap (R46) -/
  | clusterOffline (c : Nat)
  /-- COPY_START: The stream dispatcher starts the next queued copy of a channel (R342) -/
  | copyStart (c : BitVec 3)
  /-- COPY_ELEMENT_LAND: Copy elements are written at their destination and landing-map bits of completed groups clear (R353) -/
  | copyElementLand (c : BitVec 3) (n : Nat)
  /-- COPY_FAULT_STOP: A channel stops at the faulting element, setting ST, RESTART and the error bit (R356) -/
  | copyFaultStop (c : BitVec 3)
  /-- GATHER_PIECE: A gather unit translates and fetches or forwards a piece of 256 elements (R391) -/
  | gatherPiece (c : BitVec 3)
  /-- PARITY_HOME_ACCESS: The parity home of a stripe performs a read, write or AMO of local HBM in coherence order (R371) -/
  | parityHomeAccess (x : HomeAccess)
  /-- STACK_LOST: A stack is declared lost, begun stripe writes complete, and the package parity state advances (R375) -/
  | stackLost (k : Nat) (why : BitVec 2)
  /-- CONTRACTION_START: Firmware starts contraction in degraded state if its conditions hold, setting BOUNDARY (R381) -/
  | contractionStart
  /-- CONTRACTION_STRIPE_MOVE: One stripe is moved into the 10+1 layout and BOUNDARY drops by 5,120 (R383) -/
  | contractionStripeMove
  /-- ROW_REMAP_UPDATE: Firmware writes a row-remap entry to the mirror and then to the primary copy (R385) -/
  | rowRemapUpdate (k : Nat) (row : Nat) (spare : Nat)
  /-- ALLOCATION_TABLE_UPDATE: An update of the physical allocation table is applied or refused under the neighbour and live-translation rules (R388) -/
  | allocationTableUpdate (second : Bool) (grp : Nat) (dom : BitVec 16)
  /-- POWER_DOWN_ENTRY: A pseudo-channel idle for PDT enters power-down (R389) -/
  | powerDownEntry (k : Nat) (pc : Nat)
  /-- SELF_REFRESH_ENTRY: A pseudo-channel idle for SRT enters self-refresh (R389) -/
  | selfRefreshEntry (k : Nat) (pc : Nat)
  /-- REDUCTION_COMMAND: A reduction engine checks a released command and sums its buffers by the tree into the destination (R395) -/
  | reductionCommand (gang : Nat) (p : BitVec 4)
  /-- REDUCTION_COMPLETE: After every element, the engine writes the flag if all succeeded and pushes the result word (R397) -/
  | reductionComplete (gang : Nat) (p : BitVec 4)
  /-- MERGE_COUNT_PASS: A merge unit writes the entry count of each merged CSR row (R403) -/
  | mergeCountPass (gang : Nat) (p : BitVec 4)
  /-- MERGE_WRITE_PASS: A merge unit writes each merged CSR row at its row pointer (R404) -/
  | mergeWritePass (gang : Nat) (p : BitVec 4)
  /-- MERGE_COMPLETE: The merge unit adds 1 to DONE after its writes and queues the result word (R407) -/
  | mergeComplete (gang : Nat) (p : BitVec 4)
  /-- ALL_GATHER: The collective engine writes its send buffer into its slot of every rank's landing area and increments each counter (R417) -/
  | allGather (gang : Nat) (p : BitVec 4)
  /-- REDUCE_SCATTER: The collective engine writes each segment to its rank's landing area and increments each counter (R417) -/
  | reduceScatter (gang : Nat) (p : BitVec 4)
  /-- COLLECTIVE_WAIT_COMPLETE: Once its own counter reaches TARGET, the engine reduces if needed, writes the flag and pushes the result (R417) -/
  | collectiveWaitComplete (gang : Nat) (p : BitVec 4)
  /-- PEER_INBOUND_ACCESS: An access arriving through a peer window is performed, or dropped and NAKed on a generation mismatch (R415) -/
  | peerInboundAccess (x : PeerAccess)
  /-- PEER_WINDOW_REMAP: Firmware retires or remaps a peer window by advancing generations and then writing the new contents (R415) -/
  | peerWindowRemap (w : BitVec 8) (w0 : Word) (w1 : Word) (w2 : Word)
  /-- SHOOT_DOWN: A shoot-down advances hub generations and drops matching translations (R363) -/
  | shootDown (pasid : Nat) (lo : Nat) (hi : Nat)
  /-- SHOOT_DOWN_COMPLETE: The shoot-down completes once every dropped translation's accesses have performed or been sent back (R363) -/
  | shootDownComplete
  /-- WALK_PREFETCH: The walk engine prefetches translations for the next DEPTH pages of a walk register (R362) -/
  | walkPrefetch (w : BitVec 4)
  /-- PAGE_MIGRATION: Firmware moves a page, adds 1 to MV, and pins it after three moves (R367) -/
  | pageMigration (pasid : Nat) (va : Nat) (pa : Nat)
  /-- PASID_TEARDOWN: The command core stops the PASID's gangs and fetchers, shoots down the PASID and discards responses (R365) -/
  | pasidTeardown (pasid : Nat)
  /-- HOST_RMA_WRITE: The host writes a launch record or other data into G-space over Vepeust (R423) -/
  | hostRmaWrite (pasid : Nat) (a : Nat) (bytes : List Byte)
  /-- QUEUE_TAIL_WRITE: A write of TAIL sets the queue's pending bit, or stops the queue with ERR 6 when out of range (R422) -/
  | queueTailWrite (q : Nat) (tail : BitVec 16)
  /-- QUEUE_ERROR_CLEAR: Writing 1 to ERR clears it and the queue rescans from HEAD (R425) -/
  | queueErrorClear (q : Nat) (m : BitVec 4)
  /-- QUEUE_WATCH_FIRE: A wait-signal watch fires and makes its queue ready (R426) -/
  | queueWatchFire (q : Nat)
  /-- SCHEDULING_PASS: The command core chooses ready queues by priority, places them and creates gangs (R427) -/
  | schedulingPass
  /-- GANG_START: The gang issues its first instruction once every field-image copy has completed (R34) -/
  | gangStart (gang : Nat)
  /-- RESERVATION_TIMEOUT: A reservation that has waited 2^26 cycles pre-empts lower-priority gangs in its clusters (R431) -/
  | reservationTimeout (die : Nat)
  /-- EVENT_POST: The host or command core posts an event to a gang, setting EV (R216) -/
  | eventPost (gang : Nat)
  /-- HEARTBEAT_TIMEOUT: The watchdog freezes scheduling, writes the mailbox and sends a hang event frame (R433) -/
  | heartbeatTimeout
  /-- COMMAND_CORE_RELEASE: The host releases the command core, which adopts the mailbox state and resumes scheduling (R436) -/
  | commandCoreRelease
  /-- DIRECT_LAUNCH: A write to a direct launch port's start field checks the record and creates the gang at the given placement (R435) -/
  | directLaunch (p : BitVec 2)
  /-- PORT_DOWN: An Ethernet port or path fails and its traffic moves to the remaining ports (R411) -/
  | portDown (p : Nat)
  /-- CONNECTION_SETUP: A transport connection is set up in ROD or RUD, and unreliable delivery is refused (R411) -/
  | connectionSetup (mode : DeliveryMode)
  /-- POWER_ON_RESET: The package runs its start sequence from boot ROM to first scheduling pass (R437) -/
  | powerOnReset (x : StartInputs)
  /-- START_TIMEOUT: A device not ready within 60 s of step 3 fails the start with reason 3 (R437) -/
  | startTimeout
  /-- RECOVERY_IMAGE_PUSH: A pushed recovery image is checked and, if valid, written to flash before the package restarts (R440) -/
  | recoveryImagePush (img : List Byte)
  /-- FIRMWARE_HANDOVER: A new firmware image is checked, written and given the scheduler state and attestation key (R441) -/
  | firmwareHandover (x : Handover)
  /-- ATTESTATION_REQUEST: The firmware returns a signed report over the host's nonce (R442) -/
  | attestationRequest (nonce : List Byte)
  /-- POWER_LIMIT_THROTTLE: When draw approaches 3,000 W, firmware lowers the arithmetic clock in steps (R448) -/
  | powerLimitThrottle
  /-- CLOCK_RAISE: As load falls, firmware raises the arithmetic clock again (R448) -/
  | clockRaise
  /-- WRITE_ACKNOWLEDGEMENT: An acknowledgement or NAK arrives from a peer or the host for a write to its memory, performing that write at system scope or dropping it with an error in the channel or command status (R129) -/
  | writeAcknowledgement (ok : Bool)
  /-- POWER_INPUT_REMOVED: The module's input supply is removed and the package enters the Off state, including mid-way through a flash write (R447) -/
  | powerInputRemoved (midFlash : Bool)
  /-- PORT_UP: An Ethernet port or path becomes live again and joins the ports over which flows may travel (R411) -/
  | portUp (p : Nat)
  /-- SVK_ATTACH: The debugger attaches or detaches with breakpoints enabled, setting or clearing GSTAT.DB (R196) -/
  | svkAttach (gang : Nat) (on : Bool)
  /-- SVK_CONTINUE: The debugger lets a gang that BRK stopped for svk continue (R226) -/
  | svkContinue (gang : Nat)
  deriving DecidableEq, Repr

end Sys2Proof
end

