-- ==== Sys2Proof/WellFormed.lean ====
section
/-! DEFINITION. Which field values an instruction may hold: step 1 of R141. An instruction that is not well formed raises the
illegal-instruction trap when the sequencer decodes it (R164). -/
namespace Sys2Proof

/-- Bits of an element of format EF (R74); 0 for a reserved code. -/
def efBits (ef : Nat) : Nat :=
  match ef with
  | 0 => 8 | 1 => 8 | 2 => 16 | 3 => 16 | 4 => 32 | 5 => 32 | 6 => 64 | 7 => 64 | 8 => 4 | 9 => 2 | 10 => 4 | 11 => 2
  | 12 => 16 | 13 => 16 | 14 => 32 | 15 => 8 | 16 => 8 | 17 => 4 | 18 => 8
  | _ => 0

/-- INT: EF 0 to 9 (R249). -/
def efInt (ef : Nat) : Bool := ef ≤ 9
/-- SINT: the signed integer formats (R249). -/
def efSigned (ef : Nat) : Bool := ef == 0 || ef == 2 || ef == 4 || ef == 6 || ef == 8 || ef == 9
/-- FLT: F16, BF16 and F32 (R249). -/
def efFlt (ef : Nat) : Bool := ef == 12 || ef == 13 || ef == 14
/-- ARITH: INT together with FLT (R249). -/
def efArith (ef : Nat) : Bool := efInt ef || efFlt ef
/-- Every assigned format (R74). -/
def efAny (ef : Nat) : Bool := ef ≤ 18
/-- Formats that hold a NaN: FLT, E4M3, E5M2 and E3M5 (R78, R262). -/
def efHasNan (ef : Nat) : Bool := efFlt ef || ef == 15 || ef == 16 || ef == 18

/-- A set of operand modes, as a mask over 0b00, 0b01, 0b10 and 0b11 (R150). -/
def modeIn (mask : Nat) (m : BitVec 2) : Bool := mask / 2 ^ m.toNat % 2 == 1

/-- A used operand: its mode is in the set, modes 0b01 and 0b11 need n < 31 and an element of at least a byte, and a chain bit
needs a mode other than 0b10 (R150, R152). -/
def operandOk (mask bits : Nat) (n : Reg) (m : BitVec 2) (chain : BitVec 1) : Bool :=
  modeIn mask m && !((m == 1 || m == 3) && (n == 31 || bits < 8)) && !(m == 2 && chain == 1)

/-- An operand that the entry does not use is zero in every field (R153). -/
def operandZero (n : Reg) (m : BitVec 2) (chain : BitVec 1) : Bool := n == 0 && m == 0 && chain == 0

/-- The rounding field: 0b111 is reserved, and an instruction that does not round needs 0b000 (R84, R152). -/
def rndOk (rounds : Bool) (r : BitVec 3) : Bool := if rounds then r != 7 else r == 0

/-- What the table of a BX group allows one instruction (R255, R261, R274, R277, R281). -/
structure BxRule where
  ef : Bool
  rounds : Bool
  sat : Bool
  fn : Bool
  dModes : Nat := 0b1011
  aModes : Nat := 0b1111
  dBits : Nat
  useB : Bool
  useC : Bool

/-- The decode rules common to BX instructions whose destination is written in memory (R149 to R153). -/
def bxOk (r : BxRule) (f : BX) : Bool :=
  r.ef && rndOk r.rounds f.rnd && (r.sat || f.sat == 0) && r.fn && f.msk != 3
  && operandOk r.dModes r.dBits f.d f.dm 0
  && operandOk r.aModes (efBits f.ef.toNat) f.a f.am f.ca
  && (if r.useB then operandOk 0b1111 (efBits f.ef.toNat) f.b f.bm f.cb else operandZero f.b f.bm f.cb)
  && (if r.useC then operandOk 0b1111 (efBits f.ef.toNat) f.c f.cm f.cc else operandZero f.c f.cm f.cc)

/-- An instruction with one source, b and c unused. -/
def bxOk1 (ef rounds sat fn : Bool) (f : BX) : Bool :=
  bxOk ⟨ef, rounds, sat, fn, 0b1011, 0b1111, efBits f.ef.toNat, false, false⟩ f
/-- An instruction with two sources. -/
def bxOk2 (ef rounds sat : Bool) (f : BX) : Bool :=
  bxOk ⟨ef, rounds, sat, f.fn == 0, 0b1011, 0b1111, efBits f.ef.toNat, true, false⟩ f
/-- An instruction with three sources. -/
def bxOk3 (ef rounds sat : Bool) (f : BX) : Bool :=
  bxOk ⟨ef, rounds, sat, f.fn == 0, 0b1011, 0b1111, efBits f.ef.toNat, true, true⟩ f

/-- The pairs of R94, as (wide, narrow). -/
def narrowPair (wide narrow : Nat) : Bool :=
  [(6, 4), (7, 5), (4, 2), (5, 3), (2, 0), (3, 1), (0, 8), (8, 9), (14, 12), (14, 13), (12, 15), (12, 16), (13, 15), (13, 16),
   (13, 18), (15, 17), (16, 17), (10, 11)].contains (wide, narrow)

/-- VCVTN and VCVTW: the b field is the destination format (R265). -/
def vcvtOk (pair rounds sat : Bool) (f : BX) : Bool :=
  pair && rndOk rounds f.rnd && (sat || f.sat == 0) && f.fn == 0 && f.msk != 3
  && operandOk 0b1011 (efBits f.b.toNat) f.d f.dm 0 && operandOk 0b1111 (efBits f.ef.toNat) f.a f.am f.ca
  && f.bm == 0 && f.cb == 0 && operandZero f.c f.cm f.cc

/-- VCVTI: the target format is FN[4:0] (R266). -/
def vcvtiOk (f : BX) : Bool :=
  let src := f.ef.toNat
  let dst := f.fn.toNat
  dst ≤ 17 && src ≤ 17 && src != dst && (efInt src || efInt dst)
  && bxOk ⟨true, !(efInt src && efInt dst), true, true, 0b1011, 0b1111, efBits dst, false, false⟩ f

/-- VCVTF4 (R267). -/
def vcvtf4Ok (f : BX) : Bool :=
  f.ef == 14 && f.dm == 0 && f.am == 0 && f.b == 0 && f.c == 0 && f.bm == 0 && f.cm == 0 && f.cb == 0 && f.cc == 0
  && f.msk == 0 && f.sat == 0 && f.rnd != 7 && f.fn.toNat ≤ 2

/-- The destination of a reduction, VFIRST or VCOUNT: the read queue (d = s0, dm = 0b10, with O = T = 0) or memory in mode
0b00 (R278, R152). R152 fixes only O and T for the read queue: that X may have either value there is the model's choice (assumption
log 63). -/
def redDest (f : BX) : Bool := f.dm == 0 || (f.dm == 2 && f.d == 0 && f.o == 0 && f.t == 0)

/-- A reduction (R277). -/
def redOk (ef rounds sat fn : Bool) (aModes : Nat) (f : BX) : Bool :=
  ef && rndOk rounds f.rnd && (sat || f.sat == 0) && fn && f.msk != 3 && redDest f
  && operandOk aModes (efBits f.ef.toNat) f.a f.am f.ca && operandZero f.b f.bm f.cb && operandZero f.c f.cm f.cc

/-- VSCAN (R280). -/
def scanOk (f : BX) : Bool :=
  let add := f.fn.toNat % 4 == 0
  let e := f.ef.toNat
  bxOk ⟨efArith e, add && efFlt e, add, f.fn.toNat < 8 && f.fn.toNat % 4 != 3, 0b0011, 0b1011, efBits e, false, false⟩ f

/-- The formats of the scatters (R281). -/
def efScatter (ef : Nat) : Bool := ef ≤ 7 || efFlt ef

/-- A scatter: dm must be 0b11 (R281). -/
def scatOk (rounds sat : Bool) (f : BX) : Bool :=
  bxOk ⟨efScatter f.ef.toNat, rounds, sat, f.fn == 0, 0b1000, 0b1111, efBits f.ef.toNat, false, false⟩ f

/-- VSPADD and VSPMUL (R285). -/
def sparseOk (f : BX) : Bool :=
  let e := f.ef.toNat
  [2, 3, 4, 5, 12, 13, 14].contains e && rndOk (efFlt e) f.rnd && (efInt e || f.sat == 0) && f.fn == 0 && f.msk == 0 && f.t == 0
  && f.dm == 0 && f.am == 0 && f.bm == 0 && operandZero f.c f.cm f.cc

/-- VRUNB (R290). -/
def vrunbOk (f : BX) : Bool :=
  let e := f.ef.toNat
  f.t == 0 && bxOk ⟨[1, 3, 5, 7].contains e, false, false, f.fn == 0, 0b1011, 0b1111, efBits e, false, false⟩ f

/-- The decode rules of a TX instruction: unused operands zero, REP above 1 for TMMA only (R156, R326). -/
def txOk (rep useA useB fn : Bool) (f : TX) : Bool :=
  fn && (rep || f.repm1 == 0) && (useA || f.ca == 0) && (useB || (f.b == 0 && f.cb == 0)) && f.c == 0 && f.cc == 0

/-- OPX of a copy: SGR in bits [4:0], ESZ in [7:5], every other bit zero; SGR is zero without SIG (R344). -/
def copyOpx (esz : Bool) (f : CX) : Bool :=
  f.opx.toNat < (if esz then 128 else 32) && (f.sig == 1 || f.opx.toNat % 32 == 0)

/-- A table operation: d, ch and SIG zero (R289, R312, R313). -/
def tableOk (f : CX) : Bool := f.d == 0 && f.ch == 0 && f.sig == 0

/-- The control register numbers of R161. -/
def ctlAssigned (n : Nat) : Bool :=
  n ≤ 7 || (0x10 ≤ n && n ≤ 0x1A) || (0x20 ≤ n && n ≤ 0x22) || n == 0x30 || n == 0x32 || n == 0x40 || n == 0x41
    || (0x50 ≤ n && n ≤ 0x57)
/-- Registers that are RO at both levels (R161, R162). -/
def ctlReadOnly (n : Nat) : Bool :=
  (0x16 ≤ n && n ≤ 0x1A) || (0x20 ≤ n && n ≤ 0x22) || n == 0x40 || n == 0x41

/-- The order and scope fields: scope 0 without an order (R180, R186). -/
def scopeOk (order scope : BitVec 2) : Bool := order != 0 || scope == 0

/-- The decode checks of R141 step 1 on a decoded instruction. -/
def Instr.wf : Instr → Bool
  | .add _ _ _ => true
  | .sub _ _ _ => true
  | .and _ _ _ => true
  | .or _ _ _ => true
  | .xor _ _ _ => true
  | .andn _ _ _ => true
  | .sll _ _ _ => true
  | .srl _ _ _ => true
  | .sra _ _ _ => true
  | .rol _ _ _ => true
  | .ror _ _ _ => true
  | .slt _ _ _ => true
  | .sltu _ _ _ => true
  | .min _ _ _ => true
  | .max _ _ _ => true
  | .minu _ _ _ => true
  | .maxu _ _ _ => true
  | .mul _ _ _ => true
  | .mulh _ _ _ => true
  | .mulhu _ _ _ => true
  | .div _ _ _ => true
  | .divu _ _ _ => true
  | .rem _ _ _ => true
  | .remu _ _ _ => true
  | .clmul _ _ _ => true
  | .clmulh _ _ _ => true
  | .clz _ _ => true
  | .ctz _ _ => true
  | .popc _ _ => true
  | .sext _ _ _ => true
  | .zext _ _ _ => true
  | .addi _ _ _ => true
  | .andi _ _ _ => true
  | .ori _ _ _ => true
  | .xori _ _ _ => true
  | .slli _ _ i => i.toNat ≤ 63
  | .srli _ _ i => i.toNat ≤ 63
  | .srai _ _ i => i.toNat ≤ 63
  | .slti _ _ _ => true
  | .sltiu _ _ _ => true
  | .lih _ _ => true
  | .lim _ _ => true
  | .lb _ _ _ => true
  | .lbu _ _ _ => true
  | .lh _ _ _ => true
  | .lhu _ _ _ => true
  | .lw _ _ _ => true
  | .lwu _ _ _ => true
  | .ld _ _ _ => true
  | .sb _ _ _ => true
  | .sh _ _ _ => true
  | .sw _ _ _ => true
  | .sd _ _ _ => true
  | .ldg _ _ _ z o c => z != 7 && o.toNat ≤ 1 && scopeOk o c
  | .stg _ _ _ z o c => z.toNat ≤ 3 && (o == 0 || o == 2) && scopeOk o c
  | .amo _ _ _ n _ o c _ => n.toNat ≤ 9 && scopeOk o c
  | .beq _ _ _ _ => true
  | .bne _ _ _ _ => true
  | .blt _ _ _ _ => true
  | .bge _ _ _ _ => true
  | .bltu _ _ _ _ => true
  | .bgeu _ _ _ _ => true
  | .jal _ _ => true
  | .jalr _ _ _ => true
  | .crd _ n => ctlAssigned n.toNat
  | .cwr _ _ n => ctlAssigned n.toNat && !ctlReadOnly n.toNat
  | .cset _ _ n => ctlAssigned n.toNat && !ctlReadOnly n.toNat
  | .cclr _ _ n => ctlAssigned n.toNat && !ctlReadOnly n.toNat
  | .registerWrite _ _ => true
  | .chstatCancel _ => true
  | .chstatErrorClear _ _ => true
  | .convresWrite _ => true
  | .setec _ _ => true
  | .setecT _ _ => true
  | .setspan _ _ => true
  | .fwset _ _ _ => true
  | .fwget _ _ _ => true
  | .owner _ _ => true
  | .rqpop _ => true
  | .rqstat _ => true
  | .eqpush _ p => p.toNat ≤ 15
  | .eqpushLast _ p => p.toNat ≤ 15
  | .eqpop _ p => p.toNat ≤ 15
  | .eqstat _ p => p.toNat ≤ 15
  | .fence s k => s.toNat ≤ 3 && 1 ≤ k.toNat && k.toNat ≤ 7
  | .fenceb _ c => c.toNat ≤ 7
  | .barrierArrival _ _ => true
  | .waitb _ => true
  | .barcfg _ _ _ => true
  | .bqwait => true
  | .sigwait c _ _ => c.toNat ≤ 2
  | .sigpost c _ _ => c.toNat ≤ 1
  | .awset w _ _ => w.toNat ≤ 15
  | .trap _ _ => true
  | .eret => true
  | .eretSkip => true
  | .eretDrop => true
  | .brk => true
  | .wfe => true
  | .yield => true
  | .halt => true
  | .qsave _ => true
  | .qload _ => true
  | .vadd f => bxOk2 (efArith f.ef.toNat) (efFlt f.ef.toNat) (true) f
  | .vsub f => bxOk2 (efArith f.ef.toNat) (efFlt f.ef.toNat) (true) f
  | .vmul f => bxOk2 (efArith f.ef.toNat) (efFlt f.ef.toNat) (true) f
  | .vfma f => bxOk3 (efArith f.ef.toNat) (efFlt f.ef.toNat) true f
  | .vfms f => bxOk3 (efArith f.ef.toNat) (efFlt f.ef.toNat) true f
  | .vfnma f => bxOk3 (efArith f.ef.toNat) (efFlt f.ef.toNat) true f
  | .vdiv f => bxOk2 (efArith f.ef.toNat) (efFlt f.ef.toNat) (true) f
  | .vsqrt f => bxOk1 (efFlt f.ef.toNat) (efFlt f.ef.toNat) (true) (f.fn == 0) f
  | .vmin f => bxOk2 (efArith f.ef.toNat) (false) (false) f
  | .vmax f => bxOk2 (efArith f.ef.toNat) (false) (false) f
  | .vabs f => bxOk1 (efSigned f.ef.toNat || efFlt f.ef.toNat) (false) (efSigned f.ef.toNat) (f.fn == 0) f
  | .vneg f => bxOk1 (efSigned f.ef.toNat || efFlt f.ef.toNat) (false) (efSigned f.ef.toNat) (f.fn == 0) f
  | .vcpys f => bxOk2 (efFlt f.ef.toNat) (false) (false) f
  | .vfun f => bxOk1 (efFlt f.ef.toNat) (true) (true) (f.fn.toNat ≤ 9) f
  | .vmulh f => bxOk2 (efInt f.ef.toNat) (false) (false) f
  | .vavg f => bxOk2 (efArith f.ef.toNat) (true) (false) f
  | .vclass f => bxOk ⟨efFlt f.ef.toNat, false, false, f.fn == 0, 0b1011, 0b1111, efBits f.ef.toNat, false, false⟩ f
  | .vand f => bxOk2 (efInt f.ef.toNat) (false) (false) f
  | .vor f => bxOk2 (efInt f.ef.toNat) (false) (false) f
  | .vxor f => bxOk2 (efInt f.ef.toNat) (false) (false) f
  | .vsll f => bxOk2 (efInt f.ef.toNat) (false) (false) f
  | .vsrl f => bxOk2 (efInt f.ef.toNat) (false) (false) f
  | .vsra f => bxOk2 (efInt f.ef.toNat) (false) (false) f
  | .vclmul f => bxOk2 (f.ef.toNat ≤ 7) (false) (false) f
  | .vclmulh f => bxOk2 (f.ef.toNat ≤ 7) (false) (false) f
  | .vpopc f => bxOk1 (f.ef.toNat ≤ 8) (false) (false) (f.fn == 0) f
  | .vclz f => bxOk1 (f.ef.toNat ≤ 8) (false) (false) (f.fn == 0) f
  | .vcmp f => f.t == 0 && bxOk ⟨efAny f.ef.toNat, false, false, f.fn.toNat ≤ 5 || (f.fn.toNat ≤ 7 && efHasNan f.ef.toNat), 0b0001, 0b1111, 8, true, false⟩ f
  | .vselm f => f.msk != 0 && bxOk2 (efAny f.ef.toNat) (false) (false) f
  | .vcvtn f => vcvtOk (narrowPair f.ef.toNat f.b.toNat) true true f
  | .vcvtw f => vcvtOk (narrowPair f.b.toNat f.ef.toNat) false false f
  | .vcvti f => vcvtiOk f
  | .vcvtf4 f => vcvtf4Ok f
  | .vmov f => bxOk ⟨efAny f.ef.toNat, false, false, f.fn == 0, 0b1011, 0b1111, efBits f.ef.toNat, false, false⟩ f
  | .viota f => bxOk ⟨efInt f.ef.toNat, false, true, f.fn == 0, 0b1011, 0b0100, efBits f.ef.toNat, false, false⟩ f
  | .vrev f => bxOk ⟨efAny f.ef.toNat, false, false, f.fn == 0, 0b0011, 0b0011, efBits f.ef.toNat, false, false⟩ f
  | .vreshape f => f.bm == 2 && bxOk ⟨efAny f.ef.toNat, false, false, f.fn == 0, 0b0001, 0b0001, efBits f.ef.toNat, true, false⟩ f
  | .vcompress f => f.msk != 0 && bxOk ⟨efAny f.ef.toNat, false, false, f.fn == 0, 0b0001, 0b1011, efBits f.ef.toNat, false, false⟩ f
  | .vexpand f => f.msk != 0 && bxOk ⟨efAny f.ef.toNat, false, false, f.fn == 0, 0b1011, 0b0011, efBits f.ef.toNat, false, false⟩ f
  | .vredsum f => redOk (efArith f.ef.toNat) (efFlt f.ef.toNat) (efInt f.ef.toNat) (f.fn == 0) 0b1011 f
  | .vredmax f => redOk (efArith f.ef.toNat) false false (f.fn == 0) 0b1011 f
  | .vredmin f => redOk (efArith f.ef.toNat) false false (f.fn == 0) 0b1011 f
  | .vredbit f => redOk (efInt f.ef.toNat) false false (f.fn.toNat ≤ 2) 0b1011 f
  | .vscan f => scanOk f
  | .vfirst f => redOk (efInt f.ef.toNat) false false (f.fn == 0) 0b1111 f
  | .vcount f => redOk (efInt f.ef.toNat) false false (f.fn == 0) 0b1111 f
  | .vscatadd f => scatOk (efFlt f.ef.toNat) (efInt f.ef.toNat) f
  | .vscatmax f => scatOk false false f
  | .vscatmin f => scatOk false false f
  | .vconfl f => bxOk ⟨f.ef == 5, false, false, f.fn == 0, 0b0001, 0b0011, efBits f.ef.toNat, false, false⟩ f
  | .vspadd f => sparseOk f
  | .vspmul f => sparseOk f
  | .vrunb f => vrunbOk f
  | .bload f => tableOk f && (f.dir == 0 || f.dir == 2) && f.opx == 0
  | .tmma f => txOk true true true (f.fn == 0) f
  | .tew f => txOk false true true (f.fn.toNat ≤ 4) f
  | .tact f => txOk false true false (f.fn.toNat ≤ 9) f
  | .trowr f => txOk false true false (f.fn.toNat ≤ 2) f
  | .tsoft f => txOk false true false (f.fn == 0) f
  | .ttrn f => txOk false true false (f.fn == 0) f
  | .tcvt f => txOk false true false (f.fn.toNat ≤ 18 || f.fn.toNat == 32 || f.fn.toNat == 33) f
  | .tcpy f => txOk false true false (f.fn == 0) f
  | .tfill f => txOk false false false (f.fn.toNat ≤ 18) f
  | .ttagr f => txOk false true false (f.fn == 0) f
  | .ttagw f => txOk false true false (f.fn == 0) f
  | .mtload f => tableOk f && (f.dir == 0 || f.dir == 2) && f.opx.toNat < 256
  | .mtinv f => tableOk f && f.dir == 0 && f.opx == 0
  | .mtquery f => f.ch == 0 && f.sig == 0 && f.dir == 0 && f.opx == 0 && f.b.toNat ≤ 30
  | .copy f => copyOpx false f
  | .copynd f => copyOpx false f
  | .gather f => f.dir == 0 && copyOpx true f
  | .scatter f => f.dir == 1 && copyOpx true f
  | .drain f => f.d == 0 && f.a == 0 && f.b == 0 && f.sig == 0 && f.dir == 0 && f.opx == 0
  | .bankBegin _ => true
  | .pullArrival _ => true
  | .pullServe _ => true
  | .pullResponse _ => true
  | .stagedWritePhase => true
  | .loadResponse _ => true
  | .stgNak _ _ => true
  | .trapEntry => true
  | .pageReply _ _ => true
  | .preemptionHalt _ => true
  | .fieldEviction _ => true
  | .clusterOffline _ => true
  | .copyStart _ => true
  | .copyElementLand _ _ => true
  | .copyFaultStop _ => true
  | .gatherPiece _ => true
  | .parityHomeAccess _ => true
  | .stackLost _ _ => true
  | .contractionStart => true
  | .contractionStripeMove => true
  | .rowRemapUpdate _ _ _ => true
  | .allocationTableUpdate _ _ _ => true
  | .powerDownEntry _ _ => true
  | .selfRefreshEntry _ _ => true
  | .reductionCommand _ _ => true
  | .reductionComplete _ _ => true
  | .mergeCountPass _ _ => true
  | .mergeWritePass _ _ => true
  | .mergeComplete _ _ => true
  | .allGather _ _ => true
  | .reduceScatter _ _ => true
  | .collectiveWaitComplete _ _ => true
  | .peerInboundAccess _ => true
  | .peerWindowRemap _ _ _ _ => true
  | .shootDown _ _ _ => true
  | .shootDownComplete => true
  | .walkPrefetch _ => true
  | .pageMigration _ _ _ => true
  | .pasidTeardown _ => true
  | .hostRmaWrite _ _ _ => true
  | .queueTailWrite _ _ => true
  | .queueErrorClear _ _ => true
  | .queueWatchFire _ => true
  | .schedulingPass => true
  | .gangStart _ => true
  | .reservationTimeout _ => true
  | .eventPost _ => true
  | .heartbeatTimeout => true
  | .commandCoreRelease => true
  | .directLaunch _ => true
  | .portDown _ => true
  | .connectionSetup _ => true
  | .powerOnReset _ => true
  | .startTimeout => true
  | .recoveryImagePush _ => true
  | .firmwareHandover _ => true
  | .attestationRequest _ => true
  | .powerLimitThrottle => true
  | .clockRaise => true
  | .writeAcknowledgement _ => true
  | .powerInputRemoved _ => true
  | .portUp _ => true
  | .svkAttach _ _ => true
  | .svkContinue _ => true

/-- Registers that gang level may not touch at all (R161, R162). -/
def ctlHandlerOnly (n : Nat) : Bool := n ≤ 7 && n != 0 && n != 6

/-- Whether an instruction is for handler level only, or names a control register that gang level may not reach: step 2 of
R141 (R162, R200). GSTAT may be read at gang level and written at handler level only. -/
def Instr.privileged : Instr → Bool
  | .add _ _ _ => false
  | .sub _ _ _ => false
  | .and _ _ _ => false
  | .or _ _ _ => false
  | .xor _ _ _ => false
  | .andn _ _ _ => false
  | .sll _ _ _ => false
  | .srl _ _ _ => false
  | .sra _ _ _ => false
  | .rol _ _ _ => false
  | .ror _ _ _ => false
  | .slt _ _ _ => false
  | .sltu _ _ _ => false
  | .min _ _ _ => false
  | .max _ _ _ => false
  | .minu _ _ _ => false
  | .maxu _ _ _ => false
  | .mul _ _ _ => false
  | .mulh _ _ _ => false
  | .mulhu _ _ _ => false
  | .div _ _ _ => false
  | .divu _ _ _ => false
  | .rem _ _ _ => false
  | .remu _ _ _ => false
  | .clmul _ _ _ => false
  | .clmulh _ _ _ => false
  | .clz _ _ => false
  | .ctz _ _ => false
  | .popc _ _ => false
  | .sext _ _ _ => false
  | .zext _ _ _ => false
  | .addi _ _ _ => false
  | .andi _ _ _ => false
  | .ori _ _ _ => false
  | .xori _ _ _ => false
  | .slli _ _ _ => false
  | .srli _ _ _ => false
  | .srai _ _ _ => false
  | .slti _ _ _ => false
  | .sltiu _ _ _ => false
  | .lih _ _ => false
  | .lim _ _ => false
  | .lb _ _ _ => false
  | .lbu _ _ _ => false
  | .lh _ _ _ => false
  | .lhu _ _ _ => false
  | .lw _ _ _ => false
  | .lwu _ _ _ => false
  | .ld _ _ _ => false
  | .sb _ _ _ => false
  | .sh _ _ _ => false
  | .sw _ _ _ => false
  | .sd _ _ _ => false
  | .ldg _ _ _ _ _ _ => false
  | .stg _ _ _ _ _ _ => false
  | .amo _ _ _ _ _ _ _ _ => false
  | .beq _ _ _ _ => false
  | .bne _ _ _ _ => false
  | .blt _ _ _ _ => false
  | .bge _ _ _ _ => false
  | .bltu _ _ _ _ => false
  | .bgeu _ _ _ _ => false
  | .jal _ _ => false
  | .jalr _ _ _ => false
  | .crd _ n => ctlHandlerOnly n.toNat
  | .cwr _ _ n => n == 0 || ctlHandlerOnly n.toNat
  | .cset _ _ n => n == 0 || ctlHandlerOnly n.toNat
  | .cclr _ _ n => n == 0 || ctlHandlerOnly n.toNat
  | .registerWrite _ _ => false
  | .chstatCancel _ => false
  | .chstatErrorClear _ _ => false
  | .convresWrite _ => false
  | .setec _ _ => false
  | .setecT _ _ => false
  | .setspan _ _ => false
  | .fwset _ _ _ => false
  | .fwget _ _ _ => false
  | .owner _ _ => false
  | .rqpop _ => false
  | .rqstat _ => false
  | .eqpush _ _ => false
  | .eqpushLast _ _ => false
  | .eqpop _ _ => false
  | .eqstat _ _ => false
  | .fence _ _ => false
  | .fenceb _ _ => false
  | .barrierArrival _ _ => false
  | .waitb _ => false
  | .barcfg _ _ _ => false
  | .bqwait => false
  | .sigwait _ _ _ => false
  | .sigpost _ _ _ => false
  | .awset _ _ _ => false
  | .trap _ _ => false
  | .eret => true
  | .eretSkip => true
  | .eretDrop => true
  | .brk => false
  | .wfe => false
  | .yield => false
  | .halt => false
  | .qsave _ => true
  | .qload _ => true
  | .vadd _ => false
  | .vsub _ => false
  | .vmul _ => false
  | .vfma _ => false
  | .vfms _ => false
  | .vfnma _ => false
  | .vdiv _ => false
  | .vsqrt _ => false
  | .vmin _ => false
  | .vmax _ => false
  | .vabs _ => false
  | .vneg _ => false
  | .vcpys _ => false
  | .vfun _ => false
  | .vmulh _ => false
  | .vavg _ => false
  | .vclass _ => false
  | .vand _ => false
  | .vor _ => false
  | .vxor _ => false
  | .vsll _ => false
  | .vsrl _ => false
  | .vsra _ => false
  | .vclmul _ => false
  | .vclmulh _ => false
  | .vpopc _ => false
  | .vclz _ => false
  | .vcmp _ => false
  | .vselm _ => false
  | .vcvtn _ => false
  | .vcvtw _ => false
  | .vcvti _ => false
  | .vcvtf4 _ => false
  | .vmov _ => false
  | .viota _ => false
  | .vrev _ => false
  | .vreshape _ => false
  | .vcompress _ => false
  | .vexpand _ => false
  | .vredsum _ => false
  | .vredmax _ => false
  | .vredmin _ => false
  | .vredbit _ => false
  | .vscan _ => false
  | .vfirst _ => false
  | .vcount _ => false
  | .vscatadd _ => false
  | .vscatmax _ => false
  | .vscatmin _ => false
  | .vconfl _ => false
  | .vspadd _ => false
  | .vspmul _ => false
  | .vrunb _ => false
  | .bload _ => false
  | .tmma _ => false
  | .tew _ => false
  | .tact _ => false
  | .trowr _ => false
  | .tsoft _ => false
  | .ttrn _ => false
  | .tcvt _ => false
  | .tcpy _ => false
  | .tfill _ => false
  | .ttagr _ => false
  | .ttagw _ => false
  | .mtload _ => false
  | .mtinv _ => false
  | .mtquery _ => false
  | .copy _ => false
  | .copynd _ => false
  | .gather _ => false
  | .scatter _ => false
  | .drain _ => false
  | .bankBegin _ => false
  | .pullArrival _ => false
  | .pullServe _ => false
  | .pullResponse _ => false
  | .stagedWritePhase => false
  | .loadResponse _ => false
  | .stgNak _ _ => false
  | .trapEntry => false
  | .pageReply _ _ => false
  | .preemptionHalt _ => false
  | .fieldEviction _ => false
  | .clusterOffline _ => false
  | .copyStart _ => false
  | .copyElementLand _ _ => false
  | .copyFaultStop _ => false
  | .gatherPiece _ => false
  | .parityHomeAccess _ => false
  | .stackLost _ _ => false
  | .contractionStart => false
  | .contractionStripeMove => false
  | .rowRemapUpdate _ _ _ => false
  | .allocationTableUpdate _ _ _ => false
  | .powerDownEntry _ _ => false
  | .selfRefreshEntry _ _ => false
  | .reductionCommand _ _ => false
  | .reductionComplete _ _ => false
  | .mergeCountPass _ _ => false
  | .mergeWritePass _ _ => false
  | .mergeComplete _ _ => false
  | .allGather _ _ => false
  | .reduceScatter _ _ => false
  | .collectiveWaitComplete _ _ => false
  | .peerInboundAccess _ => false
  | .peerWindowRemap _ _ _ _ => false
  | .shootDown _ _ _ => false
  | .shootDownComplete => false
  | .walkPrefetch _ => false
  | .pageMigration _ _ _ => false
  | .pasidTeardown _ => false
  | .hostRmaWrite _ _ _ => false
  | .queueTailWrite _ _ => false
  | .queueErrorClear _ _ => false
  | .queueWatchFire _ => false
  | .schedulingPass => false
  | .gangStart _ => false
  | .reservationTimeout _ => false
  | .eventPost _ => false
  | .heartbeatTimeout => false
  | .commandCoreRelease => false
  | .directLaunch _ => false
  | .portDown _ => false
  | .connectionSetup _ => false
  | .powerOnReset _ => false
  | .startTimeout => false
  | .recoveryImagePush _ => false
  | .firmwareHandover _ => false
  | .attestationRequest _ => false
  | .powerLimitThrottle => false
  | .clockRaise => false
  | .writeAcknowledgement _ => false
  | .powerInputRemoved _ => false
  | .portUp _ => false
  | .svkAttach _ _ => false
  | .svkContinue _ => false

/-- Whether a row is an event of another agent, without an encoding (spec/95). -/
def Instr.isEvent : Instr → Bool
  | .add _ _ _ => false
  | .sub _ _ _ => false
  | .and _ _ _ => false
  | .or _ _ _ => false
  | .xor _ _ _ => false
  | .andn _ _ _ => false
  | .sll _ _ _ => false
  | .srl _ _ _ => false
  | .sra _ _ _ => false
  | .rol _ _ _ => false
  | .ror _ _ _ => false
  | .slt _ _ _ => false
  | .sltu _ _ _ => false
  | .min _ _ _ => false
  | .max _ _ _ => false
  | .minu _ _ _ => false
  | .maxu _ _ _ => false
  | .mul _ _ _ => false
  | .mulh _ _ _ => false
  | .mulhu _ _ _ => false
  | .div _ _ _ => false
  | .divu _ _ _ => false
  | .rem _ _ _ => false
  | .remu _ _ _ => false
  | .clmul _ _ _ => false
  | .clmulh _ _ _ => false
  | .clz _ _ => false
  | .ctz _ _ => false
  | .popc _ _ => false
  | .sext _ _ _ => false
  | .zext _ _ _ => false
  | .addi _ _ _ => false
  | .andi _ _ _ => false
  | .ori _ _ _ => false
  | .xori _ _ _ => false
  | .slli _ _ _ => false
  | .srli _ _ _ => false
  | .srai _ _ _ => false
  | .slti _ _ _ => false
  | .sltiu _ _ _ => false
  | .lih _ _ => false
  | .lim _ _ => false
  | .lb _ _ _ => false
  | .lbu _ _ _ => false
  | .lh _ _ _ => false
  | .lhu _ _ _ => false
  | .lw _ _ _ => false
  | .lwu _ _ _ => false
  | .ld _ _ _ => false
  | .sb _ _ _ => false
  | .sh _ _ _ => false
  | .sw _ _ _ => false
  | .sd _ _ _ => false
  | .ldg _ _ _ _ _ _ => false
  | .stg _ _ _ _ _ _ => false
  | .amo _ _ _ _ _ _ _ _ => false
  | .beq _ _ _ _ => false
  | .bne _ _ _ _ => false
  | .blt _ _ _ _ => false
  | .bge _ _ _ _ => false
  | .bltu _ _ _ _ => false
  | .bgeu _ _ _ _ => false
  | .jal _ _ => false
  | .jalr _ _ _ => false
  | .crd _ _ => false
  | .cwr _ _ _ => false
  | .cset _ _ _ => false
  | .cclr _ _ _ => false
  | .registerWrite _ _ => true
  | .chstatCancel _ => true
  | .chstatErrorClear _ _ => true
  | .convresWrite _ => true
  | .setec _ _ => false
  | .setecT _ _ => false
  | .setspan _ _ => false
  | .fwset _ _ _ => false
  | .fwget _ _ _ => false
  | .owner _ _ => false
  | .rqpop _ => false
  | .rqstat _ => false
  | .eqpush _ _ => false
  | .eqpushLast _ _ => false
  | .eqpop _ _ => false
  | .eqstat _ _ => false
  | .fence _ _ => false
  | .fenceb _ _ => false
  | .barrierArrival _ _ => true
  | .waitb _ => false
  | .barcfg _ _ _ => false
  | .bqwait => false
  | .sigwait _ _ _ => false
  | .sigpost _ _ _ => false
  | .awset _ _ _ => false
  | .trap _ _ => false
  | .eret => false
  | .eretSkip => false
  | .eretDrop => false
  | .brk => false
  | .wfe => false
  | .yield => false
  | .halt => false
  | .qsave _ => false
  | .qload _ => false
  | .vadd _ => false
  | .vsub _ => false
  | .vmul _ => false
  | .vfma _ => false
  | .vfms _ => false
  | .vfnma _ => false
  | .vdiv _ => false
  | .vsqrt _ => false
  | .vmin _ => false
  | .vmax _ => false
  | .vabs _ => false
  | .vneg _ => false
  | .vcpys _ => false
  | .vfun _ => false
  | .vmulh _ => false
  | .vavg _ => false
  | .vclass _ => false
  | .vand _ => false
  | .vor _ => false
  | .vxor _ => false
  | .vsll _ => false
  | .vsrl _ => false
  | .vsra _ => false
  | .vclmul _ => false
  | .vclmulh _ => false
  | .vpopc _ => false
  | .vclz _ => false
  | .vcmp _ => false
  | .vselm _ => false
  | .vcvtn _ => false
  | .vcvtw _ => false
  | .vcvti _ => false
  | .vcvtf4 _ => false
  | .vmov _ => false
  | .viota _ => false
  | .vrev _ => false
  | .vreshape _ => false
  | .vcompress _ => false
  | .vexpand _ => false
  | .vredsum _ => false
  | .vredmax _ => false
  | .vredmin _ => false
  | .vredbit _ => false
  | .vscan _ => false
  | .vfirst _ => false
  | .vcount _ => false
  | .vscatadd _ => false
  | .vscatmax _ => false
  | .vscatmin _ => false
  | .vconfl _ => false
  | .vspadd _ => false
  | .vspmul _ => false
  | .vrunb _ => false
  | .bload _ => false
  | .tmma _ => false
  | .tew _ => false
  | .tact _ => false
  | .trowr _ => false
  | .tsoft _ => false
  | .ttrn _ => false
  | .tcvt _ => false
  | .tcpy _ => false
  | .tfill _ => false
  | .ttagr _ => false
  | .ttagw _ => false
  | .mtload _ => false
  | .mtinv _ => false
  | .mtquery _ => false
  | .copy _ => false
  | .copynd _ => false
  | .gather _ => false
  | .scatter _ => false
  | .drain _ => false
  | .bankBegin _ => true
  | .pullArrival _ => true
  | .pullServe _ => true
  | .pullResponse _ => true
  | .stagedWritePhase => true
  | .loadResponse _ => true
  | .stgNak _ _ => true
  | .trapEntry => true
  | .pageReply _ _ => true
  | .preemptionHalt _ => true
  | .fieldEviction _ => true
  | .clusterOffline _ => true
  | .copyStart _ => true
  | .copyElementLand _ _ => true
  | .copyFaultStop _ => true
  | .gatherPiece _ => true
  | .parityHomeAccess _ => true
  | .stackLost _ _ => true
  | .contractionStart => true
  | .contractionStripeMove => true
  | .rowRemapUpdate _ _ _ => true
  | .allocationTableUpdate _ _ _ => true
  | .powerDownEntry _ _ => true
  | .selfRefreshEntry _ _ => true
  | .reductionCommand _ _ => true
  | .reductionComplete _ _ => true
  | .mergeCountPass _ _ => true
  | .mergeWritePass _ _ => true
  | .mergeComplete _ _ => true
  | .allGather _ _ => true
  | .reduceScatter _ _ => true
  | .collectiveWaitComplete _ _ => true
  | .peerInboundAccess _ => true
  | .peerWindowRemap _ _ _ _ => true
  | .shootDown _ _ _ => true
  | .shootDownComplete => true
  | .walkPrefetch _ => true
  | .pageMigration _ _ _ => true
  | .pasidTeardown _ => true
  | .hostRmaWrite _ _ _ => true
  | .queueTailWrite _ _ => true
  | .queueErrorClear _ _ => true
  | .queueWatchFire _ => true
  | .schedulingPass => true
  | .gangStart _ => true
  | .reservationTimeout _ => true
  | .eventPost _ => true
  | .heartbeatTimeout => true
  | .commandCoreRelease => true
  | .directLaunch _ => true
  | .portDown _ => true
  | .connectionSetup _ => true
  | .powerOnReset _ => true
  | .startTimeout => true
  | .recoveryImagePush _ => true
  | .firmwareHandover _ => true
  | .attestationRequest _ => true
  | .powerLimitThrottle => true
  | .clockRaise => true
  | .writeAcknowledgement _ => true
  | .powerInputRemoved _ => true
  | .portUp _ => true
  | .svkAttach _ _ => true
  | .svkContinue _ => true

end Sys2Proof
end

