-- ==== Sys2Proof/Decode.lean ====
section
/-! DEFINITION. The decoder, total on any bytes (R139 to R160), and after it the encoder. The decoder recognises a row by
its fixed bits alone; whether the values of its fields are legal is `Instr.wf` (R141 step 1), which the sequencer checks next. -/
namespace Sys2Proof

/-- Why bytes name no instruction. -/
inductive Reject where
  | truncated
  | reservedMajor (maj : Nat)
  | reservedFunction (maj fn : Nat)
  | nonzeroUnused (maj : Nat)
  | reservedBop (bop : Nat)
  | reservedTop (top : Nat)
  | reservedCop (cop : Nat)
  | reservedSub (sub : Nat)
  | noEncoding
  deriving DecidableEq, Repr

/-- Field of `w` bits of the instruction word `n` from bit `lo`. -/
def fld (n lo w : Nat) : BitVec w := BitVec.ofNat w (n / 2 ^ lo)

/-- Bits [hi:lo] of `n` as a number (the helper bits of spec/00). -/
def bitsOf (n lo w : Nat) : Nat := n / 2 ^ lo % 2 ^ w
/-- The integer group, MAJ 0x00, by fn (R145); CLZ, CTZ and POPC need b = 0 (R172). -/
def decodeInteger (n : Nat) : Except Reject Instr :=
  match bitsOf n 22 10 with
  | 0x000 => .ok (.add (fld n 7 5) (fld n 12 5) (fld n 17 5))
  | 0x001 => .ok (.sub (fld n 7 5) (fld n 12 5) (fld n 17 5))
  | 0x002 => .ok (.and (fld n 7 5) (fld n 12 5) (fld n 17 5))
  | 0x003 => .ok (.or (fld n 7 5) (fld n 12 5) (fld n 17 5))
  | 0x004 => .ok (.xor (fld n 7 5) (fld n 12 5) (fld n 17 5))
  | 0x005 => .ok (.andn (fld n 7 5) (fld n 12 5) (fld n 17 5))
  | 0x008 => .ok (.sll (fld n 7 5) (fld n 12 5) (fld n 17 5))
  | 0x009 => .ok (.srl (fld n 7 5) (fld n 12 5) (fld n 17 5))
  | 0x00A => .ok (.sra (fld n 7 5) (fld n 12 5) (fld n 17 5))
  | 0x00B => .ok (.rol (fld n 7 5) (fld n 12 5) (fld n 17 5))
  | 0x00C => .ok (.ror (fld n 7 5) (fld n 12 5) (fld n 17 5))
  | 0x010 => .ok (.slt (fld n 7 5) (fld n 12 5) (fld n 17 5))
  | 0x011 => .ok (.sltu (fld n 7 5) (fld n 12 5) (fld n 17 5))
  | 0x012 => .ok (.min (fld n 7 5) (fld n 12 5) (fld n 17 5))
  | 0x013 => .ok (.max (fld n 7 5) (fld n 12 5) (fld n 17 5))
  | 0x014 => .ok (.minu (fld n 7 5) (fld n 12 5) (fld n 17 5))
  | 0x015 => .ok (.maxu (fld n 7 5) (fld n 12 5) (fld n 17 5))
  | 0x020 => .ok (.mul (fld n 7 5) (fld n 12 5) (fld n 17 5))
  | 0x021 => .ok (.mulh (fld n 7 5) (fld n 12 5) (fld n 17 5))
  | 0x022 => .ok (.mulhu (fld n 7 5) (fld n 12 5) (fld n 17 5))
  | 0x024 => .ok (.div (fld n 7 5) (fld n 12 5) (fld n 17 5))
  | 0x025 => .ok (.divu (fld n 7 5) (fld n 12 5) (fld n 17 5))
  | 0x026 => .ok (.rem (fld n 7 5) (fld n 12 5) (fld n 17 5))
  | 0x027 => .ok (.remu (fld n 7 5) (fld n 12 5) (fld n 17 5))
  | 0x030 => .ok (.clmul (fld n 7 5) (fld n 12 5) (fld n 17 5))
  | 0x031 => .ok (.clmulh (fld n 7 5) (fld n 12 5) (fld n 17 5))
  | 0x038 => if bitsOf n 17 5 = 0 then .ok (.clz (fld n 7 5) (fld n 12 5)) else .error (.nonzeroUnused 0)
  | 0x039 => if bitsOf n 17 5 = 0 then .ok (.ctz (fld n 7 5) (fld n 12 5)) else .error (.nonzeroUnused 0)
  | 0x03A => if bitsOf n 17 5 = 0 then .ok (.popc (fld n 7 5) (fld n 12 5)) else .error (.nonzeroUnused 0)
  | 0x03C => .ok (.sext (fld n 7 5) (fld n 12 5) (fld n 17 5))
  | 0x03D => .ok (.zext (fld n 7 5) (fld n 12 5) (fld n 17 5))
  | fn => .error (.reservedFunction 0 fn)
/-- The SYS group, MAJ 0x02, by fn (R146, R199, R200). -/
def decodeSys (n : Nat) : Except Reject Instr :=
  match bitsOf n 22 10 with
  | 0x010 => if bitsOf n 17 5 = 0 then .ok (.setec (fld n 7 5) (fld n 12 5))
    else if bitsOf n 17 5 = 1 then .ok (.setecT (fld n 7 5) (fld n 12 5))
    else .error (.nonzeroUnused 2)
  | 0x011 => if bitsOf n 17 5 = 0 then .ok (.setspan (fld n 7 5) (fld n 12 5))
    else .error (.nonzeroUnused 2)
  | 0x012 => .ok (.fwset (fld n 7 5) (fld n 12 5) (fld n 17 5))
  | 0x013 => .ok (.fwget (fld n 7 5) (fld n 12 5) (fld n 17 5))
  | 0x014 => if bitsOf n 17 5 = 0 then .ok (.owner (fld n 7 5) (fld n 12 5))
    else .error (.nonzeroUnused 2)
  | 0x020 => if bitsOf n 12 5 = 0 ∧ bitsOf n 17 5 = 0 then .ok (.rqpop (fld n 7 5))
    else .error (.nonzeroUnused 2)
  | 0x021 => if bitsOf n 12 5 = 0 ∧ bitsOf n 17 5 = 0 then .ok (.rqstat (fld n 7 5))
    else .error (.nonzeroUnused 2)
  | 0x024 => if bitsOf n 7 5 = 0 then .ok (.eqpush (fld n 12 5) (fld n 17 5))
    else if bitsOf n 7 5 = 1 then .ok (.eqpushLast (fld n 12 5) (fld n 17 5))
    else .error (.nonzeroUnused 2)
  | 0x025 => if bitsOf n 12 5 = 0 then .ok (.eqpop (fld n 7 5) (fld n 17 5))
    else .error (.nonzeroUnused 2)
  | 0x026 => if bitsOf n 12 5 = 0 then .ok (.eqstat (fld n 7 5) (fld n 17 5))
    else .error (.nonzeroUnused 2)
  | 0x030 => if bitsOf n 7 5 = 0 then .ok (.fence (fld n 12 5) (fld n 17 5))
    else .error (.nonzeroUnused 2)
  | 0x031 => if bitsOf n 7 5 = 0 then .ok (.fenceb (fld n 12 5) (fld n 17 5))
    else .error (.nonzeroUnused 2)
  | 0x032 => if bitsOf n 7 5 = 0 ∧ bitsOf n 17 5 = 0 then .ok (.waitb (fld n 12 5))
    else .error (.nonzeroUnused 2)
  | 0x033 => .ok (.barcfg (fld n 7 5) (fld n 12 5) (fld n 17 5))
  | 0x034 => if bitsOf n 7 5 = 0 ∧ bitsOf n 12 5 = 0 ∧ bitsOf n 17 5 = 0 then .ok .bqwait
    else .error (.nonzeroUnused 2)
  | 0x038 => .ok (.sigwait (fld n 7 5) (fld n 12 5) (fld n 17 5))
  | 0x039 => .ok (.sigpost (fld n 7 5) (fld n 12 5) (fld n 17 5))
  | 0x040 => .ok (.awset (fld n 7 5) (fld n 12 5) (fld n 17 5))
  | 0x3F0 => if bitsOf n 7 5 = 0 then .ok (.trap (fld n 12 5) (fld n 17 5))
    else .error (.nonzeroUnused 2)
  | 0x3F1 => if bitsOf n 7 5 = 0 ∧ bitsOf n 12 5 = 0 ∧ bitsOf n 17 5 = 0 then .ok .eret
    else if bitsOf n 7 5 = 0 ∧ bitsOf n 12 5 = 1 ∧ bitsOf n 17 5 = 0 then .ok .eretSkip
    else if bitsOf n 7 5 = 0 ∧ bitsOf n 12 5 = 2 ∧ bitsOf n 17 5 = 0 then .ok .eretDrop
    else .error (.nonzeroUnused 2)
  | 0x3F2 => if bitsOf n 7 5 = 0 ∧ bitsOf n 12 5 = 0 ∧ bitsOf n 17 5 = 0 then .ok .brk
    else .error (.nonzeroUnused 2)
  | 0x3F3 => if bitsOf n 7 5 = 0 ∧ bitsOf n 12 5 = 0 ∧ bitsOf n 17 5 = 0 then .ok .wfe
    else .error (.nonzeroUnused 2)
  | 0x3F4 => if bitsOf n 7 5 = 0 ∧ bitsOf n 12 5 = 0 ∧ bitsOf n 17 5 = 0 then .ok .yield
    else .error (.nonzeroUnused 2)
  | 0x3F5 => if bitsOf n 7 5 = 0 ∧ bitsOf n 12 5 = 0 ∧ bitsOf n 17 5 = 0 then .ok .halt
    else .error (.nonzeroUnused 2)
  | 0x3F8 => if bitsOf n 7 5 = 0 ∧ bitsOf n 17 5 = 0 then .ok (.qsave (fld n 12 5))
    else .error (.nonzeroUnused 2)
  | 0x3F9 => if bitsOf n 7 5 = 0 ∧ bitsOf n 17 5 = 0 then .ok (.qload (fld n 12 5))
    else .error (.nonzeroUnused 2)
  | fn => .error (.reservedFunction 2 fn)
/-- CRX, MAJ 0x06: operation in bits [31:29], register number in [28:17] (R147, R162); CRD needs a = 0 (R195). -/
def decodeCrx (n : Nat) : Except Reject Instr :=
  match bitsOf n 29 3 with
  | 0 => if bitsOf n 12 5 = 0 then .ok (.crd (fld n 7 5) (fld n 17 12)) else .error (.nonzeroUnused 6)
  | 1 => .ok (.cwr (fld n 7 5) (fld n 12 5) (fld n 17 12))
  | 2 => .ok (.cset (fld n 7 5) (fld n 12 5) (fld n 17 12))
  | 3 => .ok (.cclr (fld n 7 5) (fld n 12 5) (fld n 17 12))
  | op => .error (.reservedFunction 6 op)
/-- A 32-bit instruction by its major opcode (R142, R144). -/
def decode32 (n : Nat) : Except Reject Instr :=
  match bitsOf n 0 7 with
  | 0x00 => decodeInteger n
  | 0x02 => decodeSys n
  | 0x06 => decodeCrx n
  | 0x04 => .ok (.addi (fld n 7 5) (fld n 12 5) (fld n 17 15))
  | 0x08 => .ok (.andi (fld n 7 5) (fld n 12 5) (fld n 17 15))
  | 0x0C => .ok (.ori (fld n 7 5) (fld n 12 5) (fld n 17 15))
  | 0x10 => .ok (.xori (fld n 7 5) (fld n 12 5) (fld n 17 15))
  | 0x14 => .ok (.slli (fld n 7 5) (fld n 12 5) (fld n 17 15))
  | 0x18 => .ok (.srli (fld n 7 5) (fld n 12 5) (fld n 17 15))
  | 0x1C => .ok (.srai (fld n 7 5) (fld n 12 5) (fld n 17 15))
  | 0x20 => .ok (.slti (fld n 7 5) (fld n 12 5) (fld n 17 15))
  | 0x24 => .ok (.sltiu (fld n 7 5) (fld n 12 5) (fld n 17 15))
  | 0x01 => .ok (.lih (fld n 7 5) (fld n 12 20))
  | 0x28 => .ok (.lb (fld n 7 5) (fld n 12 5) (fld n 17 15))
  | 0x2C => .ok (.lbu (fld n 7 5) (fld n 12 5) (fld n 17 15))
  | 0x30 => .ok (.lh (fld n 7 5) (fld n 12 5) (fld n 17 15))
  | 0x34 => .ok (.lhu (fld n 7 5) (fld n 12 5) (fld n 17 15))
  | 0x38 => .ok (.lw (fld n 7 5) (fld n 12 5) (fld n 17 15))
  | 0x3C => .ok (.lwu (fld n 7 5) (fld n 12 5) (fld n 17 15))
  | 0x40 => .ok (.ld (fld n 7 5) (fld n 12 5) (fld n 17 15))
  | 0x44 => .ok (.sb (fld n 7 5) (fld n 12 5) (fld n 17 15))
  | 0x48 => .ok (.sh (fld n 7 5) (fld n 12 5) (fld n 17 15))
  | 0x4C => .ok (.sw (fld n 7 5) (fld n 12 5) (fld n 17 15))
  | 0x50 => .ok (.sd (fld n 7 5) (fld n 12 5) (fld n 17 15))
  | 0x54 => if bitsOf n 25 2 = 0 ∧ bitsOf n 31 1 = 0 then .ok (.ldg (fld n 7 5) (fld n 12 5) (fld n 17 5) (fld n 22 3) (fld n 27 2) (fld n 29 2))
    else .error (.nonzeroUnused 0x54)
  | 0x58 => if bitsOf n 25 2 = 0 ∧ bitsOf n 31 1 = 0 then .ok (.stg (fld n 7 5) (fld n 12 5) (fld n 17 5) (fld n 22 3) (fld n 27 2) (fld n 29 2))
    else .error (.nonzeroUnused 0x58)
  | 0x5C => .ok (.amo (fld n 7 5) (fld n 12 5) (fld n 17 5) (fld n 22 4) (fld n 26 1) (fld n 27 2) (fld n 29 2) (fld n 31 1))
  | 0x60 => .ok (.beq (fld n 7 5) (fld n 12 5) (fld n 17 5) (fld n 22 10))
  | 0x64 => .ok (.bne (fld n 7 5) (fld n 12 5) (fld n 17 5) (fld n 22 10))
  | 0x68 => .ok (.blt (fld n 7 5) (fld n 12 5) (fld n 17 5) (fld n 22 10))
  | 0x6C => .ok (.bge (fld n 7 5) (fld n 12 5) (fld n 17 5) (fld n 22 10))
  | 0x70 => .ok (.bltu (fld n 7 5) (fld n 12 5) (fld n 17 5) (fld n 22 10))
  | 0x74 => .ok (.bgeu (fld n 7 5) (fld n 12 5) (fld n 17 5) (fld n 22 10))
  | 0x78 => .ok (.jal (fld n 7 5) (fld n 12 20))
  | 0x7C => .ok (.jalr (fld n 7 5) (fld n 12 5) (fld n 17 15))
  | maj => .error (.reservedMajor maj)
/-- The fields of a BX word (R149). -/
def bxOf (n : Nat) : BX where
  d := fld n 17 5
  a := fld n 22 5
  b := fld n 27 5
  c := fld n 32 5
  ef := fld n 12 5
  dm := fld n 37 2
  am := fld n 39 2
  bm := fld n 41 2
  cm := fld n 43 2
  ca := fld n 45 1
  cb := fld n 46 1
  cc := fld n 47 1
  o := fld n 48 1
  x := fld n 49 1
  t := fld n 50 1
  msk := fld n 51 2
  rnd := fld n 53 3
  sat := fld n 56 1
  fn := fld n 57 7

/-- The fields of a TX word (R156). -/
def txOf (n : Nat) : TX where
  d := fld n 12 5
  a := fld n 17 5
  b := fld n 22 5
  c := fld n 27 5
  repm1 := fld n 32 4
  ca := fld n 36 1
  cb := fld n 37 1
  cc := fld n 38 1
  o := fld n 39 1
  x := fld n 40 1
  fn := fld n 41 7

/-- The fields of a CX word (R158). -/
def cxOf (n : Nat) : CX where
  d := fld n 12 5
  a := fld n 17 5
  b := fld n 22 5
  ch := fld n 27 3
  sig := fld n 30 1
  dir := fld n 32 2
  opx := fld n 34 30
/-- The BX operations by BOP (R154). -/
def decodeBx (n : Nat) : Except Reject Instr :=
  match bitsOf n 4 8 with
  | 0x00 => .ok (.vadd (bxOf n))
  | 0x01 => .ok (.vsub (bxOf n))
  | 0x02 => .ok (.vmul (bxOf n))
  | 0x03 => .ok (.vfma (bxOf n))
  | 0x04 => .ok (.vfms (bxOf n))
  | 0x05 => .ok (.vfnma (bxOf n))
  | 0x06 => .ok (.vdiv (bxOf n))
  | 0x07 => .ok (.vsqrt (bxOf n))
  | 0x08 => .ok (.vmin (bxOf n))
  | 0x09 => .ok (.vmax (bxOf n))
  | 0x0A => .ok (.vabs (bxOf n))
  | 0x0B => .ok (.vneg (bxOf n))
  | 0x0C => .ok (.vcpys (bxOf n))
  | 0x0D => .ok (.vfun (bxOf n))
  | 0x0E => .ok (.vmulh (bxOf n))
  | 0x0F => .ok (.vavg (bxOf n))
  | 0x10 => .ok (.vclass (bxOf n))
  | 0x20 => .ok (.vand (bxOf n))
  | 0x21 => .ok (.vor (bxOf n))
  | 0x22 => .ok (.vxor (bxOf n))
  | 0x23 => .ok (.vsll (bxOf n))
  | 0x24 => .ok (.vsrl (bxOf n))
  | 0x25 => .ok (.vsra (bxOf n))
  | 0x26 => .ok (.vclmul (bxOf n))
  | 0x27 => .ok (.vclmulh (bxOf n))
  | 0x28 => .ok (.vpopc (bxOf n))
  | 0x29 => .ok (.vclz (bxOf n))
  | 0x30 => .ok (.vcmp (bxOf n))
  | 0x31 => .ok (.vselm (bxOf n))
  | 0x38 => .ok (.vcvtn (bxOf n))
  | 0x39 => .ok (.vcvtw (bxOf n))
  | 0x3A => .ok (.vcvti (bxOf n))
  | 0x3B => .ok (.vcvtf4 (bxOf n))
  | 0x40 => .ok (.vmov (bxOf n))
  | 0x41 => .ok (.viota (bxOf n))
  | 0x42 => .ok (.vrev (bxOf n))
  | 0x43 => .ok (.vreshape (bxOf n))
  | 0x44 => .ok (.vcompress (bxOf n))
  | 0x45 => .ok (.vexpand (bxOf n))
  | 0x50 => .ok (.vredsum (bxOf n))
  | 0x51 => .ok (.vredmax (bxOf n))
  | 0x52 => .ok (.vredmin (bxOf n))
  | 0x53 => .ok (.vredbit (bxOf n))
  | 0x54 => .ok (.vscan (bxOf n))
  | 0x55 => .ok (.vfirst (bxOf n))
  | 0x56 => .ok (.vcount (bxOf n))
  | 0x60 => .ok (.vscatadd (bxOf n))
  | 0x61 => .ok (.vscatmax (bxOf n))
  | 0x62 => .ok (.vscatmin (bxOf n))
  | 0x63 => .ok (.vconfl (bxOf n))
  | 0x64 => .ok (.vspadd (bxOf n))
  | 0x65 => .ok (.vspmul (bxOf n))
  | 0x70 => .ok (.vrunb (bxOf n))
  | bop => .error (.reservedBop bop)
/-- The TX operations by TOP (R157). -/
def decodeTx (n : Nat) : Except Reject Instr :=
  if bitsOf n 48 16 ≠ 0 then .error (.nonzeroUnused 7) else
  match bitsOf n 4 8 with
  | 0x00 => .ok (.tmma (txOf n))
  | 0x01 => .ok (.tew (txOf n))
  | 0x02 => .ok (.tact (txOf n))
  | 0x03 => .ok (.trowr (txOf n))
  | 0x04 => .ok (.tsoft (txOf n))
  | 0x05 => .ok (.ttrn (txOf n))
  | 0x06 => .ok (.tcvt (txOf n))
  | 0x07 => .ok (.tcpy (txOf n))
  | 0x08 => .ok (.tfill (txOf n))
  | 0x10 => .ok (.ttagr (txOf n))
  | 0x11 => .ok (.ttagw (txOf n))
  | top => .error (.reservedTop top)
/-- The CX operations by COP (R159). -/
def decodeCx (n : Nat) : Except Reject Instr :=
  if bitsOf n 31 1 ≠ 0 then .error (.nonzeroUnused 11) else
  match bitsOf n 4 8 with
  | 0x00 => .ok (.copy (cxOf n))
  | 0x01 => .ok (.copynd (cxOf n))
  | 0x02 => .ok (.gather (cxOf n))
  | 0x03 => .ok (.scatter (cxOf n))
  | 0x04 => .ok (.drain (cxOf n))
  | 0x10 => .ok (.mtload (cxOf n))
  | 0x11 => .ok (.mtinv (cxOf n))
  | 0x12 => .ok (.mtquery (cxOf n))
  | 0x18 => .ok (.bload (cxOf n))
  | cop => .error (.reservedCop cop)
/-- A 64-bit instruction by its class in bits [3:2] (R148); LX sub-operation 0x00 is LIM (R160). -/
def decode64 (n : Nat) : Except Reject Instr :=
  match bitsOf n 2 2 with
  | 0 => decodeBx n
  | 1 => decodeTx n
  | 2 => decodeCx n
  | _ =>
    if bitsOf n 4 8 = 0 then .ok (.lim (fld n 12 5) (fld n 17 47)) else .error (.reservedSub (bitsOf n 4 8))

/-- Little-endian value of a list of bytes (R4). -/
def leNat : List Byte → Nat
  | [] => 0
  | b :: bs => b.toNat + 256 * leNat bs

/-- The `k` low bytes of a number, little-endian (R4). -/
def leBytes : Nat → Nat → List Byte
  | 0, _ => []
  | k + 1, n => BitVec.ofNat 8 n :: leBytes k (n / 256)

/-- Bits [1:0] = 0b11 of the first parcel start a 64-bit instruction (R139). -/
def isLong (parcel : Nat) : Bool := parcel % 4 == 3

/-- The instruction at the head of a list of bytes, and its length in bytes (R139). -/
def decode (bs : List Byte) : Except Reject (Instr × Nat) :=
  if bs.length < 4 then .error .truncated else
  let p := leNat (bs.take 4)
  if isLong p then
    if bs.length < 8 then .error .truncated
    else (decode64 (leNat (bs.take 8))).map fun i => (i, 8)
  else (decode32 p).map fun i => (i, 4)

/-- The host's question: an instruction whose first `nbits` bits are `w` and whose further bits are zero, laid out as the
hardware stores it (R139), read by `decode`. -/
def decodeTableWord (nbits w : Nat) : Option Instr :=
  match decode (leBytes 8 (w % 2 ^ nbits)) with
  | .ok (i, _) => some i
  | .error _ => none
/-- An SA word with d, a and b over the fixed bits `m` (R142). -/
def saWord (m : Nat) (d a b : Reg) : Nat := m + d.toNat * 2 ^ 7 + a.toNat * 2 ^ 12 + b.toNat * 2 ^ 17
/-- An SA word with d and a. -/
def sa2Word (m : Nat) (d a : Reg) : Nat := m + d.toNat * 2 ^ 7 + a.toNat * 2 ^ 12
/-- An SI word (R142). -/
def siWord (m : Nat) (d a : Reg) (i : BitVec 15) : Nat := m + d.toNat * 2 ^ 7 + a.toNat * 2 ^ 12 + i.toNat * 2 ^ 17
/-- An SU or SJ word (R142). -/
def suWord (m : Nat) (d : Reg) (i : BitVec 20) : Nat := m + d.toNat * 2 ^ 7 + i.toNat * 2 ^ 12
/-- An SB word (R142). -/
def sbWord (m : Nat) (l a b : Reg) (h : BitVec 10) : Nat :=
  m + l.toNat * 2 ^ 7 + a.toNat * 2 ^ 12 + b.toNat * 2 ^ 17 + h.toNat * 2 ^ 22
/-- A CRD word (R195). -/
def cr2Word (m : Nat) (d : Reg) (n : BitVec 12) : Nat := m + d.toNat * 2 ^ 7 + n.toNat * 2 ^ 17
/-- A CWR, CSET or CCLR word (R195). -/
def cr3Word (m : Nat) (d a : Reg) (n : BitVec 12) : Nat := m + d.toNat * 2 ^ 7 + a.toNat * 2 ^ 12 + n.toNat * 2 ^ 17
/-- A SYS word with a and b (R199). -/
def abWord (m : Nat) (a b : Reg) : Nat := m + a.toNat * 2 ^ 12 + b.toNat * 2 ^ 17
/-- A SYS word with d and b. -/
def dbWord (m : Nat) (d b : Reg) : Nat := m + d.toNat * 2 ^ 7 + b.toNat * 2 ^ 17
/-- A SYS word with d alone. -/
def d1Word (m : Nat) (d : Reg) : Nat := m + d.toNat * 2 ^ 7
/-- A SYS word with a alone. -/
def a1Word (m : Nat) (a : Reg) : Nat := m + a.toNat * 2 ^ 12
/-- An LDG word (R180). -/
def ldgWord (m : Nat) (d a b : Reg) (z : BitVec 3) (o c : BitVec 2) : Nat :=
  m + d.toNat * 2 ^ 7 + a.toNat * 2 ^ 12 + b.toNat * 2 ^ 17 + z.toNat * 2 ^ 22 + o.toNat * 2 ^ 27 + c.toNat * 2 ^ 29
/-- An STG word (R180). -/
def stgWord (m : Nat) (d a b : Reg) (z : BitVec 3) (o c : BitVec 2) : Nat :=
  m + d.toNat * 2 ^ 7 + a.toNat * 2 ^ 12 + b.toNat * 2 ^ 17 + z.toNat * 2 ^ 22 + o.toNat * 2 ^ 27 + c.toNat * 2 ^ 29
/-- An AMO word (R186). -/
def amoWord (m : Nat) (d a b : Reg) (n : BitVec 4) (z : BitVec 1) (o c : BitVec 2) (g : BitVec 1) : Nat :=
  m + d.toNat * 2 ^ 7 + a.toNat * 2 ^ 12 + b.toNat * 2 ^ 17 + n.toNat * 2 ^ 22 + z.toNat * 2 ^ 26 + o.toNat * 2 ^ 27
    + c.toNat * 2 ^ 29 + g.toNat * 2 ^ 31

/-- A BX word from its BOP and fields (R248). -/
def bxWord (bop : Nat) (f : BX) : Nat :=
  3 + bop * 2 ^ 4 + f.ef.toNat * 2 ^ 12 + f.d.toNat * 2 ^ 17 + f.a.toNat * 2 ^ 22 + f.b.toNat * 2 ^ 27 + f.c.toNat * 2 ^ 32
    + f.dm.toNat * 2 ^ 37 + f.am.toNat * 2 ^ 39 + f.bm.toNat * 2 ^ 41 + f.cm.toNat * 2 ^ 43
    + f.ca.toNat * 2 ^ 45 + f.cb.toNat * 2 ^ 46 + f.cc.toNat * 2 ^ 47 + f.o.toNat * 2 ^ 48 + f.x.toNat * 2 ^ 49
    + f.t.toNat * 2 ^ 50 + f.msk.toNat * 2 ^ 51 + f.rnd.toNat * 2 ^ 53 + f.sat.toNat * 2 ^ 56 + f.fn.toNat * 2 ^ 57

/-- A TX word from its TOP and fields (R326). -/
def txWord (top : Nat) (f : TX) : Nat :=
  7 + top * 2 ^ 4 + f.d.toNat * 2 ^ 12 + f.a.toNat * 2 ^ 17 + f.b.toNat * 2 ^ 22 + f.c.toNat * 2 ^ 27
    + f.repm1.toNat * 2 ^ 32 + f.ca.toNat * 2 ^ 36 + f.cb.toNat * 2 ^ 37 + f.cc.toNat * 2 ^ 38 + f.o.toNat * 2 ^ 39
    + f.x.toNat * 2 ^ 40 + f.fn.toNat * 2 ^ 41

/-- A CX word from its COP and fields (R344). -/
def cxWord (cop : Nat) (f : CX) : Nat :=
  11 + cop * 2 ^ 4 + f.d.toNat * 2 ^ 12 + f.a.toNat * 2 ^ 17 + f.b.toNat * 2 ^ 22 + f.ch.toNat * 2 ^ 27
    + f.sig.toNat * 2 ^ 30 + f.dir.toNat * 2 ^ 32 + f.opx.toNat * 2 ^ 34
/-- The encoding of an instruction, zero for a row without one (R142 to R160). -/
def encodeWord : Instr → Nat
  | .add d a b => saWord 0x00000000 d a b
  | .sub d a b => saWord 0x00400000 d a b
  | .and d a b => saWord 0x00800000 d a b
  | .or d a b => saWord 0x00C00000 d a b
  | .xor d a b => saWord 0x01000000 d a b
  | .andn d a b => saWord 0x01400000 d a b
  | .sll d a b => saWord 0x02000000 d a b
  | .srl d a b => saWord 0x02400000 d a b
  | .sra d a b => saWord 0x02800000 d a b
  | .rol d a b => saWord 0x02C00000 d a b
  | .ror d a b => saWord 0x03000000 d a b
  | .slt d a b => saWord 0x04000000 d a b
  | .sltu d a b => saWord 0x04400000 d a b
  | .min d a b => saWord 0x04800000 d a b
  | .max d a b => saWord 0x04C00000 d a b
  | .minu d a b => saWord 0x05000000 d a b
  | .maxu d a b => saWord 0x05400000 d a b
  | .mul d a b => saWord 0x08000000 d a b
  | .mulh d a b => saWord 0x08400000 d a b
  | .mulhu d a b => saWord 0x08800000 d a b
  | .div d a b => saWord 0x09000000 d a b
  | .divu d a b => saWord 0x09400000 d a b
  | .rem d a b => saWord 0x09800000 d a b
  | .remu d a b => saWord 0x09C00000 d a b
  | .clmul d a b => saWord 0x0C000000 d a b
  | .clmulh d a b => saWord 0x0C400000 d a b
  | .clz d a => sa2Word 0x0E000000 d a
  | .ctz d a => sa2Word 0x0E400000 d a
  | .popc d a => sa2Word 0x0E800000 d a
  | .sext d a w => saWord 0x0F000000 d a w
  | .zext d a w => saWord 0x0F400000 d a w
  | .addi d a i => siWord 0x00000004 d a i
  | .andi d a i => siWord 0x00000008 d a i
  | .ori d a i => siWord 0x0000000C d a i
  | .xori d a i => siWord 0x00000010 d a i
  | .slli d a i => siWord 0x00000014 d a i
  | .srli d a i => siWord 0x00000018 d a i
  | .srai d a i => siWord 0x0000001C d a i
  | .slti d a i => siWord 0x00000020 d a i
  | .sltiu d a i => siWord 0x00000024 d a i
  | .lih d i => suWord 0x00000001 d i
  | .lim d imm => 0xF + d.toNat * 2 ^ 12 + imm.toNat * 2 ^ 17
  | .lb d a i => siWord 0x00000028 d a i
  | .lbu d a i => siWord 0x0000002C d a i
  | .lh d a i => siWord 0x00000030 d a i
  | .lhu d a i => siWord 0x00000034 d a i
  | .lw d a i => siWord 0x00000038 d a i
  | .lwu d a i => siWord 0x0000003C d a i
  | .ld d a i => siWord 0x00000040 d a i
  | .sb d a i => siWord 0x00000044 d a i
  | .sh d a i => siWord 0x00000048 d a i
  | .sw d a i => siWord 0x0000004C d a i
  | .sd d a i => siWord 0x00000050 d a i
  | .ldg d a b z o c => ldgWord 0x00000054 d a b z o c
  | .stg d a b z o c => stgWord 0x00000058 d a b z o c
  | .amo d a b n z o c g => amoWord 0x0000005C d a b n z o c g
  | .beq l a b h => sbWord 0x00000060 l a b h
  | .bne l a b h => sbWord 0x00000064 l a b h
  | .blt l a b h => sbWord 0x00000068 l a b h
  | .bge l a b h => sbWord 0x0000006C l a b h
  | .bltu l a b h => sbWord 0x00000070 l a b h
  | .bgeu l a b h => sbWord 0x00000074 l a b h
  | .jal d o => suWord 0x00000078 d o
  | .jalr d a i => siWord 0x0000007C d a i
  | .crd d n => cr2Word 0x00000006 d n
  | .cwr d a n => cr3Word 0x20000006 d a n
  | .cset d a n => cr3Word 0x40000006 d a n
  | .cclr d a n => cr3Word 0x60000006 d a n
  | .registerWrite _ _ => 0
  | .chstatCancel _ => 0
  | .chstatErrorClear _ _ => 0
  | .convresWrite _ => 0
  | .setec d a => sa2Word 0x04000002 d a
  | .setecT d a => sa2Word 0x04020002 d a
  | .setspan d a => sa2Word 0x04400002 d a
  | .fwset d a b => saWord 0x04800002 d a b
  | .fwget d a b => saWord 0x04C00002 d a b
  | .owner d a => sa2Word 0x05000002 d a
  | .rqpop d => d1Word 0x08000002 d
  | .rqstat d => d1Word 0x08400002 d
  | .eqpush a p => abWord 0x09000002 a p
  | .eqpushLast a p => abWord 0x09000082 a p
  | .eqpop d p => dbWord 0x09400002 d p
  | .eqstat d p => dbWord 0x09800002 d p
  | .fence s k => abWord 0x0C000002 s k
  | .fenceb b c => abWord 0x0C400002 b c
  | .barrierArrival _ _ => 0
  | .waitb b => a1Word 0x0C800002 b
  | .barcfg d b n => saWord 0x0CC00002 d b n
  | .bqwait  => 0x0D000002
  | .sigwait c a b => saWord 0x0E000002 c a b
  | .sigpost c a b => saWord 0x0E400002 c a b
  | .awset w a b => saWord 0x10000002 w a b
  | .trap l h => abWord 0xFC000002 l h
  | .eret  => 0xFC400002
  | .eretSkip  => 0xFC401002
  | .eretDrop  => 0xFC402002
  | .brk  => 0xFC800002
  | .wfe  => 0xFCC00002
  | .yield  => 0xFD000002
  | .halt  => 0xFD400002
  | .qsave a => a1Word 0xFE000002 a
  | .qload a => a1Word 0xFE400002 a
  | .vadd f => bxWord 0x00 f
  | .vsub f => bxWord 0x01 f
  | .vmul f => bxWord 0x02 f
  | .vfma f => bxWord 0x03 f
  | .vfms f => bxWord 0x04 f
  | .vfnma f => bxWord 0x05 f
  | .vdiv f => bxWord 0x06 f
  | .vsqrt f => bxWord 0x07 f
  | .vmin f => bxWord 0x08 f
  | .vmax f => bxWord 0x09 f
  | .vabs f => bxWord 0x0A f
  | .vneg f => bxWord 0x0B f
  | .vcpys f => bxWord 0x0C f
  | .vfun f => bxWord 0x0D f
  | .vmulh f => bxWord 0x0E f
  | .vavg f => bxWord 0x0F f
  | .vclass f => bxWord 0x10 f
  | .vand f => bxWord 0x20 f
  | .vor f => bxWord 0x21 f
  | .vxor f => bxWord 0x22 f
  | .vsll f => bxWord 0x23 f
  | .vsrl f => bxWord 0x24 f
  | .vsra f => bxWord 0x25 f
  | .vclmul f => bxWord 0x26 f
  | .vclmulh f => bxWord 0x27 f
  | .vpopc f => bxWord 0x28 f
  | .vclz f => bxWord 0x29 f
  | .vcmp f => bxWord 0x30 f
  | .vselm f => bxWord 0x31 f
  | .vcvtn f => bxWord 0x38 f
  | .vcvtw f => bxWord 0x39 f
  | .vcvti f => bxWord 0x3A f
  | .vcvtf4 f => bxWord 0x3B f
  | .vmov f => bxWord 0x40 f
  | .viota f => bxWord 0x41 f
  | .vrev f => bxWord 0x42 f
  | .vreshape f => bxWord 0x43 f
  | .vcompress f => bxWord 0x44 f
  | .vexpand f => bxWord 0x45 f
  | .vredsum f => bxWord 0x50 f
  | .vredmax f => bxWord 0x51 f
  | .vredmin f => bxWord 0x52 f
  | .vredbit f => bxWord 0x53 f
  | .vscan f => bxWord 0x54 f
  | .vfirst f => bxWord 0x55 f
  | .vcount f => bxWord 0x56 f
  | .vscatadd f => bxWord 0x60 f
  | .vscatmax f => bxWord 0x61 f
  | .vscatmin f => bxWord 0x62 f
  | .vconfl f => bxWord 0x63 f
  | .vspadd f => bxWord 0x64 f
  | .vspmul f => bxWord 0x65 f
  | .vrunb f => bxWord 0x70 f
  | .bload f => cxWord 0x18 f
  | .tmma f => txWord 0x00 f
  | .tew f => txWord 0x01 f
  | .tact f => txWord 0x02 f
  | .trowr f => txWord 0x03 f
  | .tsoft f => txWord 0x04 f
  | .ttrn f => txWord 0x05 f
  | .tcvt f => txWord 0x06 f
  | .tcpy f => txWord 0x07 f
  | .tfill f => txWord 0x08 f
  | .ttagr f => txWord 0x10 f
  | .ttagw f => txWord 0x11 f
  | .mtload f => cxWord 0x10 f
  | .mtinv f => cxWord 0x11 f
  | .mtquery f => cxWord 0x12 f
  | .copy f => cxWord 0x00 f
  | .copynd f => cxWord 0x01 f
  | .gather f => cxWord 0x02 f
  | .scatter f => cxWord 0x03 f
  | .drain f => cxWord 0x04 f
  | .bankBegin _ => 0
  | .pullArrival _ => 0
  | .pullServe _ => 0
  | .pullResponse _ => 0
  | .stagedWritePhase  => 0
  | .loadResponse _ => 0
  | .stgNak _ _ => 0
  | .trapEntry  => 0
  | .pageReply _ _ => 0
  | .preemptionHalt _ => 0
  | .fieldEviction _ => 0
  | .clusterOffline _ => 0
  | .copyStart _ => 0
  | .copyElementLand _ _ => 0
  | .copyFaultStop _ => 0
  | .gatherPiece _ => 0
  | .parityHomeAccess _ => 0
  | .stackLost _ _ => 0
  | .contractionStart  => 0
  | .contractionStripeMove  => 0
  | .rowRemapUpdate _ _ _ => 0
  | .allocationTableUpdate _ _ _ => 0
  | .powerDownEntry _ _ => 0
  | .selfRefreshEntry _ _ => 0
  | .reductionCommand _ _ => 0
  | .reductionComplete _ _ => 0
  | .mergeCountPass _ _ => 0
  | .mergeWritePass _ _ => 0
  | .mergeComplete _ _ => 0
  | .allGather _ _ => 0
  | .reduceScatter _ _ => 0
  | .collectiveWaitComplete _ _ => 0
  | .peerInboundAccess _ => 0
  | .peerWindowRemap _ _ _ _ => 0
  | .shootDown _ _ _ => 0
  | .shootDownComplete  => 0
  | .walkPrefetch _ => 0
  | .pageMigration _ _ _ => 0
  | .pasidTeardown _ => 0
  | .hostRmaWrite _ _ _ => 0
  | .queueTailWrite _ _ => 0
  | .queueErrorClear _ _ => 0
  | .queueWatchFire _ => 0
  | .schedulingPass  => 0
  | .gangStart _ => 0
  | .reservationTimeout _ => 0
  | .eventPost _ => 0
  | .heartbeatTimeout  => 0
  | .commandCoreRelease  => 0
  | .directLaunch _ => 0
  | .portDown _ => 0
  | .connectionSetup _ => 0
  | .powerOnReset _ => 0
  | .startTimeout  => 0
  | .recoveryImagePush _ => 0
  | .firmwareHandover _ => 0
  | .attestationRequest _ => 0
  | .powerLimitThrottle  => 0
  | .clockRaise  => 0
  | .writeAcknowledgement _ => 0
  | .powerInputRemoved _ => 0
  | .portUp _ => 0
  | .svkAttach _ _ => 0
  | .svkContinue _ => 0

/-- The length in bytes of an instruction (R139); 0 for a row without an encoding. -/
def Instr.bytes : Instr → Nat
  | .add _ _ _ => 4
  | .sub _ _ _ => 4
  | .and _ _ _ => 4
  | .or _ _ _ => 4
  | .xor _ _ _ => 4
  | .andn _ _ _ => 4
  | .sll _ _ _ => 4
  | .srl _ _ _ => 4
  | .sra _ _ _ => 4
  | .rol _ _ _ => 4
  | .ror _ _ _ => 4
  | .slt _ _ _ => 4
  | .sltu _ _ _ => 4
  | .min _ _ _ => 4
  | .max _ _ _ => 4
  | .minu _ _ _ => 4
  | .maxu _ _ _ => 4
  | .mul _ _ _ => 4
  | .mulh _ _ _ => 4
  | .mulhu _ _ _ => 4
  | .div _ _ _ => 4
  | .divu _ _ _ => 4
  | .rem _ _ _ => 4
  | .remu _ _ _ => 4
  | .clmul _ _ _ => 4
  | .clmulh _ _ _ => 4
  | .clz _ _ => 4
  | .ctz _ _ => 4
  | .popc _ _ => 4
  | .sext _ _ _ => 4
  | .zext _ _ _ => 4
  | .addi _ _ _ => 4
  | .andi _ _ _ => 4
  | .ori _ _ _ => 4
  | .xori _ _ _ => 4
  | .slli _ _ _ => 4
  | .srli _ _ _ => 4
  | .srai _ _ _ => 4
  | .slti _ _ _ => 4
  | .sltiu _ _ _ => 4
  | .lih _ _ => 4
  | .lim _ _ => 8
  | .lb _ _ _ => 4
  | .lbu _ _ _ => 4
  | .lh _ _ _ => 4
  | .lhu _ _ _ => 4
  | .lw _ _ _ => 4
  | .lwu _ _ _ => 4
  | .ld _ _ _ => 4
  | .sb _ _ _ => 4
  | .sh _ _ _ => 4
  | .sw _ _ _ => 4
  | .sd _ _ _ => 4
  | .ldg _ _ _ _ _ _ => 4
  | .stg _ _ _ _ _ _ => 4
  | .amo _ _ _ _ _ _ _ _ => 4
  | .beq _ _ _ _ => 4
  | .bne _ _ _ _ => 4
  | .blt _ _ _ _ => 4
  | .bge _ _ _ _ => 4
  | .bltu _ _ _ _ => 4
  | .bgeu _ _ _ _ => 4
  | .jal _ _ => 4
  | .jalr _ _ _ => 4
  | .crd _ _ => 4
  | .cwr _ _ _ => 4
  | .cset _ _ _ => 4
  | .cclr _ _ _ => 4
  | .registerWrite _ _ => 0
  | .chstatCancel _ => 0
  | .chstatErrorClear _ _ => 0
  | .convresWrite _ => 0
  | .setec _ _ => 4
  | .setecT _ _ => 4
  | .setspan _ _ => 4
  | .fwset _ _ _ => 4
  | .fwget _ _ _ => 4
  | .owner _ _ => 4
  | .rqpop _ => 4
  | .rqstat _ => 4
  | .eqpush _ _ => 4
  | .eqpushLast _ _ => 4
  | .eqpop _ _ => 4
  | .eqstat _ _ => 4
  | .fence _ _ => 4
  | .fenceb _ _ => 4
  | .barrierArrival _ _ => 0
  | .waitb _ => 4
  | .barcfg _ _ _ => 4
  | .bqwait => 4
  | .sigwait _ _ _ => 4
  | .sigpost _ _ _ => 4
  | .awset _ _ _ => 4
  | .trap _ _ => 4
  | .eret => 4
  | .eretSkip => 4
  | .eretDrop => 4
  | .brk => 4
  | .wfe => 4
  | .yield => 4
  | .halt => 4
  | .qsave _ => 4
  | .qload _ => 4
  | .vadd _ => 8
  | .vsub _ => 8
  | .vmul _ => 8
  | .vfma _ => 8
  | .vfms _ => 8
  | .vfnma _ => 8
  | .vdiv _ => 8
  | .vsqrt _ => 8
  | .vmin _ => 8
  | .vmax _ => 8
  | .vabs _ => 8
  | .vneg _ => 8
  | .vcpys _ => 8
  | .vfun _ => 8
  | .vmulh _ => 8
  | .vavg _ => 8
  | .vclass _ => 8
  | .vand _ => 8
  | .vor _ => 8
  | .vxor _ => 8
  | .vsll _ => 8
  | .vsrl _ => 8
  | .vsra _ => 8
  | .vclmul _ => 8
  | .vclmulh _ => 8
  | .vpopc _ => 8
  | .vclz _ => 8
  | .vcmp _ => 8
  | .vselm _ => 8
  | .vcvtn _ => 8
  | .vcvtw _ => 8
  | .vcvti _ => 8
  | .vcvtf4 _ => 8
  | .vmov _ => 8
  | .viota _ => 8
  | .vrev _ => 8
  | .vreshape _ => 8
  | .vcompress _ => 8
  | .vexpand _ => 8
  | .vredsum _ => 8
  | .vredmax _ => 8
  | .vredmin _ => 8
  | .vredbit _ => 8
  | .vscan _ => 8
  | .vfirst _ => 8
  | .vcount _ => 8
  | .vscatadd _ => 8
  | .vscatmax _ => 8
  | .vscatmin _ => 8
  | .vconfl _ => 8
  | .vspadd _ => 8
  | .vspmul _ => 8
  | .vrunb _ => 8
  | .bload _ => 8
  | .tmma _ => 8
  | .tew _ => 8
  | .tact _ => 8
  | .trowr _ => 8
  | .tsoft _ => 8
  | .ttrn _ => 8
  | .tcvt _ => 8
  | .tcpy _ => 8
  | .tfill _ => 8
  | .ttagr _ => 8
  | .ttagw _ => 8
  | .mtload _ => 8
  | .mtinv _ => 8
  | .mtquery _ => 8
  | .copy _ => 8
  | .copynd _ => 8
  | .gather _ => 8
  | .scatter _ => 8
  | .drain _ => 8
  | .bankBegin _ => 0
  | .pullArrival _ => 0
  | .pullServe _ => 0
  | .pullResponse _ => 0
  | .stagedWritePhase => 0
  | .loadResponse _ => 0
  | .stgNak _ _ => 0
  | .trapEntry => 0
  | .pageReply _ _ => 0
  | .preemptionHalt _ => 0
  | .fieldEviction _ => 0
  | .clusterOffline _ => 0
  | .copyStart _ => 0
  | .copyElementLand _ _ => 0
  | .copyFaultStop _ => 0
  | .gatherPiece _ => 0
  | .parityHomeAccess _ => 0
  | .stackLost _ _ => 0
  | .contractionStart => 0
  | .contractionStripeMove => 0
  | .rowRemapUpdate _ _ _ => 0
  | .allocationTableUpdate _ _ _ => 0
  | .powerDownEntry _ _ => 0
  | .selfRefreshEntry _ _ => 0
  | .reductionCommand _ _ => 0
  | .reductionComplete _ _ => 0
  | .mergeCountPass _ _ => 0
  | .mergeWritePass _ _ => 0
  | .mergeComplete _ _ => 0
  | .allGather _ _ => 0
  | .reduceScatter _ _ => 0
  | .collectiveWaitComplete _ _ => 0
  | .peerInboundAccess _ => 0
  | .peerWindowRemap _ _ _ _ => 0
  | .shootDown _ _ _ => 0
  | .shootDownComplete => 0
  | .walkPrefetch _ => 0
  | .pageMigration _ _ _ => 0
  | .pasidTeardown _ => 0
  | .hostRmaWrite _ _ _ => 0
  | .queueTailWrite _ _ => 0
  | .queueErrorClear _ _ => 0
  | .queueWatchFire _ => 0
  | .schedulingPass => 0
  | .gangStart _ => 0
  | .reservationTimeout _ => 0
  | .eventPost _ => 0
  | .heartbeatTimeout => 0
  | .commandCoreRelease => 0
  | .directLaunch _ => 0
  | .portDown _ => 0
  | .connectionSetup _ => 0
  | .powerOnReset _ => 0
  | .startTimeout => 0
  | .recoveryImagePush _ => 0
  | .firmwareHandover _ => 0
  | .attestationRequest _ => 0
  | .powerLimitThrottle => 0
  | .clockRaise => 0
  | .writeAcknowledgement _ => 0
  | .powerInputRemoved _ => 0
  | .portUp _ => 0
  | .svkAttach _ _ => 0
  | .svkContinue _ => 0

/-- The bytes of an instruction as memory holds them (R139). -/
def encode (i : Instr) : List Byte := leBytes i.bytes (encodeWord i)

end Sys2Proof
end

