-- ==== Sys2Proof/Machine/State.lean ====
section
/-! DEFINITION. The state of the package and of its gangs as plain data, and the state right after reset. -/
namespace Sys2Proof.Machine

/-- Sparse data by a natural-number key: keys strictly rising, no entry equal to what an unlisted key reads as. -/
abbrev Map (α : Type) := List (Nat × α)

/-- The stops of the machine that are no next state. -/
inductive Fault where
  /-- Raised by `step` on a package that has no power and no input pending (R447, Off). Safe: the machine does nothing. -/
  | poweredOff
  deriving DecidableEq, Repr

/-- The refusals of the model. -/
inductive Refusal where
  /-- Raised by `exec` for an instruction that has no meaning yet. Safe: nothing is claimed of it. -/
  | notModelled (mnemonic : String)
  deriving DecidableEq, Repr

/-- The values a broadcast, tile or copy instruction captures at commit besides its registers (R101). -/
structure Capture where
  ecount : Nat
  estart : Nat
  emask : Nat
  ectrl : Word
  tcount : Nat
  convres : Nat
  nblk : Nat
  deriving DecidableEq, Repr

/-- The lowest element index that raised each of NV, DZ, OF, UF, NX (R91, R92). -/
structure Flags where
  nv : Option Nat := none
  dz : Option Nat := none
  of : Option Nat := none
  uf : Option Nat := none
  nx : Option Nat := none
  deriving DecidableEq, Repr

/-- A cause of R219: code, GEVAL, GEVAL2, and for the order of R221 the element or tile index, the operand, and the REP step of a frame
that no method takes (R310). -/
structure Cause where
  code : Nat
  val : Word
  val2 : Word
  index : Nat := 0
  operand : Nat := 0
  step : Nat := 0
  deriving DecidableEq, Repr

/-- An entry of the broadcast queue (R193): the instruction with its captures, producers, gate and staging mark (R231, R238). `ord` is
the ISN of its first commit, its place in gang order (R100), which a re-issue keeps. `old` and `oldTags` hold bytes (by field key) and
tags (by frame) as they stood before the entry wrote them, where it may read them again (R104, R105); an uncorrectable byte is 256, an
uncorrectable tag 2^64. `kept` lists the frames whose tag upkeep the entry has done (R301). `later` lists the field bytes that a later
entry has written since: the entry, performed again, writes them no more (R105, R112). -/
structure Entry where
  seq : Nat
  ord : Nat
  instr : Instr
  regs : Map Word
  cap : Capture
  producers : Map Nat
  gate : Option Nat
  staged : Bool
  handler : Bool
  flags : Flags
  start : Nat
  bounds : Map Nat
  written : Map Nat
  skipped : Bool
  delivered : Option Word
  poison : List Nat
  old : Map Nat := []
  oldTags : Map Nat := []
  kept : List Nat := []
  later : List Nat := []
  deriving DecidableEq, Repr

/-- A bank's resume word (R243); `valid` is V. -/
structure Resume where
  valid : Bool
  pos : Nat
  step : Nat
  next : Nat
  deriving DecidableEq, Repr

/-- The buffers of R236 through which a pull goes: at the requesting bank without a slot yet, the requester's send queue, the n-th hop to the
owner, the owner's pull table; and as a response the owner's response queue, the n-th hop back, and the requester's response staging. -/
inductive PullPlace where
  | waiting | sendQueue | request (n : Nat) | table | responseQueue | response (n : Nat) | staging
  deriving DecidableEq, Repr

/-- The buffers of R236 through which a visibility token goes: at its sender without a slot yet, the n-th hop, the bank's token queue. -/
inductive TokenPlace where
  | waiting | hop (n : Nat) | queue
  deriving DecidableEq, Repr

/-- A visibility token of an O = 1 instruction (R128, R236): for a unit of an entry, to the bank that performs it, from the one that
performed the unit before. -/
structure Token where
  bank : Nat
  source : Nat
  seq : Nat
  unit : Nat
  place : TokenPlace
  deriving DecidableEq, Repr

/-- A pull awaited or in flight (R232): `group` is the 256-byte group of the owner that it reads, `array` marks an index array, `place` the
buffer that holds it. -/
structure Pull where
  requester : Nat
  owner : Nat
  seq : Nat
  producer : Option Nat
  chain : Bool
  operand : Nat
  array : Bool
  index : Nat
  group : Nat
  addr : Nat
  len : Nat
  place : PullPlace
  bytes : List Byte
  bad : List Nat
  tag : Option Word
  tagBad : Bool
  deriving DecidableEq, Repr

/-- A write that an element computes: F-address, the bits of the byte it writes, and their value (staging store, R239). -/
structure Wr where
  addr : Nat
  mask : Nat
  val : Nat
  deriving DecidableEq, Repr

/-- A bank's progress through the broadcast queue (R230). `headers` says that it has done phase 1 of a VSPADD or VSPMUL (R286). -/
structure Bank where
  next : Nat := 0
  begun : Bool := false
  ready : Bool := false
  position : Nat := 0
  got : List (Nat × Byte) := []
  gotBad : List Nat := []
  tagsGot : Map Word := []
  tagsBad : List Nat := []
  stagedWrites : List Wr := []
  stagedTags : List (Nat × Word) := []
  headers : Bool := false
  cause : Option Cause := none
  deriving DecidableEq, Repr

/-- A committed copy with its captures (R345): kind 0 COPY, 1 COPYND, 2 GATHER, 3 SCATTER, its encoding and shape block, its number in
the gang's order of commits, and the ISN that follows it. Its progress: every element below `position` has landed, and those in `landed`
above it; `sent` holds elements that are written and whose frame's end still waits (R138), `stops` the elements at which it has
stopped (R373), `touched` the destination frames that it has begun to write. `saved` and `savedTags` hold source bytes (by field key or
physical address) and source tags (by frame) that the copy itself has overwritten, as they stood when it started (R346); an
uncorrectable byte is 256, an uncorrectable tag 2^64. `posted` lists the destination frames whose tag and signal are done, `staled` the
frames already marked STALE, `zeroed` the destination frames that received zeros for an uncorrectable word (R356). -/
structure Copy where
  kind : Nat
  dir : Nat
  sig : Bool
  esz : Nat
  dst : Nat
  src : Nat
  third : Nat
  sigAddr : Nat
  count : Nat
  ecount : Nat
  side : Nat
  dims : List (Int × Nat)
  pp : Bool
  isn : Nat
  num : Nat
  handler : Bool
  code : Word
  block : List Word
  started : Bool
  position : Nat
  landed : List Nat
  sent : List Nat
  stops : List Nat
  touched : List Nat
  saved : Map Nat
  savedTags : Map Nat
  posted : List Nat
  staled : List Nat
  zeroed : List Nat
  deriving DecidableEq, Repr

/-- A channel (R341, R343): queued copies, ST, the error bits NP, PM, FR, UE, NK, GA, SG, the copy-fault cause of a stopped channel,
and whether that cause has been taken (R357). -/
structure Channel where
  queue : List Copy := []
  stopped : Bool := false
  errors : BitVec 7 := 0
  fault : Option Cause := none
  taken : Bool := false
  deriving DecidableEq, Repr

/-- A command at an engine (R207): its words, whether it has started, a result that waits for its completion step, and the ranks
whose peer has refused a write of it (R419). -/
structure Command where
  words : List Word
  stage : Nat
  result : Word
  doneOk : Bool
  nak : List Nat
  deriving DecidableEq, Repr

/-- An engine port (R207 to R210). -/
structure Port where
  openWords : List Word := []
  commands : List Command := []
  results : List Word := []
  err : Bool := false
  deriving DecidableEq, Repr

/-- A walk register (R362). -/
structure Walk where
  base : Word := 0
  pattern : Word := 0
  position : Word := 0
  deriving DecidableEq, Repr

/-- A window descriptor (R55). -/
structure Window where
  base : Nat := 0
  size : Nat := 0
  first : Nat := 0
  count : Nat := 0
  gran : Nat := 0
  ro : Bool := false
  fa : Bool := false
  valid : Bool := false
  loc : Nat := 0
  deriving DecidableEq, Repr

/-- A method table entry as its four words (R303). -/
structure Method where
  w0 : Word := 0
  w1 : Word := 0
  w2 : Word := 0
  w3 : Word := 0
  deriving DecidableEq, Repr

/-- An LDG or AMO that has been performed and whose response is outstanding (R183, R188): the register it is for and the value;
`hold` if it is an acquire or an AMO to peer memory, which holds every later instruction. -/
structure Load where
  reg : Reg
  value : Word
  hold : Bool
  deriving DecidableEq, Repr

/-- Where a gang stands in its life (R34, R40, R222, R223, R226). -/
inductive Phase where
  | none | loading | running | halted | pageWait | svkStop | failed | retired
  deriving DecidableEq, Repr

/-- What a launch record gives a gang (R424). -/
structure Launch where
  queue : Nat := 0
  index : Nat := 0
  prio : Nat := 0
  pv : Bool := false
  postSet : Bool := false
  paddr : Word := 0
  pval : Word := 0
  cohort : Nat := 0
  deriving DecidableEq, Repr

/-- The performance counters of one bank (R163). -/
structure Perf where
  gated : Word := 0
  confl : Word := 0
  merged : Word := 0
  deriving DecidableEq, Repr

/-- A gang: sequencer context, banks, channels, ports and tables (R25 to R51). `linkBad` lists the banks whose next pull response meets a
second parity error on the cluster interconnect (R444); `storeBad` the uncorrectable words of the block store of each bank, as bank × 8,192 +
word (R287, R444). `retired` counts the committed instructions: RETIRED shows it up to 2^64 - 1 (R163). `unawaited` lists the barriers at
which the gang has arrived without a WAITB since (R44). `svkHeld` says that the gang was stopped for `svk` when it halted. -/
structure Gang where
  id : Nat := 0
  phase : Phase := .none
  launch : Launch := {}
  sz : Nat := 0
  lead : Nat := 0
  slot : Nat := 0
  followers : List (Nat × Nat) := []
  clusters : List Nat := []
  cohIx : Nat := 0
  cohN : Nat := 1
  pasid : Nat := 0
  pc : Word := 0
  regs : Map Word := []
  retired : Nat := 0
  pl : Bool := false
  fv : Bool := false
  db : Bool := false
  ss : Bool := false
  stepping : Bool := false
  gcause : Word := 0
  gepc : Word := 0
  geval : Word := 0
  geval2 : Word := 0
  gqpos : Word := 0
  gtvec : Word := 0
  gscratch : Word := 0
  ecount : Word := 0
  estart : Word := 0
  emask : Word := 0
  ectrl : Word := 0
  tcount : Word := 0
  eflags : Word := 0
  fxnv : Word := BitVec.allOnes 64
  fxdz : Word := BitVec.allOnes 64
  fxof : Word := BitVec.allOnes 64
  fxuf : Word := BitVec.allOnes 64
  fxnx : Word := BitVec.allOnes 64
  convres : Word := 0
  blktab : Word := 0
  ev : Bool := false
  nextSeq : Nat := 0
  bq : List Entry := []
  banks : Map Bank := []
  pulls : List Pull := []
  tokens : List Token := []
  linkBad : List Nat := []
  frame : List Entry := []
  resume : Map Resume := []
  rq : List (Option Word) := []
  rqAside : Nat := 0
  ports : Map Port := []
  channels : Map Channel := []
  walks : Map Walk := []
  windows : Map Window := []
  methods : Map Method := []
  store : List Host.Cell := []
  lmem : List Host.Cell := []
  lmemBad : List Nat := []
  storeBad : List Nat := []
  regBad : List Nat := []
  loads : List Load := []
  stgNak : Option (Nat × Word) := none
  arrivals : Map Nat := []
  arriving : Option (Nat × Bool) := none
  unawaited : List Nat := []
  revoked : Option Nat := none
  fpDue : Option Word := none
  held : Option Cause := none
  haltOrder : Nat := 0
  savedCause : Option (Cause × Bool × Word) := none
  haltFrame : List Entry := []
  haltResume : Map Resume := []
  evicted : List (Nat × List Host.Cell × Map Word) := []
  context : List Host.Cell := []
  preempt : Bool := false
  svkHeld : Bool := false
  gated : Word := 0
  confl : Word := 0
  merged : Word := 0
  perf : Map Perf := []
  heldStart : Option Word := none
  turnMark : Nat := 0
  deriving DecidableEq, Repr

/-- Power states of the package (R437, R439, R447); `failed` after a failed start, until the next reset. -/
inductive Power where
  | off | starting | failed | minimal | ready
  deriving DecidableEq, Repr

/-- The firmware image in flash (R437, R440), `none` when a write was cut by a loss of power; the count and the reason of failed starts
(R438, R439); the running firmware's measurement, version and key (R437); the incoming image of a hand-over (R441); the reports sent
(R442) and the last answer to a recovery push (R440). -/
structure Boot where
  flash : Option (List Byte) := some []
  fails : Nat := 0
  reason : Nat := 0
  measurement : List Byte := []
  version : Word := 0
  keyHeld : Bool := false
  pendingImage : Option (List Byte) := none
  reports : List (List Byte) := []
  answer : Option Nat := none
  deriving DecidableEq, Repr

/-- A stack's STKSTAT (R378). -/
structure StackStat where
  lost : Bool := false
  why : Nat := 0
  errc : Nat := 0
  recon : Nat := 0
  deriving DecidableEq, Repr

/-- PARST and BOUNDARY (R379). -/
structure Parity where
  state : Nat := 0
  lost : Nat := 0
  lost2 : Nat := 0
  errlim : Nat := 4096
  boundary : Nat := 0
  tenPlusOne : Bool := false
  deriving DecidableEq, Repr

/-- A work queue's descriptor with its pending bit (R421, R422). -/
structure Queue where
  en : Bool := false
  lgn : Nat := 0
  base : Nat := 0
  qpasid : Nat := 0
  tail : Nat := 0
  head : Nat := 0
  err : Nat := 0
  errix : Nat := 0
  st : Nat := 0
  age : Nat := 0
  pending : Bool := false
  deriving DecidableEq, Repr

/-- A reservation for an aged queue (R428, R429): its queue and priority, the clusters of every member in order, and whether it has
pre-empted for them (R431). -/
structure Reservation where
  queue : Nat
  prio : Nat
  clusters : List Nat
  timedOut : Bool
  deriving DecidableEq, Repr

/-- A barrier (R126, R213): member count, owning PASID, phase, the gangs counted in it, and the gang whose BARCFG set it. -/
structure Barrier where
  count : Nat := 0
  owner : Nat := 0
  phase : Nat := 0
  arrived : List Nat := []
  cfg : Nat := 0
  deriving DecidableEq, Repr

/-- A cached translation (R361): PASID, virtual page start, page size in bytes, leaf entry, generation. -/
structure Fill where
  pasid : Nat
  va : Nat
  size : Nat
  leaf : Word
  deriving DecidableEq, Repr

/-- An event frame to the host (R432). -/
structure EventFrame where
  type : Nat
  die : Nat
  cycle : Nat
  payload : List Word
  deriving DecidableEq, Repr

/-- A hotness record (R366). -/
structure Hot where
  uni : Nat := 0
  str : Nat := 0
  idx : Nat := 0
  mv : Nat := 0
  pin : Bool := false
  deriving DecidableEq, Repr

/-- A write to peer or host memory that its target has not acknowledged (R129, R185): the gang, the access it belongs to
(0 STG, 1 + c a copy on channel c, 16 + p + 16 q a collective command on port p writing rank q's landing area or counter), the place of
the access in the gang's order (of a copy, its number), the addresses, the bytes, and the peer window's generation (R132). `add` marks a
counter add, an AMO that adds the bytes' value (R417). -/
structure Unacked where
  gang : Nat
  origin : Nat
  seq : Nat
  va : Nat
  pa : Nat
  bytes : List Byte
  gen : Nat := 0
  add : Bool := false
  deriving DecidableEq, Repr

/-- A direct launch port (R435). -/
structure DirectPort where
  record : List Word := List.replicate 8 0
  placement : Word := 0
  status : Word := 0
  deriving DecidableEq, Repr

/-- A queue-frame record that QSAVE has stored (R227): its 512 words in memory, and what the record carries. -/
structure SavedFrame where
  image : List Word
  entries : List Entry
  resume : Map Resume
  cohN : Nat
  cohIx : Nat
  ncl : Nat
  deriving DecidableEq, Repr

/-- The whole machine. `g` is the gang whose sequencer acts next. `mailbox` holds the nonzero bytes of the recovery mailbox by their offset
(R434), `engineBad` the engines, by number, whose buffer gives an uncorrectable word at their next read (R444). `replaced` lists words of
local HBM that carried an error when a full-stripe write replaced them, until that write is complete (R373; assumption log 15). -/
structure State where
  power : Power := .off
  boot : Boot := {}
  mem : List Host.Cell := []
  peerMem : List Host.Cell := []
  memBad : List Nat := []
  parityBad : List Nat := []
  replaced : List Nat := []
  hbmTags : Map Word := []
  field : List Host.Cell := []
  fieldBad : List Nat := []
  ftags : Map Word := []
  ftagBad : List Nat := []
  parity : Parity := {}
  hbmStat : Map StackStat := []
  remap : Map Nat := []
  remapMirror : Map Nat := []
  remapBad : List Nat := []
  mirrorBad : List Nat := []
  domains : Map (BitVec 16) := []
  domains2 : Map (BitVec 16) := []
  pcpwr : Map Word := []
  channelPower : Map Nat := []
  pasidDomain : Map (BitVec 16) := []
  roots : Map Nat := []
  hubs : Map (List Fill) := []
  generation : Nat := 0
  shootDowns : List (Nat × Nat × Nat) := []
  offline : List Nat := []
  barriers : Map Barrier := []
  queues : Map Queue := []
  startPtr : Map Nat := []
  reservations : Map Reservation := []
  frozen : Bool := false
  heartbeats : Nat := 0
  mailbox : Option (List Host.Cell) := none
  directPorts : Map DirectPort := []
  eventFrames : List EventFrame := []
  peerWindows : Map Method := []
  grants : Map Method := []
  unacked : List Unacked := []
  portsDown : List Nat := []
  connections : List DeliveryMode := []
  homeData : Option Word := none
  engineBad : List Nat := []
  cycles : Map Nat := []
  clockStep : Nat := 0
  hotness : Map Hot := []
  haltCounter : Nat := 0
  nextGang : Nat := 1
  savedFrames : List SavedFrame := []
  g : Gang := {}
  others : List Gang := []
  lockstep : Bool := true
  fresh : Nat := 0
  agenda : List Instr := []
  deriving DecidableEq, Repr

/-- A start in which every test passes and every stack trains (R437). -/
def cleanStart : StartInputs := ⟨true, true, [], false, true⟩

/-- The machine right after reset: no power sequence has run, and the start sequence is the next step (R437). -/
def State.reset : State := { agenda := [.powerOnReset cleanStart] }

end Sys2Proof.Machine
end

