-- ==== Sys2Proof/Machine/Sparse.lean ====
section
/-! DEFINITION. Sparse maps and byte memories in canonical form: reading, writing and little-endian access (R4). -/
namespace Sys2Proof.Machine

variable {α : Type}

/-- The value at key `k`, `d` where no entry lists it. -/
def mget (d : α) : Map α → Nat → α
  | [], _ => d
  | (k', v) :: r, k => if k' = k then v else mget d r k

/-- The entry at key `k`, if one is listed. -/
def mfind : Map α → Nat → Option α
  | [], _ => none
  | (k', v) :: r, k => if k' = k then some v else mfind r k

/-- List `v` at `k`, keeping the keys in order. -/
def mput : Map α → Nat → α → Map α
  | [], k, v => [(k, v)]
  | (k', v') :: r, k, v =>
    if k < k' then (k, v) :: (k', v') :: r
    else if k' = k then (k, v) :: r
    else (k', v') :: mput r k v

/-- No entry at `k` any more. -/
def mdel (m : Map α) (k : Nat) : Map α := m.filter fun p => p.1 != k

/-- Set key `k` to `v`; the default value is never listed. -/
def mset [DecidableEq α] (d : α) (m : Map α) (k : Nat) (v : α) : Map α := if v = d then mdel m k else mput m k v

/-- Keys strictly rising from above `lo`, and no default listed. -/
def mapWfFrom [DecidableEq α] (d : α) : Option Nat → Map α → Bool
  | _, [] => true
  | lo, (k, v) :: r => (match lo with | some l => decide (l < k) | none => true) && decide (v ≠ d) && mapWfFrom d (some k) r

/-- The canonical form of a sparse map. -/
def mapWf [DecidableEq α] (d : α) (m : Map α) : Bool := mapWfFrom d none m

/-- What an unlisted byte of any memory reads as: zero, by R30 for the field and R35 for sequencer-local memory; a choice for
HBM and host memory (assumption log 3). -/
def blank : Byte := 0

/-- One byte of a memory. -/
def rdByte (m : List Host.Cell) (a : Nat) : Byte := mget blank m a

/-- Store one byte. -/
def wrByte (m : List Host.Cell) (a : Nat) (b : Byte) : List Host.Cell := mset blank m a b

/-- `n` bytes from address `a`. -/
def rdBytes (m : List Host.Cell) (a : Nat) : Nat → List Byte
  | 0 => []
  | n + 1 => rdByte m a :: rdBytes m (a + 1) n

/-- Store bytes from address `a` upward. -/
def wrBytes (m : List Host.Cell) (a : Nat) : List Byte → List Host.Cell
  | [] => m
  | b :: bs => wrBytes (wrByte m a b) (a + 1) bs

/-- The little-endian value of `n` bytes (R4). -/
def rdNat (m : List Host.Cell) (a n : Nat) : Nat := leNat (rdBytes m a n)

/-- Store the `n` low bytes of `v`, little-endian (R4). -/
def wrNat (m : List Host.Cell) (a n v : Nat) : List Host.Cell := wrBytes m a (leBytes n v)

/-- The canonical form of a byte memory. -/
def Memory.wf (m : List Host.Cell) : Bool := mapWf blank m

/-- Remove every key in [lo, hi). -/
def mclear (m : Map α) (lo hi : Nat) : Map α := m.filter fun p => p.1 < lo || hi ≤ p.1

/-- Apply `f` to 0, 1, ... `n - 1` in that order. -/
def foldUp {β : Type} (n : Nat) (f : Nat → β → β) (b : β) : β :=
  match n with
  | 0 => b
  | k + 1 => f k (foldUp k f b)

/-- The first of 0 ... n - 1 that satisfies `p`, trying upward from `i`. -/
def findUp (p : Nat → Bool) : Nat → Nat → Option Nat
  | _, 0 => none
  | i, n + 1 => if p i then some i else findUp p (i + 1) n

/-- Zero-extend a number to a register value. -/
abbrev w64 (n : Nat) : Word := BitVec.ofNat 64 n

/-- sext(x, n) of spec/00 as a register value. -/
def sextNat (x n : Nat) : Word :=
  if n = 0 then 0 else if x % 2 ^ n < 2 ^ (n - 1) then w64 (x % 2 ^ n) else w64 (x % 2 ^ n + 2 ^ 64 - 2 ^ n)

/-- The signed value of `n` low bits. -/
def signedNat (x n : Nat) : Int := if x % 2 ^ n < 2 ^ (n - 1) then (x % 2 ^ n : Int) else (x % 2 ^ n : Int) - 2 ^ n

/-- Low `w` bits of an integer (two's complement). -/
def lowBits (i : Int) (w : Nat) : Nat := (i % (2 ^ w : Nat)).toNat

/-- Replace bits [lo + w - 1 : lo] of a word. -/
def setBits (x : Word) (lo w v : Nat) : Word :=
  w64 (x.toNat - bitsOf x.toNat lo w * 2 ^ lo + v % 2 ^ w * 2 ^ lo)

/-- One bit of a word as a Bool. -/
def bit (x : Word) (i : Nat) : Bool := x.toNat / 2 ^ i % 2 == 1

/-- A Bool as a number. -/
def b2n (b : Bool) : Nat := if b then 1 else 0

end Sys2Proof.Machine
end

