-- ==== Sys2Proof/Machine/Numbers.lean ====
section
/-! DEFINITION. Number formats and arithmetic rules (spec/04): exact values, the one rounding step, delivery into a format with
its flags, and the fixed summation trees. -/
namespace Sys2Proof.Machine

/-- An exact value (R8): NaN, an infinity, or (-1)^neg × (m + δ) × 2^e with δ = 0, or 0 < δ < 1 when `sticky`. -/
inductive Num where
  | nan
  | inf (neg : Bool)
  | fin (neg : Bool) (m : Nat) (e : Int) (sticky : Bool)
  deriving DecidableEq, Repr

/-- Rounding modes (R84). -/
inductive Mode where
  | rne | rtz | rup | rdn | rna | sr
  deriving DecidableEq, Repr

/-- Exception flags in EFLAGS order: NV, DZ, OF, UF, NX (R91). -/
abbrev Fl := BitVec 5
def flNV : Fl := 1
def flDZ : Fl := 2
def flOF : Fl := 4
def flUF : Fl := 8
def flNX : Fl := 16

/-- How a floating format is laid out (R78): significand bits, bias, largest finite code, sign bit present, infinities. -/
structure FloatFmt where
  bits : Nat
  mant : Nat
  bias : Nat
  maxCode : Nat
  signed : Bool
  hasInf : Bool
  nanCode : Option Nat
  deriving DecidableEq, Repr

/-- The table of R78 by EF code. -/
def floatFmt (ef : Nat) : Option FloatFmt :=
  match ef with
  | 12 => some ⟨16, 10, 15, 0x7BFF, true, true, some 0x7E00⟩
  | 13 => some ⟨16, 7, 127, 0x7F7F, true, true, some 0x7FC0⟩
  | 14 => some ⟨32, 23, 127, 0x7F7FFFFF, true, true, some 0x7FC00000⟩
  | 15 => some ⟨8, 3, 7, 0x7E, true, false, some 0x7F⟩
  | 16 => some ⟨8, 2, 15, 0x7B, true, true, some 0x7E⟩
  | 17 => some ⟨4, 1, 1, 0x7, true, false, none⟩
  | 18 => some ⟨8, 5, 4, 0xFE, false, false, some 0xFF⟩
  | _ => none

/-- Whether an integer format is signed (R74). -/
def intSigned (ef : Nat) : Bool := efSigned ef

/-- The value of a signed integer as an exact number. -/
def numOfInt (i : Int) : Num := .fin (i < 0) i.natAbs 0 false

/-- The integer an integer code stands for (R75). -/
def intOf (ef code : Nat) : Int := if intSigned ef then signedNat code (efBits ef) else ((code % 2 ^ efBits ef : Nat) : Int)

/-- The value of a code of format EF (R75, R77, R79). -/
def valueOf (ef code : Nat) : Num :=
  if efInt ef then numOfInt (intOf ef code)
  else if ef = 10 ∨ ef = 11 then
    let n := signedNat code (efBits ef)
    let k := 2 * n + 1
    .fin (k < 0) k.natAbs (-1) false
  else
    match floatFmt ef with
    | none => .nan
    | some f =>
      let neg := f.signed && code / 2 ^ (f.bits - 1) % 2 == 1
      let mag := if f.signed then code % 2 ^ (f.bits - 1) else code % 2 ^ f.bits
      if mag > f.maxCode then
        if f.hasInf && mag == f.maxCode + 1 then .inf neg else .nan
      else
        let e := mag / 2 ^ f.mant
        let m := mag % 2 ^ f.mant
        if e = 0 then .fin neg m (1 - (f.bias : Int) - f.mant) false
        else .fin neg (2 ^ f.mant + m) ((e : Int) - f.bias - f.mant) false

/-- The draw d of R87. -/
def srDraw (seed state i : Nat) : Nat :=
  let M := 2 ^ 64
  let z := (((seed * 2 ^ 16 + state) * 0x9E3779B97F4A7C15) + i) % M
  let z := (Nat.xor z (z / 2 ^ 30) * 0xBF58476D1CE4E5B9) % M
  let z := (Nat.xor z (z / 2 ^ 27) * 0x94D049BB133111EB) % M
  let z := Nat.xor z (z / 2 ^ 31)
  z / 2 ^ 32

/-- Round the magnitude (m + δ) × 2^e to a multiple of 2^q: the multiple, and whether that is inexact (R84, R87).
`odd0` says whether an even result is wanted on a tie of RNE with the lower neighbour odd. -/
def roundMag (mode : Mode) (neg : Bool) (m : Nat) (e : Int) (st : Bool) (q : Int) (d : Nat) : Nat × Bool :=
  if q ≤ e then
    let n := m * 2 ^ (e - q).toNat
    if st then (n, true) else (n, false)
  else
    let sh := (q - e).toNat
    let n := m / 2 ^ sh
    let r := m % 2 ^ sh
    if r = 0 ∧ st = false then (n, false) else
    let half := 2 ^ (sh - 1)
    let above := decide (half < r) || (r == half && st)
    let tie := r == half && !st
    let up := match mode with
      | .rne => above || (tie && n % 2 == 1)
      | .rna => above || tie
      | .rtz => false
      | .rup => !neg
      | .rdn => neg
      | .sr => if st then decide (d * 2 ^ sh ≤ r * 2 ^ 32) else decide (d * 2 ^ sh < r * 2 ^ 32)
    (if up then n + 1 else n, true)

/-- Position of the leading bit of a nonzero magnitude: floor of its base-2 logarithm. -/
def topExp (m : Nat) (e : Int) : Int := e + (Nat.log2 m : Int)

/-- Compare two magnitudes m × 2^e exactly. -/
def magLt (m1 : Nat) (e1 : Int) (m2 : Nat) (e2 : Int) : Bool :=
  if e1 ≤ e2 then decide (m1 < m2 * 2 ^ (e2 - e1).toNat) else decide (m1 * 2 ^ (e1 - e2).toNat < m2)

/-- Put the sign on a code of a signed format. -/
def withSign (f : FloatFmt) (neg : Bool) (mag : Nat) : Nat := if neg && f.signed then mag + 2 ^ (f.bits - 1) else mag

/-- The canonical NaN of a format (R78), 0 where it has none. -/
def nanOf (f : FloatFmt) : Nat := f.nanCode.getD 0

/-- The overflow column of R90. -/
def overflowCode (f : FloatFmt) (mode : Mode) (sat neg : Bool) : Nat :=
  if sat then withSign f neg f.maxCode
  else if f.hasInf then
    let toInf := match mode with
      | .rne => true | .rna => true | .sr => true
      | .rup => !neg
      | .rdn => neg
      | .rtz => false
    withSign f neg (if toInf then f.maxCode + 1 else f.maxCode)
  else match f.nanCode with
    | some c => c
    | none => withSign f neg f.maxCode

/-- Deliver a number into a floating format (R84, R89, R90). An infinity that SAT = 1 turns into the largest finite value raises no NX and
no OF, and a negative infinity for E3M5, which has no negative value, gives its NaN code with NV, for SAT = 1 too: R90 and R252 name
neither (assumption log 61). -/
def deliverFloat (f : FloatFmt) (mode : Mode) (sat : Bool) (d : Nat) (x : Num) : Nat × Fl :=
  match x with
  | .nan => match f.nanCode with
    | some c => (c, 0)
    | none => (0, flNV)
  | .inf neg =>
    if f.hasInf then (withSign f neg (if sat then f.maxCode else f.maxCode + 1), 0)
    else match f.nanCode with
      | some c => if sat && !(neg && !f.signed) then (withSign f neg f.maxCode, flNV) else (c, flNV)
      | none => (withSign f neg f.maxCode, flNV)
  | .fin neg m e st =>
    if m = 0 ∧ st = false then (withSign f neg 0, 0)
    else if neg ∧ f.signed = false then (nanOf f, flNV)
    else
      let emin : Int := 1 - (f.bias : Int)
      let top := topExp m e
      let q := (if top < emin then emin else top) - f.mant
      let (n, inexact) := roundMag mode neg m e st q d
      let qmax : Int := (f.maxCode / 2 ^ f.mant : Nat) - (f.bias : Int) - f.mant
      let mmax := 2 ^ f.mant + f.maxCode % 2 ^ f.mant
      if magLt mmax qmax n q then (overflowCode f mode sat neg, flOF ||| flNX)
      else
        let (n2, q2) := if n = 2 ^ (f.mant + 1) then (2 ^ f.mant, q + 1) else (n, q)
        let code := if n2 < 2 ^ f.mant then n2 else (q2 + f.mant + f.bias).toNat * 2 ^ f.mant + (n2 - 2 ^ f.mant)
        let qu := top - f.mant
        let (nu, _) := roundMag mode neg m e st qu d
        let tiny := magLt nu qu 1 emin
        (withSign f neg code, (if inexact then flNX else 0) ||| (if inexact && tiny && nu != 0 then flUF else 0))

/-- Deliver a number into a half-step grid (R77, R85, R90): code n stands for n + 1/2. -/
def deliverHalf (w : Nat) (mode : Mode) (d : Nat) (x : Num) : Nat × Fl :=
  let hi : Int := 2 ^ (w - 1) - 1
  let lo : Int := -(2 ^ (w - 1))
  match x with
  | .nan => (0, flNV)
  | .inf neg => (lowBits (if neg then lo else hi) w, flNV)
  | .fin neg m e _ =>
    -- x = s × 2^(-k) with k ≥ 1; t = x - 1/2 = (s - 2^(k-1)) / 2^k
    let k : Nat := if e < 0 then e.natAbs else 1
    let mag : Nat := if e < 0 then m else m * 2 ^ (e.toNat + 1)
    let s : Int := if neg then -(mag : Int) else mag
    let den : Nat := 2 ^ k
    let num : Int := s - (2 ^ (k - 1) : Nat)
    let n : Int := num / den
    let r : Nat := (num % den).toNat
    if r = 0 then (if n < lo then (lowBits lo w, flOF ||| flNX) else if hi < n then (lowBits hi w, flOF ||| flNX) else (lowBits n w, 0))
    else
      let half := 2 ^ (k - 1)
      let middle := n == -1
      let positive := !neg
      let up := match mode with
        | .rne => decide (half < r) || (r == half && n % 2 != 0)
        | .rna => decide (half < r) || (r == half && positive)
        | .rtz => if middle then positive else !positive
        | .rup => true
        | .rdn => false
        | .sr => if middle || positive then decide (d * den < r * 2 ^ 32) else !decide (d * den < (den - r) * 2 ^ 32)
      let c := if up then n + 1 else n
      if c < lo then (lowBits lo w, flOF ||| flNX) else if hi < c then (lowBits hi w, flOF ||| flNX) else (lowBits c w, flNX)

/-- The range of an integer format (R75). -/
def intMin (ef : Nat) : Int := if intSigned ef then -(2 ^ (efBits ef - 1)) else 0
def intMax (ef : Nat) : Int := if intSigned ef then 2 ^ (efBits ef - 1) - 1 else 2 ^ efBits ef - 1

/-- sat(x, F) of spec/00 with the flags of a clamp, or the wrap (R90, R252). -/
def deliverInt (ef : Nat) (sat : Bool) (i : Int) (inexact : Bool) : Nat × Fl :=
  let w := efBits ef
  let nx : Fl := if inexact then flNX else 0
  if intMin ef ≤ i ∧ i ≤ intMax ef then (lowBits i w, nx)
  else if sat then (lowBits (if i < intMin ef then intMin ef else intMax ef) w, flOF ||| flNX)
  else (lowBits i w, nx)

/-- deliver(r) of R252 into format EF, under mode, SAT and the draw d. -/
def deliver (ef : Nat) (mode : Mode) (sat : Bool) (d : Nat) (x : Num) : Nat × Fl :=
  if efInt ef then
    match x with
    | .nan => (0, flNV)
    | .inf neg => (lowBits (if neg then intMin ef else intMax ef) (efBits ef), flNV)
    | .fin neg m e st =>
      let (n, inexact) := roundMag mode neg m e st 0 d
      deliverInt ef sat (if neg then -(n : Int) else n) inexact
  else if ef = 10 ∨ ef = 11 then deliverHalf (efBits ef) mode d x
  else match floatFmt ef with
    | some f => deliverFloat f mode sat d x
    | none => (0, 0)

/-- Negation of a value; NaN stays NaN. -/
def negNum : Num → Num
  | .nan => .nan
  | .inf n => .inf (!n)
  | .fin n m e s => .fin (!n) m e s

def isNan : Num → Bool
  | .nan => true
  | _ => false

/-- A finite value that is zero. -/
def isZero : Num → Bool
  | .fin _ m _ s => m == 0 && !s
  | _ => false

def isNeg : Num → Bool
  | .nan => false
  | .inf n => n
  | .fin n _ _ _ => n

/-- The exact sum, with the sign rule of zero sums (R89, R258) and NV for infinities of opposite signs. -/
def addNum (mode : Mode) (a b : Num) : Num × Fl :=
  match a, b with
  | .nan, _ => (.nan, 0)
  | _, .nan => (.nan, 0)
  | .inf x, .inf y => if x = y then (.inf x, 0) else (.nan, flNV)
  | .inf x, _ => (.inf x, 0)
  | _, .inf y => (.inf y, 0)
  | .fin na ma ea _, .fin nb mb eb _ =>
    let e := if ea ≤ eb then ea else eb
    let va : Int := (ma * 2 ^ (ea - e).toNat : Nat)
    let vb : Int := (mb * 2 ^ (eb - e).toNat : Nat)
    let s : Int := (if na then -va else va) + (if nb then -vb else vb)
    if s = 0 then
      (.fin (if ma = 0 ∧ mb = 0 ∧ na = nb then na else mode == .rdn) 0 0 false, 0)
    else (.fin (s < 0) s.natAbs e false, 0)

/-- The exact product; 0 × ∞ is invalid (R89). -/
def mulNum (a b : Num) : Num × Fl :=
  match a, b with
  | .nan, _ => (.nan, 0)
  | _, .nan => (.nan, 0)
  | .inf x, y => if isZero y then (.nan, flNV) else (.inf (x != isNeg y), 0)
  | y, .inf x => if isZero y then (.nan, flNV) else (.inf (x != isNeg y), 0)
  | .fin na ma ea _, .fin nb mb eb _ => (.fin (na != nb) (ma * mb) (ea + eb) false, 0)

/-- a × b + c exactly; 0 × ∞ raises NV even when c is NaN (R258). -/
def fmaNum (mode : Mode) (a b c : Num) : Num × Fl :=
  let (p, f1) := mulNum a b
  let (r, f2) := addNum mode p c
  (r, f1 ||| f2)

/-- The quotient to more bits than any rounding looks at, the remainder in `sticky`; division by zero (R89). -/
def divNum (a b : Num) : Num × Fl :=
  match a, b with
  | .nan, _ => (.nan, 0)
  | _, .nan => (.nan, 0)
  | .inf _, .inf _ => (.nan, flNV)
  | .inf x, y => (.inf (x != isNeg y), 0)
  | y, .inf x => (.fin (isNeg y != x) 0 0 false, 0)
  | .fin na ma ea _, .fin nb mb eb _ =>
    if mb = 0 then (if ma = 0 then (.nan, flNV) else (.inf (na != nb), flDZ))
    else if ma = 0 then (.fin (na != nb) 0 0 false, 0)
    else
      let k := 160 + Nat.log2 mb
      let q := ma * 2 ^ k / mb
      (.fin (na != nb) q (ea - eb - k) (ma * 2 ^ k % mb != 0), 0)

/-- Integer square root by digits: `fuel` binary digits of the root. -/
def isqrtStep : Nat → Nat → Nat → Nat
  | 0, _, r => r
  | k + 1, n, r => if (r + 2 ^ k) * (r + 2 ^ k) ≤ n then isqrtStep k n (r + 2 ^ k) else isqrtStep k n r

/-- floor of the square root. -/
def isqrt (n : Nat) : Nat := isqrtStep (Nat.log2 n / 2 + 1) n 0

/-- The square root to more bits than any rounding looks at (R89, R258). -/
def sqrtNum (a : Num) : Num × Fl :=
  match a with
  | .nan => (.nan, 0)
  | .inf false => (.inf false, 0)
  | .inf true => (.nan, flNV)
  | .fin n m e _ =>
    if m = 0 then (.fin n 0 0 false, 0)
    else if n then (.nan, flNV)
    else
      let e1 := if e % 2 = 0 then e else e - 1
      let m1 := (if e % 2 = 0 then m else 2 * m) * 2 ^ 320
      let r := isqrt m1
      (.fin false r (e1 / 2 - 160) (r * r != m1), 0)

/-- a < b as values, -0 = +0; neither is NaN (R262). -/
def ltNum (a b : Num) : Bool :=
  match a, b with
  | .inf x, .inf y => x && !y
  | .inf x, _ => x
  | _, .inf y => !y
  | .fin na ma ea _, .fin nb mb eb _ =>
    if ma = 0 then decide (0 < mb) && !nb
    else if mb = 0 then na
    else if na then (if nb then magLt mb eb ma ea else true)
    else if nb then false
    else magLt ma ea mb eb
  | _, _ => false

/-- a = b as values (R262). -/
def eqNum (a b : Num) : Bool := !isNan a && !isNan b && !ltNum a b && !ltNum b a

/-- min and max of R256: -0 is smaller than +0, one NaN is ignored. -/
def minNum (a b : Num) : Num :=
  if isNan a then b else if isNan b then a
  else if ltNum a b then a else if ltNum b a then b else if isNeg a then a else b
def maxNum (a b : Num) : Num :=
  if isNan a then b else if isNan b then a
  else if ltNum b a then a else if ltNum a b then b else if isNeg a then b else a

/-- tree(t, 0, n) of R96 over a nonempty list: the left part is the largest power of two below n. -/
def treeN {β : Type} (add : β → β → β) : Nat → List β → Option β
  | _, [] => none
  | _, [t] => some t
  | 0, t :: _ => some t
  | fuel + 1, ts =>
    let m := 2 ^ Nat.log2 (ts.length - 1)
    match treeN add fuel (ts.take m), treeN add fuel (ts.drop m) with
    | some x, some y => some (add x y)
    | _, _ => none

/-- The pairwise tree of R96; the depth of the recursion is at most the number of terms. -/
def tree {β : Type} (add : β → β → β) (ts : List β) : Option β := treeN add ts.length ts

/-- One addition of a summation in format EF: codes with their flags (R96). -/
def addCodes (ef : Nat) (mode : Mode) (sat : Bool) (d : Nat) (x y : Nat × Fl) : Nat × Fl :=
  let (s, f1) := addNum mode (valueOf ef x.1) (valueOf ef y.1)
  let (c, f2) := deliver ef mode sat d s
  (c, x.2 ||| y.2 ||| f1 ||| f2)

/-- A move of an encoding: a NaN of a floating format becomes the canonical NaN (R81). -/
def canonical (ef code : Nat) : Nat :=
  match floatFmt ef with
  | some f => if isNan (valueOf ef code) then f.nanCode.getD code else code
  | none => code

/-- The sum of codes in format EF by the tree; +0 or integer 0 with no term, and a lone NaN is canonical (R81, R96, R279). -/
def sumCodes (ef : Nat) (mode : Mode) (sat : Bool) (d : Nat) (ts : List Nat) : Nat × Fl :=
  (tree (addCodes ef mode sat d) (ts.map fun c => (canonical ef c, 0))).getD (0, 0)

/-- The ring-order fold of R417: left to right, one addition at a time. -/
def foldCodes (ef : Nat) (mode : Mode) (sat : Bool) (d : Nat) : List Nat → Nat × Fl
  | [] => (0, 0)
  | t :: ts => ts.foldl (fun acc x => addCodes ef mode sat d acc (x, 0)) (canonical ef t, 0)

/-- Encode a number into a format with a plain nearest rounding and no flags: used for identities (R279). -/
def encodeNum (ef : Nat) (x : Num) : Nat := (deliver ef .rne false 0 x).1

end Sys2Proof.Machine
end

