-- ==== Sys2Proof/Machine/Parity.lean ====
section
/-! DEFINITION. The stripe layouts, what a lost stack does to an access, and reading and writing physical memory
(R71, R72, R369 to R384). A byte of local HBM is held once, by physical address; the parity of a stripe is what R370 makes of the
stripe's data (assumption log 15). -/
namespace Sys2Proof.Machine

/-- The region of a physical address (R71). -/
def region (pa : Nat) : Nat := pa / 2 ^ 50 % 4

/-- The window number and offset of a peer address (spec/23). -/
def peerWindow (pa : Nat) : Nat := bitsOf pa 42 8
def peerOffset (pa : Nat) : Nat := pa % 2 ^ 42
/-- The descriptor of the peer window that an address lies in (R413). -/
def windowOfPeer (s : State) (pa : Nat) : Method := mget {} s.peerWindows (peerWindow pa)
/-- PEER, GEN, RBASE, RPASID and the length in bytes of a window or grant descriptor (R413). -/
def endpointOf (m : Method) : Nat := bitsOf m.w0.toNat 32 32
def genOf (m : Method) : Nat := bitsOf m.w0.toNat 16 16
def rbaseOf (m : Method) : Nat := bitsOf m.w1.toNat 0 48
def rpasidOf (m : Method) : Nat := bitsOf m.w2.toNat 0 20
def lengthOf (m : Method) : Nat := bitsOf m.w2.toNat 32 32 * 65536

/-- The byte of a peer's memory that an address in a peer window reaches: the peer, and its G-address under RPASID (R414). Peer memory is
kept by that name (assumption log 24). -/
def peerCell (s : State) (pa : Nat) : Nat :=
  let m := windowOfPeer s pa
  (endpointOf m * 2 ^ 20 + rpasidOf m) * 2 ^ 48 + (rbaseOf m + peerOffset pa) % 2 ^ 48

/-- Where a local HBM address lies (R369, R382): stripe, parity stack, data stack, stack-local address, pseudo-channel. -/
structure Place where
  stripe : Nat
  pstack : Nat
  dstack : Nat
  loc : Nat
  pc : Nat
  deriving DecidableEq, Repr

/-- The 11+1 layout of R369. -/
def place11 (p : Nat) : Place :=
  let u := p / 512
  let s := u / 11
  let j := u % 11
  let ps := s % 12
  ⟨s, ps, (ps + 1 + j) % 12, s * 512 + p % 512, s % 64⟩

/-- Survivor n in ascending stack order, leaving out the lost stack (R382). -/
def survivor (lost n : Nat) : Nat := if n < lost then n else n + 1

/-- The 10+1 layout of R382. -/
def place10 (lost p : Nat) : Place :=
  let u := p / 512
  let s := u / 10
  let j := u % 10
  ⟨s, survivor lost (s % 11), survivor lost ((s % 11 + 1 + j) % 11), s * 512 + p % 512, s % 64⟩

/-- First byte past the data of the 10+1 layout (R382), and of the 11+1 layout (R72). -/
def end10 : Nat := 0x7800000000
def end11 : Nat := 0x8400000000
/-- First byte of the tag plane in the 10+1 layout, and so the first address that it does not carry data for (R381, R382); and in the
11+1 layout (R72). -/
def contractLimit : Nat := 0x77E2000000
def tagBase11 : Nat := 0x83DF000000

/-- Whether address p uses the 10+1 layout: at or above BOUNDARY while BOUNDARY falls, everywhere once it has reached 0
(R379, R383). Old tags that the move has still to carry lie above every address of that layout. -/
def contractedAt (q : Parity) (p : Nat) : Bool :=
  q.tenPlusOne || (q.boundary != 0 && decide (q.boundary ≤ p) && decide (p < end10))

/-- Where the tag of the HBM frame number f lies: at its place in the 10+1 layout once that lies at or above BOUNDARY (R72, R382,
R383). -/
def tagHome (q : Parity) (f : Nat) : Nat :=
  let new := contractLimit + 8 * f
  if q.tenPlusOne || (q.boundary != 0 && decide (q.boundary ≤ new) && decide (f < contractLimit / 8192)) then new else tagBase11 + 8 * f

/-- The HBM frame, by number, whose tag holds byte p of local HBM, if p lies in the tag plane (R72, R382). -/
def tagFrame (q : Parity) (p : Nat) : Option Nat :=
  if p < contractLimit ∨ end11 ≤ p then none
  else
    let f := (if p < tagBase11 then p - contractLimit else p - tagBase11) / 8
    if f < (if tagBase11 ≤ p then end11 else if q.tenPlusOne then end10 else contractLimit) / 8192 ∧ tagHome q f = p / 8 * 8 then some f else none

/-- Whether a run of bytes stays clear of every place of the tag plane. -/
def clearOfTags (pa n : Nat) : Bool := decide (pa + n ≤ contractLimit) || decide (end11 ≤ pa)

/-- The layout in force for address p (R369, R382, R384). -/
def placeOf (q : Parity) (p : Nat) : Place := if contractedAt q p then place10 q.lost p else place11 p

/-- Stacks that are lost (R378). -/
def stackLost (s : State) (k : Nat) : Bool := (mget ({} : StackStat) s.hbmStat k).lost

/-- Units of a stripe, as data stacks, in the layout of address p. -/
def stripeLoss (s : State) (p : Nat) : Nat :=
  let pl := placeOf s.parity p
  let c := contractedAt s.parity p
  let n := if c then 10 else 11
  let place := fun (u : Nat) => if c then place10 s.parity.lost u else place11 u
  (if stackLost s pl.pstack then 1 else 0)
    + foldUp n (fun j c => if stackLost s (place ((pl.stripe * n + j) * 512)).dstack then c + 1 else c) 0

/-- The number of the parity word that covers byte p, in the layout in force (R370, R382). -/
def parityWord (q : Parity) (p : Nat) : Nat := (if contractedAt q p then 2 ^ 40 else 0) + (placeOf q p).stripe * 64 + p % 512 / 8

/-- Another data word of the stripe of p, at the same place in its unit, carries an error, or stands replaced by a full-stripe write whose
parity is still to be written (R373). -/
def otherDataError (s : State) (p : Nat) : Bool :=
  (s.memBad ++ s.replaced).any fun v => v != p / 8 && v * 8 % 512 == p / 8 * 8 % 512 && contractedAt s.parity (v * 8) == contractedAt s.parity p
    && (placeOf s.parity (v * 8)).stripe == (placeOf s.parity p).stripe

/-- Another word of the stripe of p, at the same place in its unit, carries an error, so that the bytes there cannot be rebuilt. -/
def otherError (s : State) (p : Nat) : Bool := otherDataError s p || s.parityBad.contains (parityWord s.parity p)

/-- Whether a byte of local HBM can be delivered (R374, R376, R380): it stands in an online stack without an error, or its stripe has
no other unit that cannot be read. -/
def readable (s : State) (p : Nat) : Bool :=
  if stackLost s (placeOf s.parity p).dstack then stripeLoss s p ≤ 1 && !otherError s p
  else !s.memBad.contains (p / 8) || (stripeLoss s p == 0 && !otherError s p)

/-- The tag of a frame that nothing has written: RAW (R30, R72, R298). -/
def rawTag : Word := 62

/-- One byte of physical memory, the tag plane and the memory of peers included (R71, R72, R414). -/
def memByte (s : State) (p : Nat) : Byte :=
  if region p = 1 then rdByte s.peerMem (peerCell s p)
  else match tagFrame s.parity p with
  | some f => BitVec.ofNat 8 ((mget rawTag s.hbmTags f).toNat / 2 ^ (8 * (p % 8)))
  | none => rdByte s.mem p

/-- Bytes of physical memory as they stand. -/
def memBytes (s : State) (pa n : Nat) : List Byte :=
  if region pa = 0 ∧ pa % 2 ^ 50 + n ≤ 2 ^ 50 ∧ clearOfTags pa n then rdBytes s.mem pa n else (List.range n).map fun i => memByte s (pa + i)

/-- Store one byte of physical memory as it stands. -/
def setMemByte (s : State) (p : Nat) (b : Byte) : State :=
  if region p = 1 then { s with peerMem := wrByte s.peerMem (peerCell s p) b }
  else match tagFrame s.parity p with
  | some f => { s with hbmTags := mset rawTag s.hbmTags f (setBits (mget rawTag s.hbmTags f) (8 * (p % 8)) 8 b.toNat) }
  | none => { s with mem := wrByte s.mem p b }

/-- Store bytes of physical memory as they stand. -/
def setMemBytes (s : State) (pa : Nat) (bs : List Byte) : State :=
  if region pa = 0 ∧ pa % 2 ^ 50 + bs.length ≤ 2 ^ 50 ∧ clearOfTags pa bs.length then { s with mem := wrBytes s.mem pa bs }
  else bs.zipIdx.foldl (fun s x => setMemByte s (pa + x.2) x.1) s

/-- The exclusive-or of byte b of the listed unit addresses. -/
def xorUnits (s : State) (units : List Nat) (b : Nat) : Byte := units.foldl (fun acc u => acc ^^^ memByte s (u + b)) 0

/-- The unit addresses of the stripe of p. -/
def stripeUnits (s : State) (p : Nat) : List Nat :=
  let pl := placeOf s.parity p
  if contractedAt s.parity p then (List.range 10).map fun j => (pl.stripe * 10 + j) * 512
  else (List.range 11).map fun j => (pl.stripe * 11 + j) * 512

/-- Byte b of the parity unit of the stripe of p (R370). -/
def parityByte (s : State) (p b : Nat) : Byte := xorUnits s (stripeUnits s p) b

/-- A reconstruction over the cullet path (R377): the exclusive-or of the other data units and the parity unit. -/
def reconstruct (s : State) (p : Nat) : Byte :=
  let u := p / 512 * 512
  xorUnits s ((stripeUnits s p).filter (· != u)) (p % 512) ^^^ parityByte s p (p % 512)

/-- Saturating count (R378). -/
def satAdd (limit n k : Nat) : Nat := min limit (n + k)

/-- A run of bytes cut at 512-byte units: (address, length) of each piece. -/
def unitPieces (pa n : Nat) : List (Nat × Nat) :=
  if n = 0 then [] else
  (List.range ((pa % 512 + n + 511) / 512)).map fun i =>
    let u := pa / 512 * 512 + 512 * i
    let lo := max pa u
    (lo, min (pa + n) (u + 512) - lo)

/-- Words with errors that a piece of a unit touches. -/
def badWords (s : State) (x : Nat × Nat) : List Nat :=
  (s.memBad.filter fun w => decide (x.1 / 8 ≤ w) && decide (w ≤ (x.1 + x.2 - 1) / 8)).eraseDups

/-- Whether an access of a piece makes a reconstruction: its stack is lost and some byte of it can be rebuilt (R377), or a word of it
carries an error and can be rebuilt (R374). -/
def rebuilds (s : State) (x : Nat × Nat) : Bool :=
  if stackLost s (placeOf s.parity x.1).dstack then (List.range x.2).any fun i => readable s (x.1 + i)
  else (badWords s x).any fun w => readable s (w * 8)

/-- Words of the parity, by their number, that carry an error and can be rebuilt from the data when a write of the piece reads them
(R372, R374). -/
def parityRebuilt (s : State) (x : Nat × Nat) : List Nat :=
  let ps := ((List.range x.2).map (x.1 + ·)).filter fun p =>
    s.parityBad.contains (parityWord s.parity p) && stripeLoss s p == 0 && !otherDataError s p && !s.memBad.contains (p / 8)
  (ps.map (parityWord s.parity)).eraseDups

/-- The stacks that an access of a piece reaches: that of the data, for a write that of the parity as well (R372), and for a
reconstruction every stack of the stripe (R377). No access is made to a lost stack (R375). -/
def accessed (s : State) (write : Bool) (x : Nat × Nat) : List Nat :=
  let p := placeOf s.parity x.1
  let ks := if rebuilds s x || (write && parityRebuilt s x != []) then List.range 12 else if write then [p.dstack, p.pstack] else [p.dstack]
  ks.filter fun k => !stackLost s k

/-- Pseudo-channel pc of the listed stacks, as stack × 64 + channel, are awake (R389, R390). -/
def awake (s : State) (ks : List Nat) (pc : Nat) : Map Nat := s.channelPower.filter fun p => !(p.1 % 64 == pc && ks.contains (p.1 / 64))

/-- A request to local HBM wakes its pseudo-channels (R389), a reconstruction those of every stack that it reads (R390). -/
def wake (s : State) (pa n : Nat) (write : Bool := false) : Map Nat :=
  if region pa ≠ 0 ∨ s.channelPower = [] then s.channelPower
  else ((unitPieces pa n).foldl (fun s x => { s with channelPower := awake s (accessed s write x) (placeOf s.parity x.1).pc }) s).channelPower

/-- The stack that holds the mirror of stack k's row-remap table, if it is online: the next in ascending order, modulo 12, that came
through training (R375, R385). -/
def mirrorOf (s : State) (k : Nat) : Option Nat :=
  let trained := fun (j : Nat) => (mget ({} : StackStat) s.hbmStat j).why != 1
  match (List.range 11).find? fun i => trained ((k + 1 + i) % 12) with
  | none => none
  | some i => let m := (k + 1 + i) % 12; if stackLost s m then none else some m

/-- An access of stack k looks up its row-remap table (R385): an error in one copy is served from the other, and the damaged copy is
rewritten; an error in both, or in the only one, declares the stack lost next (R375). -/
def remapLookup (s : State) (k : Nat) : State :=
  if stackLost s k then s
  else
    let primary := s.remapBad.contains k
    let mirror := (mirrorOf s k).isNone || s.mirrorBad.contains k
    if primary && mirror then (if s.agenda.contains (.stackLost k 3) then s else { s with agenda := s.agenda ++ [.stackLost k 3] })
    else { s with remapBad := s.remapBad.filter (· != k), mirrorBad := s.mirrorBad.filter fun j => j != k || mirrorOf s k == none }

/-- A stack whose ERRC has reached the limit in PARST is declared lost next; 0 disables the limit (R375, R379). -/
def errorLimit (s : State) (k : Nat) : State :=
  let st := mget ({} : StackStat) s.hbmStat k
  if st.lost ∨ s.parity.errlim = 0 ∨ st.errc < s.parity.errlim ∨ s.agenda.contains (.stackLost k 2) = true then s
  else { s with agenda := s.agenda ++ [.stackLost k 2] }

/-- Stack k counts one unit rebuilt under R374 (R378). -/
def countError (s : State) (k : Nat) : State :=
  let st := mget ({} : StackStat) s.hbmStat k
  errorLimit { s with hbmStat := mset {} s.hbmStat k { st with errc := satAdd 65535 st.errc 1 } } k

/-- A write reads the old parity (R372): a parity unit in error is rebuilt from the data, rewritten and counted (R374). -/
def homeParity (s : State) (x : Nat × Nat) : State :=
  let ws := parityRebuilt s x
  if ws = [] then s
  else countError { s with parityBad := s.parityBad.filter fun w => !ws.contains w } (placeOf s.parity x.1).pstack

/-- What the parity home and the stacks do for an access of one piece of a unit (R372, R374, R377, R385): each stack reached looks up its
row-remap table; the lost stack counts a reconstruction; a unit with an error is rewritten and counted once. Nothing is counted where
nothing can be rebuilt (R380). -/
def homeUnit (write : Bool) (s : State) (x : Nat × Nat) : State :=
  let s := (accessed s write x).foldl remapLookup s
  let s := if write then homeParity s x else s
  if !rebuilds s x then s
  else
    let k := (placeOf s.parity x.1).dstack
    let st := mget ({} : StackStat) s.hbmStat k
    if st.lost then { s with hbmStat := mset {} s.hbmStat k { st with recon := satAdd (2 ^ 32 - 1) st.recon 1 } }
    else countError { s with memBad := s.memBad.filter fun w => !(w / 64 == x.1 / 512 && readable s (w * 8)) } k

/-- Whether every access of local HBM is served as it stands: no stack is lost, and no word or table entry carries an error. -/
def sound (s : State) : Bool := s.parity.state == 0 && s.memBad == [] && s.parityBad == [] && s.remapBad == [] && s.mirrorBad == []

/-- The bytes of an access, `none` where one can be neither read nor rebuilt (R374, R376, R380). -/
def physPeek (s : State) (pa n : Nat) : Option (List Byte) :=
  if region pa ≠ 0 ∨ sound s then some (memBytes s pa n)
  else if (List.range n).all fun i => readable s (pa + i) then
    some ((List.range n).map fun i =>
      if stackLost s (placeOf s.parity (pa + i)).dstack then reconstruct s (pa + i) else memByte s (pa + i))
  else none

/-- What an access leaves besides its data: pseudo-channels awake, counts and repairs at the stacks (R372, R374, R377, R385, R389). -/
def physTouch (s : State) (pa n : Nat) (write : Bool := false) : State :=
  let s := { s with channelPower := wake s pa n write }
  if region pa ≠ 0 ∨ sound s then s else (unitPieces pa n).foldl (homeUnit write) s

/-- Whether a byte of local HBM that a write covers is lost (R380): its stack is gone and its stripe keeps no parity, or it lies in a word
that carries an error beyond repair and is written only in part (R459). A store there is an uncorrectable error (R184). -/
def byteLost (s : State) (pa n a : Nat) : Bool :=
  !readable s a && (stackLost s (placeOf s.parity a).dstack || !(decide (pa ≤ a / 8 * 8) && decide (a / 8 * 8 + 8 ≤ pa + n)))
def storeLost (s : State) (pa n : Nat) : Bool := region pa == 0 && (List.range n).any fun j => byteLost s pa n (pa + j)

/-- Read n bytes of physical memory in any region (R71, R73). -/
def physRead (s : State) (pa n : Nat) : State × Option (List Byte) := (physTouch s pa n, physPeek s pa n)

/-- Store bytes in physical memory; a word written whole carries no error any more (R372, R459). -/
def physStore (s : State) (pa : Nat) (bs : List Byte) : State :=
  let s := setMemBytes s pa bs
  { s with memBad := s.memBad.filter fun w => !(decide (pa ≤ w * 8) && decide (w * 8 + 8 ≤ pa + bs.length)) }

/-- First byte and length of the data of the stripe of p (R369, R382). -/
def stripeSpan (s : State) (p : Nat) : Nat × Nat :=
  let n := if contractedAt s.parity p then 5120 else 5632
  ((placeOf s.parity p).stripe * n, n)

/-- A write that does not cover a whole stripe: the parity home reads the old data and parity (R372, R374, R376, R377). -/
def physWrite (s : State) (pa : Nat) (bs : List Byte) : State := physStore (physTouch s pa bs.length true) pa bs

/-- The words of the stripe of p in a list. -/
def stripeWords (s : State) (p : Nat) (ws : List Nat) : List Nat :=
  let (base, n) := stripeSpan s p
  ws.filter fun w => decide (base ≤ w * 8) && decide (w * 8 < base + n)

/-- A full-stripe write is complete: no word of the stripe or of its parity carries an error any more (R373). -/
def stripeComplete (s : State) (p : Nat) : State :=
  let mine := fun (w : Nat) => (stripeWords s p [w]) != []
  let number := parityWord s.parity (stripeSpan s p).1 / 64
  { s with
    memBad := s.memBad.filter fun w => !mine w
    replaced := s.replaced.filter fun w => !mine w
    parityBad := s.parityBad.filter fun w => w / 64 != number }

/-- Part of a full-stripe write (R373): data and parity are written on every stack of the stripe without reading. `words` are the words
that the run has now written whole; `last` says that the whole stripe is written. Until then its marks are kept in `replaced`, and the
parity keeps its own. -/
def physStripePart (s : State) (pa : Nat) (bs : List Byte) (words : List Nat) (last : Bool) : State :=
  let ks := (List.range 12).filter fun k => !stackLost s k
  let s := { s with channelPower := awake s ks (placeOf s.parity pa).pc }
  let s := if sound s then s else ks.foldl remapLookup s
  let whole := fun (w : Nat) => words.contains w || (decide (pa ≤ w * 8) && decide (w * 8 + 8 ≤ pa + bs.length))
  let s := setMemBytes { s with
    replaced := s.replaced ++ (s.memBad.filter whole).filter fun w => !s.replaced.contains w
    memBad := s.memBad.filter fun w => !whole w } pa bs
  if last then stripeComplete s pa else s

/-- A full-stripe write that a stop breaks off: its words in error are as they were (R373). -/
def unreplace (s : State) (p : Nat) : State :=
  let ws := stripeWords s p s.replaced
  { s with memBad := s.memBad ++ ws.filter (fun w => !s.memBad.contains w), replaced := s.replaced.filter fun w => !ws.contains w }

/-- A run of bytes written in one piece: a stripe that lies wholly in it as a full-stripe write, the units of the others as partial writes
(R372, R373, R399). What a lost unit would need is not written (R380). -/
def physWriteRun : Nat → State → Nat → List Byte → State
  | 0, s, _, _ => s
  | n + 1, s, pa, bs =>
    let (base, len) := stripeSpan s pa
    if bs = [] then s
    else if region pa ≠ 0 then physWrite s pa bs
    else if pa = base ∧ len ≤ bs.length then physWriteRun n (physStripePart s pa (bs.take len) [] true) (pa + len) (bs.drop len)
    else
      let k := min bs.length (base + len - pa)
      let s := (unitPieces pa k).foldl (fun s x => if storeLost s x.1 x.2 then physTouch s x.1 x.2 true
        else physWrite s x.1 ((bs.drop (x.1 - pa)).take x.2)) s
      physWriteRun n s (pa + k) (bs.drop k)

/-- The tag of the HBM frame number f, read at its parity home: `none` where it cannot be delivered (R63, R72, R382). -/
def hbmTag (s : State) (f : Nat) : Option Word := (physPeek s (tagHome s.parity f) 8).map fun bs => w64 (leNat bs)
/-- What a read of that tag leaves at the stacks. -/
def touchHbmTag (s : State) (f : Nat) : State := physTouch s (tagHome s.parity f) 8
/-- Whether a tag of an HBM frame cannot be written, since its unit is lost with another of its stripe (R380). -/
def tagLost (s : State) (f : Nat) : Bool := storeLost s (tagHome s.parity f) 8
/-- Write the tag of an HBM frame at its parity home; a lost one stays so (R380). -/
def setHbmTag (s : State) (f : Nat) (t : Word) : State :=
  if tagLost s f then physTouch s (tagHome s.parity f) 8 true else physWrite s (tagHome s.parity f) (leBytes 8 t.toNat)

/-- Physical end of local HBM data in the layout in force (R72, R382). -/
def hbmLimit (q : Parity) : Nat :=
  if q.tenPlusOne then end10 else end11

/-- The row group of an address (R386). -/
def rowGroup (q : Parity) (pa : Nat) : Nat := if contractedAt q pa then pa / (20 * 2 ^ 20) else pa / (22 * 2 ^ 20)

/-- The DOMAIN of a row group in one table: guard where nothing is assigned, the device for the tag plane (R386, R388). -/
def domainIn (t : Map (BitVec 16)) (g : Nat) : BitVec 16 :=
  if 24552 ≤ g ∧ g ≤ 24575 then 0 else if 24576 ≤ g then 0xFFF else mget 0xFFF t g

/-- The DOMAIN of an address (R386, R387). -/
def domainAt (s : State) (pa : Nat) : BitVec 16 :=
  domainIn (if s.parity.tenPlusOne = false ∧ contractedAt s.parity pa then s.domains2 else s.domains) (rowGroup s.parity pa)

/-- Every row group of one table that the bytes lo to hi - 1 touch has a domain, in groups of the given size. -/
def groupsHave (t : Map (BitVec 16)) (size lo hi : Nat) (d : BitVec 16) : Bool :=
  decide (hi ≤ lo) || foldUp ((hi - 1) / size + 1 - lo / size) (fun i ok => ok && domainIn t (lo / size + i) == d) true

end Sys2Proof.Machine
end

