-- ==== Sys2Proof/Machine/Translate.lean ====
section
/-! DEFINITION. Address translation: the three-level walk, the hub caches, and what a refusal is (R70, R360 to R364, R388). -/
namespace Sys2Proof.Machine

/-- What an access asks of a translation. -/
inductive Access where
  | read | write | fetch
  deriving DecidableEq, Repr

/-- The answer of a translation: a physical address with its leaf, not present, a permission fault, a migrating page that
holds the access (R360), or bits [63:48] set (R70). -/
inductive Trans where
  | ok (pa : Nat) (leaf : Word)
  | notPresent
  | permission
  | migrating
  | shape
  deriving DecidableEq, Repr

/-- An entry that is valid and has its zero fields zero (R360). -/
def entryOk (e : Nat) : Bool := e % 2 == 1 && bitsOf e 6 6 == 0 && bitsOf e 52 12 == 0

/-- The PA field of an entry. -/
def entryPa (e : Nat) : Nat := bitsOf e 12 40 * 4096

/-- Whether every row group that a local HBM page touches belongs to the PASID's domain (R388); while contraction runs, the part at or
above BOUNDARY is checked against the second table and the part below it against the first (R387). -/
def domainOk (s : State) (pasid pa size : Nat) : Bool :=
  if region pa ≠ 0 then true
  else
    let d := mget 0 s.pasidDomain pasid
    let m := 2 ^ 20
    d != 0xFFF &&
      (if s.parity.tenPlusOne then groupsHave s.domains (20 * m) pa (pa + size) d
      else if s.parity.boundary = 0 then groupsHave s.domains (22 * m) pa (pa + size) d
      else groupsHave s.domains (22 * m) pa (min (pa + size) s.parity.boundary) d
        && groupsHave s.domains2 (20 * m) (max pa s.parity.boundary) (pa + size) d)

/-- A leaf of the given page size: aligned, not in the device region, inside its domain (R360, R388). -/
def leafOk (s : State) (pasid e size : Nat) : Bool :=
  entryOk e && entryPa e % size == 0 && region (entryPa e) != 3 && domainOk s pasid (entryPa e) size

/-- A table entry as the walker reads it: nothing where the memory cannot deliver it (R380; assumption log 27). -/
def tableEntry (s : State) (a : Nat) : Option Nat := (physPeek s a 8).map leNat

/-- The entries that a walk of an address reads, from level 1 down, as far as they lead on (R360). -/
def walkEntries (s : State) (pasid va : Nat) : List Nat :=
  match mfind s.roots pasid with
  | none => []
  | some root =>
    let a1 := root + 8 * bitsOf va 36 12
    match tableEntry s a1 with
    | none => [a1]
    | some e1 =>
      if !entryOk e1 || e1 / 2 % 2 == 1 || entryPa e1 % 16384 != 0 then [a1]
      else
        let a2 := entryPa e1 + 8 * bitsOf va 25 11
        match tableEntry s a2 with
        | none => [a1, a2]
        | some e2 =>
          if !entryOk e2 || e2 / 2 % 2 == 1 || entryPa e2 % 4096 != 0 then [a1, a2] else [a1, a2, entryPa e2 + 8 * bitsOf va 16 9]

/-- The walk of R360: the leaf entry and the page size, or a refusal. `ok` says which leaves stand, by entry and page size. -/
def walkWith (ok : Nat → Nat → Bool) (s : State) (pasid va : Nat) : Option (Nat × Nat) :=
  match walkEntries s pasid va with
  | [_, a2] => match tableEntry s a2 with
    | some e => if e / 2 % 2 == 1 && ok e (2 ^ 25) then some (e, 2 ^ 25) else none
    | none => none
  | [_, _, a3] => match tableEntry s a3 with
    | some e => if e / 2 % 2 == 1 && ok e (2 ^ 16) then some (e, 2 ^ 16) else none
    | none => none
  | _ => none

/-- The walk of an address under a PASID (R360). -/
def walk (s : State) (pasid va : Nat) : Option (Nat × Nat) := walkWith (leafOk s pasid) s pasid va

/-- Whether the tables map an address to device registers, a leaf that the walk refuses (R71, R188, R360). -/
def mapsDevice (s : State) (pasid va : Nat) : Bool :=
  (walkWith (fun e size => entryOk e && entryPa e % size == 0 && region (entryPa e) == 3) s pasid va).isSome

/-- The cached leaf of a hub, if it holds one for this address (R361). -/
def hubFind (fills : List Fill) (pasid va : Nat) : Option (Nat × Nat) :=
  match fills.find? fun f => f.pasid == pasid && decide (f.va ≤ va) && decide (va < f.va + f.size) with
  | some f => some (f.leaf.toNat, f.size)
  | none => none

/-- The translation that a walk finds for an address, as a hub caches it; a refused or held walk gives none (R360, R361). -/
def walkFill (s : State) (pasid va : Nat) : Option Fill :=
  if 2 ^ 48 ≤ va then none
  else match walk s pasid va with
    | some (e, size) => if bit (w64 e) 5 then none else some ⟨pasid, va / size * size, size, w64 e⟩
    | none => none

/-- Install a fill in a hub, once. -/
def addFill (fs : List Fill) (f : Fill) : List Fill := if fs.contains f then fs else fs ++ [f]

/-- What the translation of an address leaves: where the hub of a die does not hold it, the table reads count at their stacks (R374,
R377, R389), and the hub keeps what the walk found (R361). -/
def hubUse (s : State) (die pasid va : Nat) : State :=
  if 2 ^ 48 ≤ va ∨ (hubFind (mget [] s.hubs die) pasid va).isSome then s
  else
    let t := (walkEntries s pasid va).foldl (fun s a => physTouch s a 8) s
    match walkFill s pasid va with
    | some f => { t with hubs := mset [] t.hubs die (addFill (mget [] t.hubs die) f) }
    | none => t

/-- Translate a G-address under a PASID through the hub of a die (R70, R360, R361). -/
def translate (s : State) (die pasid va : Nat) (acc : Access) : Trans :=
  if 2 ^ 48 ≤ va then .shape
  else
    match (match hubFind (mget [] s.hubs die) pasid va with | some r => some r | none => walk s pasid va) with
    | none => .notPresent
    | some (e, size) =>
      if e / 2 ^ 5 % 2 = 1 then .migrating
      else if acc = .write ∧ e / 4 % 2 = 0 then .permission
      else if acc = .fetch ∧ e / 16 % 2 = 0 then .permission
      else .ok (entryPa e + va % size) (w64 e)

/-- The generation that an access to an address carries (R132, R413): none but for peer memory. -/
def sendGen (s : State) (pa : Nat) : Nat := if region pa = 1 then genOf (windowOfPeer s pa) else 0
/-- Whether the window of a peer address is set to ROD delivery (R130, R413). -/
def rodWindow (s : State) (pa : Nat) : Bool := region pa == 1 && !bit (windowOfPeer s pa).w0 1

/-- Whether the sending side accepts an access through a peer window (R414). -/
def peerOk (s : State) (pa : Nat) : Bool :=
  let w := windowOfPeer s pa
  bit w.w0 0 && decide (peerOffset pa < lengthOf w)

/-- A translation with the peer window's own refusal (R414). -/
def translateFull (s : State) (die pasid va : Nat) (acc : Access) : Trans :=
  match translate s die pasid va acc with
  | .ok pa leaf => if region pa = 1 ∧ peerOk s pa = false then .notPresent else .ok pa leaf
  | t => t

/-- Hotness of a page: one more element of a kind (R366). -/
inductive HotKind where
  | uni | str | idx
  deriving DecidableEq, Repr

/-- Size of the page that maps an address through a die's hub; 64 KiB where none does. -/
def pageSize (s : State) (die pasid va : Nat) : Nat :=
  match (match hubFind (mget [] s.hubs die) pasid va with | some r => some r | none => walk s pasid va) with
  | some (_, size) => size
  | none => 65536

/-- The key of a page's hotness record: the PASID and the number of the page's first 64 KiB. -/
def hotKey (s : State) (die pasid va : Nat) : Nat :=
  let size := pageSize s die pasid va
  pasid * 2 ^ 32 + va / size * size / 65536

/-- Count one access element on a page (R366). -/
def heat (s : State) (die pasid va : Nat) (k : HotKind) : State :=
  let key := hotKey s die pasid va
  let h := mget ({} : Hot) s.hotness key
  let lim := 2 ^ 32 - 1
  let h' := match k with
    | .uni => { h with uni := satAdd lim h.uni 1 }
    | .str => { h with str := satAdd lim h.str 1 }
    | .idx => { h with idx := satAdd lim h.idx 1 }
  { s with hotness := mset {} s.hotness key h' }

end Sys2Proof.Machine
end

