-- ==== Sys2Proof/Machine/Regs.lean ====
section
/-! DEFINITION. Accessors of a gang: general registers (R143, R165), windows and the owner function (R55 to R57, R302), field
bytes and tags, sequencer-local memory, and the choice of the gang that acts next. -/
namespace Sys2Proof.Machine

/-- A general register; s0 reads as 0 (R143). -/
def Gang.reg (g : Gang) (n : Reg) : Word := if n = 0 then 0 else mget 0 g.regs n.toNat

/-- Write a general register; a write to s0 is discarded (R143). -/
def Gang.setReg (g : Gang) (n : Reg) (v : Word) : Gang :=
  if n = 0 then g else { g with regs := mset 0 g.regs n.toNat v, regBad := g.regBad.filter (· != n.toNat) }

/-- Banks of the gang's span (R25, R27). -/
def Gang.banksInSpan (g : Gang) : Nat := 16 * g.clusters.length

/-- A register of the selected gang. -/
def State.reg (s : State) (n : Reg) : Word := s.g.reg n
/-- Write a register of the selected gang. -/
def State.setReg (s : State) (n : Reg) (v : Word) : State := { s with g := s.g.setReg n v }

/-- Why an F-address does not resolve: the reasons of OWNER (R204), and 5 for a write through an RO window. -/
inductive NoOwner where
  | noWindow | outsideSpan | offlineOwner | beyondSlice | readOnly
  deriving DecidableEq, Repr

/-- A resolved address: window, span-relative owner, bank-local offset (R57). -/
structure Resolved where
  win : Nat
  own : Nat
  loc : Nat
  deriving DecidableEq, Repr

/-- V[w] = 1 and BASE ≤ a < BASE + SIZE (R57). -/
def Window.holds (w : Window) (a : Nat) : Bool := w.valid && decide (w.base ≤ a) && decide (a < w.base + w.size)

/-- The windows of a gang by number. -/
def Gang.window (g : Gang) (w : Nat) : Window := mget {} g.windows w

/-- First byte beyond a bank's slice, less the conversion frames of CONVRES (R302). -/
def Gang.sliceEnd (g : Gang) : Nat := 8192 * (64 - g.convres.toNat % 32)

/-- The physical cluster of a span-relative bank (R10, R27). -/
def Gang.clusterOf (g : Gang) (own : Nat) : Nat := (g.clusters[own / 16]?).getD 0

/-- resolve(a, access) of R57. -/
def resolve (g : Gang) (offline : List Nat) (a : Nat) (write : Bool) : Except NoOwner Resolved :=
  match findUp (fun w => (g.window w).holds a) 0 64 with
  | none => .error .noWindow
  | some w =>
    let d := g.window w
    let u := (a - d.base) / 2 ^ d.gran
    let own := d.first + u % d.count
    let loc := d.loc + u / d.count * 2 ^ d.gran + a % 2 ^ d.gran
    if g.banksInSpan ≤ own then .error .outsideSpan
    else if offline.contains (g.clusterOf own) then .error .offlineOwner
    else if g.sliceEnd ≤ loc then .error .beyondSlice
    else if write && d.ro then .error .readOnly
    else .ok ⟨w, own, loc⟩

/-- Where a bank-local byte of a span-relative bank lies in the package's field SRAM (R9, R10). -/
def Gang.fieldKey (g : Gang) (own loc : Nat) : Nat := (g.clusterOf own * 16 + own % 16) * 2 ^ 19 + loc

/-- The key of the field byte that an F-address names, if it resolves. -/
def fieldAt (s : State) (a : Nat) (write : Bool) : Except NoOwner Nat :=
  (resolve s.g s.offline a write).map fun r => s.g.fieldKey r.own r.loc

/-- Whether every byte of a frame resolves through a window with FA = 1 to one frame of one bank (R57, R61). Windows begin and end at
multiples of 4 KiB (R55), so that the two halves of the frame decide. -/
def frameWindowOk (s : State) (addr : Nat) (write : Bool) : Bool :=
  match resolve s.g s.offline addr write, resolve s.g s.offline (addr + 4096) write with
  | .ok r, .ok q => (s.g.window r.win).fa && (s.g.window q.win).fa && r.own == q.own && r.loc / 8192 == q.loc / 8192
  | _, _ => false

/-- A field byte by F-address; 0 where the address does not resolve. -/
def fieldByte (s : State) (a : Nat) : Byte :=
  match fieldAt s a false with
  | .ok k => rdByte s.field k
  | .error _ => 0

/-- The tag of the bank-local frame that holds a field byte (R63). -/
def tagOfKey (s : State) (k : Nat) : Word := mget rawTag s.ftags (k / 8192)
def setTagOfKey (s : State) (k : Nat) (t : Word) : State := { s with ftags := mset rawTag s.ftags (k / 8192) t }

/-- A tag with GEN advanced by 1 modulo 2^16 (R298). -/
def bumpGen (t : Word) : Word := setBits t 48 16 (bitsOf t.toNat 48 16 + 1)

/-- Where a scalar access goes (R65). -/
inductive Target where
  | seqLocal (off : Nat)
  | field (a : Nat)
  | refused
  deriving DecidableEq, Repr

/-- Scalar access selection by the effective address (R53, R65). -/
def selectTarget (ea : Word) : Target :=
  let n := ea.toNat
  if n ≥ 2 ^ 63 then (if bitsOf n 16 47 = 0 then .seqLocal (n % 65536) else .refused)
  else if n < 2 ^ 32 then .field n
  else .refused

/-- A gang whose sequencer can act. -/
def Gang.runnable (g : Gang) : Bool := g.phase == .running

/-- Cohort members of a gang: same launch (R37). -/
def sameCohort (a b : Gang) : Bool := a.launch.cohort == b.launch.cohort

/-- While any member of a cohort is halted, no member executes (R37). -/
def cohortStopped (s : State) (g : Gang) : Bool :=
  (s.g :: s.others).any fun h => sameCohort h g && h.id != g.id && (h.phase == .halted || h.phase == .pageWait) && g.cohN != 1

/-- Give the turn to the next gang that can act; the present one goes to the back (R48). -/
def rotate (s : State) : State :=
  match s.others.find? fun h => h.runnable && !cohortStopped s h with
  | none => s
  | some h => { s with g := { h with turnMark := h.retired }, others := (s.others.filter fun x => x.id != h.id) ++ [s.g] }

/-- An instruction that must wait changes nothing of its gang; another gang may act (R38, R39). -/
def stall (s : State) : State := rotate s

/-- Apply a change to the gang with an identifier, wherever it stands. -/
def updGang (s : State) (id : Nat) (f : Gang → Gang) : State :=
  if s.g.id = id then { s with g := f s.g } else { s with others := s.others.map fun h => if h.id = id then f h else h }

/-- Make the gang with an identifier the selected one. -/
def focus (s : State) (id : Nat) : State :=
  if s.g.id = id then s
  else match s.others.find? fun h => h.id == id with
    | none => s
    | some h => { s with g := h, others := s.g :: s.others.filter fun x => x.id != id }

/-- Run a change with the gang `id` selected and select the former gang again. -/
def onGang (s : State) (id : Nat) (f : State → State) : State :=
  if s.g.id = id then f s
  else if (s.others.any fun h => h.id == id) then focus (f (focus s id)) s.g.id else s

/-- The resident gang with an identifier. -/
def findGang (s : State) (id : Nat) : Option Gang := (s.g :: s.others).find? fun h => h.id == id

/-- A fresh free value (assumption log 2). -/
def freeValue (s : State) : Word × State := (Config.freeWord s.fresh, { s with fresh := s.fresh + 1 })

/-- A die's cycle count as it is read: it has moved on by an unknown number of cycles (R22, R24; assumption log 8). -/
def dieCycle (s : State) (die : Nat) : Nat := mget 0 s.cycles die + Config.elapsed s.fresh
/-- The machine after a die's count has been read. -/
def tickDie (s : State) (die : Nat) : State := { s with cycles := mset 0 s.cycles die (dieCycle s die), fresh := s.fresh + 1 }

/-- Send an event frame to the host (R432): type, die, the die's cycle, payload. -/
def sendFrame (s : State) (type die : Nat) (payload : List Word) : State :=
  { tickDie s die with eventFrames := s.eventFrames ++ [⟨type, die, dieCycle s die, payload⟩] }

/-- GANGID (R35). -/
def Gang.gangId (g : Gang) : Word := w64 (g.slot + g.lead * 8 + g.cohIx * 2 ^ 16 + g.cohN * 2 ^ 24)
/-- SPAN (R27). -/
def Gang.span (g : Gang) : Word := w64 (g.sz + g.lead * 16 + g.clusters.length * 256)

/-- Read-queue values present at the present level (R196, R206): entries beyond the set-aside ones that are full. -/
def Gang.rqv (g : Gang) : Nat := ((g.rq.drop g.rqAside).filter Option.isSome).length
/-- Read-queue entries reserved or full at the present level. -/
def Gang.rqr (g : Gang) : Nat := (g.rq.drop g.rqAside).length

/-- Whether an asynchronous cause is held (R224). -/
def Gang.asyncHeld (g : Gang) : Bool :=
  g.pl && (g.stgNak.isSome || g.revoked.isSome || g.channels.any fun p => p.2.fault.isSome && !p.2.taken)

/-- GSTAT (R196). -/
def Gang.gstat (g : Gang) : Word :=
  w64 (b2n g.pl + 4 * b2n g.fv + 8 * b2n g.db + 16 * b2n g.asyncHeld + 32 * b2n g.ss + 256 * g.bq.length
    + 2 ^ 16 * g.rqv + 2 ^ 24 * g.rqr)

end Sys2Proof.Machine
end

