-- ==== Sys2Proof/Machine/Operands.lean ====
section
/-! DEFINITION. Operands of broadcast and tile instructions: element addresses (R150), activity (R151), reads through an oracle,
footprints (R102, R327), alignment and staging (R59, R238, R240, R271), captures (R101, R193). -/
namespace Sys2Proof.Machine

/-- The BX fields of an instruction of that class (R149). -/
def bxFields : Instr → Option BX
  | .vadd f | .vsub f | .vmul f | .vfma f | .vfms f | .vfnma f
  | .vdiv f | .vsqrt f | .vmin f | .vmax f | .vabs f | .vneg f
  | .vcpys f | .vfun f | .vmulh f | .vavg f | .vclass f | .vand f
  | .vor f | .vxor f | .vsll f | .vsrl f | .vsra f | .vclmul f
  | .vclmulh f | .vpopc f | .vclz f | .vcmp f | .vselm f | .vcvtn f
  | .vcvtw f | .vcvti f | .vcvtf4 f | .vmov f | .viota f | .vrev f
  | .vreshape f | .vcompress f | .vexpand f | .vredsum f | .vredmax f | .vredmin f
  | .vredbit f | .vscan f | .vfirst f | .vcount f | .vscatadd f | .vscatmax f
  | .vscatmin f | .vconfl f | .vspadd f | .vspmul f | .vrunb f => some f
  | _ => none

/-- The TX fields of an instruction of that class (R156). -/
def txFields : Instr → Option TX
  | .tmma f | .tew f | .tact f | .trowr f | .tsoft f | .ttrn f
  | .tcvt f | .tcpy f | .tfill f | .ttagr f | .ttagw f => some f
  | _ => none

/-- The bits of a destination element: EF but for conversions, VCLASS, VCMP and the U64 results (R250, R278). -/
def destBits (i : Instr) (f : BX) : Nat :=
  match i with
  | .vclass _ => if f.ef = 14 then 32 else 16
  | .vcvtn _ => efBits f.b.toNat
  | .vcvtw _ => efBits f.b.toNat
  | .vcvti _ => efBits f.fn.toNat
  | .vfirst _ => 64
  | .vcount _ => 64
  | .vcmp _ => 1
  | .vcvtf4 _ => 65536
  | .vspadd _ => 128
  | .vspmul _ => 128
  | _ => efBits f.ef.toNat

/-- The destination format of an instruction, for tags (R253). -/
def destFormat (i : Instr) (f : BX) : Nat :=
  match i with
  | .vclass _ => if f.ef = 14 then 5 else 3
  | .vcvtn _ => f.b.toNat
  | .vcvtw _ => f.b.toNat
  | .vcvti _ => f.fn.toNat
  | .vfirst _ => 7
  | .vcount _ => 7
  | _ => f.ef.toNat

/-- Instructions whose b field is no register (R265). -/
def bIsImmediate : Instr → Bool
  | .vcvtn _ | .vcvtw _ => true
  | _ => false

/-- Instructions that use source b, and c (R154). -/
def usesB : Instr → Bool
  | .vadd _ | .vsub _ | .vmul _ | .vfma _ | .vfms _ | .vfnma _ | .vdiv _ | .vmin _ | .vmax _ | .vcpys _ | .vmulh _ | .vavg _
  | .vand _ | .vor _ | .vxor _ | .vsll _ | .vsrl _ | .vsra _ | .vclmul _ | .vclmulh _ | .vcmp _ | .vselm _ | .vreshape _
  | .vspadd _ | .vspmul _ => true
  | _ => false
def usesC : Instr → Bool
  | .vfma _ | .vfms _ | .vfnma _ => true
  | _ => false

/-- Instructions that restart whole: ESTART and resume words ignored (R242, R273). -/
def restartsWhole : Instr → Bool
  | .vcompress _ | .vexpand _ | .vredsum _ | .vredmax _ | .vredmin _ | .vredbit _ | .vscan _ | .vfirst _ | .vcount _
  | .vconfl _ | .vscatadd _ | .vscatmax _ | .vscatmin _ | .vrunb _ => true
  | _ => false

/-- The reductions, VFIRST and VCOUNT: one result (R277). -/
def isReduction : Instr → Bool
  | .vredsum _ | .vredmax _ | .vredmin _ | .vredbit _ | .vfirst _ | .vcount _ => true
  | _ => false

/-- Whether an instruction delivers to the read queue (R150, R278). -/
def toReadQueue (i : Instr) : Bool :=
  match bxFields i with
  | some f => isReduction i && f.dm == 2
  | none => false

/-- Source elements that make one VCVTF4 tile, by FN (R267). -/
def f4Rows (f : BX) : Nat := match f.fn.toNat with | 0 => 128 | 1 => 32 | _ => 16
def f4Elems (f : BX) : Nat := 64 * f4Rows f

/-- A captured register of an entry; s0 reads 0. -/
def Entry.reg (e : Entry) (n : Reg) : Word := if n = 0 then 0 else mget 0 e.regs n.toNat
/-- The register after n. -/
def Entry.reg1 (e : Entry) (n : Reg) : Word := mget 0 e.regs (n.toNat + 1)

/-- What stops a read: a fault of R246, bytes that have not come yet, or a group that a copy has still to land in (R355). -/
inductive Stop where
  | fault (c : Cause)
  | miss (operand : Nat) (array : Bool) (index : Nat) (addr len : Nat) (tag : Bool)
  | await
  deriving DecidableEq, Repr

/-- The order of causes within one instruction (R221, R310): index, operand, REP step. -/
def Cause.before (c d : Cause) : Bool :=
  decide (c.index < d.index) || (c.index == d.index && (decide (c.operand < d.operand) || (c.operand == d.operand && decide (c.step < d.step))))

/-- The broadcast code of R219. -/
def broadcastCode (index operand : Nat) (ix : Bool) : Word := w64 (index % 2 ^ 48 + operand * 2 ^ 48 + b2n ix * 2 ^ 51)

/-- A cause of the broadcast stream at an element (R219, R246). -/
def bFault (code : Nat) (addr : Int) (index operand : Nat) (ix : Bool) : Cause :=
  ⟨code, w64 (lowBits addr 64), broadcastCode index operand ix, index, operand, 0⟩

/-- What a read of an operand is of: an element or mask byte at an address that the operand's base and stride give, an entry of its
index array, or an element at an address that an index gave (R150). -/
inductive Via where
  | base | array | index
  deriving DecidableEq, Repr

/-- How an entry reads the field: operand, what of it, element index, address, length; the answer is the bytes and whether one of them
came from an uncorrectable word delivered as zeros (R446). -/
abbrev Rd := Nat → Via → Nat → Int → Nat → Except Stop (List Byte × Bool)

/-- How an entry checks a destination element: index, address, length. The answer says whether the write leaves part of an
uncorrectable word, which R459 lets pass under ECTRL.PP with the frame poisoned. -/
abbrev Dst := Nat → Int → Nat → Except Stop Bool

/-- The oracle with every read charged to one element index (R246). -/
def rdAt (rd : Rd) (i : Nat) : Rd := fun op via _ addr len => rd op via i addr len

/-- Keys of the field bytes of an element with one owner (R57, R60): the first byte decides the owner, a byte of another owner is
the misaligned fault, of a mask word of a tile as well (assumption log 82), a byte without one the pull fault. IX is set for a fault in an index array, and for a source address that an
index sends outside every window (R219, R246). -/
def elementKeys (s : State) (write : Bool) (op : Nat) (via : Via) (idx : Nat) (addr : Int) (len : Nat) :
    Except Cause (List Nat) :=
  let ix := via == .array
  if addr < 0 ∨ 2 ^ 32 ≤ addr then .error (bFault 5 addr idx op (ix || via == .index)) else
  let a := addr.toNat
  match resolve s.g s.offline a write with
  | .error r => .error (bFault 5 addr idx op (ix || (via == .index && r == .noWindow)))
  | .ok first =>
    (List.range len).foldl (fun acc j =>
      match acc with
      | .error c => .error c
      | .ok ks =>
        match resolve s.g s.offline (a + j) write with
        | .error _ => .error (bFault 5 (a + j) idx op ix)
        | .ok r => if r.own = first.own then .ok (ks ++ [s.g.fieldKey r.own r.loc]) else .error (bFault 3 addr idx op ix))
      (.ok [])

/-- A destination address resolved for a write (R57, R60, R246). -/
def destPlace (s : State) : Dst := fun idx addr len =>
  match elementKeys s true 0 .base idx addr len with
  | .error c => .error (.fault c)
  | .ok _ => .ok false

/-- The destination check of an entry (R57, R60, R246, R459): a word written in part, and with `tags` the tag of the frame, which upkeep
merges with its kept fields (R300; assumption log 21), must be readable. -/
def destCheck (s : State) (pp tags : Bool) : Dst := fun idx addr len =>
  match elementKeys s true 0 .base idx addr len with
  | .error c => .error (.fault c)
  | .ok ks =>
    let part := fun (w : Nat) => decide ((ks.filter fun k => k / 8 == w).length < 8)
    if ((ks.map (· / 8)).any fun w => s.fieldBad.contains w && part w) || (tags && ks.any fun k => s.ftagBad.contains (k / 8192)) then
      if pp then .ok true else .error (.fault (bFault 7 addr idx 0 false))
    else .ok false

/-- Address of element i of an operand in mode 0b00, 0b01 or 0b11 (R150); `x` is its index value. -/
def elementAddr (e : Entry) (n : Reg) (m : BitVec 2) (bits i x : Nat) : Int :=
  let base : Int := (e.reg n).toNat
  if m = 0 then base + (i * bits / 8 : Nat)
  else if m = 1 then base + (i : Int) * (e.reg1 n).toInt * (bits / 8 : Nat)
  else base + (x * (bits / 8) : Nat)

/-- The index value of element i of an indexed operand: U32 at s[n + 1] + 4i (R150). -/
def indexValue (rd : Rd) (e : Entry) (op : Nat) (n : Reg) (m : BitVec 2) (i : Nat) : Except Stop (Nat × Bool) :=
  if m = 3 then do
    let (bs, bad) ← rd op .array i ((e.reg1 n).toNat + (4 * i : Nat) : Nat) 4
    pure (leNat bs, bad)
  else pure (0, false)

/-- Element i of a source operand: its code in `bits` bits, and whether it came from an uncorrectable word (R150, R446). -/
def readElement (rd : Rd) (e : Entry) (op : Nat) (n : Reg) (m : BitVec 2) (bits i : Nat) : Except Stop (Nat × Bool) :=
  if m = 2 then pure ((e.reg n).toNat % 2 ^ bits, false)
  else do
    let (x, bad1) ← indexValue rd e op n m i
    let len := if bits < 8 then 1 else bits / 8
    let (bs, bad2) ← rd op (if m = 3 then .index else .base) i (elementAddr e n m bits i x) len
    let v := leNat bs
    pure (if bits < 8 then v / 2 ^ (i * bits % 8) % 2 ^ bits else v, bad1 || bad2)

/-- Whether element i is active, and whether its mask byte was uncorrectable (R151). -/
def active (rd : Rd) (e : Entry) (msk : BitVec 2) (i : Nat) : Except Stop (Bool × Bool) :=
  if msk = 0 then pure (true, false)
  else do
    let (bs, bad) ← rd 4 .base i ((e.cap.emask + i / 8 : Nat) : Int) 1
    pure ((leNat bs / 2 ^ (i % 8) % 2 == 1) == (msk == 1), bad)

/-- The writes of an element code of `bits` bits at an address (R76 for sub-byte elements). -/
def codeWrites (addr bits i code : Nat) : List Wr :=
  if bits < 8 then
    let sh := i * bits % 8
    [⟨addr, (2 ^ bits - 1) * 2 ^ sh, code % 2 ^ bits * 2 ^ sh⟩]
  else (List.range (bits / 8)).map fun j => ⟨addr + j, 255, code / 2 ^ (8 * j) % 256⟩

/-- A byte range [lo, hi) of F-space. -/
abbrev Range := Nat × Nat

/-- Whether two lists of ranges share a byte (R102); an empty range holds none. -/
def rangesOverlap (a b : List Range) : Bool := a.any fun x => b.any fun y => decide (max x.1 y.1 < min x.2 y.2)

/-- Footprint of one BX operand (R102). An indexed destination counts with its index array, as R102 lists it; the array is a read
operand too (R231). That the array belongs to the destination footprint as well is the model's reading (assumption log 56). -/
def operandRanges (g : Gang) (e : Entry) (n : Reg) (m : BitVec 2) (bits count : Nat) : List Range :=
  if count = 0 then [] else
  let base := (e.reg n).toNat
  if m = 0 then [(base, base + (count * bits + 7) / 8)]
  else if m = 1 then
    let last := elementAddr e n 1 bits (count - 1) 0
    let lo := if last < base then last else base
    let hi := if last < base then (base : Int) else last
    [(lo.toNat, hi.toNat + bits / 8)]
  else if m = 2 then []
  else
    let win := match findUp (fun w => (g.window w).holds base) 0 64 with
      | some w => [((g.window w).base, (g.window w).base + (g.window w).size)]
      | none => []
    ((e.reg1 n).toNat, (e.reg1 n).toNat + 4 * count) :: win

/-- Footprint of the mask (R102). -/
def maskRanges (e : Entry) (msk : BitVec 2) : List Range :=
  if msk = 0 ∨ e.cap.ecount = 0 then [] else [(e.cap.emask, e.cap.emask + (e.cap.ecount + 7) / 8)]

/-- Every valid window of a gang, whole: the data footprint of VSPADD and VSPMUL (R285). -/
def allWindows (g : Gang) : List Range :=
  (g.windows.filter fun p => p.2.valid).map fun p => (p.2.base, p.2.base + p.2.size)

/-- REP of a tile instruction (R156). -/
def tileRep (f : TX) : Nat := f.repm1.toNat + 1

/-- TOP codes by instruction (R157). -/
def topCode : Instr → Nat
  | .tmma _ => 0 | .tew _ => 1 | .tact _ => 2 | .trowr _ => 3 | .tsoft _ => 4 | .ttrn _ => 5 | .tcvt _ => 6 | .tcpy _ => 7
  | .tfill _ => 8 | .ttagr _ => 0x10 | _ => 0x11

/-- Which frame operands a tile operator reads: a and b (R157). -/
def tileUsesA : Instr → Bool
  | .tfill _ => false
  | _ => true
def tileUsesB : Instr → Bool
  | .tmma _ | .tew _ => true
  | _ => false

/-- Destination footprint of an entry (R102, R327). -/
def destRanges (g : Gang) (e : Entry) : List Range :=
  match bxFields e.instr, txFields e.instr with
  | some f, _ =>
    match e.instr with
    | .vcmp _ => operandRanges g e f.d 0 1 e.cap.ecount
    | .vcvtf4 _ => [((e.reg f.d).toNat, (e.reg f.d).toNat + 8192 * (e.cap.ecount / f4Elems f))]
    | .vspadd _ | .vspmul _ => operandRanges g e f.d 0 128 e.cap.ecount ++ allWindows g
    | i =>
      if isReduction i then (if f.dm = 0 then [((e.reg f.d).toNat, (e.reg f.d).toNat + (destBits i f + 7) / 8)] else [])
      else operandRanges g e f.d f.dm (destBits i f) e.cap.ecount
  | none, some f =>
    let d := (e.reg f.d).toNat
    match e.instr with
    | .tmma _ => [(d, d + 8192 * e.cap.tcount * tileRep f)]
    | .ttagr _ => [(d, d + 8 * e.cap.tcount)]
    | _ => [(d, d + 8192 * e.cap.tcount)]
  | none, none => []

/-- A read operand of an entry: operand code, whether the index array, chain bit, footprint (R231). -/
structure ReadOperand where
  code : Nat
  index : Bool
  chain : Bool
  ranges : List Range
  deriving DecidableEq, Repr

/-- The read operands of an entry: sources with their index arrays, and the mask (R102, R231, R327). -/
def readOperands (g : Gang) (e : Entry) : List ReadOperand :=
  match bxFields e.instr, txFields e.instr with
  | some f, _ =>
    let w := efBits f.ef.toNat
    let n := e.cap.ecount
    let src := fun (code : Nat) (r : Reg) (m : BitVec 2) (c : BitVec 1) =>
      match e.instr with
      | .vspadd _ | .vspmul _ => [(⟨code, false, c == 1, operandRanges g e r 0 128 n ++ allWindows g⟩ : ReadOperand)]
      | _ =>
        let rs := operandRanges g e r m w n
        if m = 3 then [⟨code, true, c == 1, rs.take 1⟩, ⟨code, false, c == 1, rs.drop 1⟩] else [⟨code, false, c == 1, rs⟩]
    let idx := if f.dm = 3 then [(⟨0, true, false, [((e.reg1 f.d).toNat, (e.reg1 f.d).toNat + 4 * n)]⟩ : ReadOperand)] else []
    let old := match e.instr with
      | .vscatadd _ | .vscatmax _ | .vscatmin _ => [(⟨0, false, false, operandRanges g e f.d f.dm w n⟩ : ReadOperand)]
      | .vspadd _ | .vspmul _ => [(⟨0, false, false, operandRanges g e f.d 0 128 n⟩ : ReadOperand)]
      | _ => []
    src 1 f.a f.am f.ca ++ (if usesB e.instr then src 2 f.b f.bm f.cb else [])
      ++ (if usesC e.instr then src 3 f.c f.cm f.cc else []) ++ idx ++ old
      ++ (if f.msk = 0 then [] else [⟨4, false, false, maskRanges e f.msk⟩])
  | none, some f =>
    let t := e.cap.tcount
    let fr := fun (code : Nat) (r : Reg) (c : BitVec 1) (bytes : Nat) =>
      (⟨code, false, c == 1, [((e.reg r).toNat, (e.reg r).toNat + bytes)]⟩ : ReadOperand)
    match e.instr with
    | .tmma _ => [fr 0 f.d 0 (8192 * t * tileRep f), fr 1 f.a f.ca (8192 * t + 8192 * ((t + 1023) / 1024)),
        fr 2 f.b f.cb (8192 * t * tileRep f)]
    | .ttagw _ => [fr 1 f.a f.ca (8 * t)]
    | i => (if tileUsesA i then [fr 1 f.a f.ca (8192 * t)] else []) ++ (if tileUsesB i then [fr 2 f.b f.cb (8192 * t)] else [])
  | none, none => []

/-- Whether an entry may run block code, which can load any byte of the field: VRUNB, and a tile instruction for whose operator the
method table holds a KIND 1 entry (R291, R303, R308). -/
def runsBlock (g : Gang) (e : Entry) : Bool :=
  match e.instr, txFields e.instr with
  | .vrunb _, _ => true
  | .ttagr _, _ | .ttagw _, _ => false
  | i, some _ => g.methods.any fun p => bit p.2.w0 15 && bitsOf p.2.w0.toNat 16 2 == 1 && bitsOf p.2.w0.toNat 0 8 == topCode i
  | _, none => false

/-- All the bytes that an entry may read: its operands, and every window of the gang where it runs block code (R114, R231). -/
def readFootprint (g : Gang) (e : Entry) : List Range :=
  ((readOperands g e).flatMap fun r => r.ranges) ++ if runsBlock g e then allWindows g else []

/-- The operands of an element instruction that are read through an index array (R150): operand code and register. -/
def indexedSources (e : Entry) (f : BX) : List (Nat × Reg) :=
  ([(1, f.a, f.am, true), (2, f.b, f.bm, usesB e.instr), (3, f.c, f.cm, usesC e.instr)].filter fun x => x.2.2.1 == 3 && x.2.2.2).map
    fun x => (x.1, x.2.1)

/-- R238: an operand is aligned with the destination when mode, base, stride and element width agree. -/
def alignedOperand (e : Entry) (f : BX) (r : ReadOperand) : Bool :=
  let pick := match r.code with | 1 => some (f.a, f.am) | 2 => some (f.b, f.bm) | 3 => some (f.c, f.cm) | _ => none
  match pick with
  | some (n, m) =>
    !r.index && (m == 0 || m == 1) && m == f.dm && e.reg n == e.reg f.d && (m == 0 || e.reg1 n == e.reg1 f.d)
      && efBits f.ef.toNat == destBits e.instr f
  | none => false

/-- Instructions for which the alignment exception does not apply (R271). -/
def readsOtherIndices (i : Instr) : Bool :=
  match i with
  | .vrev _ | .vreshape _ | .vcompress _ | .vexpand _ | .vscan _ | .vconfl _ => true
  | i => isReduction i

/-- Whether an entry is staged (R238, R271, R285). -/
def isStaged (g : Gang) (e : Entry) : Bool :=
  let d := destRanges g e
  match e.instr, bxFields e.instr, txFields e.instr with
  | .vscatadd _, _, _ | .vscatmax _, _, _ | .vscatmin _, _, _ | .vrunb _, _, _ => true
  | .vspadd _, _, _ | .vspmul _, _, _ => false
  | i, some f, _ =>
    (readOperands g e).any fun r => rangesOverlap r.ranges d && (readsOtherIndices i || !alignedOperand e f r)
  | _, none, some f =>
    let same := fun (c : Nat) => match c with | 0 => true | 1 => e.reg f.a == e.reg f.d | _ => e.reg f.b == e.reg f.d
    (readOperands g e).any fun r => rangesOverlap r.ranges d && !same r.code
  | _, none, none => false

/-- Bytes of staging store that a staged entry needs (R240, R271). -/
def stagingBytes (g : Gang) (e : Entry) : Nat :=
  let n := e.cap.ecount
  match bxFields e.instr, txFields e.instr with
  | some f, _ =>
    let w := efBits f.ef.toNat
    let op := fun (m : BitVec 2) => (if m = 2 then 0 else (n * w + 7) / 8) + (if m = 3 then 4 * n else 0)
    let extra := match e.instr with
      | .vscatadd _ | .vscatmax _ | .vscatmin _ | .vrunb _ => n * (w / 8)
      | _ => 0
    op f.am + (if usesB e.instr then op f.bm else 0) + (if usesC e.instr then op f.cm else 0)
      + (if f.dm = 3 then 4 * n else 0) + (if f.msk = 0 then 0 else (n + 7) / 8) + extra
  | none, some _ =>
    match e.instr with
    | .ttagr _ => 8 * e.cap.tcount
    | _ => (readOperands g e).foldl (fun acc r => acc + r.ranges.foldl (fun a x => a + (x.2 - x.1)) 0) 0
  | none, none => 0

/-- The misaligned base of R59: operand code and address of the first array whose base is not a multiple of its element, the data array of an
indexed operand too (assumption log 78), and whether it is an operand's index array. -/
def misalignedBase (e : Entry) : Option (Nat × Nat × Bool) :=
  match bxFields e.instr, txFields e.instr with
  | some f, _ =>
    let w := efBits f.ef.toNat
    let chk := fun (code : Nat) (n : Reg) (m : BitVec 2) (bits : Nat) =>
      if m = 2 then none
      else if bits ≥ 16 ∧ (e.reg n).toNat % (bits / 8) ≠ 0 then some (code, (e.reg n).toNat, false)
      else if m = 3 ∧ (e.reg1 n).toNat % 4 ≠ 0 then some (code, (e.reg1 n).toNat, true)
      else none
    let hdr := match e.instr with | .vspadd _ | .vspmul _ => true | _ => false
    let w := if hdr then 128 else w
    (chk 0 f.d f.dm (destBits e.instr f)).orElse fun _ => (chk 1 f.a f.am w).orElse fun _ =>
      (if usesB e.instr then chk 2 f.b f.bm w else none).orElse fun _ => (if usesC e.instr then chk 3 f.c f.cm w else none)
  | none, some f =>
    let chk := fun (code k : Nat) (n : Reg) => if (e.reg n).toNat % k ≠ 0 then some (code, (e.reg n).toNat, false) else none
    match e.instr with
    | .ttagr _ => (chk 0 8 f.d).orElse fun _ => chk 1 8192 f.a
    | .ttagw _ => (chk 0 8192 f.d).orElse fun _ => chk 1 8 f.a
    | i => (chk 0 8192 f.d).orElse fun _ => (if tileUsesA i then chk 1 8192 f.a else none).orElse fun _ =>
        (if tileUsesB i then chk 2 8192 f.b else none)
  | none, none => none

/-- Registers an instruction captures (R101): numbers of the registers its operands name. -/
def capturedRegs (i : Instr) : List Nat :=
  match bxFields i, txFields i with
  | some f, _ =>
    let op := fun (n : Reg) (m : BitVec 2) => if m = 1 ∨ m = 3 then [n.toNat, n.toNat + 1] else [n.toNat]
    (if toReadQueue i then [] else op f.d f.dm) ++ op f.a f.am ++ (if usesB i && !bIsImmediate i then op f.b f.bm else [])
      ++ (if usesC i then op f.c f.cm else [])
  | none, some f =>
    [f.d.toNat, f.a.toNat] ++ (if tileUsesB i then [f.b.toNat] else [])
  | none, none => []

/-- Captured control values that differ between an entry and the one before it (R193). -/
def captureDiff (a b : Capture) : Nat :=
  b2n (a.ecount != b.ecount) + b2n (a.estart != b.estart) + b2n (a.emask != b.emask) + b2n (a.ectrl != b.ectrl)
    + b2n (a.tcount != b.tcount) + b2n (a.convres != b.convres) + b2n (a.nblk != b.nblk)

/-- Bytes of the queue-frame budget that a list of entries takes (R193): 48 an entry, 8 a captured register, 8 a captured
control register that differs from the entry before (all seven for the oldest). -/
def frameBudget : Option Capture → List Entry → Nat
  | _, [] => 0
  | prev, e :: es =>
    48 + 8 * (capturedRegs e.instr).length + 8 * (match prev with | none => 7 | some c => captureDiff c e.cap)
      + frameBudget (some e.cap) es

end Sys2Proof.Machine
end

