-- ==== Sys2Proof/Machine/Flags.lean ====
section
/-! DEFINITION. Flag computations: the lowest index of each flag (R91, R92), their merge at retirement, and the rounding mode
that an instruction captured (R84, R86, R87). -/
namespace Sys2Proof.Machine

/-- The smaller of two indices that may be absent. -/
def minIdx : Option Nat → Option Nat → Option Nat
  | none, y => y
  | x, none => x
  | some x, some y => some (if x ≤ y then x else y)

/-- Merge the flags of two runs (R92). -/
def Flags.merge (a b : Flags) : Flags :=
  ⟨minIdx a.nv b.nv, minIdx a.dz b.dz, minIdx a.of b.of, minIdx a.uf b.uf, minIdx a.nx b.nx⟩

/-- Flags raised at one index (R91). -/
def flagsAt (f : Fl) (i : Nat) : Flags :=
  let g := fun (k : Nat) => if f.toNat / 2 ^ k % 2 = 1 then some i else none
  ⟨g 0, g 1, g 2, g 3, g 4⟩

/-- Flags whose indices count on from another. -/
def Flags.shift (a : Flags) (n : Nat) : Flags :=
  ⟨a.nv.map (n + ·), a.dz.map (n + ·), a.of.map (n + ·), a.uf.map (n + ·), a.nx.map (n + ·)⟩

/-- The flags as EFLAGS bits (R91). -/
def Flags.bits (a : Flags) : Nat :=
  b2n a.nv.isSome + 2 * b2n a.dz.isSome + 4 * b2n a.of.isSome + 8 * b2n a.uf.isSome + 16 * b2n a.nx.isSome

/-- An FX register: the lowest index or all ones (R91). -/
def fxValue : Option Nat → Word
  | some i => w64 i
  | none => BitVec.allOnes 64

/-- The flags of several indices charged to one (R290). -/
def Flags.chargedTo (a : Flags) (i : Nat) : Flags := flagsAt (BitVec.ofNat 5 a.bits) i

/-- EFLAGS and the FX registers at the retirement of an instruction (R92). -/
def Gang.retireFlags (g : Gang) (f : Flags) : Gang :=
  { g with
    eflags := g.eflags ||| w64 f.bits
    fxnv := fxValue f.nv
    fxdz := fxValue f.dz
    fxof := fxValue f.of
    fxuf := fxValue f.uf
    fxnx := fxValue f.nx }

/-- ECTRL fields (R88). -/
def ectrlRm (c : Word) : Nat := c.toNat % 8
def ectrlTen (c : Word) : Nat := bitsOf c.toNat 4 5
def ectrlPp (c : Word) : Bool := bit c 9
def ectrlState (c : Word) : Nat := bitsOf c.toNat 16 16
def ectrlSeed (c : Word) : Nat := bitsOf c.toNat 32 32

/-- A rounding code with DYN resolved by ECTRL.RM (R84, R86). -/
def modeOf (rnd : Nat) (ectrl : Word) : Mode :=
  match (if rnd = 6 then ectrlRm ectrl else rnd) with
  | 0 => .rne | 1 => .rtz | 2 => .rup | 3 => .rdn | 4 => .rna | _ => .sr

/-- Whether an instruction rounds with SR, named or through DYN (R87). -/
def roundsSr (rnd : Nat) (ectrl : Word) : Bool := modeOf rnd ectrl == .sr

/-- ECTRL with SRSTATE advanced by 1 modulo 2^16 (R87). -/
def advanceSr (c : Word) : Word := setBits c 16 16 (ectrlState c + 1)

/-- The draw of an entry at draw index i (R87). -/
def drawOf (c : Capture) (i : Nat) : Nat := srDraw (ectrlSeed c.ectrl) (ectrlState c.ectrl) i

end Sys2Proof.Machine
end

