-- ==== Sys2Proof/Machine/Reads.lean ====
section
/-! DEFINITION. What an entry of the broadcast queue reads in the field: as it stood before the entry wrote there (R104, R105), with the
uncorrectable words that ECTRL.PP lets pass (R446). -/
namespace Sys2Proof.Machine

/-- Where an entry's reads come from: operand, what of it, element index, address, length, whether the frame's tag is wanted too.
The answer: bytes, whether a word was uncorrectable, the tag. -/
abbrev Src := (op : Nat) → (via : Via) → (idx : Nat) → (addr : Int) → (len : Nat) → (tag : Bool) →
  Except Stop (List Byte × Bool × Word)

/-- A field byte as entry e reads it, `none` where it is uncorrectable: as it stood before e wrote it (R104, R105). -/
def entryByte (s : State) (e : Entry) (k : Nat) : Option Byte :=
  match mfind e.old k with
  | some v => if v < 256 then some (BitVec.ofNat 8 v) else none
  | none => if s.fieldBad.contains (k / 8) then none else some (rdByte s.field k)

/-- The tag of the frame at a key as entry e reads it, `none` where it is uncorrectable (R63, R104). -/
def entryTag (s : State) (e : Entry) (k : Nat) : Option Word :=
  match mfind e.oldTags (k / 8192) with
  | some v => if v < 2 ^ 64 then some (w64 v) else none
  | none => if s.ftagBad.contains (k / 8192) then none else some (tagOfKey s k)

/-- The bytes at field keys, with uncorrectable words as zeros when PP lets them pass (R446). -/
def keysRead (s : State) (e : Entry) (op : Nat) (via : Via) (idx : Nat) (addr : Int) (ks : List Nat) : Except Stop (List Byte × Bool) :=
  let bs := ks.map (entryByte s e)
  if bs.all Option.isSome then .ok (bs.map fun b => b.getD 0, false)
  else if ectrlPp e.cap.ectrl then .ok (bs.map fun b => b.getD 0, true)
  else .error (.fault (bFault 7 addr idx op (via == .array)))

/-- The tag of the frame at a key, zero where it is uncorrectable and PP lets it pass (R63, R446, R459). -/
def tagRead (s : State) (e : Entry) (op idx : Nat) (addr : Int) (k : Nat) : Except Stop (Word × Bool) :=
  match entryTag s e k with
  | some t => .ok (t, false)
  | none => if ectrlPp e.cap.ectrl then .ok (0, true) else .error (.fault (bFault 7 addr idx op false))

/-- Reads of the field as it stood before entry e (R104, R113). -/
def snapshotSrc (s : State) (e : Entry) : Src := fun op via idx addr len wantTag =>
  match elementKeys s false op via idx addr (if len = 0 then 1 else len) with
  | .error c => .error (.fault c)
  | .ok ks => do
    let (bs, bad) ← keysRead s e op via idx addr (ks.take len)
    if wantTag then
      let (t, badT) ← tagRead s e op idx addr (ks.headD 0)
      pure (bs, bad || badT, t)
    else pure (bs, bad, 0)

/-- A read oracle without tags. -/
def rdOf (src : Src) : Rd := fun op via idx addr len => (src op via idx addr len false).map fun x => (x.1, x.2.1)

end Sys2Proof.Machine
end

