-- ==== Sys2Proof/Machine/Copy.lean ====
section
/-! DEFINITION. The copy engine: the elements of a copy (R346 to R348), reading and writing one of them, tags (R351), signals (R352),
the range scoreboard (R353 to R355), stops and restart (R356 to R358). RunChannel lands the elements of a copy in order, COPY_ELEMENT_LAND any outstanding one that need
not follow another; those of one aligned 8-byte unit land together (R108, R111; assumption log 16). -/
namespace Sys2Proof.Machine

def Copy.srcF (c : Copy) : Bool := c.dir == 1 || c.dir == 2
def Copy.dstF (c : Copy) : Bool := c.dir == 0 || c.dir == 2
/-- Bytes of an element of COPYND, GATHER and SCATTER. -/
def Copy.size (c : Copy) : Nat := 2 ^ c.esz

/-- Number of elements of a copy (R346 to R348). -/
def Copy.elements (c : Copy) : Nat :=
  match c.kind with
  | 0 => if c.count = 0 then 0 else (c.dst % 8 + c.count + 7) / 8
  | 1 => c.dims.foldl (fun n d => n * d.2) 1
  | _ => c.count

/-- Σ i_j × STRIDE_j for element i, dimension 0 innermost (R347). -/
def shapeOffset : List (Int × Nat) → Nat → Int
  | [], _ => 0
  | (st, ext) :: r, i => (i % ext : Nat) * st + shapeOffset r (i / ext)

/-- One element: source address, destination address, bytes. -/
structure CopyElem where
  src : Int
  dst : Int
  len : Nat
  deriving DecidableEq, Repr

/-- The element's addresses, with x the index of a GATHER or SCATTER element (R346 to R348). -/
def Copy.elem (c : Copy) (i x : Nat) : CopyElem :=
  let z := c.size
  match c.kind with
  | 0 =>
    let u := c.dst / 8 * 8 + 8 * i
    let lo := max c.dst u
    let hi := min (c.dst + c.count) (u + 8)
    ⟨(c.src + (lo - c.dst) : Nat), (lo : Nat), hi - lo⟩
  | 1 =>
    let sh := shapeOffset c.dims i
    if c.side = 0 then ⟨(c.src : Int) + sh, ((c.dst + i * z : Nat) : Int), z⟩
    else ⟨((c.src + i * z : Nat) : Int), (c.dst : Int) + sh, z⟩
  | 2 => ⟨((c.src + z * x : Nat) : Int), ((c.dst + z * i : Nat) : Int), z⟩
  | _ => ⟨((c.src + z * i : Nat) : Int), ((c.dst + z * x : Nat) : Int), z⟩

/-- What stops or holds an element: the CHSTAT error bit (NP, PM, FR, UE, NK, GA, SG), the address and the channel code above the
channel number (R219, R343, R356); or a page that migrates (R360). -/
inductive CopyStop where
  | fault (bit : Nat) (addr : Int) (code : Nat)
  | hold
  deriving DecidableEq, Repr

/-- The keys of field bytes for one side of an element; a byte that does not resolve is FR (R57, R356). -/
def copyKeys (s : State) (addr : Int) (len : Nat) (write : Bool) : Except CopyStop (List Nat) :=
  (List.range len).foldl (fun acc j =>
    match acc with
    | .error e => .error e
    | .ok ks =>
      let a := addr + (j : Nat)
      if a < 0 ∨ 2 ^ 32 ≤ a then .error (.fault 2 addr (32 + 8 * b2n write))
      else match fieldAt s a.toNat write with
        | .error _ => .error (.fault 2 addr (32 + 8 * b2n write))
        | .ok k => .ok (ks ++ [k])) (.ok [])

/-- Translate one side of an element (R70, R356). -/
def copyTranslate (s : State) (addr : Int) (write : Bool) : Except CopyStop Nat :=
  let w := 8 * b2n write
  if addr < 0 ∨ 2 ^ 48 ≤ addr then .error (.fault 5 addr w)
  else match translateFull s s.g.lead s.g.pasid addr.toNat (if write then .write else .read) with
    | .ok pa _ => .ok pa
    | .notPresent => .error (.fault 0 addr (16 + w))
    | .permission => .error (.fault 1 addr w)
    | .shape => .error (.fault 5 addr w)
    | .migrating => .error .hold

/-- What a byte of peer or host memory is, whichever peer window names it (R414). -/
def farByte (s : State) (pa : Nat) : Nat × Nat := if region pa = 1 then (1, peerCell s pa) else (0, pa)

/-- Whether a byte of peer or host memory has a write of this gang that its target has not acknowledged (R182). -/
def pendingWrite (s : State) (pa len : Nat) : Bool :=
  s.unacked.any fun u => u.gang == s.g.id && region u.pa == region pa &&
    (List.range len).any fun i => (List.range u.bytes.length).any fun j => farByte s (u.pa + j) == farByte s (pa + i)

/-- The kind of a G-side access for hotness (R366). -/
def Copy.heatKind (c : Copy) : HotKind :=
  match c.kind with
  | 0 => .uni
  | 1 => (match c.dims with | (st, _) :: _ => if st = c.size then .uni else .str | [] => .uni)
  | _ => .idx

/-- A walk register's position moves on when an access touches the page that holds it (R362). -/
def touchWalks (s : State) (va : Nat) : State :=
  let size := pageSize s s.g.lead s.g.pasid va
  let move := fun (w : Walk) =>
    if bitsOf w.pattern.toNat 40 8 ≠ 0 ∧ w.position.toNat / size = va / size then
      { w with position := w.position + sextNat w.pattern.toNat 40 }
    else w
  { s with g := { s.g with walks := s.g.walks.map fun p => (p.1, move p.2) } }

/-- A translation of the selected gang is used (R361). -/
def useG (s : State) (va : Nat) : State := hubUse s s.g.lead s.g.pasid va

/-- What a G-side access of a copy leaves besides its data: the hub's fill, its page's hotness record and the walk registers' positions
(R361, R362, R366). -/
def Copy.touchPage (c : Copy) (s : State) (va : Nat) : State := touchWalks (heat (useG s va) s.g.lead s.g.pasid va c.heatKind) va

/-- What a refused translation of a copy leaves: the walk's reads (R360, R377). -/
def refusedAt (s : State) (addr : Int) : CopyStop → State
  | .fault _ _ _ => if addr < 0 ∨ 2 ^ 48 ≤ addr then s else useG s addr.toNat
  | .hold => s

/-- First byte and one past the last byte of the shaped side of a COPYND, its base left out (R347). -/
def shapeSpan (z : Nat) (dims : List (Int × Nat)) : Int × Int :=
  dims.foldl (fun b d => let x := d.1 * ((d.2 : Int) - 1); (b.1 + min 0 x, b.2 + max 0 x)) (0, (z : Int))

/-- Whether a copy may write bytes that it reads: source and destination lie in one space, and the stretches from their first to their
last bytes meet (R346, R347). -/
def Copy.mayOverlap (c : Copy) : Bool :=
  let dense : Int × Int := (0, (c.elements * c.size : Nat))
  let both := fun (a b : Int × Int) => decide ((c.src : Int) + a.1 < c.dst + b.2) && decide ((c.dst : Int) + b.1 < c.src + a.2)
  decide (2 ≤ c.dir) && match c.kind with
    | 0 => both (0, c.count) (0, c.count)
    | _ => let sh := shapeSpan c.size c.dims; if c.side = 0 then both sh dense else both dense sh

/-- A source byte of a copy, `none` where it is uncorrectable: as it stood before the copy wrote there (R346). -/
def Copy.byteAt (c : Copy) (k : Nat) (now : Option Byte) : Option Byte :=
  match mfind c.saved k with
  | some v => if v < 256 then some (BitVec.ofNat 8 v) else none
  | none => now

/-- Keep bytes that the copy is about to overwrite and may still read. -/
def Copy.saveBytes (c : Copy) (ks : List Nat) (now : Nat → Option Byte) : Copy :=
  if !c.mayOverlap then c else
  { c with saved := ks.foldl (fun m k => if (mfind m k).isSome then m else mput m k (match now k with | some b => b.toNat | none => 256)) c.saved }

/-- A field byte as it stands, `none` where it is uncorrectable. -/
def fieldNow (s : State) (k : Nat) : Option Byte := if s.fieldBad.contains (k / 8) then none else some (rdByte s.field k)
/-- A byte of physical memory as it can be delivered, if it can (R380). -/
def memNow (s : State) (p : Nat) : Option Byte := (physPeek s p 1).bind List.head?

/-- A run of G-bytes cut at a page end (R70). -/
def pagePieces (addr : Int) (len : Nat) : List (Int × Nat) :=
  let n := 65536 - (addr % 65536).toNat
  if len ≤ n then [(addr, len)] else [(addr, n), (addr + n, len - n)]

/-- Read the source bytes of an element that lie in one page. -/
def copyReadPage (s : State) (c : Copy) (addr : Int) (len : Nat) : State × Except CopyStop (List (Option Byte)) :=
  match copyTranslate s addr false with
  | .error e => (refusedAt s addr e, .error e)
  | .ok pa =>
    if (List.range len).any fun j => (mfind c.saved (pa + j)).isNone && pendingWrite s (pa + j) 1 then (s, .error .hold)
    else (physTouch (c.touchPage s addr.toNat) pa len, .ok ((List.range len).map fun j => c.byteAt (pa + j) (memNow s (pa + j))))

/-- Read the source bytes of an element; an uncorrectable one is `none`. -/
def copyBytes (s : State) (c : Copy) (isF : Bool) (addr : Int) (len : Nat) : State × Except CopyStop (List (Option Byte)) :=
  if isF then (s, (copyKeys s addr len false).map fun ks => ks.map fun k => c.byteAt k (fieldNow s k))
  else (pagePieces addr len).foldl (fun (acc : State × Except CopyStop (List (Option Byte))) x =>
    match acc with
    | (s, .error e) => (s, .error e)
    | (s, .ok bs) => (let (s, r) := copyReadPage s c x.1 x.2; (s, r.map (bs ++ ·)))) (s, .ok [])

/-- Read the source bytes of an element, and whether an uncorrectable word was delivered as zeros (R356, R446). The address of a stop is
that of the element's first source byte (assumption log 72). -/
def copyRead (s : State) (c : Copy) (isF : Bool) (addr : Int) (len : Nat) : State × Except CopyStop (List Byte × Bool) :=
  match copyBytes s c isF addr len with
  | (s, .error e) => (s, .error e)
  | (s, .ok bs) =>
    let bad := bs.any Option.isNone
    (s, if bad && !c.pp then .error (.fault 3 addr (32 * b2n isF)) else .ok (bs.map fun b => b.getD 0, bad))

/-- Where the destination bytes of an element lie: keys of the field, or a physical address. -/
inductive Landing where
  | field (ks : List Nat)
  | phys (pa : Nat)
  deriving DecidableEq, Repr

/-- Resolve or translate the destination of an element (R57, R70). -/
def copyLanding (s : State) (c : Copy) (addr : Int) (len : Nat) : Except CopyStop Landing :=
  if c.dstF then (copyKeys s addr len true).map .field else (copyTranslate s addr true).map .phys

/-- The frames under a destination: field frames as they are, frames of local HBM above 2^32, none elsewhere (R63, R72). -/
def Landing.frames : Landing → List Nat
  | .field ks => (ks.map (· / 8192)).eraseDups
  | .phys pa => if region pa = 0 then [2 ^ 32 + pa / 8192] else []

/-- The tag of a frame so numbered, `none` where it is uncorrectable. -/
def frameTagNow (s : State) (f : Nat) : Option Word :=
  if f < 2 ^ 32 then (if s.ftagBad.contains f then none else some (mget rawTag s.ftags f)) else hbmTag s (f - 2 ^ 32)

/-- Write the tag of a frame so numbered. -/
def putFrameTag (s : State) (f : Nat) (t : Word) : State :=
  if f < 2 ^ 32 then { s with ftags := mset rawTag s.ftags f t, ftagBad := s.ftagBad.filter (· != f) } else setHbmTag s (f - 2 ^ 32) t

/-- Keep the tag of a frame that the copy is about to change and may still carry elsewhere (R110, R346). -/
def Copy.saveTag (c : Copy) (s : State) (f : Nat) : Copy :=
  if !c.mayOverlap || (mfind c.savedTags f).isSome then c
  else { c with savedTags := mput c.savedTags f (match frameTagNow s f with | some t => t.toNat | none => 2 ^ 64) }

/-- A frame's tag as it stood before the copy changed it. -/
def Copy.tagAt (c : Copy) (s : State) (f : Nat) : Option Word :=
  match mfind c.savedTags f with
  | some v => if v < 2 ^ 64 then some (w64 v) else none
  | none => frameTagNow s f

/-- The dimensions of a shape, from the innermost on, over which elements of z bytes follow one another without a gap: how many
elements. -/
def contiguous (z : Nat) : List (Int × Nat) → Nat → Nat
  | [], n => n
  | (st, ext) :: r, n => if st = ((z * n : Nat) : Int) ∨ ext = 1 then contiguous z r (n * ext) else n

/-- The run of consecutive destination bytes that holds element i: its first element, its address and its length in bytes (R373). -/
def Copy.runOf (c : Copy) (i : Nat) : Nat × Int × Nat :=
  match c.kind with
  | 0 => (0, (c.dst : Nat), c.count)
  | 1 =>
    if c.side = 0 then (0, (c.dst : Nat), c.elements * c.size)
    else
      let m := max 1 (contiguous c.size c.dims 1)
      (i / m * m, (c.dst : Int) + shapeOffset c.dims (i / m * m), m * c.size)
  | _ => (i, (c.elem i 0).dst, 0)

/-- The first and last elements that write the stripe at physical address pa, where the copy writes every data unit of it in one run of
consecutive bytes without a stop inside it, so that its parity comes from the new data alone (R373). -/
def fullStripe (s : State) (c : Copy) (i : Nat) (va : Int) (pa : Nat) : Option (Nat × Nat) :=
  let (base, n) := stripeSpan s pa
  let lo := va - ((pa - base : Nat) : Int)
  let (first, ra, len) := c.runOf i
  let maps := fun (v : Int) (p : Nat) => match copyTranslate s v true with | .ok q => q == p | .error _ => false
  let unit := if c.kind = 0 then 8 else c.size
  let start := if c.kind = 0 then ((c.dst / 8 * 8 : Nat) : Int) else ra
  let e0 := first + ((lo - start) / (unit : Int)).toNat
  let e1 := first + ((lo + (n : Int) - 1 - start) / (unit : Int)).toNat
  if decide (ra ≤ lo) && decide (lo + (n : Int) ≤ ra + (len : Int)) && maps lo base && maps (lo + (n : Int) - 1) (base + n - 1)
    && c.stops.all fun e => !(decide (e0 < e) && decide (e ≤ e1)) then some (e0, e1) else none

/-- Whether element k of a copy has landed. -/
def Copy.hasLanded (c : Copy) (k : Nat) : Bool := decide (k < c.position) || c.landed.contains k

/-- A full-stripe write of elements e0 to e1 that is broken off: those of it that have landed were written under R372 after all, with its
reads (R373). Element j of them lies at physical address pa. -/
def breakStripe (s : State) (c : Copy) (e0 e1 j pa : Nat) : State :=
  let at0 := (c.elem j 0).dst
  let done := ((List.range (e1 + 1 - e0)).map (e0 + ·)).filter c.hasLanded
  let spans := done.map fun k => let x := c.elem k 0; (((pa : Int) + (x.dst - at0)).toNat, x.len)
  let within := fun (a : Nat) => spans.any fun x => decide (x.1 ≤ a) && decide (a < x.1 + x.2)
  let s := (spans.map fun x => x.1 / 512).eraseDups.foldl (fun s u =>
    let here := spans.filter fun x => x.1 / 512 == u
    let lo := here.foldl (fun m x => min m x.1) (512 * u + 511)
    let hi := here.foldl (fun m x => max m (x.1 + x.2)) lo
    physTouch s lo (hi - lo) true) (unreplace s pa)
  let whole := (stripeWords s pa s.memBad).filter fun w => (List.range 8).all fun b => within (8 * w + b)
  { s with memBad := s.memBad.filter fun w => !whole.contains w }

/-- The full-stripe write to which element k of a copy belongs, and the physical address of the element. -/
def stripeOf (s : State) (c : Copy) (k : Nat) : Option ((Nat × Nat) × Nat) :=
  if c.dstF ∨ 2 ≤ c.kind then none
  else
    let x := c.elem k 0
    match copyTranslate s x.dst true with
    | .error _ => none
    | .ok pa => if region pa ≠ 0 then none else (fullStripe s c k x.dst pa).map fun e => (e, pa)

/-- What a stop at element e leaves of the full-stripe writes that are not complete: the one in which it falls, and those of elements above
it that have landed (R373). -/
def brokenStripe (s : State) (c : Copy) (e : Nat) : State :=
  ((if e = 0 then [] else [e - 1]) ++ c.landed |>.foldl (fun (acc : State × List Nat) k =>
    match stripeOf s c k with
    | none => acc
    | some ((e0, e1), pa) =>
      if acc.2.contains e0 || (List.range (e1 + 1 - e0)).all (fun j => c.hasLanded (e0 + j)) then acc
      else (breakStripe acc.1 c e0 e1 k pa, e0 :: acc.2)) (s, [])).1

/-- Write element i in local HBM (R372, R373): an uncorrectable error where a lost stack or the rest of a word in error is needed (R380),
which ECTRL.PP lets pass (R356). `whole` says that the elements which land with it write its 8-byte unit whole. -/
def copyWriteHome (s : State) (c : Copy) (i : Nat) (addr : Int) (pa : Nat) (bs : List Byte) (whole : Bool) : State × Except CopyStop Bool :=
  let words := if whole then [pa / 8] else []
  match fullStripe s c i addr pa with
  | some (e0, e1) =>
    (physStripePart s pa bs words ((List.range (e1 + 1 - e0)).all fun j => e0 + j == i || c.hasLanded (e0 + j)), .ok false)
  | none =>
    if storeLost s (if whole then pa / 8 * 8 else pa) (if whole then 8 else bs.length) then
      (physTouch s pa bs.length true, if c.pp then .ok true else .error (.fault 3 addr 8))
    else
      let s := physWrite s pa bs
      ({ s with memBad := s.memBad.filter fun w => !words.contains w }, .ok false)

/-- Write element i: in the field with the partial-word rule of R459, in local HBM at once, in peer and host memory when acknowledged
(R129). `whole` says that the elements which land with it write its 8-byte unit whole (R108). The answer says whether a word was zeroed
or lost. -/
def copyWrite (s : State) (ch : Nat) (c : Copy) (i : Nat) (addr : Int) (bs : List Byte) (whole : Bool) : Landing → State × Copy × Except CopyStop Bool
  | .field ks =>
    let hit := (ks.map (· / 8)).eraseDups.filter fun w => s.fieldBad.contains w
    let part := !whole && hit.any fun w => decide ((ks.filter fun k => k / 8 == w).length < 8)
    if part && !c.pp then (s, c, .error (.fault 3 addr 40))
    else
      let f0 := hit.foldl (fun m w => wrBytes m (8 * w) (List.replicate 8 0)) s.field
      ({ s with
          field := (ks.zip bs).foldl (fun m p => wrByte m p.1 p.2) f0
          fieldBad := s.fieldBad.filter fun w => !hit.contains w }, c.saveBytes ks (fieldNow s), .ok part)
  | .phys pa =>
    let c' := c.saveBytes ((List.range bs.length).map (pa + ·)) (memNow s)
    let s' := c.touchPage s addr.toNat
    if region pa = 0 then
      let (t, r) := copyWriteHome s' c i addr pa bs whole
      (t, c', r)
    else ({ s' with unacked := s'.unacked ++ [⟨s.g.id, 1 + ch, c.num, addr.toNat, pa, bs, sendGen s pa, false⟩] }, c', .ok false)

/-- The index of a GATHER or SCATTER element, read from F-space (R348). -/
def copyIndex (s : State) (c : Copy) (i : Nat) : Except CopyStop (Nat × Bool) :=
  if c.kind < 2 then .ok (0, false)
  else match copyKeys s ((c.third + 4 * i : Nat) : Int) 4 false with
    | .error e => .error e
    | .ok ks =>
      let bad := ks.any fun k => s.fieldBad.contains (k / 8)
      if bad && !c.pp then .error (.fault 3 ((c.third + 4 * i : Nat) : Int) 32)
      else .ok (leNat (ks.map fun k => if s.fieldBad.contains (k / 8) then 0 else rdByte s.field k), bad)

/-- Elements that have not landed, in order. -/
def Copy.outstanding (c : Copy) : List Nat :=
  (List.range (c.elements - c.position)).filterMap fun k =>
    let i := c.position + k
    if c.landed.contains i then none else some i

/-- The destination address of an element, if its index can be read. -/
def copyDst (s : State) (c : Copy) (i : Nat) : Option Int :=
  if c.kind ≠ 3 then some (c.elem i 0).dst
  else match copyIndex s c i with
  | .ok (x, _) => some (c.elem i x).dst
  | .error _ => none

/-- The keys of the field bytes that element i writes; none of them where its destination is not in the field or does not resolve. -/
def writtenKeys (s : State) (c : Copy) (i : Nat) : List Nat :=
  let e := c.elem i 0
  if !c.dstF || decide (e.dst < 0) then []
  else (List.range e.len).filterMap fun j => (fieldAt s (e.dst.toNat + j) true).toOption

/-- Whether an outstanding element of a copy with an F destination lands in the granule of n bytes that holds a field byte: the
256-byte group of R353, or the frame whose tag the copy writes (R110). -/
def copyLands (n : Nat) (s : State) (c : Copy) (k : Nat) : Bool :=
  c.dstF && c.outstanding.any fun i => (writtenKeys s c i).any fun k' => k' / n == k / n

/-- Whether an outstanding element of a copy lands in the 256-byte group of a field byte (R353). -/
def copyAwaits (s : State) (c : Copy) (k : Nat) : Bool := copyLands 256 s c k

/-- Whether an instruction precedes a copy in gang order: a re-issued instruction keeps its place, and a handler's copies precede the
instructions that its ERET re-issues (R100, R105). -/
def entryBefore (j : Entry) (c : Copy) : Bool := decide (j.ord < c.isn) && !(c.handler && !j.handler)

/-- Whether a field byte waits for a copy that precedes an instruction of the broadcast stream (R109, R355). -/
def byteAwaitedBy (s : State) (j : Entry) (k : Nat) : Bool :=
  s.g.channels.any fun (p : Nat × Channel) => p.2.queue.any fun c => !entryBefore j c && copyAwaits s c k

/-- Whether the tag of a field byte's frame waits for a copy that precedes an instruction of the broadcast stream (R110). -/
def tagAwaitedBy (s : State) (j : Entry) (k : Nat) : Bool :=
  s.g.channels.any fun (p : Nat × Channel) => p.2.queue.any fun c => !entryBefore j c && copyLands 8192 s c k

/-- Whether a byte of a range of F-space waits for copy d to land (R355). -/
def rangeAwaits (s : State) (d : Copy) (r : Nat × Nat) : Bool :=
  d.dstF && (List.range (r.2 - r.1)).any fun j => match fieldAt s (r.1 + j) false with | .ok k => copyAwaits s d k | .error _ => false

/-- Whether a byte that a copy reads waits for an earlier copy (R355). -/
def copyReadAwaited (s : State) (c : Copy) (r : Nat × Nat) : Bool :=
  s.g.channels.any fun (p : Nat × Channel) => p.2.queue.any fun d => decide (d.num < c.num) && rangeAwaits s d r

/-- Whether a field byte of the selected gang waits for a copy to land (R109, R355). -/
def byteAwaited (s : State) (k : Nat) : Bool := s.g.channels.any fun (p : Nat × Channel) => p.2.queue.any fun c => copyAwaits s c k

/-- Whether a copy writes all 8,192 bytes of a destination frame from a frame that is aligned too (R351). -/
def wholeFrame (c : Copy) (d : Nat) : Bool :=
  c.kind == 0 && decide (c.dst ≤ 8192 * d) && decide (8192 * d + 8192 ≤ c.dst + c.count) && (c.src + (8192 * d - c.dst)) % 8192 == 0

/-- The tag that a whole-frame copy carries from the source frame at address a (R351): the source's, or RAW from peer or host memory;
the inner `none` is an uncorrectable one (R63). -/
def sourceTag (s : State) (c : Copy) (a : Nat) : Option (Option Word) :=
  if c.srcF then
    (if frameWindowOk s a false then (fieldAt s a false).toOption.map fun k => c.tagAt s (k / 8192) else none)
  else match copyTranslate s a false with
    | .ok pa => some (if region pa = 0 then c.tagAt s (2 ^ 32 + pa / 8192) else some rawTag)
    | .error _ => none

/-- What reading that tag leaves at the stacks. -/
def touchSourceTag (s : State) (c : Copy) (a : Nat) : State :=
  if c.srcF then s
  else match copyTranslate s a false with
    | .ok pa => if region pa = 0 then touchHbmTag s (pa / 8192) else s
    | .error _ => s

/-- Mark a frame STALE for a copy into part of it (R300). -/
def staleTag (t : Word) : Word := bumpGen (setBits t 0 6 63)

/-- Mark frames STALE, each once per copy (R300, R351). An uncorrectable tag gives zeros for what it keeps, and P = 1 (R459). -/
def staleFrames (s : State) (c : Copy) (fs : List Nat) : State × Copy :=
  (fs.filter fun f => !c.staled.contains f).foldl (fun (acc : State × Copy) f =>
    let t := match frameTagNow acc.1 f with | some t => staleTag t | none => setBits (staleTag 0) 18 1 1
    (putFrameTag acc.1 f t, { acc.2.saveTag acc.1 f with staled := acc.2.staled ++ [f] })) (s, c)

/-- A tag with P = 1 by a tag write of its own (R88, R300: GEN + 1). -/
def poisonTag (t : Word) : Word := bumpGen (setBits t 18 1 1)

/-- Frames take P = 1, as bytes delivered as zeros reach them (R300, R356). -/
def poisonTags (s : State) (fs : List Nat) : State :=
  fs.foldl (fun s f => match frameTagNow s f with | some t => putFrameTag s f (poisonTag t) | none => s) s

/-- Whether a destination frame has a tag that a whole-frame copy can carry: in the field through a window of whole frames, in G-space in
local HBM (R351). -/
def tagged (s : State) (c : Copy) (d : Nat) : Bool :=
  if c.dstF then frameWindowOk s (8192 * d) true
  else match copyTranslate s ((8192 * d : Nat) : Int) true with
    | .ok pa => region pa == 0
    | .error _ => false

/-- Whether the copy carries a whole tag into frame d, so that no STALE mark is made there (R351). -/
def carriesTag (s : State) (c : Copy) (d : Nat) : Bool :=
  wholeFrame c d && tagged s c d && (sourceTag s c (c.src + (8192 * d - c.dst))).isSome

/-- A channel's UE bit (R343, R356). -/
def markUe (s : State) (ch : Nat) : State :=
  let x := mget ({} : Channel) s.g.channels ch
  { s with g := { s.g with channels := mset {} s.g.channels ch { x with errors := x.errors ||| 8 } } }

/-- Whether the tag of a frame so numbered cannot be written (R380). -/
def frameTagLost (s : State) (f : Nat) : Bool := decide (2 ^ 32 ≤ f) && tagLost s (f - 2 ^ 32)

/-- Store the tag of destination frame d with a whole-frame copy, poisoned where zeros were delivered (R300, R351, R356; assumption
log 85). A tag that cannot be written is an uncorrectable error there (R380). -/
def frameTag (s : State) (ch : Nat) (c : Copy) (d : Nat) : State × Copy × Except CopyStop Unit :=
  if !carriesTag s c d then (s, c, .ok ())
  else
    let a := c.src + (8192 * d - c.dst)
    let t? := (sourceTag s c a).getD none
    let s := touchSourceTag s c a
    if t?.isNone && !c.pp then (s, c, .error (.fault 3 (a : Nat) (32 * b2n c.srcF)))
    else
      let s := if t?.isNone then markUe s ch else s
      let t := t?.getD 0
      let t := if c.zeroed.contains d || t?.isNone then poisonTag t else t
      match copyLanding s c (8192 * d : Nat) 1 with
      | .error e => (s, c, .error e)
      | .ok l =>
        let lost := l.frames.any (frameTagLost s)
        if lost && !c.pp then (s, c, .error (.fault 3 ((8192 * d : Nat) : Int) 8))
        else
          let s := if lost then markUe s ch else s
          (l.frames.foldl (fun s f => putFrameTag s f t) s, l.frames.foldl (fun c f => c.saveTag s f) c, .ok ())

/-- A copy that will never be completed leaves the frames that it has written in part, whose tag it was to carry whole, as a copy into part
of a frame does: STALE, with P = 1 where zeros were delivered (R300, R356). -/
def staleLeft (s : State) (c : Copy) : State :=
  (c.touched.filter fun d => !c.posted.contains d && carriesTag s c d).foldl (fun s d =>
    match copyLanding s c ((8192 * d : Nat) : Int) 1 with
    | .error _ => s
    | .ok l => let s := (staleFrames s { c with staled := [] } l.frames).1; if c.zeroed.contains d then poisonTags s l.frames else s) s

/-- Every gang's event bit after a signal is posted (R216). -/
def signalEvents (s : State) : State :=
  { s with g := { s.g with ev := true }, others := s.others.map fun h => { h with ev := true } }

/-- A signal increment of a copy with SIG = 1 (R352). A signal word that is uncorrectable stops the channel as a destination word does,
under PP as well (assumption log 72). -/
def postSignal (s : State) (c : Copy) : State × Except CopyStop Unit :=
  match copyTranslate s c.sigAddr true with
  | .error (.fault b a code) => (refusedAt s c.sigAddr (.fault b a code), .error (.fault b a (Nat.lor code 8)))
  | .error .hold => (s, .error .hold)
  | .ok pa =>
    let s := useG s c.sigAddr
    if region pa ≠ 0 then (s, .error (.fault 6 c.sigAddr 8))
    else match physRead s pa 8 with
      | (s, some bs) => (signalEvents (physStore s pa (leBytes 8 ((leNat bs + 1) % 2 ^ 64))), .ok ())
      | (s, none) => (s, .error (.fault 3 c.sigAddr 8))

/-- The field bytes that element i of a copy reads: its source and its index (R108, R348). A SCATTER element needs every index that is
left, which say where the elements land that it must precede or go with (R104, R348). -/
def copyReads (c : Copy) (i : Nat) (e : CopyElem) : List (Nat × Nat) :=
  (if c.srcF then [(e.src.toNat, e.src.toNat + e.len)] else [])
    ++ if c.kind < 2 then [] else if c.kind = 2 then [(c.third + 4 * i, c.third + 4 * i + 4)] else [(c.third + 4 * c.position, c.third + 4 * c.count)]

/-- Whether what entry e is to read at some bytes may still change: an earlier instruction writes there, or a copy (R103, R109). -/
def maySettle (s : State) (e : Entry) (r : Range) : Bool :=
  ((s.g.bq ++ s.g.frame).any fun j => decide (j.seq < e.seq) && (rangesOverlap (destRanges s.g j) [r] || (match bxFields j.instr with | some f => f.dm == 3 | none => false)))
    || (List.range (r.2 - r.1)).any fun j => match fieldAt s (r.1 + j) false with | .ok k => byteAwaitedBy s e k | .error _ => false

/-- The bytes that the active elements of an indexed operand reach (R150), in whatever window. While its index array or the mask may still
change, every window is in question. -/
def indexReach (s : State) (e : Entry) (f : BX) (op : Nat) (n : Reg) (bits : Nat) : List Range :=
  let rd := rdOf (snapshotSrc s e)
  let base := (e.reg1 n).toNat
  if maySettle s e (base, base + 4 * e.cap.ecount) || (maskRanges e f.msk).any (maySettle s e) then allWindows s.g
  else (List.range e.cap.ecount).flatMap fun i =>
    match (do let (on, _) ← active rd e f.msk i; let (x, _) ← indexValue rd e op n 3 i; pure (on, x) : Except Stop (Bool × Nat)) with
    | .ok (true, x) => let a := (elementAddr e n 3 bits i x).toNat; [(a, a + (bits + 7) / 8)]
    | .ok (false, _) => []
    | .error _ => allWindows s.g

/-- The bytes that an entry writes through an index. -/
def destReach (s : State) (e : Entry) : List Range :=
  match bxFields e.instr with
  | some f => if f.dm = 3 then indexReach s e f 0 f.d (destBits e.instr f) else []
  | none => []

/-- The bytes that an entry reads through an index, the old elements of a scatter among them (R150). -/
def sourceReach (s : State) (e : Entry) : List Range :=
  match bxFields e.instr with
  | none => []
  | some f => ((indexedSources e f).flatMap fun x => indexReach s e f x.1 x.2 (efBits f.ef.toNat)) ++
    match e.instr with
    | .vscatadd _ | .vscatmax _ | .vscatmin _ => destReach s e
    | _ => []

/-- Whether element i must wait for one of the listed instructions, which precedes the copy and writes what the element reads or touches its
destination (R108, R109). -/
def heldBy (s : State) (js : List Entry) (c : Copy) (i : Nat) (e : CopyElem) : Bool :=
  js.any fun j => entryBefore j c &&
    (rangesOverlap (destRanges s.g j ++ destReach s j) (copyReads c i e)
     || (c.dstF && rangesOverlap (destRanges s.g j ++ destReach s j ++ readFootprint s.g j ++ sourceReach s j) [(e.dst.toNat, e.dst.toNat + e.len)]))

/-- Whether element i must wait: for earlier broadcast and tile instructions, unretired or in a pending frame, that write what it reads
or touch its destination (R105, R108, R109), or for an earlier copy into what it reads (R355). -/
def copyHeld (s : State) (c : Copy) (i : Nat) (e : CopyElem) : Bool :=
  heldBy s (s.g.bq ++ s.g.frame) c i e || (copyReads c i e).any (copyReadAwaited s c)

/-- Whether a copy waits, for an instruction of the pending frame, or for a listed copy: one into what it reads, or one before it on its
channel (R105, R108, R109, R341, R355). -/
def waitsBehind (s : State) (held : List Nat) (c : Copy) : Bool :=
  (s.g.channels.any fun p => (p.2.queue.any fun d => d.num == c.num) && p.2.queue.any fun d => decide (d.num < c.num) && held.contains d.num)
  || c.outstanding.any fun i => match copyIndex s c i with
    | .ok (x, _) =>
      let e := c.elem i x
      heldBy s s.g.frame c i e || s.g.channels.any fun p => p.2.queue.any fun d =>
        decide (d.num < c.num) && held.contains d.num && (copyReads c i e).any (rangeAwaits s d)
    | .error _ => false

/-- With the listed copies those that wait behind them, and behind these in turn. -/
def heldFrom (s : State) (queued : List Copy) : Nat → List Nat → List Nat
  | 0, held => held
  | n + 1, held => heldFrom s queued n ((queued.filter fun c => held.contains c.num || waitsBehind s held c).map (·.num))

/-- The numbers of the copies that wait for the pending frame at handler level, and so for the ERET that re-issues it. What waits there for
earlier copies does not wait for these, since it never waits for the pending frame (R220; assumption log 86). -/
def frameHeld (s : State) : List Nat :=
  let queued := s.g.channels.flatMap fun p => p.2.queue
  if !s.g.pl || s.g.frame = [] then [] else heldFrom s queued queued.length []

/-- Whether the copies of a queue are complete, but for those that wait for the pending frame at handler level (R220). -/
def queueDone (s : State) (q : List Copy) : Bool := q.all fun c => (frameHeld s).contains c.num

/-- Whether a G-side destination address lies in a page with H = 1 (R131, R360). -/
def hPage (s : State) (a : Int) : Bool :=
  match copyTranslate s a true with
  | .ok _ => (match translate s s.g.lead s.g.pasid a.toNat .write with | .ok _ leaf => bit leaf 3 | _ => false)
  | .error _ => false

/-- Writes of the copy on channel ch that their targets have still to acknowledge. -/
def Copy.unacked (c : Copy) (s : State) (ch : Nat) : List Unacked :=
  s.unacked.filter fun u => u.gang == s.g.id && u.origin == 1 + ch && u.seq == c.num

/-- Whether an element that is visible as soon as it is written must wait for lower elements of H pages to be performed at their targets
(R131). -/
def elementOrderHeld (s : State) (ch : Nat) (c : Copy) (addr : Int) : Landing → Bool
  | .field _ => false
  | .phys pa => region pa == 0 && hPage s addr && (c.unacked s ch).any fun u => hPage s u.va

/-- The frame that holds a destination address. -/
def destFrame (a : Int) : Option Nat := if a < 0 then none else some (a.toNat / 8192)

/-- Whether an outstanding element but i is still to be written in frame d, or may be. -/
def frameOpen (s : State) (c : Copy) (i d : Nat) : Bool :=
  c.outstanding.any fun k => k != i && !c.sent.contains k && match copyDst s c k with | some a => destFrame a == some d | none => true

/-- What ends frame d, once the copy writes no more of it: the targets' acknowledgements where a signal is due, then the frame's tag, then
its signal (R138, R346, R351, R352). The answer says whether the frame is done. -/
def finishFrame (s : State) (ch : Nat) (c : Copy) (d : Nat) : State × Copy × Except CopyStop Bool :=
  if c.sig && (c.unacked s ch).any fun u => u.va / 8192 == d then (s, c, .ok false)
  else match frameTag s ch c d with
    | (s, c, .error t) => (s, c, .error t)
    | (s, c, .ok _) =>
      let done := { c with posted := c.posted ++ [d] }
      if c.sig then
        match postSignal s c with
        | (s, .error .hold) => (s, c, .ok false)
        | (s, .error t) => (s, c, .error t)
        | (s, .ok _) => (s, done, .ok true)
      else (s, done, .ok true)

/-- The frames that element i leaves complete, once it is written. -/
def completedBy (s : State) (c : Copy) (i : Nat) : List Nat := c.touched.filter fun d => !c.posted.contains d && !frameOpen s c i d

/-- The ends of the frames that element i, now written, leaves complete. The answer says whether each of them is done; else the element
waits among those that are sent, for the acknowledgements of its target or the end of a migration. -/
def finishFrames (s : State) (ch : Nat) (c : Copy) (i : Nat) : State × Copy × Except CopyStop Bool :=
  let ds := completedBy s c i
  let (s, c, r) := ds.foldl (fun (acc : State × Copy × Except CopyStop Bool) d =>
    match acc with
    | (s, c, .error e) => (s, c, .error e)
    | (s, c, .ok all) => match finishFrame s ch c d with
      | (s, c, .error .hold) => (s, c, .ok false)
      | (s, c, .error e) => (s, c, .error e)
      | (s, c, .ok one) => (s, c, .ok (all && one))) (s, c, .ok true)
  (s, if r matches .ok false then { c with sent := (c.sent ++ [i]).eraseDups } else c, r)

/-- Whether an element that is visible as soon as it is written, and completes a frame, must wait: the signal that is posted with it lies in
a page that migrates (R138, R352, R360). -/
def signalHeld (s : State) (c : Copy) (i d : Nat) (l : Landing) : Bool :=
  c.sig && (match l with | .field _ => true | .phys pa => region pa == 0) && completedBy s { c with touched := (c.touched ++ [d]).eraseDups } i != []
    && match copyTranslate s c.sigAddr true with | .error .hold => true | _ => false

/-- Write element i, read as `bs` with `bad` where zeros stand for uncorrectable bytes, with the tag marks of its frames (R351, R356). -/
def deliverElement (s : State) (ch : Nat) (c : Copy) (i : Nat) (e : CopyElem) (bs : List Byte) (bad whole : Bool) : State × Copy × Except CopyStop Bool :=
  match copyLanding s c e.dst e.len with
  | .error t => (refusedAt s e.dst t, c, .error t)
  | .ok l =>
    let d := e.dst.toNat / 8192
    let fs := if carriesTag s c d then [] else l.frames
    let lost := (fs.filter fun f => !c.staled.contains f).any fun f => (frameTagNow s f).isNone
    if elementOrderHeld s ch c e.dst l || signalHeld s c i d l then (s, c, .error .hold)
    else if !c.pp && lost then (s, c, .error (.fault 3 e.dst (8 + 32 * b2n c.dstF)))
    else match copyWrite s ch c i e.dst bs whole l with
      | (s, c, .error t) => (s, c, .error t)
      | (s, c, .ok part) =>
        let (s, c) := staleFrames s { c with touched := (c.touched ++ [d]).eraseDups } fs
        let s := if bad || part || lost then markUe s ch else s
        if bad || part then
          finishFrames (if c.zeroed.contains d then s else poisonTags s fs) ch { c with zeroed := (c.zeroed ++ [d]).eraseDups } i
        else finishFrames s ch c i

/-- The aligned 8-byte destination unit of element i. -/
def unitOf (s : State) (c : Copy) (i : Nat) : Option Int := (copyDst s c i).map (· / 8)

/-- Elements that are still to be written, in order. -/
def Copy.unwritten (c : Copy) : List Nat := c.outstanding.filter fun k => !c.sent.contains k

/-- The unwritten elements of the aligned 8-byte destination unit of element i, itself among them, in order: they land together (R108,
R111). -/
def unitMates (s : State) (c : Copy) (i : Nat) : List Nat :=
  match unitOf s c i with
  | none => [i]
  | some u => if c.kind = 0 ∨ c.sent.contains i then [i] else c.unwritten.filter fun k => k == i || unitOf s c k == some u

/-- The elements of the unit of element i that have landed without it, since the copy stopped between them: they are written again with it
(R108). Those of a SCATTER are not, whose indices say where they landed only once. -/
def landedMates (s : State) (c : Copy) (i : Nat) : List Nat :=
  if c.stops = [] ∨ c.kind = 0 ∨ c.kind = 3 ∨ c.sent.contains i then []
  else (List.range c.elements).filter fun k => c.hasLanded k && unitOf s c k == unitOf s c i

/-- Whether an element's destination lies in a page with H = 1, or may. -/
def onHPage (s : State) (c : Copy) (k : Nat) : Bool := !c.dstF && match copyDst s c k with | some a => hPage s a | none => true

/-- Whether element k is the last, in order, that writes into one of its 256-byte groups of the field: the group's landing-map bit is
cleared no earlier, so that no later write overtakes an element which a restart writes again (R109, R353, R356; assumption log 16). -/
def closesGroup (s : State) (c : Copy) (k : Nat) : Bool :=
  let above := (List.range (c.elements - (k + 1))).map (k + 1 + ·)
  ((writtenKeys s c k).map (· / 256)).eraseDups.any fun g => !(above.any fun j => (writtenKeys s c j).any fun x => x / 256 == g)

/-- Whether element k lands in the order of the elements: in the field, behind every lower one where it closes a group; in H pages, behind the
lower ones there (R131). -/
def inTurn (s : State) (c : Copy) (group : List Nat) (k : Nat) : Bool :=
  let low := (c.unwritten.takeWhile (· < k)).filter fun m => !group.contains m
  low = [] || (if c.dstF then !closesGroup s c k else !onHPage s c k || low.all fun m => !onHPage s c m)

/-- With the elements of a list those that they must not overtake, and their mates. -/
def joinLower (s : State) (c : Copy) : Nat → List Nat → List Nat
  | 0, g => g
  | n + 1, g =>
    let top := g.foldl max 0
    let units := g.map (unitOf s c)
    let g' := c.unwritten.filter fun k => g.contains k || (decide (k ≤ top) && (c.dstF || onHPage s c k)) || (c.kind != 0 && units.contains (unitOf s c k))
    if g' = g then g else joinLower s c n g'

/-- Whether some of the listed elements write local HBM and others elsewhere. -/
def severalHomes (s : State) (c : Copy) (g : List Nat) : Bool :=
  let remote := fun (k : Nat) => match copyDst s c k with
    | some a => (match copyTranslate s a true with | .ok pa => region pa != 0 | .error _ => false)
    | none => false
  !c.dstF && g.any remote && g.any fun k => !remote k

/-- The elements that land in one step with element i, itself among them, in order; `none` while it must wait for lower ones. Those of its
unit; where one of these may not overtake a lower element, all up to it, once i is the lowest. Where these lie in several homes, whose
writes are visible at different times, only the elements of the unit that follow i directly (assumption log 16). -/
def landSet (s : State) (c : Copy) (i : Nat) : Option (List Nat) :=
  let mates := unitMates s c i
  if c.sent.contains i || mates.all (inTurn s c mates) then some mates
  else if (c.unwritten.filter fun k => c.dstF || onHPage s c k).head? ≠ some i then none
  else
    let all := joinLower s c c.elements mates
    some (if severalHomes s c all then mates.filter fun k => decide (i ≤ k) && (List.range (k - i)).all fun j => mates.contains (i + j) else all)

/-- Whether the elements that land with element i write its 8-byte unit whole. -/
def unitWhole (s : State) (c : Copy) (group : List Nat) (i : Nat) : Bool :=
  if c.kind = 0 then (c.elem i 0).len == 8
  else decide (8 ≤ (((group.filter fun k => unitOf s c k == unitOf s c i).filterMap (copyDst s c)).eraseDups.length) * c.size)

/-- The units that an element writes in G-space, by place. -/
def unitCells (s : State) (c : Copy) (k : Nat) : List (Nat × Nat) :=
  match copyDst s c k with
  | none => []
  | some a => match copyTranslate s a true with
    | .ok pa => [farByte s (pa / 8 * 8), farByte s ((pa + (c.elem k 0).len - 1) / 8 * 8)]
    | .error _ => []

/-- Whether an element must wait for an earlier copy of its channel that has still to write its 8-byte unit, or may write it again after a
stop (R341). -/
def earlierUnit (s : State) (ch : Nat) (c : Copy) (i : Nat) : Bool :=
  !c.dstF && ((mget ({} : Channel) s.g.channels ch).queue.takeWhile fun d => d.num != c.num).any fun d => !d.dstF &&
    (let mine := unitCells s c i
     mine != [] && (List.range (d.elements - d.position)).any fun j => (unitCells s d (d.position + j)).any mine.contains)

/-- Perform element i of a copy on channel ch: read whole, written whole, then the ends of the frames that it completes. An element that
is sent goes on with those. The answer says whether it has landed. -/
def copyElement (s : State) (ch : Nat) (c : Copy) (i : Nat) (whole : Bool) : State × Copy × Except CopyStop Bool :=
  if c.sent.contains i then finishFrames s ch c i
  else match copyIndex s c i with
    | .error e => (s, c, .error e)
    | .ok (x, badX) =>
      let e := c.elem i x
      if copyHeld s c i e || earlierUnit s ch c i then (s, c, .error .hold)
      else match copyRead s c c.srcF e.src e.len with
        | (s, .error t) => (s, c, .error t)
        | (s, .ok (bs, bad)) => deliverElement s ch c i e bs (bad || badX) whole

/-- Move `position` past what has landed. -/
def Copy.advance (c : Copy) : Nat → Copy
  | 0 => c
  | n + 1 =>
    if c.landed.contains c.position then
      Copy.advance { c with position := c.position + 1, landed := c.landed.filter (· != c.position) } n
    else c

/-- Whether the gang's channels move: a halt stops every one of them (R41). -/
def Gang.copiesRun (g : Gang) : Bool := g.phase == .running || g.phase == .svkStop

/-- A channel of the selected gang. -/
def Gang.channel (g : Gang) (ch : Nat) : Channel := mget {} g.channels ch
def setChannel (s : State) (ch : Nat) (x : Channel) : State := { s with g := { s.g with channels := mset {} s.g.channels ch x } }

/-- A copy of a channel by its number. -/
def copyNamed (s : State) (ch num : Nat) : Option Copy := (s.g.channel ch).queue.find? fun c => c.num == num

/-- Put back a copy of a channel; a completed one leaves, and a channel that becomes idle sets EV (R216). -/
def putCopy (s : State) (ch : Nat) (c : Copy) : State :=
  let x := s.g.channel ch
  let q := if c.outstanding = [] then x.queue.filter fun d => d.num != c.num else x.queue.map fun d => if d.num = c.num then c else d
  let s := setChannel s ch { x with queue := q }
  if q = [] then { s with g := { s.g with ev := true } } else s

/-- Element i of a copy has landed. -/
def Copy.land (c : Copy) (i : Nat) : Copy :=
  Copy.advance { c with landed := c.landed ++ [i], sent := c.sent.filter (· != i) } (c.landed.length + 1)

/-- A copy that stops at element e writes the elements above e again (R356). -/
def Copy.stopAt (c : Copy) (e : Nat) : Copy := { c with landed := [], sent := [], stops := c.stops ++ [e] }

/-- Stop a channel at element e of its oldest copy (R356, R357): ST, RESTART, the error bit, and the copy fault. -/
def stopChannel (s : State) (ch : Nat) (c : Copy) (e bit : Nat) (addr : Int) (code : Nat) : State :=
  let s := brokenStripe s c e
  let x := s.g.channel ch
  setChannel s ch { x with
    queue := c.stopAt e :: x.queue.drop 1, stopped := true, errors := x.errors ||| BitVec.ofNat 7 (2 ^ bit)
    fault := some ⟨9, w64 (lowBits addr 64), w64 (ch + code), 0, 0, 0⟩, taken := false }

/-- Land the listed elements: the machine and the copy after those before the first that must wait or faults, and that one. -/
def landAll (ch : Nat) (whole : Nat → Bool) : List Nat → State → Copy → State × Copy × Option (Nat × CopyStop)
  | [], s, c => (s, c, none)
  | k :: ks, s, c =>
    match copyElement s ch c k (whole k) with
    | (s, c, .ok landed) => landAll ch whole ks s (if landed && !c.hasLanded k then c.land k else c)
    | (s, c, .error e) => (s, c, some (k, e))

/-- Land the elements of a group in one step; nothing where one of them must wait. Where one faults, those before it land, so that the
channel can stop there (R356); it stops once every lower element of its oldest copy has landed. -/
def landOnly (s : State) (ch : Nat) (c : Copy) (i : Nat) (group : List Nat) : Option State :=
  match landAll ch (unitWhole s c group) group s c with
  | (t, d, none) => some (putCopy t ch d)
  | (_, _, some (_, .hold)) => none
  | (t, d, some (k, .fault b a code)) =>
    let below := group.takeWhile (· != k)
    if below = [] then
      (if k = i ∧ c.outstanding.head? = some k ∧ ((s.g.channel ch).queue.head?.map fun q => q.num) = some c.num
        then some (stopChannel t ch d k b a code) else none)
    else if below.contains i then (let (t, d, _) := landAll ch (unitWhole s c below) below s c; some (putCopy t ch d))
    else none

/-- Land element i with those that land with it, and with the elements of their units that a stop has parted from them where these can be
delivered again (R108, R356). -/
def landGroup (s : State) (ch : Nat) (c : Copy) (i : Nat) : Option State :=
  match landSet s c i with
  | none => none
  | some group =>
    let again := (group.flatMap (landedMates s c)).eraseDups
    if again = [] then landOnly s ch c i group
    else
      let all := (List.range c.elements).filter fun k => again.contains k || group.contains k
      match landAll ch (unitWhole s c all) all s c with
      | (t, d, none) => some (putCopy t ch d)
      | (_, _, some (_, .hold)) => none
      | (_, _, some (_, .fault _ _ _)) => landOnly s ch c i group

/-- Land the listed elements of the copy numbered `num`, until one must wait or the channel stops. -/
def landElements (ch num : Nat) : List Nat → State → State
  | [], s => s
  | i :: is, s =>
    match copyNamed s ch num with
    | none => s
    | some c =>
      if (s.g.channel ch).stopped then s
      else if !c.outstanding.contains i then landElements ch num is s
      else match landGroup s ch c i with
        | some t => landElements ch num is t
        | none => s

/-- Whether a copy has issued its last request: every element is written (R342). -/
def Copy.issued (c : Copy) : Bool := c.outstanding.all fun i => c.sent.contains i

/-- Whether every earlier copy of the channel has issued its last request, so that the copy numbered `num` may start (R342). -/
def mayStart (s : State) (ch num : Nat) : Bool := ((s.g.channel ch).queue.takeWhile fun c => c.num != num).all Copy.issued

/-- Start a copy of a channel (R342). -/
def startCopy (s : State) (ch num : Nat) : State :=
  let x := s.g.channel ch
  setChannel s ch { x with queue := x.queue.map fun c => if c.num = num then { c with started := true } else c }

/-- Run a channel's copies in order as far as they go. -/
def runChannel (s : State) (ch : Nat) : State :=
  ((s.g.channel ch).queue.map fun c => c.num).foldl (fun s num =>
    if (s.g.channel ch).stopped || !s.g.copiesRun || !mayStart s ch num then s
    else match copyNamed s ch num with
      | none => s
      | some c => landElements ch num c.outstanding (startCopy s ch num)) s

/-- Run every channel of the selected gang as far as it goes (R341, R342). -/
def runChannels (s : State) : State := (List.range 8).foldl runChannel s

/-- A copy that is discarded before its end: a full-stripe write in which it stands is broken off (R373), and frames that it leaves half
written are STALE (R300). -/
def discardCopy (s : State) (c : Copy) : State := staleLeft (brokenStripe s c c.position) c

/-- Every copy of the selected gang is discarded, with the gang. -/
def discardCopies (s : State) : State := s.g.channels.foldl (fun s p => p.2.queue.foldl discardCopy s) s

/-- CN := 1 on a stopped channel (R358): the stopped copy's remaining elements and every later copy are discarded, and the channel, idle now, sets EV (R216). -/
def cancelChannel (s : State) (ch : Nat) : State :=
  let x := s.g.channel ch
  if x.stopped then
    let s := x.queue.foldl discardCopy s
    setChannel { s with g := { s.g with ev := true } } ch { x with queue := [], stopped := false, fault := none, taken := false }
  else s

/-- CHSTAT of a channel (R343). -/
def chstat (g : Gang) (ch : Nat) : Word :=
  let x := g.channel ch
  let n := x.queue.length
  w64 (b2n (n != 0) + 2 * b2n x.stopped + 4 * n + 256 * x.errors.toNat
    + (if x.stopped then ((x.queue.head?.map fun c => c.position).getD 0) % 2 ^ 40 * 2 ^ 24 else 0))

/-- A copy without outstanding elements completes at once (R346): drop such copies from the head. -/
def dropEmpty (s : State) (ch : Nat) : State :=
  let x := s.g.channel ch
  match x.queue with
  | c :: r => if c.outstanding = [] then setChannel { s with g := { s.g with ev := s.g.ev || r.isEmpty } } ch { x with queue := r } else s
  | [] => s

/-- COPY_START (R342): the oldest copy of a channel that has not started does, once those before it have issued their last request. -/
def copyStart (s : State) (ch : Nat) : State :=
  let x := s.g.channel ch
  if x.stopped || !s.g.copiesRun then s
  else match x.queue.find? fun c => !c.started with
    | none => s
    | some c => if mayStart s ch c.num then dropEmpty (startCopy s ch c.num) ch else s

/-- Whether element n of a copy must wait for a lower one: SCATTER elements land in order, and an element of an H page follows every
lower element of the H pages (R131, R348). -/
def mustFollow (s : State) (c : Copy) (n : Nat) : Bool :=
  let h := fun (k : Nat) => match copyDst s c k with | some a => hPage s a | none => true
  if c.kind = 3 then c.outstanding.any fun k => decide (k < n) && !c.sent.contains k
  else !c.dstF && h n && c.outstanding.any fun k => decide (k < n) && h k

/-- COPY_ELEMENT_LAND (R353): element n lands, of the oldest started copy of the channel in which it is outstanding and not yet sent, or
else of one in which it is sent. -/
def copyLand (s : State) (ch n : Nat) : State :=
  let x := s.g.channel ch
  let here := x.queue.filter fun c => c.started && c.outstanding.contains n
  match (here.find? fun c => !c.sent.contains n).or here.head? with
  | some c => if !x.stopped && s.g.copiesRun && !mustFollow s c n then landElements ch c.num [n] s else s
  | none => s

/-- COPY_FAULT_STOP (R356): the lowest outstanding element is tried; where it faults, the channel stops there. -/
def copyFaultStop (s : State) (ch : Nat) : State :=
  let x := s.g.channel ch
  match x.queue with
  | c :: _ => if !x.stopped && s.g.copiesRun && c.started then landElements ch c.num (c.outstanding.take 1) s else s
  | [] => s

/-- GATHER_PIECE (R391): a gather unit performs the outstanding elements of the lowest piece of 256 that has any, of the oldest started
GATHER or SCATTER that has not issued its last request. -/
def gatherPiece (s : State) (ch : Nat) : State :=
  let x := s.g.channel ch
  match x.queue.find? fun c => c.started && decide (2 ≤ c.kind) && !c.issued with
  | some c =>
    if !x.stopped && s.g.copiesRun then
      match c.unwritten with
      | [] => s
      | i :: _ => landElements ch c.num (c.outstanding.filter fun k => k / 256 == i / 256) s
    else s
  | none => s

/-- The 256-byte groups that a copy writes, over all banks (R353). -/
def copyGroups (s : State) (c : Copy) : List Nat :=
  if !c.dstF then [] else ((List.range c.elements).flatMap fun i => (writtenKeys s c i).map (· / 256)).eraseDups

/-- Number of contiguous runs among the groups of one bank. -/
def runCount (gs : List Nat) (bank : Nat) : Nat :=
  (gs.filter fun g => g / 2048 == bank && !(gs.contains (g - 1) && (g - 1) / 2048 == bank && g != 0)).length

/-- The first group of the run that holds a group. -/
def runStart (gs : List Nat) : Nat → Nat → Nat
  | 0, g => g
  | n + 1, g => if g % 2048 ≠ 0 ∧ gs.contains (g - 1) then runStart gs n (g - 1) else g

/-- Scoreboard entries that a queued copy still holds at a bank: its runs with a group that has not landed (R353). -/
def liveRuns (s : State) (c : Copy) (bank : Nat) : Nat :=
  let gs := copyGroups s c
  ((gs.filter fun q => q / 2048 == bank && copyAwaits s c (q * 256)).map (runStart gs 2048)).eraseDups.length

/-- Banks, by number in the package, that a list of groups names. -/
def groupBanks (gs : List Nat) : List Nat := (gs.map fun g => g / 2048).eraseDups

/-- Whether a copy would need more than 16 scoreboard entries at some bank (R345). -/
def tooManyRuns (s : State) (c : Copy) : Bool :=
  let gs := copyGroups s c
  (groupBanks gs).any fun b => decide (16 < runCount gs b)

/-- Whether a bank lacks free scoreboard entries for a copy, or one of its groups is still awaited (R354). -/
def scoreboardFull (s : State) (c : Copy) : Bool :=
  let gs := copyGroups s c
  let queued := s.g.channels.flatMap fun p => p.2.queue
  gs.any (fun q => byteAwaited s (q * 256)) ||
    (groupBanks gs).any fun b =>
      decide (16 < runCount gs b + (queued.map fun c' => liveRuns s c' b).foldl (· + ·) 0)

end Sys2Proof.Machine
end

