-- ==== Sys2Proof/Machine/Funcs.lean ====
section
/-! DEFINITION. The functions of VFUN (R260) and the exponential of TSOFT (R338): each to 760 significant fraction bits as an
exact dyadic with a sticky remainder, which the one rounding step then rounds (assumption log 14). -/
namespace Sys2Proof.Machine

/-- Working precision: fraction bits of the fixed-point computations, and guard bits dropped from a result. -/
def fpBits : Nat := 800
def fpGuard : Nat := 40
def fpOne : Int := (2 ^ fpBits : Nat)

/-- Fixed-point product. -/
def fmul (a b : Int) : Int := a * b / fpOne
/-- Fixed-point quotient. -/
def fdiv (a b : Int) : Int := a * fpOne / b

/-- The fixed-point value of m × 2^e. -/
def fixed (neg : Bool) (m : Nat) (e : Int) : Int :=
  let s := (fpBits : Int) + e
  let v : Int := if 0 ≤ s then ((m * 2 ^ s.toNat : Nat) : Int) else ((m / 2 ^ s.natAbs : Nat) : Int)
  if neg then -v else v

/-- exp of a fixed-point r with |r| at most 1, by its Taylor series: `fuel` terms from term `t` = r^n / n!. -/
def expSeries : Nat → Int → Nat → Int → Int → Int
  | 0, _, _, _, acc => acc
  | k + 1, r, n, t, acc => let t' := fmul t r / (n : Int); expSeries k r (n + 1) t' (acc + t')

def expFixed (r : Int) : Int := expSeries 200 r 1 fpOne fpOne

/-- atanh(t) for |t| at most 1/3: sum of t^(2n+1)/(2n+1). -/
def atanhSeries : Nat → Int → Nat → Int → Int → Int
  | 0, _, _, _, acc => acc
  | k + 1, t2, n, p, acc => let p' := fmul p t2; atanhSeries k t2 (n + 2) p' (acc + p' / (n : Int))

def atanhFixed (t : Int) : Int := atanhSeries 270 (fmul t t) 3 t t

/-- ln 2 = 2 atanh(1/3). -/
def ln2Fixed : Int := 2 * atanhFixed (fpOne / 3)

/-- arctan(1/k) in units of 2^-bits, for Machin's formula. -/
def atanInv : Nat → Int → Int → Nat → Int → Int
  | 0, _, _, _, acc => acc
  | f + 1, k2, p, n, acc => let p' := -(p / k2); atanInv f k2 p' (n + 2) (acc + p' / (n : Int))

/-- π in units of 2^-bits (Machin: 16 arctan(1/5) - 4 arctan(1/239)). -/
def piBits (bits : Nat) : Int :=
  let one : Int := (2 ^ bits : Nat)
  16 * atanInv (bits / 4) 25 (one / 5) 3 (one / 5) - 4 * atanInv (bits / 14 + 2) 57121 (one / 239) 3 (one / 239)

/-- e^x for a fixed-point x: a fixed-point mantissa in [1, 2) and a power of two. -/
def expScaled (x : Int) : Int × Int :=
  let k := x / ln2Fixed
  (expFixed (x - k * ln2Fixed), k)

/-- The natural logarithm of a fixed-point m in [1, 2). -/
def lnMant (m : Int) : Int := 2 * atanhFixed (fdiv (m - fpOne) (m + fpOne))

/-- sin and cos of a fixed-point r with |r| at most 1, by their series. -/
def trigSeries : Nat → Int → Nat → Int → Int → Int
  | 0, _, _, _, acc => acc
  | k + 1, r2, n, t, acc => let t' := -(fmul t r2) / ((n * (n + 1) : Nat) : Int); trigSeries k r2 (n + 2) t' (acc + t')
def sinFixed (r : Int) : Int := trigSeries 110 (fmul r r) 2 r r
def cosFixed (r : Int) : Int := trigSeries 110 (fmul r r) 1 fpOne fpOne

/-- erf series: sum of (-1)^n z^(2n+1) / (n! (2n+1)), times 2/√π. -/
def erfSeries : Nat → Int → Nat → Int → Int → Int
  | 0, _, _, _, acc => acc
  | k + 1, z2, n, t, acc => let t' := -(fmul t z2) / (n : Int); erfSeries k z2 (n + 1) t' (acc + t' / ((2 * n + 1 : Nat) : Int))

/-- 1 + erf(x / √2) for a fixed-point x, by the series in z = x / √2: the factor 2/√π × 1/√2 = √(2/π). -/
def onePlusErf (x : Int) : Int :=
  let s := erfSeries 1200 (fmul x x / 2) 1 x x
  let c : Int := (isqrt ((2 * fpOne * fpOne / (piBits fpBits)) * fpOne).toNat : Nat)
  fpOne + fmul c s

/-- A positive irrational result given in fixed point × 2^k: guard bits dropped, remainder marked. -/
def irrational (neg : Bool) (v : Int) (k : Int) : Num :=
  .fin neg (v.toNat / 2 ^ fpGuard) (k - fpBits + fpGuard) true

/-- A value just below m × 2^e. -/
def justBelow (neg : Bool) (m : Nat) (e : Int) : Num := .fin neg (m * 2 ^ 200 - 1) (e - 200) true
/-- A positive value far below every format's smallest subnormal, and one far above every largest value. -/
def tinyNum (neg : Bool) : Num := .fin neg 1 (-5000) true
def hugeNum (neg : Bool) : Num := .fin neg 1 5000 true

/-- Whether |x| is at least `b`. -/
def atLeast (m : Nat) (e : Int) (b : Nat) : Bool := !magLt m e b 0

/-- 2^x. -/
def exp2Num : Num → Num
  | .nan => .nan
  | .inf true => .fin false 0 0 false
  | .inf false => .inf false
  | .fin neg m e _ =>
    if m = 0 then .fin false 1 0 false
    else if atLeast m e 2000 then (if neg then tinyNum false else hugeNum false)
    else
      let whole := e ≥ 0 || m % 2 ^ e.natAbs == 0
      if whole then
        let i : Int := if e ≥ 0 then ((m * 2 ^ e.toNat : Nat) : Int) else ((m / 2 ^ e.natAbs : Nat) : Int)
        .fin false 1 (if neg then -i else i) false
      else
        let x := fixed neg m e
        let k := x / fpOne
        irrational false (expFixed (fmul (x - k * fpOne) ln2Fixed)) k

/-- e^x, exact at zero (R338). -/
def expNum : Num → Num
  | .nan => .nan
  | .inf true => .fin false 0 0 false
  | .inf false => .inf false
  | .fin neg m e _ =>
    if m = 0 then .fin false 1 0 false
    else if atLeast m e 2000 then (if neg then tinyNum false else hugeNum false)
    else
      let (v, k) := expScaled (fixed neg m e)
      irrational false v k

/-- log2 x. -/
def log2Num : Num → Num × Fl
  | .nan => (.nan, 0)
  | .inf true => (.nan, flNV)
  | .inf false => (.inf false, 0)
  | .fin neg m e _ =>
    if m = 0 then (.inf true, flDZ)
    else if neg then (.nan, flNV)
    else
      let t := topExp m e
      if m = 2 ^ Nat.log2 m then (numOfInt t, 0)
      else
        let mant := fixed false m (-(Nat.log2 m : Int))
        let v := t * fpOne + fdiv (lnMant mant) ln2Fixed
        (irrational (v < 0) (if v < 0 then -v else v) 0, 0)

/-- 1/√x. -/
def rsqrtNum : Num → Num × Fl
  | .nan => (.nan, 0)
  | .inf true => (.nan, flNV)
  | .inf false => (.fin false 0 0 false, 0)
  | .fin neg m e _ =>
    if m = 0 then (.inf neg, flDZ)
    else if neg then (.nan, flNV)
    else
      let e1 := if e % 2 = 0 then e else e - 1
      let m1 := if e % 2 = 0 then m else 2 * m
      let k := 200 + Nat.log2 m1
      let q := 2 ^ (2 * k) / m1
      let r := isqrt q
      (.fin false r (-(e1 / 2) - k) (r * r * m1 != 2 ^ (2 * k)), 0)

/-- tanh x. -/
def tanhNum : Num → Num
  | .nan => .nan
  | .inf n => .fin n 1 0 false
  | .fin neg m e _ =>
    if m = 0 then .fin neg 0 0 false
    else if atLeast m e 200 then justBelow neg 1 0
    else
      let (v, k) := expScaled (2 * fixed false m e)
      -- tanh = (E - 1)/(E + 1) with E = v × 2^k
      let E := v * (2 ^ k.toNat : Nat)
      irrational neg (fdiv (E - fpOne) (E + fpOne)) 0

/-- sigmoid x = 1/(1 + e^-x). -/
def sigmoidNum : Num → Num
  | .nan => .nan
  | .inf true => .fin false 0 0 false
  | .inf false => .fin false 1 0 false
  | .fin neg m e _ =>
    if m = 0 then .fin false 1 (-1) false
    else if atLeast m e 400 then (if neg then tinyNum false else justBelow false 1 0)
    else
      let (v, k) := expScaled (fixed false m e)
      let E := v * (2 ^ k.toNat : Nat)
      -- x > 0: E/(1+E); x < 0: 1/(1+E), scaled by 2^k to keep its leading bits
      if neg then irrational false (fdiv (fpOne * (2 ^ k.toNat : Nat)) (fpOne + E)) (-k)
      else irrational false (fdiv E (fpOne + E)) 0

/-- x × s for a positive irrational factor s. -/
def timesNum (neg : Bool) (m : Nat) (e : Int) (s : Num) : Num :=
  match s with
  | .fin _ ms es st => .fin neg (m * ms) (e + es) st
  | y => y

/-- silu x = x × sigmoid x. -/
def siluNum : Num → Num
  | .nan => .nan
  | .inf true => .fin true 0 0 false
  | .inf false => .inf false
  | .fin neg m e st =>
    if m = 0 then .fin neg 0 0 false
    else if atLeast m e 400 then (if neg then tinyNum true else justBelow false m e)
    else timesNum neg m e (sigmoidNum (.fin neg m e st))

/-- gelu x = x (1 + erf(x/√2))/2. -/
def geluNum : Num → Num
  | .nan => .nan
  | .inf true => .fin true 0 0 false
  | .inf false => .inf false
  | .fin neg m e _ =>
    if m = 0 then .fin neg 0 0 false
    else if atLeast m e 18 then (if neg then tinyNum true else justBelow false m e)
    else timesNum neg m (e - 1) (irrational false (onePlusErf (fixed neg m e)) 0)

/-- sin (quarter = 0) and cos (quarter = 1) of x, reduced exactly modulo π/2. -/
def trigNum (quarter : Nat) : Num → Num × Fl
  | .nan => (.nan, 0)
  | .inf _ => (.nan, flNV)
  | .fin neg m e _ =>
    if m = 0 then ((if quarter = 0 then .fin neg 0 0 false else .fin false 1 0 false), 0)
    else
      -- x and π/2 in units of 2^-(fpBits + extra): extra covers the integer bits of x
      let extra := if e > 0 then (topExp m e).toNat + 8 else 8 + Nat.log2 m
      let bits := fpBits + extra
      let s := (bits : Int) + e
      let x : Int := if 0 ≤ s then ((m * 2 ^ s.toNat : Nat) : Int) else ((m / 2 ^ s.natAbs : Nat) : Int)
      let x := if neg then -x else x
      let h := piBits bits / 2
      let q := (2 * x + h) / (2 * h)
      let r := (x - q * h) / (2 ^ extra : Nat)
      let k := ((q + quarter) % 4).toNat
      let v := if k % 2 = 0 then sinFixed r else cosFixed r
      let v := if k < 2 then v else -v
      (irrational (v < 0) (if v < 0 then -v else v) 0, 0)

/-- The function of VFUN by its FN code (R155, R260). -/
def funNum (fn : Nat) (x : Num) : Num × Fl :=
  match fn with
  | 0 => (exp2Num x, 0)
  | 1 => log2Num x
  | 2 => divNum (.fin false 1 0 false) x
  | 3 => rsqrtNum x
  | 4 => (tanhNum x, 0)
  | 5 => (sigmoidNum x, 0)
  | 6 => (siluNum x, 0)
  | 7 => (geluNum x, 0)
  | 8 => trigNum 0 x
  | _ => trigNum 1 x

end Sys2Proof.Machine
end

