-- ==== Sys2Proof/Machine/Element.lean ====
section
/-! DEFINITION. The element operations of spec/11: the code and flags that one destination element receives from the codes of its
sources (R252 to R266), and the tile of VCVTF4 (R267 to R269). -/
namespace Sys2Proof.Machine

/-- What an element operation knows besides its operands: EF, rounding mode, SAT and the draw (R248, R252). -/
structure ElemCtx where
  ef : Nat
  mode : Mode
  sat : Bool
  draw : Nat
  deriving DecidableEq, Repr

/-- Deliver an exact result with the flags of forming it. -/
def ElemCtx.give (x : ElemCtx) (r : Num × Fl) : Nat × Fl :=
  let (c, f) := deliver x.ef x.mode x.sat x.draw r.1
  (c, r.2 ||| f)

def ElemCtx.val (x : ElemCtx) (c : Nat) : Num := valueOf x.ef c
def ElemCtx.bits (x : ElemCtx) : Nat := efBits x.ef

def opAdd (x : ElemCtx) (a b : Nat) : Nat × Fl := x.give (addNum x.mode (x.val a) (x.val b))
def opSub (x : ElemCtx) (a b : Nat) : Nat × Fl :=
  x.give (addNum x.mode (x.val a) (negNum (x.val b)))
def opMul (x : ElemCtx) (a b : Nat) : Nat × Fl := x.give (mulNum (x.val a) (x.val b))
/-- a × b + c, a × b - c, -(a × b) + c, each rounded once (R255). -/
def opFma (x : ElemCtx) (a b c : Nat) : Nat × Fl := x.give (fmaNum x.mode (x.val a) (x.val b) (x.val c))
def opFms (x : ElemCtx) (a b c : Nat) : Nat × Fl := x.give (fmaNum x.mode (x.val a) (x.val b) (negNum (x.val c)))
def opFnma (x : ElemCtx) (a b c : Nat) : Nat × Fl := x.give (fmaNum x.mode (negNum (x.val a)) (x.val b) (x.val c))

/-- Integer division truncated toward zero, with the cases of R257. -/
def intDiv (x : ElemCtx) (a b : Nat) : Nat × Fl :=
  let p := intOf x.ef a
  let q := intOf x.ef b
  if q = 0 then (2 ^ x.bits - 1, flDZ) else deliverInt x.ef x.sat (p.tdiv q) false

def opDiv (x : ElemCtx) (a b : Nat) : Nat × Fl :=
  if efInt x.ef then intDiv x a b else x.give (divNum (x.val a) (x.val b))
def opSqrt (x : ElemCtx) (a : Nat) : Nat × Fl := x.give (sqrtNum (x.val a))
/-- Smaller and larger of two, exact and without flags (R256). -/
def opMin (x : ElemCtx) (a b : Nat) : Nat × Fl := (encodeNum x.ef (minNum (x.val a) (x.val b)), 0)
def opMax (x : ElemCtx) (a b : Nat) : Nat × Fl := (encodeNum x.ef (maxNum (x.val a) (x.val b)), 0)

/-- A code with its sign bit replaced; NaN becomes canonical (R258). The NaN input of which R258 speaks is taken to be a, whose encoding
is copied: a NaN in b gives its sign bit alone (assumption log 57). -/
def signedCode (ef code : Nat) (sign : Bool) : Nat :=
  if isNan (valueOf ef code) then canonical ef code
  else code % 2 ^ (efBits ef - 1) + b2n sign * 2 ^ (efBits ef - 1)
/-- The sign bit of a code. -/
def signBit (ef code : Nat) : Bool := code / 2 ^ (efBits ef - 1) % 2 == 1

def opAbs (x : ElemCtx) (a : Nat) : Nat × Fl :=
  if efInt x.ef then deliverInt x.ef x.sat (intOf x.ef a).natAbs false else (signedCode x.ef a false, 0)
def opNeg (x : ElemCtx) (a : Nat) : Nat × Fl :=
  if efInt x.ef then deliverInt x.ef x.sat (-(intOf x.ef a)) false else (signedCode x.ef a (!signBit x.ef a), 0)
def opCpys (x : ElemCtx) (a b : Nat) : Nat × Fl := (signedCode x.ef a (signBit x.ef b), 0)
def opFun (x : ElemCtx) (fn a : Nat) : Nat × Fl := x.give (funNum fn (x.val a))
/-- bits(a × b, 2w - 1, w) (R255). -/
def opMulh (x : ElemCtx) (a b : Nat) : Nat × Fl := (lowBits (intOf x.ef a * intOf x.ef b / (2 ^ x.bits : Nat)) x.bits, 0)

/-- Half of a value. -/
def halfNum : Num → Num
  | .fin n m e s => .fin n m (e - 1) s
  | y => y
def opAvg (x : ElemCtx) (a b : Nat) : Nat × Fl :=
  let (s, f) := addNum x.mode (x.val a) (x.val b)
  x.give (halfNum s, f)

/-- The class bits of R259. -/
def opClass (x : ElemCtx) (a : Nat) : Nat × Fl :=
  let v := x.val a
  let k := match v with
    | .nan => 8
    | .inf n => if n then 0 else 7
    | .fin n m e _ =>
      let minNormal := match floatFmt x.ef with
        | some f => !magLt m e 1 (1 - (f.bias : Int))
        | none => true
      if m = 0 then (if n then 3 else 4)
      else if n then (if minNormal then 1 else 2)
      else (if minNormal then 6 else 5)
  (2 ^ k, 0)

def opAnd (_ : ElemCtx) (a b : Nat) : Nat × Fl := (Nat.land a b, 0)
def opOr (_ : ElemCtx) (a b : Nat) : Nat × Fl := (Nat.lor a b, 0)
def opXor (_ : ElemCtx) (a b : Nat) : Nat × Fl := (Nat.xor a b, 0)
/-- Shift amount modulo the width (R261). -/
def shiftAmount (x : ElemCtx) (b : Nat) : Nat := b % x.bits
def opSll (x : ElemCtx) (a b : Nat) : Nat × Fl := (a * 2 ^ shiftAmount x b % 2 ^ x.bits, 0)
def opSrl (x : ElemCtx) (a b : Nat) : Nat × Fl := (a / 2 ^ shiftAmount x b, 0)
def opSra (x : ElemCtx) (a b : Nat) : Nat × Fl := (lowBits (signedNat a x.bits / (2 ^ shiftAmount x b : Nat)) x.bits, 0)

/-- The carry-less product: the xor over every j with bit j of b set of a shifted left by j (R170, R261). -/
def clmulNat (w a b : Nat) : Nat := foldUp w (fun j acc => if b / 2 ^ j % 2 = 1 then Nat.xor acc (a * 2 ^ j) else acc) 0
def opClmul (x : ElemCtx) (a b : Nat) : Nat × Fl := (clmulNat x.bits a b % 2 ^ x.bits, 0)
def opClmulh (x : ElemCtx) (a b : Nat) : Nat × Fl := (clmulNat x.bits a b / 2 ^ x.bits, 0)

/-- Number of 1 bits among the `w` low bits. -/
def popcount (w a : Nat) : Nat := foldUp w (fun j acc => acc + a / 2 ^ j % 2) 0
/-- Leading zeros in `w` bits; w for zero. -/
def leadingZeros (w a : Nat) : Nat := if a % 2 ^ w = 0 then w else w - 1 - Nat.log2 (a % 2 ^ w)
/-- Trailing zeros in `w` bits; w for zero. -/
def trailingZeros (w a : Nat) : Nat := (findUp (fun j => a / 2 ^ j % 2 == 1) 0 w).getD w
def opPopc (x : ElemCtx) (a : Nat) : Nat × Fl := (popcount x.bits a, 0)
def opClz (x : ElemCtx) (a : Nat) : Nat × Fl := (leadingZeros x.bits a, 0)

/-- The condition of VCMP (R262): the mask bit and its flags. -/
def compareCodes (ef cond a b : Nat) : Bool × Fl :=
  let p := valueOf ef a
  let q := valueOf ef b
  let un := isNan p || isNan q
  match cond with
  | 0 => (eqNum p q, 0)
  | 1 => (!eqNum p q, 0)
  | 6 => (un, 0)
  | 7 => (!un, 0)
  | c =>
    if un then (false, flNV)
    else match c with
      | 2 => (ltNum p q, 0)
      | 3 => (!ltNum q p, 0)
      | 4 => (ltNum q p, 0)
      | _ => (!ltNum p q, 0)

/-- A conversion: the value delivered into another format (R265, R266). -/
def opConvert (dst : Nat) (x : ElemCtx) (a : Nat) : Nat × Fl := deliver dst x.mode x.sat x.draw (x.val a)

/-- a + i with a the splat value (R274). -/
def opIota (x : ElemCtx) (i a : Nat) : Nat × Fl := deliverInt x.ef x.sat (intOf x.ef a + i) false

/-- The result code of an element-wise instruction for element i (R255, R261, R265, R266, R274). `none` for an instruction that is
not of this kind. -/
def elementResult (ins : Instr) (f : BX) (x : ElemCtx) (i a b c : Nat) : Option (Nat × Fl) :=
  match ins with
  | .vadd _ => some (opAdd x a b)
  | .vsub _ => some (opSub x a b)
  | .vmul _ => some (opMul x a b)
  | .vfma _ => some (opFma x a b c)
  | .vfms _ => some (opFms x a b c)
  | .vfnma _ => some (opFnma x a b c)
  | .vdiv _ => some (opDiv x a b)
  | .vsqrt _ => some (opSqrt x a)
  | .vmin _ => some (opMin x a b)
  | .vmax _ => some (opMax x a b)
  | .vabs _ => some (opAbs x a)
  | .vneg _ => some (opNeg x a)
  | .vcpys _ => some (opCpys x a b)
  | .vfun _ => some (opFun x f.fn.toNat a)
  | .vmulh _ => some (opMulh x a b)
  | .vavg _ => some (opAvg x a b)
  | .vclass _ => some (opClass x a)
  | .vand _ => some (opAnd x a b)
  | .vor _ => some (opOr x a b)
  | .vxor _ => some (opXor x a b)
  | .vsll _ => some (opSll x a b)
  | .vsrl _ => some (opSrl x a b)
  | .vsra _ => some (opSra x a b)
  | .vclmul _ => some (opClmul x a b)
  | .vclmulh _ => some (opClmulh x a b)
  | .vpopc _ => some (opPopc x a)
  | .vclz _ => some (opClz x a)
  | .vcvtn _ => some (opConvert f.b.toNat x a)
  | .vcvtw _ => some (opConvert f.b.toNat x a)
  | .vcvti _ => some (opConvert f.fn.toNat x a)
  | .vmov _ => some (canonical x.ef a, 0)
  | .vrev _ => some (canonical x.ef a, 0)
  | .vreshape _ => some (canonical x.ef a, 0)
  | .viota _ => some (opIota x i a)
  | _ => none

/-- What an entry or one element of it produces: writes, flags by index, a read-queue value, whole tags by frame address, and the
frames poisoned (R446). -/
structure Out where
  writes : List Wr := []
  flags : Flags := {}
  rq : Option Word := none
  tags : List (Nat × Word) := []
  poison : List Nat := []
  deriving DecidableEq, Repr

def Out.add (a b : Out) : Out :=
  ⟨a.writes ++ b.writes, a.flags.merge b.flags, (match b.rq with | some v => some v | none => a.rq), a.tags ++ b.tags,
    a.poison ++ b.poison⟩

/-- The context of an entry's element operation with draw index i. -/
def elemCtx (e : Entry) (f : BX) (i : Nat) : ElemCtx :=
  ⟨f.ef.toNat, modeOf f.rnd.toNat e.cap.ectrl, f.sat == 1, drawOf e.cap i⟩

/-- The source index that destination element i reads from a: itself, but for VREV and VRESHAPE (R274, R275). -/
def sourceIndex (e : Entry) (f : BX) (i : Nat) : Nat :=
  match e.instr with
  | .vrev _ => e.cap.ecount - 1 - i
  | .vreshape _ =>
    let l := (e.reg f.b).toNat
    let r := e.cap.ecount / l
    i % r * l + i / r
  | _ => i

/-- Address of destination element i, and whether its index was uncorrectable (R150, R446). -/
def destIndexed (rd : Rd) (e : Entry) (f : BX) (i : Nat) : Except Stop (Int × Bool) := do
  let (x, bad) ← indexValue (rdAt rd i) e 0 f.d f.dm i
  pure (elementAddr e f.d f.dm (destBits e.instr f) i x, bad)

/-- Address of destination element i (R150). -/
def destAddr (rd : Rd) (e : Entry) (f : BX) (i : Nat) : Except Stop Int := (destIndexed rd e f i).map fun x => x.1

/-- Address of destination element i, checked as a destination (R246); whether its index or R459 poisons its frame. -/
def destElementAddr (rd : Rd) (dst : Dst) (e : Entry) (f : BX) (i : Nat) : Except Stop (Int × Bool) := do
  let bits := destBits e.instr f
  let (addr, badX) ← destIndexed rd e f i
  let bad ← dst i addr (if bits < 8 then 1 else bits / 8)
  pure (addr, badX || bad)

/-- One element of an element-wise instruction (R251): nothing where it is inactive. -/
def runElement (rd0 : Rd) (dst : Dst) (e : Entry) (f : BX) (i : Nat) : Except Stop Out := do
  let rd := rdAt rd0 i
  let (act, badM) ← active rd e f.msk i
  if !act then pure {} else
  let (addr, badD) ← destElementAddr rd dst e f i
  let w := efBits f.ef.toNat
  let j := sourceIndex e f i
  let (a, badA) ← readElement rd e 1 f.a f.am w j
  let reshape := match e.instr with | .vreshape _ => true | _ => false
  let (b, badB) ← if usesB e.instr && !reshape then readElement rd e 2 f.b f.bm w i else pure (0, false)
  let (c, badC) ← if usesC e.instr then readElement rd e 3 f.c f.cm w i else pure (0, false)
  let (code, fl) := (elementResult e.instr f (elemCtx e f i) i a b c).getD (0, 0)
  pure { writes := codeWrites addr.toNat (destBits e.instr f) i code, flags := flagsAt fl i,
         poison := if badM || badA || badB || badC || badD then [addr.toNat] else [] }

/-- One element of VCMP: its bit of the mask array (R262, R263). -/
def runCompare (rd0 : Rd) (dst : Dst) (e : Entry) (f : BX) (i : Nat) : Except Stop Out := do
  let rd := rdAt rd0 i
  let (act, badM) ← active rd e f.msk i
  if !act then pure {} else
  let badD ← dst i (((e.reg f.d).toNat + i / 8 : Nat) : Int) 1
  let w := efBits f.ef.toNat
  let (a, badA) ← readElement rd e 1 f.a f.am w i
  let (b, badB) ← readElement rd e 2 f.b f.bm w i
  let (r, fl) := compareCodes f.ef.toNat f.fn.toNat a b
  let addr := (e.reg f.d).toNat + i / 8
  pure { writes := [⟨addr, 2 ^ (i % 8), b2n r * 2 ^ (i % 8)⟩], flags := flagsAt fl i,
         poison := if badM || badA || badB || badD then [addr] else [] }

/-- One element of VSELM: the mask selects, every element is written, both sources are read (R264). -/
def runSelect (rd0 : Rd) (dst : Dst) (e : Entry) (f : BX) (i : Nat) : Except Stop Out := do
  let rd := rdAt rd0 i
  let (addr, badD) ← destElementAddr rd dst e f i
  let (sel, badM) ← active rd e f.msk i
  let w := efBits f.ef.toNat
  let (a, badA) ← readElement rd e 1 f.a f.am w i
  let (b, badB) ← readElement rd e 2 f.b f.bm w i
  pure { writes := codeWrites addr.toNat w i (canonical f.ef.toNat (if sel then a else b)),
         poison := if badM || badA || badB || badD then [addr.toNat] else [] }

/-- The larger of two magnitudes of finite values. -/
def maxMag (a b : Num) : Num :=
  match a, b with
  | .fin _ m1 e1 _, .fin _ m2 e2 _ => if magLt m1 e1 m2 e2 then .fin false m2 e2 false else .fin false m1 e1 false
  | .fin _ m1 e1 _, _ => .fin false m1 e1 false
  | _, .fin _ m2 e2 _ => .fin false m2 e2 false
  | _, _ => .fin false 0 0 false

/-- ceil(log2(A / k)) of a nonzero magnitude (R269). -/
def ceilLog2Ratio (m : Nat) (e : Int) (k : Nat) : Int :=
  -- smallest t with m × 2^e ≤ k × 2^t
  let t0 := topExp m e - (Nat.log2 k : Int) - 2
  let step := findUp (fun j => !magLt k (t0 + j) m e) 0 6
  t0 + (step.getD 0)

/-- The smallest E3M5 value at or above a nonnegative finite value (R269). -/
def e3m5Above (x : Num) : Nat := (deliver 18 .rup false 0 x).1

/-- Scale codes and element codes of one block of eight (R269): codes, block scale, flags by position in the block. -/
def f4Block (qef k : Nat) (e : Int) (mode : Mode) (draw : Nat → Nat) (xs : List Num) : Nat × List (Nat × Fl) :=
  if xs.any fun x => match x with | .fin _ _ _ _ => false | _ => true then
    (0xFF, xs.map fun x => match x with | .fin _ _ _ _ => (0, (0 : Fl)) | _ => (0, flNV))
  else
    let mx := xs.foldl maxMag (.fin false 0 0 false)
    let tb := (divNum mx (.fin false k e false)).1
    let sc := e3m5Above tb
    let scale := valueOf 18 sc
    (sc, xs.zipIdx.map fun (x, j) =>
      if sc = 0 then
        (if qef = 17 then (if isNeg x then 8 else 0) else 0, if isZero x then (0 : Fl) else flNX ||| flUF)
      else
        let d := (mulNum scale (.fin false 1 e false)).1
        let (q, _) := deliver qef mode true (draw j) (divNum x d).1
        let back := (mulNum (valueOf qef q) d).1
        let nx := !(eqNum back x)
        (q, (if nx then flNX else 0) ||| (if !isZero x && isZero (valueOf qef q) then flUF else 0)))

/-- The 8 KiB frame of a scaled tile and its flags by element (R82, R269, R339): element codes, block and band scales. `k` is 6
for SF4 and 7 for SI4, `kb` is 48 and 56; `src r c` is the value of element (r, c), `draw` its draw index. -/
def scaledTile (qef k kb rows cols : Nat) (mode : Mode) (src : Nat → Nat → Num) (draw : Nat → Nat) : List Byte × List (Nat × Fl) :=
  let nb := (rows + 63) / 64
  let bands := (List.range nb).map fun n =>
    let hi := if 64 * n + 64 < rows then 64 * n + 64 else rows
    let mx := foldUp (hi - 64 * n) (fun r acc => foldUp cols (fun c acc => maxMag acc (src (64 * n + r) c)) acc) (.fin false 0 0 false)
    match mx with
    | .fin _ m e _ => if m = 0 then 0 else (let t := ceilLog2Ratio m e kb; if t < -133 then -133 else t)
    | _ => 0
  let blocks := (List.range (rows * (cols / 8))).map fun q =>
    let r := q / (cols / 8)
    let c0 := q % (cols / 8) * 8
    f4Block qef k (bands[r / 64]?.getD 0) mode (fun j => draw (r * cols + c0 + j)) ((List.range 8).map fun j => src r (c0 + j))
  let codes := blocks.flatMap fun b => b.2
  let nib := fun (i : Nat) => ((codes[i]?).getD (0, 0)).1
  let elems := (List.range (rows * cols / 2)).map fun i => BitVec.ofNat 8 (nib (2 * i) + 16 * nib (2 * i + 1))
  let scales := blocks.map fun b => BitVec.ofNat 8 b.1
  let bandBytes := bands.flatMap fun t => leBytes 2 (encodeNum 13 (.fin false 1 t false))
  let pad := fun (n : Nat) (l : List Byte) => l ++ List.replicate (n - l.length) 0
  (pad 4096 elems ++ pad 2048 scales ++ pad 2048 bandBytes, codes.zipIdx.map fun (p, i) => (i, p.2))

/-- VCVTF4: tile t of the instruction (R267, R268, R269). -/
def runF4Tile (rd : Rd) (e : Entry) (f : BX) (t : Nat) : Except Stop Out := do
  let rows := f4Rows f
  let n := f4Elems f
  let xs ← (List.range n).mapM fun i => readElement rd e 1 f.a 0 32 (n * t + i)
  let frame := (e.reg f.d).toNat + 8192 * t
  let vals := xs.map fun p => valueOf 14 p.1
  let (bytes, fl) := scaledTile 17 6 48 rows 64 (modeOf f.rnd.toNat e.cap.ectrl)
    (fun r c => (vals[64 * r + c]?).getD .nan) (fun i => drawOf e.cap (n * t + i))
  pure { writes := bytes.zipIdx.map fun (b, j) => ⟨frame + j, 255, b.toNat⟩,
         flags := fl.foldl (fun acc p => acc.merge (flagsAt p.2 (n * t + p.1))) {},
         poison := if xs.any fun p => p.2 then [frame] else [] }

end Sys2Proof.Machine
end

