-- ==== Sys2Proof/Machine/Reduce.lean ====
section
/-! DEFINITION. The instructions of spec/12 that combine elements across indices: VCOMPRESS, VEXPAND, reductions, scans, VFIRST,
VCOUNT, VCONFL and the scatters (R276 to R283), each over the whole index range at once; and the sparse lists (R284 to R286). -/
namespace Sys2Proof.Machine

/-- The active indices below ECOUNT in ascending order, and the index of the first mask bit that was uncorrectable. -/
def activeIndices (rd : Rd) (e : Entry) (msk : BitVec 2) : Except Stop (List Nat × Option Nat) :=
  (List.range e.cap.ecount).foldlM (fun (acc : List Nat × Option Nat) i => do
    let (act, bad) ← active rd e msk i
    pure (if act then acc.1 ++ [i] else acc.1, if bad then minIdx acc.2 (some i) else acc.2)) ([], none)

/-- The codes of source a at the listed indices, with the indices that were uncorrectable. -/
def termsAt (rd : Rd) (e : Entry) (f : BX) (is : List Nat) : Except Stop (List (Nat × Nat × Bool)) :=
  is.mapM fun i => do
    let (a, bad) ← readElement rd e 1 f.a f.am (efBits f.ef.toNat) i
    pure (i, a, bad)

/-- Which destination addresses a run performs: those of the bank that runs it (R17), or all of them where one step performs the whole
instruction. -/
abbrev Mine := Int → Bool

/-- VCOMPRESS and VEXPAND (R276). -/
def runCompress (mine : Mine) (rd : Rd) (dst : Dst) (e : Entry) (f : BX) : Except Stop Out := do
  let (is, badAt) ← activeIndices rd e f.msk
  let w := efBits f.ef.toNat
  is.zipIdx.foldlM (fun (acc : Out) (i, j) => do
    let expand := match e.instr with | .vexpand _ => true | _ => false
    let (src, tgt) := if expand then (j, i) else (i, j)
    let addr0 ← destAddr rd e f tgt
    if !mine addr0 then pure acc else
    let (a, bad) ← readElement rd e 1 f.a f.am w src
    let (addr, badD) ← destElementAddr rd dst e f tgt
    let maskBad := match badAt with | some b => decide (b ≤ i) | none => false
    pure (acc.add { writes := codeWrites addr.toNat w tgt (canonical f.ef.toNat a),
                    poison := if bad || maskBad || badD then [addr.toNat] else [] })) {}

/-- The earlier of two faults in the order of R221. -/
def lowerFault : Option Cause → Cause → Cause
  | none, c => c
  | some b, c => if c.before b then c else b

/-- Every destination and source of an instruction that reads its whole range before it gives a result, tried at each index: the
lowest fault of R221 among those that the run performs, if there is one. The state counts the active indices below the present one. -/
def probeAll (mine : Mine) (rd : Rd) (dst : Dst) (e : Entry) (f : BX) : Except Stop Unit := do
  let step := fun (acc : Option Cause × Nat) (i : Nat) => do
    let one : Except Stop Bool := do
      let (act, _) ← active rd e f.msk i
      if act then
        let (src, tgt) : Nat × Option Nat := (match e.instr with
          | .vcompress _ => (i, some acc.2)
          | .vexpand _ => (acc.2, some i)
          | ins => (i, if isReduction ins then none else some i))
        let here ← match tgt with
          | some j => (destAddr rd e f j).map mine
          | none => pure true
        if here then
          if let some j := tgt then
            let _ ← destElementAddr rd dst e f j
          let _ ← readElement (rdAt rd i) e 1 f.a f.am (efBits f.ef.toNat) src
      pure act
    match one with
    | .ok act => pure (acc.1, if act then acc.2 + 1 else acc.2)
    | .error (.fault c) => pure (some (lowerFault acc.1 c), acc.2 + 1)
    | .error m => throw m
  let (bad, _) ← (List.range e.cap.ecount).foldlM step (none, 0)
  match bad with
  | some c => throw (.fault c)
  | none => pure ()

/-- What a reduction gives with no term (R279). -/
def reduceIdentity (i : Instr) (ef fn : Nat) : Nat :=
  match i with
  | .vredmax _ => if efInt ef then lowBits (intMin ef) (efBits ef) else encodeNum ef (.inf true)
  | .vredmin _ => if efInt ef then lowBits (intMax ef) (efBits ef) else encodeNum ef (.inf false)
  | .vredbit _ => if fn = 0 then 2 ^ efBits ef - 1 else 0
  | .vfirst _ => 2 ^ 64 - 1
  | _ => 0

/-- max or min over a list of codes by R256. -/
def extremum (ef : Nat) (mx : Bool) : List Nat → Option Nat
  | [] => none
  | t :: ts => some (encodeNum ef (ts.foldl (fun acc c => if mx then maxNum acc (valueOf ef c) else minNum acc (valueOf ef c)) (valueOf ef t)))

/-- The result of a reduction over its active terms (index, code) in ascending index (R277, R279). -/
def reduceTerms (ins : Instr) (x : ElemCtx) (fn : Nat) (ts : List (Nat × Nat)) : Nat × Fl :=
  let ident := reduceIdentity ins x.ef fn
  match ins with
  | .vredsum _ => sumCodes x.ef x.mode x.sat x.draw (ts.map (·.2))
  | .vredmax _ => ((extremum x.ef true (ts.map (·.2))).getD ident, 0)
  | .vredmin _ => ((extremum x.ef false (ts.map (·.2))).getD ident, 0)
  | .vredbit _ =>
    (ts.foldl (fun acc p => match fn with | 0 => Nat.land acc p.2 | 1 => Nat.lor acc p.2 | _ => Nat.xor acc p.2) ident, 0)
  | .vfirst _ => (match ts.find? fun p => p.2 != 0 with | some p => p.1 | none => ident, 0)
  | .vcount _ => ((ts.filter fun p => p.2 != 0).length, 0)
  | _ => (0, 0)

/-- A result for the read queue: integers extended by EF, floats zero-extended, VFIRST and VCOUNT a U64 (R278). -/
def queueValue (ins : Instr) (ef code : Nat) : Word :=
  match ins with
  | .vfirst _ | .vcount _ => w64 code
  | _ => if intSigned ef then sextNat code (efBits ef) else w64 code

/-- The fault of the first word, in the order of R221, that a read-queue delivery meets as uncorrectable: the mask bit of element i, its
index, or its element (R446). `none` where all are sound. -/
def queueFault (rd : Rd) (e : Entry) (f : BX) (i : Nat) : Except Stop (Option Cause) := do
  let (act, badM) ← active rd e f.msk i
  let x := elemCtx e f 0
  if !act then
    pure (if badM then some (bFault 7 ((e.cap.emask + i / 8 : Nat) : Int) i 4 false) else none)
  else
    let (v, badX) ← indexValue rd e 1 f.a f.am i
    let (_, badA) ← readElement rd e 1 f.a f.am x.bits i
    pure (if badX then some (bFault 7 ((e.reg1 f.a).toNat + 4 * i : Nat) i 1 true)
      else if badA then some (bFault 7 (elementAddr e f.a f.am x.bits i v) i 1 false)
      else if badM then some (bFault 7 ((e.cap.emask + i / 8 : Nat) : Int) i 4 false) else none)

/-- A reduction, VFIRST or VCOUNT (R277 to R279). A read-queue delivery has no frame to poison: an uncorrectable word faults
whatever PP holds (R446). -/
def runReduction (rd : Rd) (dst : Dst) (e : Entry) (f : BX) : Except Stop Out := do
  let (is, badAt) ← activeIndices rd e f.msk
  let ts ← termsAt rd e f is
  let x := elemCtx e f 0
  let (code, fl) := reduceTerms e.instr x f.fn.toNat (ts.map fun p => (p.1, p.2.1))
  let bad := badAt.isSome || ts.any fun p => p.2.2
  if f.dm = 2 then
    if bad then
      let cs ← (List.range e.cap.ecount).mapM (queueFault rd e f)
      throw (.fault (((cs.filterMap id).head?).getD (bFault 7 (e.reg f.a).toNat 0 1 false)))
    else pure { flags := flagsAt fl 0, rq := some (queueValue e.instr f.ef.toNat code) }
  else
    let addr := (e.reg f.d).toNat
    let badD ← dst 0 (addr : Int) ((destBits e.instr f + 7) / 8)
    pure { writes := codeWrites addr (destBits e.instr f) 0 code, flags := flagsAt fl 0,
           poison := if bad || badD then [addr] else [] }

/-- The active indices up to the last one whose destination the run performs: what its prefixes are made of. -/
def prefixIndices (mine : Mine) (rd : Rd) (e : Entry) (f : BX) (is : List Nat) : Except Stop (List Nat) := do
  let here ← is.filterM fun i => (destAddr rd e f i).map mine
  pure (is.filter fun i => here.any fun j => decide (i ≤ j))

/-- VSCAN (R280): every active destination index receives the combination of the active terms up to it, or below it. -/
def runScan (mine : Mine) (rd : Rd) (dst : Dst) (e : Entry) (f : BX) : Except Stop Out := do
  let (all, badAt) ← activeIndices rd e f.msk
  let is ← prefixIndices mine rd e f all
  let ts ← termsAt rd e f is
  let x := elemCtx e f 0
  let op := f.fn.toNat % 4
  let ex := f.fn.toNat / 4 == 1
  is.zipIdx.foldlM (fun (acc : Out) (j, k) => do
    let addr0 ← destAddr rd e f j
    if !mine addr0 then pure acc else
    let pre := ts.take (if ex then k else k + 1)
    let codes := pre.map fun p => p.2.1
    let (code, fl) :=
      match op with
      | 0 => sumCodes x.ef x.mode x.sat x.draw codes
      | 1 => ((extremum x.ef true codes).getD (reduceIdentity (.vredmax f) x.ef 0), 0)
      | _ => ((extremum x.ef false codes).getD (reduceIdentity (.vredmin f) x.ef 0), 0)
    let (addr, badD) ← destElementAddr rd dst e f j
    let maskBad := match badAt with | some b => decide (b < j) || (decide (b = j) && !ex) | none => false
    pure (acc.add { writes := codeWrites addr.toNat x.bits j code, flags := flagsAt fl j,
                    poison := if maskBad || badD || pre.any (fun p => p.2.2) then [addr.toNat] else [] })) {}

/-- VCONFL: the number of earlier active elements with the same value (R283). -/
def runConflict (mine : Mine) (rd : Rd) (dst : Dst) (e : Entry) (f : BX) : Except Stop Out := do
  let (all, badAt) ← activeIndices rd e f.msk
  let is ← prefixIndices mine rd e f all
  let ts ← termsAt rd e f is
  ts.zipIdx.foldlM (fun (acc : Out) (t, k) => do
    let addr0 ← destAddr rd e f t.1
    if !mine addr0 then pure acc else
    let n := ((ts.take k).filter fun p => p.2.1 == t.2.1).length
    let (addr, badD) ← destElementAddr rd dst e f t.1
    let maskBad := match badAt with | some b => decide (b ≤ t.1) | none => false
    pure (acc.add { writes := codeWrites addr.toNat 32 t.1 n,
                    poison := if maskBad || badD || (ts.take (k + 1)).any (fun p => p.2.2) then [addr.toNat] else [] })) {}

/-- One contribution of a scatter: index, target address, code, uncorrectable (R282). -/
structure Contribution where
  index : Nat
  target : Nat
  code : Nat
  bad : Bool
  deriving DecidableEq, Repr

/-- The new value of a scatter target from its old value and its contributions in ascending index (R281, R282). -/
def scatterUpdate (ins : Instr) (x : ElemCtx) (old : Nat) (cs : List Nat) : Nat × Fl :=
  match ins with
  | .vscatadd _ =>
    let s := sumCodes x.ef x.mode x.sat x.draw cs
    addCodes x.ef x.mode x.sat x.draw (old, 0) s
  | .vscatmax _ => ((extremum x.ef true (old :: cs)).getD old, 0)
  | _ => ((extremum x.ef false (old :: cs)).getD old, 0)

/-- A scatter: contributions combined for each distinct target, one update of each (R282). -/
def runScatter (mine : Mine) (rd : Rd) (dst : Dst) (e : Entry) (f : BX) : Except Stop Out := do
  let (all, _) ← activeIndices rd e f.msk
  let is ← all.filterM fun i => (destAddr rd e f i).map mine
  let w := efBits f.ef.toNat
  let cs ← is.mapM fun i => do
    let (_, badM) ← active rd e f.msk i
    let (addr, badD) ← destElementAddr rd dst e f i
    let (a, badA) ← readElement rd e 1 f.a f.am w i
    pure (⟨i, addr.toNat, a, badM || badA || badD⟩ : Contribution)
  let targets := (cs.map fun c => c.target).eraseDups
  targets.foldlM (fun (acc : Out) (t : Nat) => do
    let here := cs.filter fun c => c.target == t
    let c0 := ((here.head?).map fun c => c.index).getD 0
    let (bs, badO) ← rd 0 .base c0 (Int.ofNat t) (w / 8)
    let (code, fl) := scatterUpdate e.instr (elemCtx e f c0) (leNat bs) (here.map fun c => c.code)
    pure (acc.add { writes := codeWrites t w 0 code, flags := flagsAt fl c0,
                    poison := if badO || here.any (fun c => c.bad) then [t] else [] })) {}

/-- A sparse-list header (R284). -/
structure Header where
  len : Nat
  cap : Nat
  ptr : Nat
  deriving DecidableEq, Repr

/-- Read the header of element i of an operand (R285). -/
def readHeader (rd : Rd) (e : Entry) (op : Nat) (n : Reg) (i : Nat) : Except Stop (Header × Bool) := do
  let (bs, bad) ← rd op .base i (((e.reg n).toNat + 16 * i : Nat) : Int) 16
  let w0 := leNat (bs.take 8)
  pure (⟨bitsOf w0 0 9, bitsOf w0 16 9, leNat ((bs.drop 8).take 4)⟩, bad)

/-- The pairs of a list: coordinate, code, uncorrectable (R284). A PTR that is not 8-byte aligned is used as it stands: only a pair that
crosses owners then faults (assumption log 58). -/
def readPairs (rd : Rd) (op i ef : Nat) (h : Header) : Except Stop (List (Nat × Nat × Bool)) :=
  (List.range h.len).mapM fun n => do
    let (bs, bad) ← rd op .base i ((h.ptr + 8 * n : Nat) : Int) 8
    pure (leNat (bs.take 4), leNat ((bs.drop 4).take (efBits ef / 8)), bad)

/-- Coordinates strictly ascending. -/
def ascending : List Nat → Bool
  | a :: b :: r => decide (a < b) && ascending (b :: r)
  | _ => true

/-- Phase 1 of R286 for the whole instruction: the lowest i whose destination pair range overlaps what the instruction reads or
another destination range. -/
def sparseConflict (e : Entry) (f : BX) (hs : List (Header × Header × Header)) : Option Nat :=
  let n := e.cap.ecount
  let heads : List Range := [f.d, f.a, f.b].map fun r => ((e.reg r).toNat, (e.reg r).toNat + 16 * n)
  let srcs : List Range := hs.flatMap fun (_, a, b) => [(a.ptr, a.ptr + 8 * a.len), (b.ptr, b.ptr + 8 * b.len)]
  let dst := hs.map fun (d, _, _) => ((d.ptr, d.ptr + 8 * d.cap) : Range)
  let hit := fun (i : Nat) (r : Range) =>
    rangesOverlap [r] (heads ++ srcs ++ (dst.zipIdx.filter fun p => p.2 != i).map fun p => p.1)
  (dst.zipIdx.find? fun p => hit p.2 p.1).map fun p => p.2

/-- The three headers of every element (R286 phase 1). -/
def readHeaders (rd : Rd) (e : Entry) (f : BX) : Except Stop (List (Header × Header × Header)) :=
  (List.range e.cap.ecount).mapM fun i => do
    let (d, _) ← readHeader rd e 0 f.d i
    let (a, _) ← readHeader rd e 1 f.a i
    let (b, _) ← readHeader rd e 2 f.b i
    pure (d, a, b)

/-- The merged list of two ascending lists (R286): union with sums, or intersection with products. -/
def mergePairs (ins : Instr) (x : ElemCtx) (as bs : List (Nat × Nat)) : List (Nat × Nat × Fl) :=
  let look := fun (l : List (Nat × Nat)) (k : Nat) => (l.find? fun p => p.1 == k).map fun p => p.2
  match ins with
  | .vspadd _ =>
    let keys := ((as.map fun p => p.1) ++ (bs.map fun p => p.1)).eraseDups.mergeSort
    keys.map fun k => match look as k, look bs k with
      | some p, some q => let r := opAdd x p q; (k, r.1, r.2)
      | some p, none => (let r := x.give (x.val p, 0); (k, r.1, r.2))
      | none, some q => (let r := x.give (x.val q, 0); (k, r.1, r.2))
      | none, none => (k, 0, 0)
  | _ => as.filterMap fun p => (look bs p.1).map fun q => let r := opMul x p.2 q; (p.1, r.1, r.2)

/-- The writes of a result header's word 0 fields LEN, OV and BD; CAP and PTR stay (R286). -/
def headerWrites (addr cap len ov bd : Nat) : List Wr :=
  codeWrites addr 64 0 (len + cap * 2 ^ 16 + ov * 2 ^ 32 + bd * 2 ^ 33)

/-- Header i of VSPADD or VSPMUL (R286). Phase 1 is repeated whole, with the address of its fault (assumption
log 80). The flags of every result are raised, those beyond CAP included (assumption log 59). -/
def runSparse (rd : Rd) (dst : Dst) (e : Entry) (f : BX) (i : Nat) : Except Stop Out := do
  let hs ← readHeaders rd e f
  match sparseConflict e f hs with
  | some k =>
    let p := ((hs[k]?).map fun h => h.1.ptr).getD 0
    throw (.fault (bFault 5 p k 0 false))
  | none => pure ()
  let base := (e.reg f.d).toNat + 16 * i
  let badW ← dst i (base : Int) 16
  let (d, badD) ← readHeader rd e 0 f.d i
  let (a, badA) ← readHeader rd e 1 f.a i
  let (b, badB) ← readHeader rd e 2 f.b i
  let badHead := if badD || badA || badB || badW then [base] else []
  if a.len > a.cap ∨ b.len > b.cap ∨ a.cap > 256 ∨ b.cap > 256 ∨ d.cap > 256 then
    pure { writes := headerWrites base d.cap 0 0 1, poison := badHead }
  else
    let as ← readPairs rd 1 i f.ef.toNat a
    let bs ← readPairs rd 2 i f.ef.toNat b
    let bad := badHead != [] || as.any (fun p => p.2.2) || bs.any fun p => p.2.2
    if !ascending (as.map fun p => p.1) || !ascending (bs.map fun p => p.1) then
      pure { writes := headerWrites base d.cap 0 0 1, poison := if bad then [base] else [] }
    else
      let rs := mergePairs e.instr (elemCtx e f i) (as.map fun p => (p.1, p.2.1)) (bs.map fun p => (p.1, p.2.1))
      let kept := rs.take d.cap
      for (_, n) in kept.zipIdx do
        let _ ← dst i ((d.ptr + 8 * n : Nat) : Int) 8
      let pairs := kept.zipIdx.flatMap fun (r, n) => codeWrites (d.ptr + 8 * n) 64 0 (r.1 + r.2.1 * 2 ^ 32)
      let fl := rs.foldl (fun acc r => acc ||| r.2.2) (0 : Fl)
      pure { writes := pairs ++ headerWrites base d.cap kept.length (b2n (rs.length > d.cap)) 0, flags := flagsAt fl i,
             poison := if bad then base :: (kept.zipIdx.map fun (_, n) => d.ptr + 8 * n) else [] }

end Sys2Proof.Machine
end

