-- ==== Sys2Proof/Machine/Block.lean ====
section
/-! DEFINITION. The scalar register operations, shared by the sequencer (R170 to R175) and the block runner, and the block runner
itself: VRUNB elements and block-code methods (R287 to R293, R308). -/
namespace Sys2Proof.Machine

/-- The integer group on two values (R170, R171). -/
def aluAdd (x y : Word) : Word := x + y
def aluSub (x y : Word) : Word := x - y
def aluAnd (x y : Word) : Word := x &&& y
def aluOr (x y : Word) : Word := x ||| y
def aluXor (x y : Word) : Word := x ^^^ y
def aluAndn (x y : Word) : Word := x &&& ~~~y
def aluSll (x y : Word) : Word := x <<< (y.toNat % 64)
def aluSrl (x y : Word) : Word := x >>> (y.toNat % 64)
def aluSra (x y : Word) : Word := x.sshiftRight (y.toNat % 64)
def aluRol (x y : Word) : Word := x.rotateLeft (y.toNat % 64)
def aluRor (x y : Word) : Word := x.rotateRight (y.toNat % 64)
def aluSlt (x y : Word) : Word := if x.slt y then 1 else 0
def aluSltu (x y : Word) : Word := if x.ult y then 1 else 0
def aluMin (x y : Word) : Word := if y.slt x then y else x
def aluMax (x y : Word) : Word := if x.slt y then y else x
def aluMinu (x y : Word) : Word := if y.ult x then y else x
def aluMaxu (x y : Word) : Word := if x.ult y then y else x
def aluMul (x y : Word) : Word := x * y
def aluMulh (x y : Word) : Word := BitVec.ofInt 64 (x.toInt * y.toInt / 2 ^ 64)
def aluMulhu (x y : Word) : Word := w64 (x.toNat * y.toNat / 2 ^ 64)
def aluDiv (x y : Word) : Word := if y = 0 then BitVec.allOnes 64 else BitVec.ofInt 64 (x.toInt.tdiv y.toInt)
def aluDivu (x y : Word) : Word := if y = 0 then BitVec.allOnes 64 else w64 (x.toNat / y.toNat)
def aluRem (x y : Word) : Word := if y = 0 then x else BitVec.ofInt 64 (x.toInt.tmod y.toInt)
def aluRemu (x y : Word) : Word := if y = 0 then x else w64 (x.toNat % y.toNat)
def aluClmul (x y : Word) : Word := w64 (clmulNat 64 x.toNat y.toNat)
def aluClmulh (x y : Word) : Word := w64 (clmulNat 64 x.toNat y.toNat / 2 ^ 64)
def aluClz (x : Word) : Word := w64 (leadingZeros 64 x.toNat)
def aluCtz (x : Word) : Word := w64 (trailingZeros 64 x.toNat)
def aluPopc (x : Word) : Word := w64 (popcount 64 x.toNat)
/-- The width that a code b names: n = 2(b + 1) (R172). -/
def widthOf (w : Reg) : Nat := 2 * (w.toNat + 1)
def aluSext (w : Reg) (x : Word) : Word := sextNat x.toNat (widthOf w)
def aluZext (w : Reg) (x : Word) : Word := w64 (x.toNat % 2 ^ widthOf w)
/-- sext(imm15, 15) (R173). -/
def imm15 (i : BitVec 15) : Word := i.signExtend 64

/-- The registers of the block runner: a frame of slots f0 to f31 (R287), as a map; f0 reads 0 (R291). -/
abbrev Slots := Map Word
def slotGet (fr : Slots) (n : Reg) : Word := if n = 0 then 0 else mget 0 fr n.toNat
def slotSet (fr : Slots) (n : Reg) (v : Word) : Slots := if n = 0 then fr else mset 0 fr n.toNat v

/-- The destination register and value of an instruction that computes from registers alone (R170 to R175). -/
def pureResult (i : Instr) (r : Reg → Word) : Option (Reg × Word) :=
  match i with
  | .add d a b => some (d, aluAdd (r a) (r b))
  | .sub d a b => some (d, aluSub (r a) (r b))
  | .and d a b => some (d, aluAnd (r a) (r b))
  | .or d a b => some (d, aluOr (r a) (r b))
  | .xor d a b => some (d, aluXor (r a) (r b))
  | .andn d a b => some (d, aluAndn (r a) (r b))
  | .sll d a b => some (d, aluSll (r a) (r b))
  | .srl d a b => some (d, aluSrl (r a) (r b))
  | .sra d a b => some (d, aluSra (r a) (r b))
  | .rol d a b => some (d, aluRol (r a) (r b))
  | .ror d a b => some (d, aluRor (r a) (r b))
  | .slt d a b => some (d, aluSlt (r a) (r b))
  | .sltu d a b => some (d, aluSltu (r a) (r b))
  | .min d a b => some (d, aluMin (r a) (r b))
  | .max d a b => some (d, aluMax (r a) (r b))
  | .minu d a b => some (d, aluMinu (r a) (r b))
  | .maxu d a b => some (d, aluMaxu (r a) (r b))
  | .mul d a b => some (d, aluMul (r a) (r b))
  | .mulh d a b => some (d, aluMulh (r a) (r b))
  | .mulhu d a b => some (d, aluMulhu (r a) (r b))
  | .div d a b => some (d, aluDiv (r a) (r b))
  | .divu d a b => some (d, aluDivu (r a) (r b))
  | .rem d a b => some (d, aluRem (r a) (r b))
  | .remu d a b => some (d, aluRemu (r a) (r b))
  | .clmul d a b => some (d, aluClmul (r a) (r b))
  | .clmulh d a b => some (d, aluClmulh (r a) (r b))
  | .clz d a => some (d, aluClz (r a))
  | .ctz d a => some (d, aluCtz (r a))
  | .popc d a => some (d, aluPopc (r a))
  | .sext d a w => some (d, aluSext w (r a))
  | .zext d a w => some (d, aluZext w (r a))
  | .addi d a i => some (d, aluAdd (r a) (imm15 i))
  | .andi d a i => some (d, aluAnd (r a) (imm15 i))
  | .ori d a i => some (d, aluOr (r a) (imm15 i))
  | .xori d a i => some (d, aluXor (r a) (imm15 i))
  | .slli d a i => some (d, aluSll (r a) (i.zeroExtend 64))
  | .srli d a i => some (d, aluSrl (r a) (i.zeroExtend 64))
  | .srai d a i => some (d, aluSra (r a) (i.zeroExtend 64))
  | .slti d a i => some (d, aluSlt (r a) (imm15 i))
  | .sltiu d a i => some (d, aluSltu (r a) (imm15 i))
  | .lih d i => some (d, w64 (i.toNat * 4096))
  | .lim d i => some (d, i.signExtend 64)
  | _ => none

/-- A scalar load's size in bytes and whether it sign-extends, and a store's size (R176). -/
def loadShape : Instr → Option (Reg × Reg × BitVec 15 × Nat × Bool)
  | .lb d a i => some (d, a, i, 1, true)
  | .lbu d a i => some (d, a, i, 1, false)
  | .lh d a i => some (d, a, i, 2, true)
  | .lhu d a i => some (d, a, i, 2, false)
  | .lw d a i => some (d, a, i, 4, true)
  | .lwu d a i => some (d, a, i, 4, false)
  | .ld d a i => some (d, a, i, 8, false)
  | _ => none
def storeShape : Instr → Option (Reg × Reg × BitVec 15 × Nat)
  | .sb d a i => some (d, a, i, 1)
  | .sh d a i => some (d, a, i, 2)
  | .sw d a i => some (d, a, i, 4)
  | .sd d a i => some (d, a, i, 8)
  | _ => none

/-- The value of a load from its bytes (R176). -/
def extendLoad (signed : Bool) (bs : List Byte) : Word :=
  if signed then sextNat (leNat bs) (8 * bs.length) else w64 (leNat bs)

/-- Branch conditions and offsets (R189). -/
def branchShape : Instr → Option (Reg × Reg × BitVec 5 × BitVec 10 × (Word → Word → Bool))
  | .beq l a b h => some (a, b, l, h, fun x y => x == y)
  | .bne l a b h => some (a, b, l, h, fun x y => x != y)
  | .blt l a b h => some (a, b, l, h, fun x y => x.slt y)
  | .bge l a b h => some (a, b, l, h, fun x y => !x.slt y)
  | .bltu l a b h => some (a, b, l, h, fun x y => x.ult y)
  | .bgeu l a b h => some (a, b, l, h, fun x y => !x.ult y)
  | _ => none
/-- 4 × sext(offhi : offlo, 15). -/
def branchOffset (l : BitVec 5) (h : BitVec 10) : Word := 4 * (h ++ l).signExtend 64
/-- 4 × sext(off20, 20). -/
def jumpOffset (o : BitVec 20) : Word := 4 * o.signExtend 64

/-- What a run of a block works in: its slots, scratch, the staged bytes of its destination, flags by the element of the block
instruction that raised them (R91), poison and pc. -/
structure Runner where
  slots : Slots := []
  scratch : List Host.Cell := []
  staged : List (Nat × Byte) := []
  flags : Flags := {}
  bad : Bool := false
  pc : Nat := 0
  done : Bool := false
  deriving DecidableEq, Repr

/-- What a block runs for: draw index base, element or tile index, destination bytes [dlo, dhi), the block's bounds, frames that an
address names directly because the operand lies in a conversion frame (R308), block-store words with an uncorrectable error (R444, R459). -/
structure BlockJob where
  index : Nat
  drawBase : Nat
  dlo : Nat
  dhi : Nat
  off : Nat
  len : Nat
  alias8 : List (Nat × List Byte) := []
  bad : List Nat := []
  deriving DecidableEq, Repr

/-- illegal(r, v) of R292. -/
def blockIllegal (j : BlockJob) (r : Nat) (v : Word) : Stop :=
  .fault ⟨1, v, w64 (r + j.index * 2 ^ 16), j.index, 0, 0⟩

/-- Bytes that a block reads (R291): scratch with bit 63 set, else the field as before the instruction with the bytes this block
has stored. An address with bit 63 and any of bits [62:12] set is the pull fault of an address outside the field, operand a for a load
and d for a store: R291 requires those bits zero and names no outcome (assumption log 60). `op` is the operand that a fault names. -/
def blockRead (rd : Rd) (j : BlockJob) (m : Runner) (op : Nat) (ea : Word) (n : Nat) : Except Stop (List Byte × Bool) :=
  if ea.toNat ≥ 2 ^ 63 then
    if bitsOf ea.toNat 12 51 = 0 then .ok (rdBytes m.scratch (ea.toNat % 4096) n, false)
    else .error (.fault (bFault 5 ea.toNat j.index op false))
  else (List.range n).foldlM (fun (acc : List Byte × Bool) k =>
    let a := ea.toNat + k
    match m.staged.find? fun p => p.1 == a with
    | some p => .ok (acc.1 ++ [p.2], acc.2)
    | none =>
      match j.alias8.find? fun p => decide (p.1 ≤ a) && decide (a < p.1 + 8192) with
      | some p => .ok (acc.1 ++ [(p.2[a - p.1]?).getD 0], acc.2)
      | none => do
        let (b, bad) ← rd op .base j.index (a : Int) 1
        pure (acc.1 ++ b, acc.2 || bad)) ([], false)

/-- Bytes that a block stores (R291): scratch, or the destination bytes, which are staged. -/
def blockWrite (j : BlockJob) (m : Runner) (ea : Word) (bs : List Byte) : Except Stop Runner :=
  let n := ea.toNat
  if n ≥ 2 ^ 63 then
    if bitsOf n 12 51 = 0 then .ok { m with scratch := wrBytes m.scratch (n % 4096) bs }
    else .error (.fault (bFault 5 n j.index 0 false))
  else if j.dlo ≤ n ∧ n + bs.length ≤ j.dhi then
    .ok { m with staged := bs.zipIdx.foldl (fun acc p => (n + p.2, p.1) :: acc.filter fun q => q.1 != n + p.2) m.staged }
  else .error (.fault (bFault 5 n j.index 0 false))

/-- BX operations that block code may run, over f4 elements (R291). -/
def blockBx : Instr → Bool
  | .vadd _ | .vsub _ | .vmul _ | .vfma _ | .vfms _ | .vfnma _ | .vdiv _ | .vsqrt _ | .vmin _ | .vmax _ | .vabs _ | .vneg _
  | .vcpys _ | .vfun _ | .vmulh _ | .vavg _ | .vclass _ | .vand _ | .vor _ | .vxor _ | .vsll _ | .vsrl _ | .vsra _ | .vclmul _
  | .vclmulh _ | .vpopc _ | .vclz _ | .vcmp _ | .vcvtn _ | .vcvtw _ | .vcvti _ | .vmov _ | .viota _ | .vrev _ => true
  | _ => false

/-- The misaligned fault of a block access: operand a of a load, d of a store (R291). -/
def blockAlign (j : BlockJob) (ea : Word) (n op : Nat) : Except Stop Unit :=
  if ea.toNat % n ≠ 0 then .error (.fault (bFault 3 ea.toNat j.index op false)) else .ok ()

/-- A block's BX instruction: every element read, then every element written, by the runner alone (R291): sources as
loads read, the destination as stores write, each naturally aligned. An uncorrectable word among the sources, the indices and the bytes that a
sub-byte write keeps marks the result (R446, R459). -/
def blockBxRun (rd : Rd) (j : BlockJob) (cap : Capture) (m : Runner) (i : Instr) (f : BX) : Except Stop Runner := do
  let n := (slotGet m.slots 4).toNat
  let e : Entry := ⟨0, 0, i, m.slots, { cap with ecount := n, estart := 0 }, [], none, false, false, {}, 0, [], [], false, none, [], [], [], [], []⟩
  let brd : Rd := fun _ _ _ addr len => do
    blockAlign j (w64 (lowBits addr 64)) (max 1 len) 1
    blockRead rd j m 1 (w64 (lowBits addr 64)) len
  let outs ← (List.range n).mapM fun k => do
    let o ← match i with
      | .vcmp _ => runCompare brd (fun _ _ _ => .ok false) e f k
      | _ => do
        -- destination addresses are absolute: field or scratch
        let w := efBits f.ef.toNat
        let (a, badA) ← readElement brd e 1 f.a f.am w (sourceIndex e f k)
        let (b, badB) ← if usesB i then readElement brd e 2 f.b f.bm w k else pure (0, false)
        let (c, badC) ← if usesC i then readElement brd e 3 f.c f.cm w k else pure (0, false)
        let (addr, badX) ← destElementAddr brd (fun _ _ _ => .ok false) e f k
        blockAlign j (w64 (lowBits addr 64)) (max 1 (destBits i f / 8)) 0
        let x : ElemCtx := ⟨f.ef.toNat, modeOf f.rnd.toNat cap.ectrl, f.sat == 1, drawOf cap (j.drawBase * 1024 + k)⟩
        let (code, fl) := (elementResult i f x k a b c).getD (0, 0)
        pure ({ writes := codeWrites (lowBits addr 64) (destBits i f) k code, flags := flagsAt fl k,
                poison := if badA || badB || badC || badX then [0] else [] } : Out)
    pure o
  outs.foldlM (fun (m : Runner) o =>
    o.writes.foldlM (fun (m : Runner) w => do
      let (old, badO) ← if w.mask = 255 then pure ([(0 : Byte)], false) else blockRead rd j m 0 (w64 w.addr) 1
      let v := leNat old
      let keep := v - Nat.land v w.mask
      blockWrite j { m with bad := m.bad || badO } (w64 w.addr) [BitVec.ofNat 8 (keep + w.val)])
      { m with flags := m.flags.merge o.flags, bad := m.bad || o.poison != [] }) m

/-- The bits BEND has (R293). -/
def bendWord : Nat := 0x713

/-- Words of the block store in a run of n bytes carry an error. -/
def BlockJob.storeBad (j : BlockJob) (off n : Nat) : Bool := j.bad.any fun w => decide (off / 8 ≤ w) && decide (w ≤ (off + n - 1) / 8)

/-- Bytes of the block store as a runner or its dispatch reads them: an uncorrectable word stops the element (R246), or reads as zero
under PP (R446). -/
def storeNat (store : List Host.Cell) (j : BlockJob) (pp : Bool) (off n : Nat) : Except Stop Nat :=
  if !j.storeBad off n then .ok (rdNat store off n)
  else if pp then .ok (rdNat (store.filter fun c => !j.bad.contains (c.1 / 8)) off n)
  else .error (.fault (bFault 7 off j.index 1 false))

/-- One instruction of a block (R290, R291). -/
def blockStep (rd : Rd) (store : List Host.Cell) (j : BlockJob) (cap : Capture) (m : Runner) : Except Stop Runner := do
  if m.pc < j.off ∨ j.off + j.len ≤ m.pc ∨ m.pc % 4 ≠ 0 then throw (blockIllegal j 8 (w64 m.pc))
  let p ← storeNat store j (ectrlPp cap.ectrl) m.pc 4
  let word ← if isLong p then storeNat store j (ectrlPp cap.ectrl) m.pc 8 else pure p
  let size := if isLong p then 8 else 4
  let illegal : Except Stop Runner := throw (blockIllegal j 8 (w64 word))
  if word = bendWord then pure { m with done := true }
  else
    match (if isLong p then decode64 word else decode32 word) with
    | .error _ => illegal
    | .ok i =>
      let next := { m with pc := m.pc + size, bad := m.bad || j.storeBad m.pc size }
      if !i.wf then illegal else
      match pureResult i (slotGet m.slots) with
      | some (d, v) => pure { next with slots := slotSet m.slots d v }
      | none =>
      match loadShape i with
      | some (d, a, imm, n, sg) =>
        let ea := slotGet m.slots a + imm15 imm
        blockAlign j ea n 1
        let (bs, bad) ← blockRead rd j m 1 ea n
        pure { next with slots := slotSet m.slots d (extendLoad sg bs), bad := m.bad || bad }
      | none =>
      match storeShape i with
      | some (d, a, imm, n) =>
        let ea := slotGet m.slots a + imm15 imm
        blockAlign j ea n 0
        blockWrite j next ea (leBytes n (slotGet m.slots d).toNat)
      | none =>
      match branchShape i with
      | some (a, b, l, h, cond) =>
        if cond (slotGet m.slots a) (slotGet m.slots b) then
          pure { m with pc := (w64 m.pc + branchOffset l h).toNat }
        else pure next
      | none =>
      match i with
      | .jal d o => pure { m with slots := slotSet m.slots d (w64 (m.pc + 4)), pc := (w64 m.pc + jumpOffset o).toNat }
      | .jalr d a imm =>
        let t := slotGet m.slots a + imm15 imm
        if t.toNat % 4 ≠ 0 then throw (blockIllegal j 8 t)
        else pure { m with slots := slotSet m.slots d (w64 (m.pc + 4)), pc := t.toNat }
      | _ =>
      match bxFields i with
      | some f =>
        if !blockBx i || f.msk != 0 || f.o != 0 || f.x != 0 || f.t != 0 then illegal
        else if (slotGet m.slots 4).toNat > 1024 then illegal
        else blockBxRun rd j cap next i f
      | none => illegal

/-- Run a block to BEND within a limit of steps (R290, R292). -/
def blockRun (rd : Rd) (store : List Host.Cell) (j : BlockJob) (cap : Capture) (limit : Nat) : Nat → Runner → Except Stop Runner
  | 0, m =>
    if m.pc < j.off ∨ j.off + j.len ≤ m.pc ∨ m.pc % 4 ≠ 0 then throw (blockIllegal j 8 (w64 m.pc))
    else throw (blockIllegal j 9 (w64 (limit + 1)))
  | k + 1, m => do
    let m' ← blockStep rd store j cap m
    if m'.done then pure m' else blockRun rd store j cap limit k m'

/-- A job with the bounds of block n: OFF and LEN of its table entry (R288). -/
def blockEntry (store : List Host.Cell) (j : BlockJob) (pp : Bool) (n : Nat) : Except Stop BlockJob := do
  let w ← storeNat store j pp (8 * n) 8
  pure { j with off := w % 2 ^ 16, len := w / 2 ^ 16 % 2 ^ 16 }

/-- Start values of a VRUNB element's frame (R290). -/
def vrunbSlots (addr i n : Nat) : Slots :=
  slotSet (slotSet (slotSet (slotSet [] 2 0x8000000000001000) 5 (w64 addr)) 6 (w64 i)) 7 (w64 n)

/-- Element i of VRUNB (R290). The destination address is resolved before the block runs (`place`); a word of which the block stores a
part alone is a destination word read in part (R459). `bad` gives the uncorrectable words of the block store of a destination's bank. -/
def runVrunb (mine : Mine) (rd0 : Rd) (place dst : Dst) (store : List Host.Cell) (bad : Int → List Nat) (e : Entry) (f : BX) (i : Nat) : Except Stop Out := do
  let rd := rdAt rd0 i
  let (act, badM) ← active rd e f.msk i
  if !act then pure {} else
  let w := efBits f.ef.toNat
  let addr0 ← destAddr rd e f i
  if !mine addr0 then pure {} else
  let (addr, badX) ← destElementAddr rd place e f i
  let (n, badN) ← readElement rd e 1 f.a f.am w i
  let job0 : BlockJob := ⟨i, i, addr.toNat, addr.toNat + w / 8, 0, 0, [], bad addr0⟩
  if n ≥ e.cap.nblk then throw (blockIllegal job0 10 (w64 n)) else
  let job ← blockEntry store job0 (ectrlPp e.cap.ectrl) n
  let m ← blockRun rd store job e.cap 16384 16384 { slots := vrunbSlots addr.toNat i n, pc := job.off }
  let first := (m.staged.map fun p => p.1).foldl min (addr.toNat + w / 8)
  let badD ← if m.staged = [] then pure false else dst i (first : Nat) m.staged.length
  pure { writes := m.staged.map fun p => ⟨p.1, 255, p.2.toNat⟩, flags := m.flags.chargedTo i,
         poison := if (badM || badX || badN || badD || m.bad) && m.staged != [] then [addr.toNat] else [] }

end Sys2Proof.Machine
end

