-- ==== Sys2Proof/Machine/Tile.lean ====
section
/-! DEFINITION. Tile tags, layouts, the method table and dispatch, the conversion kernels and the tile kernels
(R298 to R310, R316 to R339). -/
namespace Sys2Proof.Machine

/-- Fields of a key (R298, R299). -/
def keyFmt (k : Nat) : Nat := k % 64
def keySpc (k : Nat) : Nat := k / 64 % 16
def keyLay (k : Nat) : Nat := k / 1024 % 16
def keyRs (k : Nat) : Nat := k / 2 ^ 14 % 4
def keyCs (k : Nat) : Nat := k / 2 ^ 16 % 4
def keyRows (k : Nat) : Nat := 16 * 2 ^ keyRs k
def keyCols (k : Nat) : Nat := 16 * 2 ^ keyCs k
def tagKey (t : Word) : Nat := t.toNat % 2 ^ 18
def mkKey (fmt spc lay rs cs : Nat) : Nat := fmt + spc * 64 + lay * 1024 + rs * 2 ^ 14 + cs * 2 ^ 16

def isScaled (fmt : Nat) : Bool := fmt == 32 || fmt == 33
/-- Bits of an element of a tile format: SF4 holds E2M1, SI4 holds I4 (R82). -/
def fmtBits (fmt : Nat) : Nat := if isScaled fmt then 4 else efBits fmt

/-- Parameters of a vector-wise N:M form (R321): kept n, of m, vector length V. -/
def nmParams (spc : Nat) : Nat × Nat × Nat :=
  match spc with | 1 => (2, 4, 4) | 2 => (2, 4, 8) | 3 => (1, 4, 4) | _ => (4, 8, 8)

/-- Payload within the limit of its layout or form (R318, R321). -/
def payloadOk (k : Nat) : Bool :=
  let w := fmtBits (keyFmt k)
  let R := keyRows k
  let C := keyCols k
  if 1 ≤ keySpc k ∧ keySpc k ≤ 4 then
    let (n, m, v) := nmParams (keySpc k)
    let k' := C * n / m
    R * k' * w / 8 + R / v * k' ≤ 8192
  else if keyLay k = 2 then (C + 31) / 32 * (R * w / 8) ≤ 256
  else if keyLay k = 4 then true
  else R * C * w ≤ 65536

/-- A key that is not reserved (R319), RAW and STALE apart. -/
def keyValid (k : Nat) : Bool :=
  let f := keyFmt k
  let spc := keySpc k
  let lay := keyLay k
  (f ≤ 18 || isScaled f) && payloadOk k &&
  (if isScaled f then lay == 0 && (spc == 0 || spc == 6) && decide (keyRows k * keyCols k ≤ 8192)
   else if spc = 0 then lay ≤ 3
   else if spc ≤ 4 then lay == 0 && f ≤ 17
   else if spc = 5 then lay == 4 && (efBits f == 16 || efBits f == 32)
   else if spc = 6 then lay == 0 || lay == 3
   else false)

/-- A frame's contents: the byte at each offset below 8,192. -/
abbrev FrameData := Nat → Nat

/-- Code of `w` bits at element index i of an array that begins at byte `base`. -/
def codeAt (d : FrameData) (base w i : Nat) : Nat :=
  if w < 8 then d (base + i * w / 8) / 2 ^ (i * w % 8) % 2 ^ w
  else foldUp (w / 8) (fun j acc => acc + d (base + i * (w / 8) + j) * 2 ^ (8 * j)) 0

/-- Element index of (r, c) in layouts 0, 1 and 3 (R318). -/
def layIndex (lay R C r c : Nat) : Nat :=
  match lay with
  | 0 => r * C + c
  | 1 => c * R + r
  | _ => (r / 4 * (C / 4) + c / 4) * 16 + r % 4 * 4 + c % 4

/-- The code of element (r, c) of an unscaled dense tile or of a masked tile's payload (R318). -/
def tileCode (k : Nat) (d : FrameData) (r c : Nat) : Nat :=
  let w := fmtBits (keyFmt k)
  let R := keyRows k
  if keyLay k = 2 then codeAt d (256 * (c % 32) + c / 32 * (R * w / 8)) w r
  else codeAt d 0 w (layIndex (keyLay k) R (keyCols k) r c)

/-- The value of element (r, c), with the scales of a scaled tile (R83). -/
def tileValue (k : Nat) (d : FrameData) (r c : Nat) : Num :=
  let f := keyFmt k
  if isScaled f then
    let C := keyCols k
    let q := valueOf (if f = 32 then 17 else 8) (codeAt d 0 4 (r * C + c))
    let blk := valueOf 18 (d (4096 + r * (C / 8) + c / 8))
    let band := valueOf 13 (d (6144 + 2 * (r / 64)) + 256 * d (6145 + 2 * (r / 64)))
    (mulNum (mulNum q blk).1 band).1
  else valueOf f (tileCode k d r c)

/-- Element (r, c) of element index i in layouts 0, 1 and 3. -/
def layInverse (lay R C i : Nat) : Nat × Nat :=
  match lay with
  | 0 => (i / C, i % C)
  | 1 => (i % R, i / R)
  | _ =>
    let b := i / 16
    (b / (C / 4) * 4 + i % 16 / 4, b % (C / 4) * 4 + i % 4)

/-- The frame of a dense unscaled tile from its codes; bytes outside the payload are zero (R318, R328). -/
def frameOf (k : Nat) (code : Nat → Nat → Nat) : FrameData := fun j =>
  let w := fmtBits (keyFmt k)
  let R := keyRows k
  let C := keyCols k
  let per := if w < 8 then 8 / w else 1
  if keyLay k = 2 then
    let col := R * w / 8
    let c := j % 256 / col * 32 + j / 256
    if col = 0 ∨ C ≤ c ∨ 32 ≤ j / 256 then 0
    else
      let o := j % 256 % col
      if w < 8 then foldUp per (fun t acc => acc + code (o * per + t) c % 2 ^ w * 2 ^ (w * t)) 0
      else code (o / (w / 8)) c / 2 ^ (8 * (o % (w / 8))) % 256
  else
    let cell := fun (i : Nat) => if i < R * C then (let p := layInverse (keyLay k) R C i; code p.1 p.2) else 0
    if w < 8 then foldUp per (fun t acc => acc + cell (j * per + t) % 2 ^ w * 2 ^ (w * t)) 0
    else cell (j / (w / 8)) / 2 ^ (8 * (j % (w / 8))) % 256

/-- Method table entry fields (R303). -/
def mtTop (m : Method) : Nat := bitsOf m.w0.toNat 0 8
def mtFn (m : Method) : Nat := bitsOf m.w0.toNat 8 7
def mtV (m : Method) : Bool := bit m.w0 15
def mtKind (m : Method) : Nat := bitsOf m.w0.toNat 16 2
def mtCvop (m : Method) : Nat := bitsOf m.w0.toNat 18 2
def mtRsel (m : Method) : Nat := bitsOf m.w0.toNat 20 2
def mtRtag (m : Method) : Nat := bitsOf m.w0.toNat 22 18
def mtArg (m : Method) : Nat := bitsOf m.w0.toNat 40 24
def mtKeyD (m : Method) : Nat := bitsOf m.w1.toNat 0 18
def mtKeyA (m : Method) : Nat := bitsOf m.w1.toNat 18 18
def mtKeyB (m : Method) : Nat := bitsOf m.w1.toNat 36 18
def mtKeyC (m : Method) : Nat := bitsOf m.w2.toNat 0 18
def mtMskD (m : Method) : Nat := bitsOf m.w2.toNat 18 18
def mtMskA (m : Method) : Nat := bitsOf m.w2.toNat 36 18
def mtMskB (m : Method) : Nat := bitsOf m.w3.toNat 0 18
def mtMskC (m : Method) : Nat := bitsOf m.w3.toNat 18 18
def mtCvkey (m : Method) : Nat := bitsOf m.w3.toNat 36 18

/-- The four keys of a dispatch (R304). -/
structure Keys where
  d : Nat
  a : Nat
  b : Nat
  c : Nat
  deriving DecidableEq, Repr

/-- Entry match (R304). -/
def methodMatches (m : Method) (top fn : Nat) (k : Keys) : Bool :=
  let eq := fun (x key msk : Nat) => Nat.land (Nat.xor x key) msk == 0
  mtV m && mtTop m == top && mtFn m == fn && eq k.d (mtKeyD m) (mtMskD m) && eq k.a (mtKeyA m) (mtMskA m)
    && eq k.b (mtKeyB m) (mtMskB m) && eq k.c (mtKeyC m) (mtMskC m)

/-- The lowest-numbered matching entry from number `i` on (R304). -/
def searchMethods (t : Map Method) (top fn : Nat) (k : Keys) (i : Nat) : Option Nat :=
  findUp (fun e => methodMatches (mget {} t e) top fn k) i (256 - i)

/-- The TCVT pairs of formats (R339). -/
def tcvtPair (src dst : Nat) : Bool :=
  (src ≤ 17 && dst ≤ 17 && src != dst) || (efFlt src && isScaled dst) || (isScaled src && efFlt dst)

/-- A converted frame with the flags of its conversion. -/
structure Converted where
  key : Nat
  data : FrameData
  flags : Fl

/-- Element conversion of a whole tile into a format in LAY 0 or the source's layout (R306, R339): data and flags by element. -/
def convertTile (k dst lay : Nat) (d : FrameData) (mode : Mode) (sat : Bool) (draw : Nat → Nat) : FrameData × (Nat → Nat → Fl) :=
  let R := keyRows k
  let C := keyCols k
  if isScaled dst then
    let (q, kb, kk) := if dst = 32 then (17, 48, 6) else (8, 56, 7)
    let (bytes, fl) := scaledTile q kk kb R C mode (fun r c => tileValue k d r c) draw
    (fun j => ((bytes[j]?).getD 0).toNat, fun r c => ((fl[r * C + c]?).getD (0, 0)).2)
  else
    let el := fun r c => deliver dst mode sat (draw (r * C + c)) (tileValue k d r c)
    (frameOf (mkKey dst 0 lay (keyRs k) (keyCs k)) fun r c => (el r c).1, fun r c => (el r c).2)

/-- All flags of an R × C tile. -/
def flagsUnion (R C : Nat) (f : Nat → Nat → Fl) : Fl := foldUp R (fun r acc => foldUp C (fun c acc => acc ||| f r c) acc) 0

/-- A malformed index group of a compressed band (R322). -/
def bandMalformed (k : Nat) (d : FrameData) (band : Nat) : Bool :=
  let (n, m, v) := nmParams (keySpc k)
  let k' := keyCols k * n / m
  let si := keyRows k / v * k'
  let at_ := fun (i : Nat) => d (8192 - si + band * k' + i)
  foldUp k' (fun i bad => bad || decide (m ≤ at_ i) || (i % n != 0 && decide (at_ i ≤ at_ (i - 1)))) false

/-- The column that slot i of row band b keeps (R321). -/
def keptColumn (k : Nat) (d : FrameData) (band i : Nat) : Nat :=
  let (n, m, v) := nmParams (keySpc k)
  let k' := keyCols k * n / m
  let si := keyRows k / v * k'
  i / n * m + d (8192 - si + band * k' + i)

/-- The entries of a coordinate-list tile: row, column, code; `none` when it breaks R320. -/
def coordinateList (k : Nat) (d : FrameData) : Option (List (Nat × Nat × Nat)) :=
  let n := codeAt d 0 32 0
  if n > 1023 then none
  else
    let w := efBits (keyFmt k)
    let es := (List.range n).map fun i =>
      (d (8 + 8 * i) + 256 * d (9 + 8 * i), d (10 + 8 * i) + 256 * d (11 + 8 * i), codeAt d (12 + 8 * i) w 0)
    let pad := w = 32 || es.zipIdx.all fun (_, i) => d (14 + 8 * i) == 0 && d (15 + 8 * i) == 0
    if pad && ascending (es.map fun p => p.1 * 65536 + p.2.1) && es.all (fun p => decide (p.1 < keyRows k) && decide (p.2.1 < keyCols k))
    then some es else none

/-- The dense code of element (r, c) of a compressed, coordinate or dense tile (R306 densify); `none` where malformed. -/
def densify (k : Nat) (d : FrameData) : Option (Nat → Nat → Nat) :=
  let spc := keySpc k
  if spc = 0 then some (tileCode k d)
  else if spc = 5 then (coordinateList k d).map fun es => fun r c =>
    match es.find? fun p => p.1 == r && p.2.1 == c with | some p => p.2.2 | none => 0
  else if spc ≤ 4 then
    let (n, m, v) := nmParams spc
    let k' := keyCols k * n / m
    if (List.range (keyRows k / v)).any fun b => bandMalformed k d b then none
    else some fun r c =>
      match (List.range k').find? fun i => keptColumn k d (r / v) i == c with
      | some i => codeAt d 0 (efBits (keyFmt k)) (r * k' + i)
      | none => 0
  else none

/-- convert(ARG, src, key, CVKEY) of R306; `none` when the kernel refuses. A coordinate list (SPC 5) is taken by
kernel 0x03 alone (R320). -/
def convertKernel (arg k cv : Nat) (d : FrameData) (draw : Nat → Nat) : Option Converted :=
  let f := keyFmt k
  let cf := cv % 64
  let cs := cv / 64 % 16
  let cl := cv / 1024 % 16
  let newKey := mkKey cf cs cl (keyRs k) (keyCs k)
  if !keyValid k || !keyValid newKey then none else
  match arg with
  | 1 =>
    if f = cf ∧ keySpc k = cs ∧ cs ≠ 5 then
      some ⟨newKey, if keyLay k = cl then d else frameOf newKey (tileCode k d), 0⟩
    else none
  | 2 =>
    if keyLay k = 0 ∧ cl = 0 ∧ keySpc k = 0 ∧ cs = 0 ∧ tcvtPair f cf = true then
      let (x, fl) := convertTile k cf 0 d .rne false draw
      some ⟨newKey, x, flagsUnion (keyRows k) (keyCols k) fl⟩
    else none
  | 3 =>
    if f = cf ∧ f ≠ 10 ∧ f ≠ 11 ∧ keySpc k ≤ 5 ∧ cs = 0 ∧ cl = 0 then
      if isScaled f then some ⟨newKey, d, 0⟩ else
      (densify k d).map fun code => ⟨newKey, frameOf newKey code, 0⟩
    else none
  | 4 =>
    if keySpc k = 0 ∧ cs = 0 ∧ tcvtPair f cf = true then
      let mid := mkKey cf 0 0 (keyRs k) (keyCs k)
      let (x, fl) := convertTile k cf 0 d .rne false draw
      some ⟨newKey, if cl = 0 then x else frameOf newKey (tileCode mid x), flagsUnion (keyRows k) (keyCols k) fl⟩
    else none
  | _ => none

/-- A kernel code's mode word (R324): kernel, rounding code, SAT. -/
def kernelOf (arg : Nat) : Nat := arg % 256
def kernelRnd (arg : Nat) : Nat := arg / 256 % 8
def kernelSat (arg : Nat) : Bool := arg / 2048 % 2 == 1

/-- Formats of the element-wise kernel (R337). -/
def ewFmt (f : Nat) : Bool := f ≤ 5 || efFlt f
/-- Formats of the matrix unit, unscaled (R331). -/
def mmaFmt (f : Nat) : Bool := [0, 1, 8, 9, 10, 11, 17, 15, 16, 12, 13, 14].contains f

/-- Whether a kernel accepts the keys at hand and the result key formed from the entry (R325, R331, R337, R339). -/
def kernelAccepts (arg fn : Nat) (k : Keys) (r : Nat) : Bool :=
  let same := fun (x y : Nat) => keyRs x == keyRs y && keyCs x == keyCs y
  let plain := fun (x : Nat) => keyValid x && keySpc x == 0
  match kernelOf arg with
  | 0x01 | 0x02 =>
    let f := keyFmt k.a
    (keyFmt k.d == 14 || keyFmt k.d == 13) && keySpc k.d == 0 && keyLay k.d == 0 && keyRs k.d ≤ 1 && keyCs k.d ≤ 2
    && keyValid k.d && keyValid k.a && keyRs k.a == keyRs k.d && (keyLay k.a == 0 || keyLay k.a == 3)
    && (if kernelOf arg = 1 then (mmaFmt f || isScaled f) && (keySpc k.a == 0 || keySpc k.a == 6)
        else mmaFmt f && 1 ≤ keySpc k.a && keySpc k.a ≤ 4)
    && mmaFmt (keyFmt k.b) && keySpc k.b == 0 && keyLay k.b == 2 && keyRs k.b == keyCs k.a && keyCs k.b == keyCs k.d
    && keyValid k.b && r == k.d
  | 0x10 =>
    plain k.a && plain k.b && plain r && ewFmt (keyFmt k.a) && ewFmt (keyFmt k.b) && ewFmt (keyFmt r)
    && keyLay k.a ≤ 1 && keyLay k.a == keyLay k.b && keyLay k.a == keyLay r && same k.a k.b && same k.a r
    && (efInt (keyFmt r) || !kernelSat arg)
  | 0x11 => plain k.a && plain r && efFlt (keyFmt k.a) && efFlt (keyFmt r) && keyLay k.a ≤ 1 && keyLay k.a == keyLay r && same k.a r
  | 0x12 =>
    plain k.a && plain r && ewFmt (keyFmt k.a) && ewFmt (keyFmt r) && keyLay k.a == 0 && keyLay r == 0 && keyRs r == keyRs k.a
    && keyCs r == 0 && (fn == 0 || (kernelRnd arg == 0 && !kernelSat arg)) && (efInt (keyFmt r) || !kernelSat arg)
  | 0x13 => plain k.a && plain r && efFlt (keyFmt k.a) && efFlt (keyFmt r) && keyLay k.a == 0 && keyLay r == 0 && same k.a r
  | 0x14 =>
    plain k.a && plain r && keyFmt k.a ≤ 18 && keyFmt r == keyFmt k.a && keyLay k.a == 0 && keyLay r == 0
    && keyRs r == keyCs k.a && keyCs r == keyRs k.a
  | 0x15 =>
    keyFmt r == fn && plain k.a && plain r && tcvtPair (keyFmt k.a) (keyFmt r) && same k.a r && keyLay k.a ≤ 1 && keyLay r ≤ 1
    && (isScaled (keyFmt k.a) || isScaled (keyFmt r) || keyLay k.a == keyLay r)
  | 0x16 => -- R319 holds of the key read and of the key written (DEDUCED, log 31)
    (keyFmt k.a == 62 || keyFmt k.a == 63 || keyValid k.a) && (keyFmt r == 62 || keyFmt r == 63 || keyValid r)
  | 0x17 => plain r && keyFmt r == fn && keyFmt r ≤ 18 && keyLay r ≤ 1
  | _ => false

/-- The result key of an entry (R307). -/
def resultKey (m : Method) (k : Keys) : Nat :=
  let base := mtRtag m % 2 ^ 14
  let shape := fun (rs cs : Nat) => base + rs * 2 ^ 14 + cs * 2 ^ 16
  match mtRsel m with
  | 0 => mtRtag m
  | 1 => shape (keyRs k.d) (keyCs k.d)
  | 2 => shape (keyRs k.a) (keyCs k.a)
  | _ => shape (keyRs k.a) (keyCs k.b)

/-- A frame operand of a dispatch: address, tag, contents, whether the destination's owner holds it, uncorrectable bytes. -/
structure FrameOperand where
  addr : Nat
  tag : Word
  key : Nat
  data : FrameData
  here : Bool
  bad : Bool
  rounds : Nat

/-- What a dispatch reads through: frames with tags by operand and index, bytes, and the tables (R305). -/
structure TileEnv where
  frame : (op idx : Nat) → (addr : Nat) → Except Stop FrameOperand
  rd : Rd
  methods : Map Method
  store : List Host.Cell
  storeBad : List Nat
  ncf : Nat
  cap : Capture

/-- nomethod(r, o, e) of R310 at tile index `idx` and REP step `step`. -/
def noMethod (k : Keys) (idx step r o e : Nat) : Stop :=
  .fault ⟨6, w64 (k.a + k.b * 2 ^ 18 + k.c * 2 ^ 36),
    w64 (k.d + o * 2 ^ 20 + r * 2 ^ 23 + e * 2 ^ 26 + step * 2 ^ 34), idx, 0, step⟩

/-- A dispatch that found a method: entry number and word, keys, operands, flags of conversions, frames used. -/
structure Dispatched where
  entry : Nat
  method : Method
  keys : Keys
  result : Nat
  a : Option FrameOperand
  b : Option FrameOperand
  flags : Fl
  used : Nat

/-- The search loop of R305: `from_` is where the search goes on, `fuel` bounds conversions and refusals together.
A KIND 1 entry that matches is taken even where an operand's key is reserved (assumption log 67). -/
def dispatchLoop (env : TileEnv) (top fn idx step draw0 : Nat) (d : FrameOperand) :
    Nat → Nat → Option FrameOperand → Option FrameOperand → Fl → Nat → Except Stop Dispatched
  | 0, _, a, b, _, _ => .error (noMethod ⟨d.key, (a.map (·.key)).getD 0, (b.map (·.key)).getD 0, 0⟩ idx step 0 0 0)
  | fuel + 1, from_, a, b, fl, used =>
    let k : Keys := ⟨d.key, (a.map (·.key)).getD 0, (b.map (·.key)).getD 0, 0⟩
    match searchMethods env.methods top fn k from_ with
    | none => .error (noMethod k idx step 0 0 0)
    | some e =>
      let m := mget {} env.methods e
      if mtKind m = 3 then .error (noMethod k idx step 3 0 e)
      else if mtKind m = 2 then
        let o := mtCvop m
        match (if o = 1 then a else b) with
        | none => dispatchLoop env top fn idx step draw0 d fuel (e + 1) a b fl used
        | some x =>
          if x.rounds = 2 then .error (noMethod k idx step 1 o e)
          else if env.ncf ≤ used then .error (noMethod k idx step 2 o e)
          else match convertKernel (mtArg m) x.key (mtCvkey m % 2 ^ 14) x.data (fun i => drawOf env.cap (draw0 + i)) with
            | none => dispatchLoop env top fn idx step draw0 d fuel (e + 1) a b fl used
            | some c =>
              let y := { x with key := c.key, data := c.data, here := true, rounds := x.rounds + 1 }
              if o = 1 then dispatchLoop env top fn idx step draw0 d fuel 0 (some y) b (fl ||| c.flags) (used + 1)
              else dispatchLoop env top fn idx step draw0 d fuel 0 a (some y) (fl ||| c.flags) (used + 1)
      else
        let r := resultKey m k
        if mtKind m = 0 ∧ kernelAccepts (mtArg m) fn k r = false then
          dispatchLoop env top fn idx step draw0 d fuel (e + 1) a b fl used
        else .ok ⟨e, m, k, r, a, b, fl, used⟩

/-- Poison of an operand whose data the kernel reads (R309). -/
def poisonCheck (cap : Capture) (x : FrameOperand) (idx op : Nat) : Except Stop Bool :=
  if bit x.tag 18 then
    (if ectrlPp cap.ectrl then .ok true else .error (.fault ⟨15, w64 x.addr, broadcastCode idx op false, idx, op, 0⟩))
  else .ok false

/-- What running a tile kernel gives: the frame, and flags by row and column. -/
abbrev KernelOut := FrameData × (Nat → Nat → Fl)

/-- The row reduction of TROWR (R337). -/
def rowReduce (fn ef af : Nat) (x : ElemCtx) (vals : List Nat) : Nat × Fl :=
  match fn with
  | 0 =>
    -- terms enter at the value of a's format; each addition is in the result format
    let ts := vals.map fun c => valueOf af c
    match tree (fun (p q : Num × Fl) =>
      let (s, f1) := addNum x.mode p.1 q.1
      let (c, f2) := deliver ef x.mode x.sat x.draw s
      (valueOf ef c, p.2 ||| q.2 ||| f1 ||| f2)) (ts.map fun v => (v, (0 : Fl))) with
    | some (v, f) => let (c, f2) := deliver ef x.mode x.sat x.draw v; (c, f ||| f2)
    | none => (0, 0)
  | 1 => deliver ef x.mode x.sat x.draw ((vals.map fun c => valueOf af c).foldl maxNum .nan)
  | _ => deliver ef x.mode x.sat x.draw ((vals.map fun c => valueOf af c).foldl minNum .nan)

/-- One row of TSOFT (R338). -/
def softRow (vals : List Num) (give : Nat → Num × Fl → Nat × Fl) (nanCode : Nat) : List (Nat × Fl) :=
  let pinf := vals.any fun v => match v with | .inf false => true | _ => false
  let allNinf := vals.all fun v => match v with | .inf true => true | _ => false
  if vals.any isNan || pinf || allNinf then vals.map fun _ => (nanCode, flNV)
  else
    let m := vals.foldl maxNum .nan
    let es := vals.map fun v => (deliver 14 .rne false 0 (expNum (addNum .rne v (negNum m)).1)).1
    let s := (sumCodes 14 .rne false 0 es).1
    es.zipIdx.map fun (e, c) => give c ((divNum (valueOf 14 e) (valueOf 14 s)).1, 0)

/-- The hardware kernels other than MMA (R337, R338, R339). `draw` is by row and column of the result. -/
def runKernel (ins : Instr) (fn : Nat) (splat : Nat) (cap : Capture) (base : Nat) (x : Dispatched) : KernelOut :=
  let arg := mtArg x.method
  let mode := modeOf (kernelRnd arg) cap.ectrl
  let sat := kernelSat arg
  let r := x.result
  let C := keyCols r
  let ctx := fun (row col : Nat) => (⟨keyFmt r, mode, sat, drawOf cap (base + row * C + col)⟩ : ElemCtx)
  let ka := x.keys.a
  let da : FrameData := (x.a.map (·.data)).getD fun _ => 0
  let db : FrameData := (x.b.map (·.data)).getD fun _ => 0
  let kb := x.keys.b
  let build := fun (el : Nat → Nat → Nat × Fl) => ((frameOf r fun i j => (el i j).1, fun i j => (el i j).2) : KernelOut)
  match ins with
  | .tew _ => build fun i j =>
    let a := tileValue ka da i j
    let b := tileValue kb db i j
    let z := ctx i j
    match fn with
    | 0 => z.give (addNum mode a b)
    | 1 => z.give (addNum mode a (negNum b))
    | 2 => z.give (mulNum a b)
    | 3 => z.give (maxNum a b, 0)
    | _ => z.give (minNum a b, 0)
  | .tact _ => build fun i j => (ctx i j).give (funNum fn (tileValue ka da i j))
  | .trowr _ => build fun i j =>
    if j = 0 then rowReduce fn (keyFmt r) (keyFmt ka) (ctx i 0) ((List.range (keyCols ka)).map fun c => tileCode ka da i c) else (0, 0)
  | .tsoft _ => build fun i j =>
    ((softRow ((List.range C).map fun c => tileValue ka da i c) (fun c v => (ctx i c).give v)
      (((floatFmt (keyFmt r)).map nanOf).getD 0))[j]?).getD (0, 0)
  | .ttrn _ => build fun i j => (canonical (keyFmt r) (tileCode ka da j i), 0)
  | .tcvt _ =>
    if isScaled (keyFmt r) then convertTile ka (keyFmt r) 0 da mode sat (fun i => drawOf cap (base + i))
    else build fun i j => (ctx i j).give (tileValue ka da i j, 0)
  | .tcpy _ => (da, fun _ _ => 0)
  | _ => build fun _ _ => (canonical (keyFmt r) (splat % 2 ^ efBits (keyFmt r)), 0)

/-- Result tag of a method: key, P, the old USR and GEN + 1 (R307, R309). -/
def methodTag (old : Word) (key : Nat) (poison : Bool) : Word :=
  w64 (key + b2n poison * 2 ^ 18 + bitsOf old.toNat 32 16 * 2 ^ 32 + bitsOf (bumpGen old).toNat 48 16 * 2 ^ 48)

/-- The writes of a whole frame. -/
def frameWrites (addr : Nat) (d : FrameData) : List Wr := (List.range 8192).map fun j => ⟨addr + j, 255, d j⟩

/-- The F-address by which a block-code method names the conversion frame of operand a (0) or b (1) (R308): a free place outside every
window (assumption log 2). -/
def conversionAddr (k : Nat) : Nat := 2 ^ 32 + 8192 * (64 * Config.conversionBase.toNat + k)

/-- Run a block-code method over its operands (R308): bytes of the frame that the block does not store are zero (assumption log 81). Its flags
stand at the draw indices of R87 (R91). -/
def runMethodBlock (env : TileEnv) (x : Dispatched) (d idx step fidx : Nat) : Except Stop (FrameData × Flags × Bool) :=
  let n := mtArg x.method % 4096
  let at_ := fun (k : Nat) (o : Option FrameOperand) => match o with
    | some f => if f.rounds = 0 then f.addr else conversionAddr k
    | none => 0
  let addrA := at_ 0 x.a
  let addrB := at_ 1 x.b
  let conv := fun (k : Nat) (o : Option FrameOperand) => match o with
    | some f => if f.rounds = 0 then [] else [(conversionAddr k, (List.range 8192).map fun j => BitVec.ofNat 8 (f.data j))]
    | none => []
  let job0 : BlockJob := ⟨idx, fidx * 16 + step, d, d + 8192, 0, 0, conv 0 x.a ++ conv 1 x.b, env.storeBad⟩
  if env.cap.nblk ≤ n then throw (blockIllegal job0 10 (w64 n)) else
  let sl := slotSet (slotSet (slotSet (slotSet (slotSet (vrunbSlots d idx n) 8 (w64 addrA)) 9 (w64 addrB)) 10 0) 11 (w64 step)) 5 (w64 d)
  do
    let job ← blockEntry env.store job0 (ectrlPp env.cap.ectrl) n
    let m ← blockRun env.rd env.store job env.cap 1048576 1048576 { slots := sl, pc := job.off }
    pure ((fun j => match m.staged.find? fun p => p.1 == d + j with | some p => p.2.toNat | none => 0), m.flags.shift (job.drawBase * 1024), m.bad)

/-- Flags of every element of a result tile at their indices (R329). -/
def tileFlags (base R C : Nat) (fl : Nat → Nat → Fl) : Flags :=
  foldUp R (fun r acc => foldUp C (fun c acc => acc.merge (flagsAt (fl r c) (base + r * C + c))) acc) {}

/-- Tile f of an operator other than TMMA (R328). -/
def runTile (env : TileEnv) (e : Entry) (x : TX) (f : Nat) : Except Stop Out := do
  let top := topCode e.instr
  let fn := x.fn.toNat
  let dA := (e.reg x.d).toNat + 8192 * f
  let d ← env.frame 0 f dA
  let a ← if tileUsesA e.instr then (env.frame 1 f ((e.reg x.a).toNat + 8192 * f)).map some else pure none
  let b ← if tileUsesB e.instr then (env.frame 2 f ((e.reg x.b).toNat + 8192 * f)).map some else pure none
  let pa ← match a with | some y => poisonCheck env.cap y f 1 | none => pure false
  let pb ← match b with | some y => poisonCheck env.cap y f 2 | none => pure false
  let r0 := f
  let y ← dispatchLoop env top fn f 0 (r0 * 8192) d 1300 0 a b 0 0
  let R := keyRows y.result
  let C := keyCols y.result
  let base := f * R * C
  let bad := d.bad || (a.map (·.bad)).getD false || (b.map (·.bad)).getD false
  if mtKind y.method = 1 then
    let (data, fl, badB) ← runMethodBlock env y dA f 0 f
    pure { writes := frameWrites dA data, flags := fl.merge (flagsAt y.flags base),
           tags := [(dA, methodTag d.tag y.result (pa || pb || bad || badB))] }
  else
    let (data, fl) := runKernel e.instr fn (e.reg x.a).toNat env.cap base y
    pure { writes := frameWrites dA data, flags := (tileFlags base R C fl).merge (flagsAt y.flags base),
           tags := [(dA, methodTag d.tag y.result (pa || pb || bad))] }

/-- TTAGR and TTAGW, tag t (R315); an uncorrectable word that PP lets pass poisons the frame written (R446). -/
def runTag (env : TileEnv) (e : Entry) (x : TX) (t : Nat) : Except Stop Out := do
  match e.instr with
  | .ttagr _ =>
    let f ← env.frame 1 t ((e.reg x.a).toNat + 8192 * t)
    let addr := (e.reg x.d).toNat + 8 * t
    pure { writes := codeWrites addr 64 0 f.tag.toNat, poison := if f.bad then [addr] else [] }
  | _ =>
    let f ← env.frame 0 t ((e.reg x.d).toNat + 8192 * t)
    let (bs, bad) ← env.rd 1 .base t (((e.reg x.a).toNat + 8 * t : Nat) : Int) 8
    let v := leNat bs
    let tag := w64 (v % 2 ^ 19 + bitsOf v 32 16 * 2 ^ 32 + bitsOf (bumpGen f.tag).toNat 48 16 * 2 ^ 48)
    pure { tags := [(f.addr, tag)], poison := if bad || f.bad then [f.addr] else [] }

end Sys2Proof.Machine
end

