-- ==== Sys2Proof/Machine/Matrix.lean ====
section
/-! DEFINITION. The matrix unit: one element of a matrix product (R98, R99), its products under compression and masks
(R321 to R323), and one row of TMMA (R330 to R336). -/
namespace Sys2Proof.Machine

/-- The exact sum of a group's products (R99): +0 with none, NaN with NV where a NaN arises. -/
def groupSum (ps : List Num) : Num × Fl :=
  match ps with
  | [] => (.fin false 0 0 false, 0)
  | p :: r =>
    let s := r.foldl (fun acc q => (addNum .rne acc q).1) p
    (s, if isNan s then flNV else 0)

/-- acc := rne(acc + rne(s, F32), F32) over the groups (R98): the F32 code and the flags. -/
def mmaAccumulate (c0 : Nat) (groups : List (List Num)) : Nat × Fl :=
  groups.foldl (fun acc ps =>
    let (s, f1) := groupSum ps
    let (sc, f2) := deliver 14 .rne false 0 s
    let (x, f3) := addNum .rne (valueOf 14 acc.1) (valueOf 14 sc)
    let (r, f4) := deliver 14 .rne false 0 x
    (r, acc.2 ||| f1 ||| f2 ||| f3 ||| f4)) (c0, 0)

/-- Row i of A as its present entries: position k and value (R321, R323). -/
def presentRow (ka : Nat) (da : FrameData) (mask : Nat) (i : Nat) : List (Nat × Num) :=
  let K := keyCols ka
  if 1 ≤ keySpc ka ∧ keySpc ka ≤ 4 then
    let (n, m, v) := nmParams (keySpc ka)
    let k' := K * n / m
    (List.range k').map fun q => (keptColumn ka da (i / v) q, valueOf (keyFmt ka) (codeAt da 0 (fmtBits (keyFmt ka)) (i * k' + q)))
  else
    ((List.range K).filter fun k => keySpc ka != 6 || mask / 2 ^ (i / 16 * 8 + k / 16) % 2 == 1).map fun k => (k, tileValue ka da i k)

/-- Element (i, j) of C: its F32 accumulator after all groups, with flags (R98). -/
def mmaElement (ka kb : Nat) (db : FrameData) (row : List (Nat × Num)) (c0 j : Nat) : Nat × Fl :=
  let groups := (List.range ((keyCols ka + 31) / 32)).map fun g =>
    (row.filter fun p => p.1 / 32 == g).map fun p => (mulNum p.2 (tileValue kb db p.1 j)).1
  mmaAccumulate c0 groups

/-- Row r of C with the flags of each element: codes in C's format (R98, R322). -/
def mmaRow (x : Dispatched) (dc da db : FrameData) (mask r : Nat) : List (Nat × Fl) :=
  let kd := x.keys.d
  let ka := x.keys.a
  let fmt := keyFmt kd
  let malformed := 1 ≤ keySpc ka && keySpc ka ≤ 4 && bandMalformed ka da (r / (nmParams (keySpc ka)).2.2)
  let row := presentRow ka da mask r
  (List.range (keyCols kd)).map fun j =>
    if malformed then (((floatFmt fmt).map nanOf).getD 0, flNV)
    else
      let c := tileCode kd dc r j
      let c0 := if fmt = 14 then c else (deliver 14 .rne false 0 (valueOf fmt c)).1
      let (acc, fl) := mmaElement ka x.keys.b db row c0 j
      if fmt = 14 then (acc, fl)
      else
        let (o, f2) := deliver fmt .rne false 0 (valueOf 14 acc)
        (o, fl ||| f2)

/-- A dispatch of step (t, s) with the operands' poison (R305, R309, R333). -/
structure StepDispatch where
  disp : Dispatched
  c : FrameOperand
  poison : Bool
  bad : Bool
  used : Nat

/-- The dispatch of step (t, s) of TMMA; `used` conversion frames are held by the steps dispatched before it (R333). Where
none is free for the unchanged copy of B, GEVAL2 names operand b (assumption log 67). -/
def tmmaDispatch (env : TileEnv) (e : Entry) (x : TX) (t s used : Nat) : Except Stop StepDispatch := do
  let f := t * tileRep x + s
  let d ← env.frame 0 t ((e.reg x.d).toNat + 8192 * f)
  let a ← env.frame 1 t ((e.reg x.a).toNat + 8192 * t)
  let b ← env.frame 2 t ((e.reg x.b).toNat + 8192 * f)
  let pd ← poisonCheck env.cap d t 0
  let pa ← poisonCheck env.cap a t 1
  let pb ← poisonCheck env.cap b t 2
  let y ← dispatchLoop env 0 0 t s 0 d 1300 0 (some a) (some b) 0 used
  let away := mtKind y.method == 0 && (match y.b with | some o => !o.here | none => false)
  if away && decide (env.ncf ≤ y.used) then throw (noMethod y.keys t s 2 2 y.entry) else
  pure ⟨y, d, pd || pa || pb, d.bad || a.bad || b.bad, if away then y.used + 1 else y.used⟩

/-- Every step of tile t that the owner holds, dispatched before any row (R333, R334). -/
def tmmaDispatchAll (env : TileEnv) (e : Entry) (x : TX) (t : Nat) : List Nat → Nat → Except Stop (List (Nat × StepDispatch))
  | [], _ => .ok []
  | s :: r, used => do
    let y ← tmmaDispatch env e x t s used
    let ys ← tmmaDispatchAll env e x t r y.used
    pure ((s, y) :: ys)

/-- Row r of step (t, s) of TMMA, with `steps` the steps of tile t that the owner holds (R334). A block-code method computes its
frame whole, at row 0. -/
def runTmmaRow (env : TileEnv) (e : Entry) (x : TX) (steps : List Nat) (t r s : Nat) : Except Stop Out := do
  let c ← env.frame 0 t ((e.reg x.d).toNat + 8192 * (t * tileRep x + s))
  -- a tile whose rows 0 to M − 1 are all skipped is not dispatched (R334)
  if keyRows c.key ≤ r then pure {} else
  let all ← tmmaDispatchAll env e x t steps 0
  match all.find? fun p => p.1 == s with
  | none => pure {}
  | some (_, y) =>
    let f := t * tileRep x + s
    let kd := y.disp.keys.d
    let m := keyRows y.disp.result
    let n := keyCols y.disp.result
    let base := f * m * n
    let addr := (e.reg x.d).toNat + 8192 * f
    let tag := methodTag y.c.tag y.disp.result (y.poison || y.bad)
    let note : List Nat := if y.bad then [addr] else []
    if mtKind y.disp.method = 1 then
      if r ≠ 0 then pure {} else
      let (data, fl, badB) ← runMethodBlock env y.disp addr t s f
      pure { writes := frameWrites addr data, flags := fl.merge (flagsAt y.disp.flags base),
             tags := [(addr, if badB then tag ||| w64 (2 ^ 18) else tag)], poison := note }
    else if m ≤ r then pure {}
    else
      let da : FrameData := (y.disp.a.map (·.data)).getD fun _ => 0
      let db : FrameData := (y.disp.b.map (·.data)).getD fun _ => 0
      let (mask, badM) ← if keySpc y.disp.keys.a = 6 then do
          let (bs, bad) ← env.rd 1 .base t (((e.reg x.a).toNat + 8192 * e.cap.tcount + 8 * t : Nat) : Int) 8
          pure (leNat bs, bad)
        else pure (0, false)
      let tag := if badM then tag ||| w64 (2 ^ 18) else tag
      let note := if badM then [addr] else note
      let els := mmaRow y.disp y.c.data da db mask r
      let bytes := fmtBits (keyFmt kd) / 8
      let row := (els.zipIdx.map fun (p, j) => codeWrites (addr + (r * n + j) * bytes) (8 * bytes) 0 p.1).flatten
      let fl := els.zipIdx.foldl (fun acc p => acc.merge (flagsAt p.1.2 (base + r * n + p.2))) (flagsAt y.disp.flags base)
      if r + 1 = m then
        let rest := (List.range (8192 - m * n * bytes)).map fun j => (⟨addr + m * n * bytes + j, 255, 0⟩ : Wr)
        pure { writes := row ++ rest, flags := fl, tags := [(addr, tag)], poison := note }
      else pure { writes := row, flags := fl, poison := note }

end Sys2Proof.Machine
end

