-- ==== Sys2Proof/Machine/Bank.lean ====
section
/-! DEFINITION. The banks at work: the units of an entry and their owners (R16, R17, R251), running a unit, writing its results,
retirement (R92, R194, R300, R301), and the two ways an entry proceeds: to completion at commit (`lockstep`) or bank by bank through
the events of spec/10 (R229 to R247). -/
namespace Sys2Proof.Machine

/-- A frame operand of a dispatch at owner `own` (R61, R305). Data is read only where the operator reads it. -/
def frameOperand (s : State) (own : Nat) (src : Src) (e : Entry) (op idx addr : Nat) : Except Stop FrameOperand :=
  let isTmma := match e.instr with | .tmma _ => true | _ => false
  let isTag := match e.instr with | .ttagr _ | .ttagw _ => true | _ => false
  let needData := (op != 0 || isTmma) && !isTag
  if !frameWindowOk s addr (op == 0) then .error (.fault (bFault 5 addr idx op false))
  else do
    let (bs, bad, tag) ← src op .base idx addr (if needData then 8192 else 0) true
    let here := match resolve s.g s.offline addr false with | .ok r => r.own == own | .error _ => false
    pure ⟨addr, tag, tagKey tag, fun j => ((bs[j]?).getD 0).toNat, here, bad, 0⟩

/-- The uncorrectable words of the block store of bank b (R287, R444). -/
def Gang.storeBadAt (g : Gang) (b : Nat) : List Nat := (g.storeBad.filter fun k => k / 8192 == b).map (· % 8192)

/-- The environment of a tile instruction at an owner. -/
def tileEnv (s : State) (own : Nat) (src : Src) (e : Entry) : TileEnv :=
  ⟨fun op idx addr => frameOperand s own src e op idx addr, rdOf src, s.g.methods, s.g.store, s.g.storeBadAt own, e.cap.convres % 32, e.cap⟩

/-- An entry's units in ascending order: elements, mask bytes of VCMP (by their first bit), tiles, rows and steps of TMMA (row × 16 +
step), or one unit for an instruction that restarts whole (R242, R263, R267, R335). An entry that ERET.skip marked complete has none. -/
def units (e : Entry) : List Nat :=
  if e.skipped then [] else
  match bxFields e.instr, txFields e.instr with
  | some f, _ =>
    if restartsWhole e.instr then [0]
    else match e.instr with
      | .vcmp _ => (List.range ((e.cap.ecount + 7) / 8)).map (8 * ·)
      | .vcvtf4 _ => List.range (e.cap.ecount / f4Elems f)
      | _ => List.range e.cap.ecount
  | none, some x =>
    match e.instr with
    | .tmma _ => (List.range (32 * e.cap.tcount)).flatMap fun q => (List.range (tileRep x)).map fun s => q * 16 + s
    | _ => List.range e.cap.tcount
  | none, none => []

/-- Whether an instruction is TMMA. -/
def isTmma : Instr → Bool
  | .tmma _ => true
  | _ => false

/-- The first element that bank b may still perform: its captured start, or the bound of its resume word (R242, R245). -/
def startAt (e : Entry) (b : Nat) : Nat := max e.start (mget 0 e.bounds b)

/-- The NEXT and STEP that name a unit at bank b (R243, R335). -/
def nextOf (e : Entry) (b p : Nat) : Nat × Nat :=
  match e.instr, bxFields e.instr with
  | .tmma _, _ => (p / 16, p % 16)
  | .vcvtf4 _, some f => (p * f4Elems f, 0)
  | .vcmp _, _ => (max p (startAt e b), 0)
  | _, _ => (p, 0)

/-- Whether a bound in NEXT terms lies above a unit, so that the unit is skipped (R242, R245). For TMMA the bound is NEXT × 16 +
STEP. -/
def belowBound (e : Entry) (bound p : Nat) : Bool :=
  match e.instr, bxFields e.instr with
  | .vcvtf4 _, some f => decide ((p + 1) * f4Elems f ≤ bound)
  | .vcmp _, _ => decide (p + 8 ≤ bound)
  | _, _ => decide (p < bound)

/-- A bound that no unit reaches: a bank that has finished the entry. -/
def doneBound : Nat := 2 ^ 70

/-- Whether bank b skips unit p: below the captured start or below its resume word's bound (R242, R245). -/
def skips (e : Entry) (b p : Nat) : Bool :=
  !restartsWhole e.instr && (belowBound e (if isTmma e.instr then e.start * 16 else e.start) p || belowBound e (mget 0 e.bounds b) p)

/-- The address that decides a unit's owner (R17, R251, R328). -/
def unitAddr (rd : Rd) (e : Entry) (p : Nat) : Except Stop Int :=
  match bxFields e.instr, txFields e.instr with
  | some f, _ =>
    match e.instr with
    | .vcmp _ => .ok (((e.reg f.d).toNat + p / 8 : Nat) : Int)
    | .vcvtf4 _ => .ok (((e.reg f.d).toNat + 8192 * p : Nat) : Int)
    | .vspadd _ | .vspmul _ => .ok (((e.reg f.d).toNat + 16 * p : Nat) : Int)
    | i => do
      let (x, _) ← indexValue (rdAt rd p) e 0 f.d f.dm p
      pure (elementAddr e f.d f.dm (destBits i f) p x)
  | none, some x =>
    match e.instr with
    | .tmma _ => .ok (((e.reg x.d).toNat + 8192 * (p / 512 * tileRep x + p % 16) : Nat) : Int)
    | .ttagr _ => .ok (((e.reg x.d).toNat + 8 * p : Nat) : Int)
    | _ => .ok (((e.reg x.d).toNat + 8192 * p : Nat) : Int)
  | none, none => .ok 0

/-- The owner of a F-address as an integer, if it has one (R57, R58). -/
def ownerOfAddr (s : State) (a : Int) : Option Nat :=
  if a < 0 then none else match resolve s.g s.offline a.toNat false with | .ok r => some r.own | .error _ => none

/-- Whether an entry's destination addresses come from an index array. -/
def indexedDest (e : Entry) : Bool := match bxFields e.instr with | some f => f.dm == 3 | none => false

/-- The bank that performs a unit: the owner of its destination, or bank 0 for an address without one (R17, R58). Only an indexed
destination has to be read for it, by every bank, and only where the element is active; bank 0 passes over an inactive one. -/
def unitOwner (s : State) (rd : Rd) (e : Entry) (p : Nat) : Except Stop Nat := do
  let act ← match e.instr, bxFields e.instr with
    | .vselm _, _ => pure true
    | _, some f => if indexedDest e then (active rd e f.msk p).map fun x => x.1 else pure true
    | _, none => pure true
  if !act || restartsWhole e.instr then pure 0
  else (unitAddr rd e p).map fun a => (ownerOfAddr s a).getD 0

/-- Run a list of jobs one after another and join their results. -/
def joinJobs (job : Nat → Except Stop Out) : List Nat → Out → Except Stop Out
  | [], o => .ok o
  | i :: is, o => do
    let x ← job i
    joinJobs job is (o.add x)

/-- The destinations that bank b performs: those it owns, and for bank 0 those without an owner (R17, R58). -/
def minesOf (s : State) (b : Nat) : Mine := fun a => (ownerOfAddr s a).getD 0 == b

/-- Whether an instruction keeps tags up to date: BX with T = 1 (R253). -/
def keepsTags (i : Instr) : Bool :=
  match bxFields i with
  | some f => f.t == 1
  | none => false

/-- An instruction that restarts whole, over the elements whose destinations `mine` names (R17, R273, R276 to R283, R290); `queue` says
whether a result for the read queue is formed here. A reduction of no elements meets no fault: it writes where its destination resolves, at
whatever alignment (R150; assumption log 19). -/
def performWhole (s : State) (mine : Mine) (queue : Bool) (src : Src) (e : Entry) (f : BX) : Except Stop Out :=
  let rd := rdOf src
  let dst := destCheck s (ectrlPp e.cap.ectrl) (keepsTags e.instr)
  let probed := fun (r : Except Stop Out) => do
    probeAll mine rd dst e f
    r
  match e.instr with
  | .vcompress _ | .vexpand _ => probed (runCompress mine rd dst e f)
  | .vscan _ => probed (runScan mine rd dst e f)
  | .vconfl _ => probed (runConflict mine rd dst e f)
  | .vscatadd _ | .vscatmax _ | .vscatmin _ => probed (runScatter mine rd dst e f)
  | .vrunb _ => joinJobs (fun i => runVrunb mine rd (destPlace s) dst s.g.store (fun a => s.g.storeBadAt ((ownerOfAddr s a).getD 0)) e f i) (List.range e.cap.ecount) {}
  | _ =>
    if !(if f.dm = 2 then queue else mine ((e.reg f.d).toNat : Nat)) then .ok {} else
    match probed (runReduction rd dst e f) with
    | .error (.fault c) => if e.cap.ecount = 0 then .ok {} else .error (.fault c)
    | r => r

/-- The misaligned base of R59 and R156, met at the first unit. -/
def baseFault (e : Entry) (b p : Nat) : Except Stop Unit :=
  if e.cap.ecount = 0 ∧ (bxFields e.instr).isSome then .ok ()
  else match misalignedBase e with
    | none => .ok ()
    | some (op, addr, ix) =>
      let idx := if isTmma e.instr then p / 512 else (nextOf e b p).1
      .error (.fault (bFault 3 addr idx op ix))

/-- One unit of an entry at its owner: what it writes and raises (R251, R263, R267, R286, R328, R334). `mine` and `queue` are as in
`performWhole`. -/
def performUnit (s : State) (own : Nat) (mine : Mine) (queue : Bool) (src : Src) (e : Entry) (p : Nat) : Except Stop Out := do
  baseFault e own p
  let rd := rdOf src
  let dst := destCheck s (ectrlPp e.cap.ectrl) (keepsTags e.instr)
  match bxFields e.instr, txFields e.instr with
  | some f, _ =>
    if restartsWhole e.instr then performWhole s mine queue src e f
    else match e.instr with
      | .vcmp _ =>
        joinJobs (fun i => runCompare rd dst e f i) ((List.range 8).map (p + ·) |>.filter fun i => startAt e own ≤ i && i < e.cap.ecount) {}
      | .vselm _ => runSelect rd dst e f p
      | .vcvtf4 _ =>
        let frame := (e.reg f.d).toNat + 8192 * p
        if !frameWindowOk s frame true then throw (.fault (bFault 5 frame (p * f4Elems f) 0 false)) else do
          let badT ← dst (p * f4Elems f) frame 8
          let o ← runF4Tile rd e f p
          pure (if badT then { o with poison := frame :: o.poison } else o)
      | .vspadd _ | .vspmul _ => runSparse rd dst e f p
      | _ => runElement rd dst e f p
  | none, some x =>
    let env := tileEnv s own src e
    match e.instr with
    | .tmma _ =>
      let t := p / 512
      let steps := (List.range (tileRep x)).filter fun k =>
        (ownerOfAddr s (((e.reg x.d).toNat + 8192 * (t * tileRep x + k) : Nat) : Int)).getD 0 == own
      runTmmaRow env e x steps t (p / 16 % 32) (p % 16)
    | .ttagr _ =>
      let _ ← dst p (((e.reg x.d).toNat + 8 * p : Nat) : Int) 8
      runTag env e x p
    | .ttagw _ => runTag env e x p
    | _ => runTile env e x p
  | none, none => pure {}

/-- Clear an uncorrectable word that is about to be written: its other bytes become zero with new check bits (R459). -/
def freshWord (s : State) (k : Nat) : State :=
  if s.fieldBad.contains (k / 8) then
    { s with field := wrBytes s.field (k / 8 * 8) (List.replicate 8 0), fieldBad := s.fieldBad.filter (· != k / 8) }
  else s

/-- Store the masked bits of one byte at its owner. -/
def applyWrite (s : State) (w : Wr) : State :=
  match fieldAt s w.addr true with
  | .error _ => s
  | .ok k =>
    let s := freshWord s k
    let old := (rdByte s.field k).toNat
    { s with field := wrByte s.field k (BitVec.ofNat 8 (old - Nat.land old w.mask + w.val)) }

/-- Store a whole tag of the frame at an F-address (R300, R315). -/
def applyTag (s : State) (p : Nat × Word) : State :=
  match fieldAt s p.1 true with
  | .error _ => s
  | .ok k => { setTagOfKey s k p.2 with ftagBad := s.ftagBad.filter (· != k / 8192) }

/-- Field bytes that a list of writes covers, with the bits written in each, for tag upkeep (R301). -/
def coverage (s : State) (m : Map Nat) (ws : List Wr) : Map Nat :=
  ws.foldl (fun m w => match fieldAt s w.addr true with
    | .ok k => mput m k (Nat.lor (mget 0 m k) w.mask)
    | .error _ => m) m

/-- Frames, by number, that poisoned addresses name. -/
def poisonFrames (s : State) (addrs : List Nat) : List Nat :=
  addrs.filterMap fun a => match fieldAt s a true with | .ok k => some (k / 8192) | .error _ => none

/-- Whether some unit of an entry reads bytes that another unit of it may have written: TMMA, a tile instruction that may run block code
(R291, R308), an in-place element instruction of stride 0, and one with an indexed operand, whose indices may reach any window (R150).
Every other overlap is staged (R104, R238). -/
def rereads (g : Gang) (e : Entry) : Bool :=
  match bxFields e.instr with
  | some f => (f.dm == 1 && e.reg1 f.d == 0) || f.dm == 3 || (indexedSources e f).isEmpty == false
  | none => isTmma e.instr || runsBlock g e

/-- Keep what a unit's results will overwrite, where another unit of the entry may read it (R104, R105). -/
def rememberOld (s : State) (e : Entry) (o : Out) : Entry :=
  if !rereads s.g e then e else
  let e1 := o.writes.foldl (fun (e : Entry) w => match fieldAt s w.addr true with
    | .ok k => if (mfind e.old k).isSome then e else { e with old := mput e.old k (match entryByte s e k with | some b => b.toNat | none => 256) }
    | .error _ => e) e
  o.tags.foldl (fun (e : Entry) p => match fieldAt s p.1 true with
    | .ok k => if (mfind e.oldTags (k / 8192)).isSome then e
      else { e with oldTags := mput e.oldTags (k / 8192) (match entryTag s e k with | some t => t.toNat | none => 2 ^ 64) }
    | .error _ => e) e1

/-- Whether an entry may write tags: T = 1, a tile instruction, or poison (R300, R446). -/
def entryWritesTags (e : Entry) : Bool := keepsTags e.instr || (txFields e.instr).isSome || ectrlPp e.cap.ectrl

/-- The field byte that a write names, if it has one. -/
def Wr.key (s : State) (w : Wr) : Option Nat := (fieldAt s w.addr true).toOption

/-- Earlier entries that may be performed again whole keep the bytes that entry e writes after them, so as not to write them again (R105,
R112). -/
def noteLater (s : State) (e : Entry) (o : Out) : State :=
  let ks := o.writes.filterMap (Wr.key s)
  let note := fun (j : Entry) => if j.seq < e.seq ∧ restartsWhole j.instr ∧ j.staged = false then { j with later := (j.later ++ ks).eraseDups } else j
  { s with g := { s.g with bq := s.g.bq.map note } }

/-- Write a unit's results, but for bytes that a later entry has written since; flags, poison and coverage join the entry's. -/
def applyOut (s : State) (e : Entry) (o : Out) : State × Entry :=
  let fresh := fun (w : Wr) => !((Wr.key s w).any e.later.contains)
  let s' := noteLater (o.tags.foldl applyTag ((o.writes.filter fresh).foldl applyWrite s)) e o
  (s', { e with
    flags := e.flags.merge o.flags
    delivered := match o.rq with | some v => some v | none => e.delivered
    written := if keepsTags e.instr then coverage s e.written o.writes else []
    poison := (e.poison ++ poisonFrames s o.poison).eraseDups })

/-- The tag of a frame after an element instruction with T = 1, from its old tag with GEN counted (R300, R269). -/
def upkeepTag (i : Instr) (f : BX) (t : Word) (whole : Bool) : Word :=
  if !whole then setBits t 0 6 63
  else match i with
    | .vcvtf4 _ =>
      let rs := match f4Rows f with | 128 => 3 | 32 => 1 | _ => 0
      setBits t 0 19 (32 + rs * 2 ^ 14 + 2 * 2 ^ 16)
    | i => setBits (setBits t 0 14 (destFormat i f)) 18 1 0

/-- Tag upkeep of one frame, poison included: at most one tag write, none where the instruction, performed again, made it before (R105, R300,
R301, R446). A tile result's P is set in the tag that its method wrote. An uncorrectable tag gives zeros, and the frame
takes P = 1 (R446, R459). -/
def upkeepFrame (e : Entry) (s : State) (fr : Nat) : State :=
  let bad := s.ftagBad.contains fr
  let old := if bad then 0 else mget rawTag s.ftags fr
  let bytes := e.written.filter fun p => p.1 / 8192 == fr
  let t1 := match bxFields e.instr with
    | some f => if bytes = [] then old else upkeepTag e.instr f (bumpGen old) ((bytes.filter fun p => p.2 == 255).length == 8192)
    | none => old
  let plain : Bool := match e.instr with | .ttagr _ => true | i => (bxFields i).isSome
  let t2 := if bad || e.poison.contains fr then setBits (if bytes = [] ∧ plain = true then bumpGen t1 else t1) 18 1 1 else t1
  if e.kept.contains fr ∨ (t2 = old ∧ bad = false) then s else { s with ftags := mset rawTag s.ftags fr t2, ftagBad := s.ftagBad.filter (· != fr) }

/-- Frames whose tags an entry still has to update. -/
def upkeepList (e : Entry) : List Nat := ((e.written.map fun (p : Nat × Nat) => p.1 / 8192) ++ e.poison).eraseDups

/-- Fill the oldest reserved entry of the read queue (R194). -/
def fillQueue (v : Word) : List (Option Word) → List (Option Word)
  | [] => []
  | none :: r => some v :: r
  | some x :: r => some x :: fillQueue v r

/-- A counter of R163: it saturates at 2^64 - 1. -/
def satAdd64 (w : Word) (n : Nat) : Word := w64 (min (2 ^ 64 - 1) (w.toNat + n))

/-- GATED counts clocks at bank b (R163, R233, R239); how many is free (R22). -/
def countGated (s : State) (b : Nat) : State :=
  let n := Config.heldClocks s.fresh
  let x := mget ({} : Perf) s.g.perf b
  { s with
    fresh := s.fresh + 1
    g := { s.g with gated := satAdd64 s.g.gated n, perf := mput s.g.perf b { x with gated := satAdd64 x.gated n } } }

/-- CONFL and MERGED count what an instruction's word-path accesses cost bank b (R69, R163): timing, so the amounts are free (R22). -/
def countWordPath (s : State) (b : Nat) : State :=
  let c := Config.conflicts s.fresh
  let m := Config.merges s.fresh
  let x := mget ({} : Perf) s.g.perf b
  { s with
    fresh := s.fresh + 1
    g := { s.g with
      confl := satAdd64 s.g.confl c, merged := satAdd64 s.g.merged m
      perf := mput s.g.perf b { x with confl := satAdd64 x.confl c, merged := satAdd64 x.merged m } } }

/-- VSPADD and VSPMUL: the owner of a header also writes pairs that other banks hold. -/
def isSparse : Instr → Bool
  | .vspadd _ | .vspmul _ => true
  | _ => false

/-- What an instruction adds to the performance counters of the span's banks by the time it retires. Where entries run at commit, the
wait of a gated or staged one, and that of a VSPADD or VSPMUL between its phases (R286), is counted here. -/
def countEntry (s : State) (e : Entry) : State :=
  (List.range s.g.banksInSpan).foldl (fun s b =>
    let s := countWordPath s b
    if s.lockstep && (e.gate.isSome || e.staged || isSparse e.instr) then countGated s b else s) s

/-- Retirement at every bank (R92, R93, R193, R194, R216, R301). -/
def retireEntry (s : State) (e : Entry) : State :=
  let s := countEntry ((upkeepList e).foldl (upkeepFrame e) s) e
  let ten := Nat.land e.flags.bits (ectrlTen e.cap.ectrl)
  let g := { s.g with pulls := s.g.pulls.filter fun q => q.seq != e.seq, tokens := s.g.tokens.filter fun t => t.seq != e.seq }.retireFlags e.flags
  let g := match e.delivered with
    | some v => { g with rq := g.rq.take g.rqAside ++ fillQueue v (g.rq.drop g.rqAside), ev := true }
    | none => g
  { s with g := { g with
      bq := g.bq.filter fun x => x.seq != e.seq
      fpDue := if ten ≠ 0 ∧ e.handler = false ∧ g.fpDue = none then some (w64 ten) else g.fpDue } }

/-- Where one step performs a whole instruction, every destination is its own. -/
def everyMine : Mine := fun _ => true

/-- Low-water mark: the eldest unretired entry, or the next ISN (R116, R230). -/
def Gang.lowWater (g : Gang) : Nat := ((g.bq.head?).map (·.seq)).getD g.nextSeq

/-- The entry a bank stands at: everything below the low-water mark is finished everywhere. -/
def Gang.bankAt (g : Gang) (b : Nat) : Bank :=
  let x := mget ({} : Bank) g.banks b
  if x.next < g.lowWater then { next := g.lowWater } else x

def setBank (s : State) (b : Nat) (x : Bank) : State := { s with g := { s.g with banks := mput s.g.banks b x } }

/-- The O bit (R128). -/
def ordered (e : Entry) : Bool :=
  match bxFields e.instr, txFields e.instr with
  | some f, _ => f.o == 1
  | none, some f => f.o == 1
  | none, none => false

/-- A TMMA of several steps: a bank performs rows of several frames in turn (R334). -/
def severalSteps (e : Entry) : Bool := isTmma e.instr && match txFields e.instr with | some x => decide (1 < tileRep x) | none => false

/-- Whether the results of an entry are held until every bank has its own: a staged one (R239), and one with O = 1 that is performed
whole or in an order that is not that of its elements, which becomes visible all at once (R128, R334; assumption log 74). -/
def holdsWrites (e : Entry) : Bool := e.staged || (ordered e && (restartsWhole e.instr || severalSteps e))

/-- A TMMA whose banks hold back rows that they have performed (R335; assumption log 74). -/
def heldRows (e : Entry) : Bool := holdsWrites e && !e.staged && !restartsWhole e.instr

/-- The address at which tile t of a TMMA's C frames begins. -/
def tileEnd (e : Entry) (t : Nat) : Nat :=
  match txFields e.instr with
  | some x => (e.reg x.d).toNat + 8192 * t * tileRep x
  | none => 0

/-- The results below an address. -/
def Out.below (o : Out) (a : Nat) : Out := { o with writes := o.writes.filter fun w => decide (w.addr < a), tags := o.tags.filter fun t => decide (t.1 < a) }

/-- Whether bank b has performed unit p of an entry in an earlier step. -/
def unitDone (s : State) (e : Entry) (b p : Nat) : Bool :=
  let x := s.g.bankAt b
  !holdsWrites e && !restartsWhole e.instr && (decide (e.seq < x.next) || (x.next == e.seq && x.begun && decide (p < x.position)))

/-- A row of a TMMA that its C does not have: its tag gives fewer rows (R334, R335). -/
def rowAbsent (s : State) (e : Entry) (p : Nat) : Bool :=
  match e.instr with
  | .tmma x => match fieldAt s ((e.reg x.d).toNat + 8192 * (p / 512 * tileRep x + p % 16)) false with
    | .ok k => match entryTag s e k with
      | some t => decide (keyRows (tagKey t) ≤ p / 16 % 32)
      | none => false
    | .error _ => false
  | _ => false

/-- Reads of bank b over a link on which a pull's response meets a second parity error: uncorrectable at the requester (R444; assumption
log 75). -/
def linkSrc (s : State) (b : Nat) (e : Entry) (src : Src) : Src := fun op via idx addr len tag => do
  let (bs, bad, t) ← src op via idx addr len tag
  if ownerOfAddr s addr = some b then pure (bs, bad, t)
  else if ectrlPp e.cap.ectrl then pure (bs.map fun _ => 0, true, 0)
  else throw (.fault (bFault 7 addr idx op (via == .array)))

/-- Whether a unit performed by bank b reads bytes of another bank. -/
def pullsFor (s : State) (b : Nat) (src : Src) (e : Entry) (p : Nat) : Bool :=
  let own : Src := fun op via idx addr len tag => if ownerOfAddr s addr = some b then src op via idx addr len tag else throw .await
  match performUnit s b everyMine true own e p with
  | .error .await => true
  | _ => false

/-- The reads of unit p by bank b: its first pull of an entry meets the error of its link (R444). -/
def unitSrc (s : State) (src : Src) (e : Entry) (b p : Nat) : Src :=
  if s.g.linkBad.contains b && pullsFor s b src e p
      && !((units e).any fun q => decide (q < p) && !skips e b q && (match unitOwner s (rdOf src) e q with | .ok c => c == b | .error _ => false) && pullsFor s b src e q)
  then linkSrc s b e src else src

/-- Link errors that an entry has met: those of the banks that have pulled for it. -/
def spendLinks (s : State) (src : Src) (e : Entry) : List Nat :=
  s.g.linkBad.filter fun b => !((units e).any fun q => (match unitOwner s (rdOf src) e q with | .ok c => c == b | .error _ => false) && pullsFor s b src e q)

/-- The first cause among the frames of one row of a TMMA, which their owners meet at the same time (R221, R310). -/
def firstOfRow (s : State) (src : Src) (e : Entry) (p : Nat) (c : Cause) (b : Nat) : Cause × Nat :=
  if !isTmma e.instr then (c, b) else
  ((units e).filter fun q => q / 16 == p / 16 && q != p && !skips e 0 q).foldl (fun (x : Cause × Nat) q =>
    match unitOwner s (rdOf src) e q with
    | .ok b' => match performUnit s b' everyMine true (unitSrc s src e b' q) e q with
      | .error (.fault d) => if d.before x.1 then (d, b') else x
      | _ => x
    | .error _ => x) (c, b)

/-- Run units in order against one oracle until one faults: their joined results, and the unit, cause and bank that stopped. -/
def runUnits (s : State) (src : Src) (e : Entry) : List Nat → Out → Out × Option (Nat × Cause × Nat)
  | [], o => (o, none)
  | p :: ps, o =>
    if (List.range s.g.banksInSpan).all fun b => skips e b p || unitDone s e b p then runUnits s src e ps o
    else match unitOwner s (rdOf src) e p with
      | .error (.fault c) => (o, some (p, c, 0))
      | .error _ => (o, none)
      | .ok b =>
        if skips e b p || unitDone s e b p then runUnits s src e ps o
        else match performUnit s b everyMine true (unitSrc s src e b p) e p with
          | .ok x => runUnits s src e ps (o.add x)
          | .error (.fault c) => (let (c, b) := firstOfRow s src e p c b; (o, some (p, c, b)))
          | .error _ => (o, none)

/-- Where a bank stands after a fault that stopped every bank at unit p; `x` is where it stood before. -/
def stoppedBank (e : Entry) (p own : Nat) (c : Cause) (b : Nat) (x : Bank) : Bank :=
  if b ≠ own ∧ e.seq < x.next then x
  else
    { next := e.seq, begun := true, cause := if b = own then some c else none
      position := if x.next = e.seq ∧ x.begun ∧ holdsWrites e = false then max p x.position else p }

/-- One entry from its start to retirement, or to its first fault (R104, R230, R247). A staged instruction that faults has written
nothing (R239). -/
def runEntry (s : State) (e : Entry) : State :=
  let (o, stop) := runUnits s (snapshotSrc s e) e (units e) {}
  let s := { s with g := { s.g with linkBad := spendLinks s (snapshotSrc s e) e } }
  match stop with
  | none =>
    let (s', e') := applyOut s e o
    retireEntry s' e'
  | some (p, c, own) =>
    let o := if heldRows e then o.below (tileEnd e (p / 512)) else o
    let (s', e') := if e.staged || restartsWhole e.instr then (s, e) else applyOut s (rememberOld s e o) o
    let p' := if e.staged || restartsWhole e.instr then 0 else if heldRows e then p / 512 * 512 else p
    { s' with g := { s'.g with
        bq := s'.g.bq.map fun x => if x.seq = e.seq then e' else x
        banks := (List.range s'.g.banksInSpan).map fun b => (b, stoppedBank e p' own c b (s.g.bankAt b)) } }

/-- Whether some bank has recorded a fault of an instruction in the broadcast queue (R247). -/
def Gang.bankFault (g : Gang) : Bool := g.banks.any fun (p : Nat × Bank) => p.2.cause.isSome

/-- Whether an entry touches a group that an earlier copy has still to land in (R355); block code may read any group (R291). -/
def entryAwaited (s : State) (e : Entry) : Bool :=
  let ranges := destRanges s.g e ++ destReach s e ++ (readOperands s.g e).flatMap (fun r => r.ranges) ++ sourceReach s e
  s.g.channels.any fun (p : Nat × Channel) => p.2.queue.any fun c => c.dstF && c.outstanding != [] && !entryBefore e c &&
    (runsBlock s.g e || ranges.any fun r => (List.range (r.2 - r.1)).any fun j => match fieldAt s (r.1 + j) false with
      | .ok k => copyAwaits s c k || (entryWritesTags e && copyLands 8192 s c k)
      | .error _ => false)

/-- Run the queue's entries oldest first, until one faults, must wait for a copy, or an enabled flag is due (R93, R355). -/
def runQueue : List Entry → State → State
  | [], s => s
  | e :: es, s =>
    if s.g.bankFault || s.g.fpDue.isSome || entryAwaited s e then s
    else runQueue es (runEntry s e)

/-- Whether an unretired VSPADD or VSPMUL precedes an entry: its pairs may still be on their way to any bank, so that no read of a later
instruction is served before it has retired (R113, R285). -/
def sparseBefore (g : Gang) (seq : Nat) : Bool := g.bq.any fun j => isSparse j.instr && decide (j.seq < seq)

/-- Reads of bank b for entry e: its own bytes once earlier copies have landed there (R355), others from what it has pulled for this
instruction (R230, R232). -/
def bankSrc (s : State) (b : Nat) (e : Entry) : Src := fun op via idx addr len wantTag =>
  match elementKeys s false op via idx addr (if len = 0 then 1 else len) with
  | .error c => .error (.fault c)
  | .ok ks =>
    let bank := s.g.bankAt b
    let pp := ectrlPp e.cap.ectrl
    if ownerOfAddr s addr = some b then do
      if sparseBefore s.g e.seq || ks.any (byteAwaitedBy s e) || (wantTag && tagAwaitedBy s e (ks.headD 0)) then throw .await
      let (bs, bad) ← keysRead s e op via idx addr (ks.take len)
      if wantTag then
        let (t, badT) ← tagRead s e op idx addr (ks.headD 0)
        pure (bs, bad || badT, t)
      else pure (bs, bad, 0)
    else
      let a := addr.toNat
      let got := (List.range len).filterMap fun j => (bank.got.find? fun p => p.1 == a + j).map fun p => p.2
      let tag := mfind bank.tagsGot a
      if got.length < len ∨ (wantTag && tag.isNone) then .error (.miss op (via == .array) idx a len wantTag)
      else
        let bad := ((List.range len).any fun j => bank.gotBad.contains (a + j)) || (wantTag && bank.tagsBad.contains a)
        if bad && !pp then .error (.fault (bFault 7 addr idx op (via == .array))) else pure (got, bad, tag.getD 0)

/-- One piece of a run of bytes that lies in one 256-byte group of one owner (R232). -/
structure Piece where
  addr : Nat
  len : Nat
  owner : Nat
  group : Nat
  deriving DecidableEq, Repr

/-- The pieces of a run of F-bytes in order (R232); a run of no bytes has the piece of its first byte. -/
def pieces (s : State) (addr len : Nat) : List Piece :=
  let one := fun (a n : Nat) => match resolve s.g s.offline a false with
    | .ok r => (⟨a, n, r.own, s.g.fieldKey r.own r.loc / 256⟩ : Piece)
    | .error _ => ⟨a, n, 0, 0⟩
  if len = 0 then [one addr 0] else
  ((List.range len).foldl (fun (acc : List Piece) j =>
    let p := one (addr + j) 1
    match acc with
    | q :: r => if q.owner = p.owner ∧ q.group = p.group then { q with len := q.len + 1 } :: r else p :: acc
    | [] => [p]) []).reverse

/-- The producer of a pull (R231, R232). Block code and indices reach beyond the operands' footprints: there the latest earlier instruction
that writes the bytes pulled is the producer (R113, R150, R291). -/
def pullProducer (s : State) (e : Entry) (op : Nat) (array : Bool) (addr len : Nat) : Option Nat :=
  let tagged := mfind e.producers (2 * op + b2n array)
  let exact := ((s.g.bq.filter fun j => decide (j.seq < e.seq)).reverse.find? fun j =>
    rangesOverlap (destRanges s.g j ++ destReach s j) [(addr, addr + max 1 len)]).map fun j => j.seq
  match tagged, exact with
  | some m, some n => some (max m n)
  | some m, none => some m
  | none, x => x

/-- A hop of R236: the interconnect of a cluster, the network of a die, the Mysoam link from one die to another. -/
inductive Hop where
  | cluster (c : Nat)
  | die (d : Nat)
  | link (a b : Nat)
  deriving DecidableEq, Repr

/-- The hops from bank a to bank b of a span (R11, R15; assumption log 65). -/
def Gang.path (g : Gang) (a b : Nat) : List Hop :=
  let ca := (g.clusters[a / 16]?).getD 0
  let cb := (g.clusters[b / 16]?).getD 0
  if ca = cb then [.cluster ca]
  else [.cluster ca, .die (ca / 32)] ++ (if ca / 32 = cb / 32 then [] else [.link (ca / 32) (cb / 32), .die (cb / 32)]) ++ [.cluster cb]

/-- A buffer of a network class of R236: of a bank, or of a hop. -/
inductive Buffer where
  | send (bank : Nat)
  | request (h : Hop)
  | table (bank : Nat)
  | reply (bank : Nat)
  | response (h : Hop)
  | staging (bank : Nat)
  | tokens (bank : Nat)
  | tokenHop (h : Hop)
  deriving DecidableEq, Repr

/-- The kind of a hop. -/
def Hop.kind : Hop → Nat
  | .cluster _ => 0
  | .die _ => 1
  | .link _ _ => 2

/-- The slots of a buffer: 64 in the owner's pull table (R236), in the others the implementation's. -/
def Buffer.slots : Buffer → Nat
  | .send _ => Config.bufferSlots 0 + 2
  | .request h => Config.bufferSlots (1 + h.kind) + 2
  | .table _ => 64
  | .reply _ => Config.bufferSlots 4 + 2
  | .response h => Config.bufferSlots (5 + h.kind) + 2
  | .staging _ => Config.bufferSlots 8 + 2
  | .tokens _ => Config.bufferSlots 9 + 2
  | .tokenHop h => Config.bufferSlots (10 + h.kind) + 2

/-- The buffer that holds a pull at a place. -/
def Pull.buffer (g : Gang) (q : Pull) : PullPlace → Option Buffer
  | .waiting => none
  | .sendQueue => some (.send q.requester)
  | .request n => ((g.path q.requester q.owner)[n]?).map .request
  | .table => some (.table q.owner)
  | .responseQueue => some (.reply q.owner)
  | .response n => ((g.path q.owner q.requester)[n]?).map .response
  | .staging => some (.staging q.requester)

/-- The last hop of a pull to its owner. -/
def Pull.lastHop (g : Gang) (q : Pull) : PullPlace := .request ((g.path q.requester q.owner).length - 1)

/-- The place that a pull moves to by itself, as a slot comes free there (R236). -/
def Pull.onward (g : Gang) (q : Pull) : Option PullPlace :=
  match q.place with
  | .waiting => some .sendQueue
  | .sendQueue => some (.request 0)
  | .request n => if q.place = q.lastHop g then none else some (.request (n + 1))
  | .responseQueue => some (.response 0)
  | .response n => some (if n + 1 < (g.path q.owner q.requester).length then .response (n + 1) else .staging)
  | .table | .staging => none

/-- Whether a buffer that holds `held` entries takes one more for an instruction: one slot is for the eldest alone (R237). -/
def slotFor (slots held low seq : Nat) : Bool := decide (held + 1 < slots) || (decide (held < slots) && seq == low)

/-- A pull may enter the buffer of a place (R237). -/
def pullRoom (g : Gang) (pulls : List Pull) (q : Pull) (p : PullPlace) : Bool :=
  match q.buffer g p with
  | none => false
  | some x => slotFor x.slots (pulls.filter fun r => r.buffer g r.place == some x).length g.lowWater q.seq

/-- Each pull moves one buffer on, oldest first, where there is room. -/
def flowPulls (g : Gang) : List Pull → List Pull → List Pull
  | done, [] => done
  | done, q :: r =>
    let q' := match q.onward g with
      | some p => if pullRoom g (done ++ r) q p then { q with place := p } else q
      | none => q
    flowPulls g (done ++ [q']) r

/-- The buffer that holds a token at a place. -/
def Token.buffer (g : Gang) (t : Token) : TokenPlace → Option Buffer
  | .waiting => none
  | .hop n => ((g.path t.source t.bank)[n]?).map .tokenHop
  | .queue => some (.tokens t.bank)

/-- The place that a token moves to by itself, as a slot comes free there (R236). -/
def Token.onward (g : Gang) (t : Token) : Option TokenPlace :=
  match t.place with
  | .waiting => some (.hop 0)
  | .hop n => some (if n + 1 < (g.path t.source t.bank).length then .hop (n + 1) else .queue)
  | .queue => none

/-- Each token moves one buffer on, oldest first, where there is room (R237). -/
def flowTokens (g : Gang) : List Token → List Token → List Token
  | done, [] => done
  | done, t :: r =>
    let room : TokenPlace → Bool := fun p => match t.buffer g p with
      | none => false
      | some x => slotFor x.slots ((done ++ r).filter fun u => u.buffer g u.place == some x).length g.lowWater t.seq
    let t' := match t.onward g with
      | some p => if room p then { t with place := p } else t
      | none => t
    flowTokens g (done ++ [t']) r

/-- Pulls, responses and tokens move on through their buffers as far as they can (R236, R237): a path has at most seven moves. -/
def flow (s : State) : State :=
  (List.range 7).foldl (fun s _ => { s with g := { s.g with pulls := flowPulls s.g [] s.g.pulls, tokens := flowTokens s.g [] s.g.tokens } }) s

/-- Send the pulls of a read: one for each group of each owner (R232, R236). -/
def sendPull (s : State) (e : Entry) (b op : Nat) (array : Bool) (idx addr len : Nat) (tag : Bool) : State :=
  let chain := (readOperands s.g e).any fun r => r.code == op && r.index == array && r.chain
  let ps := (pieces s addr len).map fun p =>
    (⟨b, p.owner, e.seq, pullProducer s e op array p.addr p.len, chain, op, array, idx, p.group, p.addr, p.len, .waiting, [], [],
      if tag && p.addr == addr then some 0 else none, false⟩ : Pull)
  flow { s with g := { s.g with pulls := s.g.pulls ++ ps } }

/-- Banks that have not finished entry e. -/
def Gang.unfinished (g : Gang) (e : Entry) : List Nat := (List.range g.banksInSpan).filter fun b => decide ((g.bankAt b).next ≤ e.seq)

/-- Retire the eldest entries that every bank has finished, none behind one whose FP trap is due (R92, R93, R230). -/
def retireReady : List Entry → State → State
  | [], s => s
  | e :: es, s => if s.g.unfinished e = [] ∧ s.g.fpDue = none then retireReady es (retireEntry s e) else s

def updateEntry (s : State) (e : Entry) : State :=
  { s with g := { s.g with bq := s.g.bq.map fun x => if x.seq = e.seq then e else x } }

/-- The span-relative bank that holds a frame of the field. -/
def Gang.relBank (g : Gang) (fr : Nat) : Nat := (g.clusters.idxOf (fr / 1024)) * 16 + fr / 64 % 16

/-- Whether bank b owns nothing of an entry, so that it finishes it as soon as it reaches it (R230). An indexed destination has to be
read to know. -/
def ownsNone (s : State) (b : Nat) (e : Entry) : Bool :=
  let owner := fun (a : Int) => (ownerOfAddr s a).getD 0
  match bxFields e.instr with
  | some f =>
    if toReadQueue e.instr then b != 0
    else if f.dm = 3 then (units e).all fun p => skips e b p
    else if isReduction e.instr then owner (e.reg f.d).toNat != b
    else if restartsWhole e.instr then
      (List.range e.cap.ecount).all fun i => owner (elementAddr e f.d f.dm (destBits e.instr f) i 0) != b
    else (units e).all fun p => skips e b p || (match unitOwner s (rdOf (snapshotSrc s e)) e p with | .ok o => o != b | .error _ => false)
  | none => (units e).all fun p => skips e b p || (match unitOwner s (rdOf (snapshotSrc s e)) e p with | .ok o => o != b | .error _ => false)

/-- An entry starts at no bank while an FP trap is due, nor, with any TEN bit set, before the previous one has retired (R93). -/
def heldForFp (s : State) (e : Entry) : Bool := s.g.fpDue.isSome || (ectrlTen s.g.ectrl != 0 && s.g.lowWater != e.seq)

/-- Bank b passes over the entries of which it owns nothing (R230). -/
def passOver (b : Nat) : List Entry → State → State
  | [], s => s
  | e :: es, s =>
    let x := s.g.bankAt b
    if e.seq < x.next then passOver b es s
    else if x.next = e.seq ∧ x.begun = false ∧ x.cause.isNone ∧ !heldForFp s e ∧ ownsNone s b e then passOver b es (setBank s b { next := e.seq + 1 })
    else s

/-- Tag upkeep at the bank that finishes an entry: its own frames (R301). -/
def bankUpkeep (s : State) (b : Nat) (e : Entry) : State :=
  let frames := (upkeepList e).filter fun fr => s.g.relBank fr == b
  let s1 := frames.foldl (upkeepFrame e) s
  updateEntry s1 { e with
    kept := (e.kept ++ frames).eraseDups
    written := e.written.filter fun p => s.g.relBank (p.1 / 8192) != b
    poison := e.poison.filter fun fr => s.g.relBank fr != b }

/-- A bank finishes its present entry (R230, R301), and passes over those of which it owns nothing. -/
def finishBank (s : State) (b : Nat) (e : Entry) : State :=
  let s1 := setBank (bankUpkeep s b e) b { next := e.seq + 1 }
  let s2 := passOver b s1.g.bq s1
  retireReady s2.g.bq s2

/-- Whether a destination byte lies in a group that an earlier copy has still to land in (R355). -/
def writesAwaited (s : State) (e : Entry) (o : Out) : Bool :=
  (o.writes.any fun w => match fieldAt s w.addr true with
    | .ok k => byteAwaitedBy s e k || (entryWritesTags e && tagAwaitedBy s e k)
    | .error _ => false) || o.tags.any fun p => match fieldAt s p.1 true with | .ok k => tagAwaitedBy s e k | .error _ => false

/-- Whether VSPADD or VSPMUL writes a pair at a bank that has not yet finished every earlier instruction (R112). -/
def pairsEarly (s : State) (b : Nat) (e : Entry) (o : Out) : Bool :=
  isSparse e.instr && o.writes.any fun w => match ownerOfAddr s w.addr with
    | some c => c != b && decide ((s.g.bankAt c).next < e.seq)
    | none => false

/-- Whether an earlier instruction may still read, through an index, a byte that a unit writes (R114, R150). -/
def reachedEarly (s : State) (e : Entry) (o : Out) : Bool :=
  s.g.bq.any fun j => decide (j.seq < e.seq) && (let rs := sourceReach s j; rs != [] && o.writes.any fun w => rangesOverlap rs [(w.addr, w.addr + 1)])

/-- The lowest unit of an entry that bank b owns and has not performed, from unit `lb` on. An index array that cannot be read leaves
the unit in question. -/
def firstOwned (s : State) (e : Entry) (b lb : Nat) : Option Nat :=
  (units e).find? fun p => decide (lb ≤ p) && !skips e b p && !rowAbsent s e p &&
    match unitOwner s (rdOf (snapshotSrc s e)) e p with
    | .ok o => o == b
    | .error _ => true

/-- Where bank b stands in an entry: the lowest unit it has still to perform (R243). -/
def lowestLeft (s : State) (e : Entry) (b : Nat) : Option Nat :=
  let x := s.g.bankAt b
  if e.seq < x.next then none else firstOwned s e b (if x.next = e.seq ∧ x.begun then x.position else 0)

/-- The unit before p in the element order of an O = 1 entry, of those that this run performs, with the bank that performs it. -/
def unitBefore (s : State) (e : Entry) (p : Nat) : Option (Nat × Nat) :=
  ((units e).filter fun q => decide (q < p)).reverse.findSome? fun q =>
    match unitOwner s (rdOf (snapshotSrc s e)) e q with
    | .ok c => if skips e c q || rowAbsent s e q then none else some (q, c)
    | .error _ => none

/-- Whether an O = 1 unit must wait for its visibility token, since another bank performs the unit before it (R128, R236). -/
def tokenAwaited (s : State) (b : Nat) (e : Entry) (p : Nat) : Bool :=
  ordered e && !holdsWrites e && match unitBefore s e p with
    | some (_, c) => c != b && !(s.g.tokens.any fun t => t.bank == b && t.seq == e.seq && t.unit == p && t.place == .queue)
    | none => false

/-- Bank b comes to a unit of another bank: where it has performed the one before, it sends the token on (R128, R236). -/
def passToken (s : State) (b own : Nat) (e : Entry) (p : Nat) : State :=
  let t : Token := ⟨own, b, e.seq, p, .waiting⟩
  if ordered e && !holdsWrites e && !skips e own p && !rowAbsent s e p && (match unitBefore s e p with | some (_, c) => c == b | none => false)
      && !(s.g.tokens.any fun u => u.bank == own && u.seq == e.seq && u.unit == p)
  then flow { s with g := { s.g with tokens := s.g.tokens ++ [t] } } else s

/-- A token is used up when its unit is performed. -/
def useToken (s : State) (b : Nat) (e : Entry) (p : Nat) : State :=
  { s with g := { s.g with tokens := s.g.tokens.filter fun t => !(t.bank == b && t.seq == e.seq && t.unit == p) } }

/-- What a bank's reads find when something holds or stops them. -/
def bankStop (s : State) (b : Nat) (e : Entry) (p : Nat) : Stop → State
  | .miss op arr idx a len tag => sendPull (setBank s b { s.g.bankAt b with begun := true, position := p }) e b op arr idx a len tag
  | .await => setBank s b { s.g.bankAt b with begun := true, position := p }
  | .fault c => setBank s b { s.g.bankAt b with begun := true, position := p, cause := some c }

/-- Phase 1 of VSPADD and VSPMUL at a bank (R286): every header read, and no conflict, whose fault names the list that a header points to
(assumption log 80). -/
def sparsePhase1 (src : Src) (e : Entry) : Except Stop Unit :=
  match bxFields e.instr with
  | none => .ok ()
  | some f => do
    let hs ← readHeaders (rdOf src) e f
    match sparseConflict e f hs with
    | some k => throw (.fault (bFault 5 (((hs[k]?).map fun h => h.1.ptr).getD 0 : Nat) k 0 false))
    | none => pure ()

/-- Whether every bank that performs a header has done phase 1 (R286). -/
def phase1Done (s : State) (e : Entry) : Bool :=
  (List.range s.g.banksInSpan).all fun b =>
    let x := s.g.bankAt b
    decide (e.seq < x.next) || (x.next == e.seq && x.headers)

/-- Bank b performs its units of entry e from the listed ones on, until one waits for a pull, a copy or a token, faults, or all are
done (R128, R230, R239, R247, R355). In the read phase of a staged entry the writes go to the staging store. A VSPADD or VSPMUL goes on to
its phase 2 once every bank has done phase 1; that wait counts in GATED (R286). -/
def advanceBank (b : Nat) : List Nat → State → Entry → State
  | [], s, e => if holdsWrites e then setBank s b { s.g.bankAt b with ready := true, position := doneBound } else finishBank s b e
  | p :: ps, s, e =>
    let src := bankSrc s b e
    if skips e b p || rowAbsent s e p then advanceBank b ps s e
    else match (if isSparse e.instr && !(s.g.bankAt b).headers then sparsePhase1 src e else .ok ()) with
    | .error x => bankStop s b e p x
    | .ok () =>
      let s := if isSparse e.instr then setBank s b { s.g.bankAt b with begun := true, position := p, headers := true } else s
      if isSparse e.instr && !phase1Done s e then countGated s b
      else match unitOwner s (rdOf src) e p with
      | .error x => bankStop s b e p x
      | .ok own =>
        if own ≠ b && !restartsWhole e.instr then advanceBank b ps (passToken s b own e p) e
        else match performUnit s b (minesOf s b) (b == 0) src e p with
          | .error x => bankStop s b e p x
          | .ok o =>
            if holdsWrites e then
              let e' := { e with flags := e.flags.merge o.flags, poison := (e.poison ++ poisonFrames s o.poison).eraseDups,
                                 delivered := match o.rq with | some v => some v | none => e.delivered }
              let s := updateEntry s e'
              let x := s.g.bankAt b
              advanceBank b ps (setBank s b { x with stagedWrites := x.stagedWrites ++ o.writes, stagedTags := x.stagedTags ++ o.tags }) e'
            else if writesAwaited s e o || pairsEarly s b e o || reachedEarly s e o || tokenAwaited s b e p then bankStop s b e p .await
            else
              let (s', e') := applyOut s (rememberOld s e o) o
              advanceBank b ps (updateEntry (useToken s' b e p) e') e'

/-- The units of an entry that a bank has still to perform. -/
def unitsFrom (e : Entry) (p : Nat) : List Nat := (units e).filter fun q => p ≤ q

/-- BANK_BEGIN (R230, R93, R116, R233): a bank begins the instruction it stands at, if no FP trap holds it, and the skew limit and the gate
allow; one of which it owns nothing it finishes at once. Held only by the gate, it counts in GATED. A bank that waits for no pull goes on
where it stands. -/
def bankBegin (s : State) (b : Nat) : State :=
  let s := flow s
  let x := s.g.bankAt b
  if x.cause.isSome ∨ s.g.banksInSpan ≤ b ∨ (x.begun ∧ (x.ready ∨ s.g.pulls.any fun q => q.requester == b && q.seq == x.next)) then s
  else match s.g.bq.find? fun e => e.seq == x.next with
    | none => s
    | some e =>
      if x.begun then advanceBank b (unitsFrom e x.position) s e
      else if heldForFp s e then s
      else if ownsNone s b e then finishBank s b e
      else if s.g.lowWater + 16 ≤ e.seq then s
      else match e.gate with
        | some k => if s.g.lowWater ≤ k then countGated s b else advanceBank b (units e) (setBank s b { x with begun := true }) e
        | none => advanceBank b (units e) (setBank s b { x with begun := true }) e

/-- Change the first pull that satisfies a test. -/
def changePull (p : Pull → Bool) (f : Pull → Pull) : List Pull → List Pull
  | [] => []
  | q :: r => if p q then f q :: r else q :: changePull p f r

/-- PULL_ARRIVAL (R234, R236, R237): the first pull on the hops to bank b that its table has a slot for enters it. -/
def pullArrival (s : State) (b : Nat) : State :=
  let s := flow s
  let comes := fun (q : Pull) => q.owner == b && q.place == q.lastHop s.g && pullRoom s.g s.g.pulls q .table
  flow { s with g := { s.g with pulls := changePull comes (fun q => { q with place := .table }) s.g.pulls } }

/-- last_write_done(p, G) of R234: every destination element of p that the owner holds with bytes in the group of the pull is
performed. -/
def lastWriteDone (s : State) (b : Nat) (e : Entry) (q : Pull) : Bool :=
  match bxFields e.instr with
  | some f =>
    (f.dm == 0 || f.dm == 1) && !restartsWhole e.instr && !e.staged && !isSparse e.instr &&
    (let x := s.g.bankAt b
     x.next == e.seq && x.begun && (unitsFrom e x.position).all fun p =>
       match unitAddr (rdOf (bankSrc s b e)) e p with
       | .ok a => (List.range ((destBits e.instr f + 7) / 8)).all fun j => match fieldAt s (a.toNat + j) false with
           | .ok k => k / 256 != q.group
           | .error _ => true
       | .error _ => false)
  | none => false

/-- eligible(q) of R234. A tag that the producer keeps is written when the owner finishes the producer (R301). -/
def pullEligible (s : State) (q : Pull) : Bool :=
  let awaited := (List.range (max 1 q.len)).any fun j => match fieldAt s (q.addr + j) false, s.g.bq.find? fun e => e.seq == q.seq with
    | .ok k, some e => byteAwaitedBy s e k || (q.tag.isSome && tagAwaitedBy s e k)
    | _, _ => false
  if awaited || sparseBefore s.g q.seq then false
  else match q.producer with
    | none => true
    | some p =>
      decide (p < (s.g.bankAt q.owner).next)
        || (q.chain && (match s.g.bq.find? fun e => e.seq == p with
            | some e => !(q.tag.isSome && keepsTags e.instr) && lastWriteDone s q.owner e q
            | none => true))

/-- The entry that a pull reads for. -/
def Gang.pullEntry (g : Gang) (q : Pull) : Option Entry := g.bq.find? fun e => e.seq == q.seq

/-- Reading the bytes of a served pull as they stood before its instruction, with the uncorrectable ones marked (R104, R234, R444). -/
def servePull (s : State) (q : Pull) : Pull :=
  let keys := (List.range q.len).map fun j => ((fieldAt s (q.addr + j) false).toOption).getD 0
  let k0 := ((fieldAt s q.addr false).toOption).getD 0
  let byte := fun (k : Nat) => match s.g.pullEntry q with
    | some e => entryByte s e k
    | none => if s.fieldBad.contains (k / 8) then none else some (rdByte s.field k)
  let tag := match s.g.pullEntry q with
    | some e => entryTag s e k0
    | none => if s.ftagBad.contains (k0 / 8192) then none else some (tagOfKey s k0)
  { q with
    place := .responseQueue
    bytes := keys.map fun k => (byte k).getD 0
    bad := ((List.range q.len).zip keys).filterMap fun p => if (byte p.2).isNone then some (q.addr + p.1) else none
    tag := q.tag.map fun _ => tag.getD 0
    tagBad := q.tag.isSome && tag.isNone }

/-- PULL_SERVE (R234, R235, R236): among the eligible pulls in bank b's table whose response has a slot, the earliest ISN is served first,
then the first to arrive. -/
def pullServe (s : State) (b : Nat) : State :=
  let s := flow s
  let ready := s.g.pulls.filter fun q =>
    q.owner == b && q.place == .table && pullEligible s q && pullRoom s.g s.g.pulls q .responseQueue
  match ready with
  | [] => s
  | q :: r =>
    let best := r.foldl (fun x y => if y.seq < x.seq then y else x) q
    flow { s with g := { s.g with pulls := changePull (fun y => y == best) (servePull s) s.g.pulls } }

/-- A response as its requester takes it: with a second parity error on its link, all of it uncorrectable (R444). -/
def Pull.over (q : Pull) (linkBad : Bool) : Pull :=
  if linkBad then { q with bytes := q.bytes.map fun _ => 0, bad := (List.range q.len).map (q.addr + ·), tag := q.tag.map fun _ => 0, tagBad := q.tag.isSome }
  else q

/-- PULL_RESPONSE (R232): the oldest response in bank b's staging is taken, and once all that the bank asked for has come it performs what it
can. A response to a cancelled pull is discarded (R244). -/
def pullResponse (s : State) (b : Nat) : State :=
  let s := flow s
  match s.g.pulls.find? fun q => q.requester == b && q.place == .staging with
  | none => s
  | some q0 =>
    let q := q0.over (s.g.linkBad.contains b)
    let s := flow { s with g := { s.g with pulls := s.g.pulls.erase q0, linkBad := s.g.linkBad.erase b } }
    let x := s.g.bankAt b
    if x.next ≠ q.seq ∨ x.begun = false then s
    else
      let x := { x with
        got := (q.bytes.zipIdx.map fun p => (q.addr + p.2, p.1)) ++ x.got
        gotBad := q.bad ++ x.gotBad
        tagsGot := match q.tag with | some t => mput x.tagsGot q.addr t | none => x.tagsGot
        tagsBad := if q.tagBad then q.addr :: x.tagsBad else x.tagsBad }
      let s := setBank s b x
      match s.g.bq.find? fun e => e.seq == q.seq with
      | none => s
      | some e => if x.cause.isSome || x.ready || (s.g.pulls.any fun r => r.requester == b && r.seq == x.next) then s else advanceBank b (unitsFrom e x.position) s e

/-- The results below an address that every bank holds back of an entry are written (R239). -/
def writeHeld (below : Nat) (s : State) (e : Entry) : State :=
  let bs := (List.range s.g.banksInSpan).filter fun b => (s.g.bankAt b).next == e.seq
  let all := bs.flatMap fun b => (s.g.bankAt b).stagedWrites
  let tags := bs.flatMap fun b => (s.g.bankAt b).stagedTags
  let o := ({ writes := all, tags := tags } : Out).below below
  let (s', e') := applyOut s (rememberOld s e o) o
  updateEntry s' e'

/-- The first tile of a TMMA that some bank has still to perform in part. -/
def openTile (s : State) (e : Entry) : Nat :=
  (List.range s.g.banksInSpan).foldl (fun t b => match lowestLeft s e b with | some p => min t (p / 512) | none => t) e.cap.tcount

/-- The tiles of a TMMA that its banks have performed whole and hold back are written when the banks stop (R128, R335; assumption log 74). -/
def showRows (seq : Nat) (s : State) : State :=
  match s.g.bq.find? fun e => e.seq == seq with
  | some e => if heldRows e then writeHeld (tileEnd e (openTile s e)) s e else s
  | none => s

/-- Banks that have finished the read phase of a staged entry and wait for the others (R239). -/
def stagedWaiting (s : State) : List Nat :=
  (List.range s.g.banksInSpan).filter fun b =>
    let x := s.g.bankAt b
    x.ready && s.g.bq.any fun e => e.seq == x.next && e.staged

/-- STAGED_WRITE_PHASE (R239, R272): once every bank has finished the read phase of the eldest entry, every bank writes from staging
and finishes. Until then the wait counts in GATED, for each bank that waits. -/
def stagedWritePhase (s : State) : State :=
  match s.g.bq with
  | [] => s
  | e :: _ =>
    let bs := List.range s.g.banksInSpan
    let there := fun (b : Nat) => (s.g.bankAt b).next == e.seq && (s.g.bankAt b).ready
    if holdsWrites e && (bs.any fun b => writesAwaited s e { writes := (s.g.bankAt b).stagedWrites }) then s
    else if holdsWrites e && bs.all fun b => there b || decide (e.seq < (s.g.bankAt b).next) then
      bs.foldl (fun s b => if there b then
        match s.g.bq.find? fun x => x.seq == e.seq with
        | some x => finishBank s b x
        | none => s
      else s) (writeHeld (2 ^ 32) s e)
    else (stagedWaiting s).foldl countGated s

end Sys2Proof.Machine
end

