-- ==== Sys2Proof/Machine/Context.lean ====
section
/-! DEFINITION. What a gang shows of itself: control register values (R161), descriptor and status words, and the gang context area
that a halt writes (R41). -/
namespace Sys2Proof.Machine

/-- A control register's value (R161). -/
def Gang.control (g : Gang) (n : Nat) : Word :=
  match n with
  | 0x000 => g.gstat
  | 0x001 => g.gcause
  | 0x002 => g.gepc
  | 0x003 => g.geval
  | 0x004 => g.geval2
  | 0x005 => g.gqpos
  | 0x006 => g.gtvec
  | 0x007 => g.gscratch
  | 0x010 => g.ecount
  | 0x011 => g.estart
  | 0x012 => g.emask
  | 0x013 => g.ectrl
  | 0x014 => g.tcount
  | 0x015 => g.eflags
  | 0x016 => g.fxnv
  | 0x017 => g.fxdz
  | 0x018 => g.fxof
  | 0x019 => g.fxuf
  | 0x01A => g.fxnx
  | 0x020 => g.span
  | 0x021 => g.gangId
  | 0x022 => w64 g.pasid
  | 0x030 => g.convres
  | 0x032 => g.blktab
  | 0x041 => w64 (min (2 ^ 64 - 1) g.retired)
  | n => if 0x50 ≤ n ∧ n ≤ 0x57 then chstat g (n - 0x50) else 0

/-- The four words of a window's descriptor (R55). -/
def windowWords (w : Window) : List Word :=
  [w64 (w.base + w.size * 2 ^ 32),
   w64 (w.first + w.count * 2 ^ 12 + w.gran * 2 ^ 24 + b2n w.ro * 2 ^ 29 + b2n w.fa * 2 ^ 30 + b2n w.valid * 2 ^ 31),
   w64 w.loc, 0]

/-- The status word of a port (R210). -/
def Port.status (x : Port) : Word :=
  w64 (x.openWords.length + x.results.length * 2 ^ 8 + x.commands.length * 2 ^ 12 + b2n x.err * 2 ^ 16)

/-- A resume word (R243). -/
def Resume.word (r : Resume) : Word := if r.valid then w64 (r.next % 2 ^ 48 + r.step * 2 ^ 52 + r.pos * 2 ^ 56 + 2 ^ 63) else 0

/-- The nonzero bytes of words laid from an offset. -/
def wordCells (off : Nat) (ws : List Word) : List Host.Cell :=
  (((ws.flatMap fun w => leBytes 8 w.toNat).zipIdx).map fun p => (off + p.2, p.1)).filter fun c => c.2 != 0

/-- A channel's 64-byte head in the context area (R41): CHSTAT, the position of its oldest copy, and how many copies it holds, the active
one among them. The places of the fields are the model's choice (assumption log 53). -/
def channelHead (g : Gang) (ch : Nat) : List Word :=
  let x := g.channel ch
  [chstat g ch, w64 ((x.queue.head?.map fun c => c.position).getD 0), w64 x.queue.length, 0, 0, 0, 0, 0]

/-- A queued copy's 192-byte slot in the context area (R41). The places of its fields are the model's choice (assumption log 53). -/
def copySlot (c : Copy) : List Word :=
  [c.code, w64 c.src, w64 (if c.kind = 0 then c.count else c.third), w64 c.dst, w64 c.sigAddr, w64 c.ecount] ++ c.block

/-- The bank resume words that a halt shows (R41, R243): those of the pending frame at handler level, else those of the capture. -/
def Gang.resumeShown (g : Gang) : Map Resume := if g.pl then g.resume else g.haltResume

/-- The gang context area (R41): its nonzero bytes by offset. `frame` is the queue frame, which is opaque. The places of the fields inside a
32-byte port head and a 576-byte port body, where the results follow the open words directly, are the model's choice (assumption log 53). -/
def contextArea (g : Gang) (frame : List Word) : List Host.Cell :=
  wordCells 0 ((List.range 32).map fun n => g.reg (BitVec.ofNat 5 n))
    ++ wordCells 0x100 ((List.range 96).map fun n => if n = 0x40 then 0 else g.control n)
    ++ wordCells 0x400 ((List.range 8).flatMap (channelHead g))
    ++ wordCells 0x600 ((List.range 16).flatMap fun p =>
        let x := mget ({} : Port) g.ports p
        [x.status, w64 x.openWords.length, w64 x.results.length, w64 x.commands.length])
    ++ wordCells 0x800 ((List.range 16).flatMap fun n => let w := mget ({} : Walk) g.walks n; [w.base, w.pattern, w.position, 0])
    ++ wordCells 0xA00 (g.rq.map fun v => v.getD 0)
    ++ wordCells 0xB00 [13, w64 g.rqAside, g.gated, g.confl, g.merged]
    ++ wordCells 0x1000 frame
    ++ wordCells 0x2000 ((List.range 64).flatMap fun n => windowWords (g.window n))
    ++ wordCells 0x3000 ((List.range 256).flatMap fun n => let m := mget ({} : Method) g.methods n; [m.w0, m.w1, m.w2, m.w3])
    ++ (g.lmem.map fun c => (0x5000 + c.1, c.2))
    ++ wordCells 0x15000 ((List.range g.banksInSpan).map fun b => (mget (⟨false, 0, 0, 0⟩ : Resume) g.resumeShown b).word)
    ++ (List.range 8).flatMap (fun ch => (g.channel ch).queue.zipIdx.flatMap fun p => wordCells (0x19000 + 3072 * ch + 192 * p.2) (copySlot p.1))
    ++ (List.range 16).flatMap fun p => let x := mget ({} : Port) g.ports p; wordCells (0x1F000 + 576 * p) (x.openWords ++ x.results)

/-- Fresh free words (assumption log 2). -/
def freeWords (s : State) (n : Nat) : List Word × State :=
  ((List.range n).map fun i => Config.freeWord (s.fresh + i), { s with fresh := s.fresh + n })

/-- The selected gang halts at this boundary (R40, R41, R228): outstanding responses reach their registers (R39), the unretired
instructions and the resume words are kept, and the context area is written. A gang that is stopped for `svk` is so again at its
resumption (assumption log 77). -/
def haltSelected (phase : Phase) (s : State) (es : List Entry) (words : Map Resume) : State :=
  let g0 := s.g.loads.foldl (fun (g : Gang) l => g.setReg l.reg l.value) s.g
  let g : Gang := { g0 with
    phase := phase, svkHeld := phase == .halted && g0.phase == .svkStop, loads := [], preempt := false, haltFrame := es, haltResume := words, haltOrder := s.haltCounter }
  let (frame, s) := freeWords s 512
  { s with g := { g with context := contextArea g frame }, haltCounter := s.haltCounter + 1 }

end Sys2Proof.Machine
end

