-- ==== Sys2Proof/Machine/Ops.lean ====
section
/-! DEFINITION. The shared operations of an instruction boundary: committing, the frame that a stop captures (R220, R243, R244),
taking an exception (R219 to R224), the command core's first handling of a page fault (R222), gang failure (R223), re-issue of a
frame and the return from an exception (R225, R245), and the pending causes in their order (R221). -/
namespace Sys2Proof.Machine

/-- The cause of a single step (R226). -/
def stepCause : Cause := ⟨12, 1, 0, 0, 0, 0⟩

/-- A scalar instruction commits (R198): the PC moves past its `n` bytes, RETIRED counts it, and an armed single step becomes due
(R226). -/
def Gang.commit (g : Gang) (pc : Word) : Gang :=
  let due := g.stepping && !g.pl
  { g with
    pc := pc
    retired := g.retired + 1
    held := if due then some stepCause else g.held
    stepping := if due then false else g.stepping }

/-- Commit and continue at the next 32-bit instruction. -/
def State.commit4 (s : State) : State := { s with g := s.g.commit (s.g.pc + 4) }
/-- Commit and continue after a 64-bit instruction. -/
def State.commit8 (s : State) : State := { s with g := s.g.commit (s.g.pc + 8) }
/-- Commit and continue at another address. -/
def State.commitAt (s : State) (pc : Word) : State := { s with g := s.g.commit pc }

/-- The first element of a destination that bank b owns, of an instruction that restarts whole (R243). An index array that cannot be read
leaves the element in question. -/
def wholeOwned (s : State) (e : Entry) (b : Nat) : Option Nat :=
  match bxFields e.instr with
  | none => none
  | some f =>
    if toReadQueue e.instr then (if b = 0 then some 0 else none)
    else if isReduction e.instr then (if minesOf s b ((e.reg f.d).toNat : Nat) then some 0 else none)
    else (List.range e.cap.ecount).find? fun i => match destAddr (rdOf (snapshotSrc s e)) e f i with
      | .ok a => minesOf s b a
      | .error _ => true

/-- The captured start of an entry as NEXT and ESTART show it: of a VCVTF4 a tile's first element (R268). -/
def startShown (e : Entry) : Nat :=
  match e.instr with
  | .vcvtf4 f => e.start / f4Elems f * f4Elems f
  | _ => e.start

/-- A bank's resume word for entry e at position k, if the bank has something left of it (R243). A TMMA that failed before any row of a
tile was written stands at the tile's first row, step 0 (R336). -/
def entryResume (s : State) (b k : Nat) (e : Entry) : Option Resume :=
  let x := s.g.bankAt b
  if e.seq < x.next then none
  else if e.staged then some ⟨true, k, 0, startShown e⟩
  else if restartsWhole e.instr then (if e.skipped then none else (wholeOwned s e b).map fun n => ⟨true, k, 0, n⟩)
  else
    match (if heldRows e then firstOwned s e b (512 * openTile s e) else lowestLeft s e b) with
    | none => none
    | some p =>
      let (n, st) := nextOf e b p
      let top := isTmma e.instr && x.next == e.seq && x.begun && x.cause.isSome && firstOwned s e b (p / 512 * 512) == some p
      if top then some ⟨true, k, 0, p / 512 * 32⟩ else some ⟨true, k, st, n⟩

/-- A bank's resume word over the frame: the earliest entry that it has not finished (R243). -/
def bankResume (s : State) (b : Nat) : List (Entry × Nat) → Resume
  | [] => ⟨false, 0, 0, 0⟩
  | (e, k) :: r => match entryResume s b k e with
    | some w => w
    | none => bankResume s b r

/-- The resume words of every bank; a word with V = 0 is not listed. -/
def resumeWords (s : State) : Map Resume :=
  (List.range s.g.banksInSpan).filterMap fun b =>
    let w := bankResume s b (s.g.bq.zipIdx)
    if w.valid then some (b, w) else none

/-- A stopped entry whose results were not stored, or are stored again whole, carries no flag, coverage or poison (R239, R273). A TMMA
keeps the rows that it is not to perform at any bank (R242). -/
def freshEntry (e : Entry) : Entry :=
  if e.staged || restartsWhole e.instr then { e with flags := {}, written := [], poison := [] } else e

/-- Banks whose performed rows of a TMMA a resume word at the top of a tile would forget keep them as bounds (R245, R336). -/
def keepBounds (g : Gang) (e : Entry) : Entry :=
  if !isTmma e.instr then e else
  { e with bounds := (List.range g.banksInSpan).filterMap fun b =>
      let v := max (mget 0 e.bounds b) (e.start * 16)
      if v = 0 then none else some (b, v) }

/-- Banks that have finished an entry have made their tag writes for it (R301): what remains travels with the frame. -/
def settleTags (s : State) (words : Map Resume) : List (Entry × Nat) → State × List Entry
  | [] => (s, [])
  | (e0, k) :: r =>
    let e := freshEntry e0
    let done := fun (fr : Nat) =>
      let w := mget ⟨false, 0, 0, 0⟩ words (s.g.relBank fr)
      !w.valid || decide (k < w.pos)
    let s1 := ((upkeepList e).filter done).foldl (upkeepFrame e) s
    let e1 := { keepBounds s.g e with
      written := e.written.filter fun p => !done (p.1 / 8192)
      poison := e.poison.filter fun fr => !done fr }
    let (s2, es) := settleTags s1 words r
    (s2, e1 :: es)

/-- Reservations of the read queue that no value has filled are given up (R206). -/
def dropReserved (q : List (Option Word)) : List (Option Word) := q.filter Option.isSome

/-- Every bank stops at an element boundary: the unretired entries with their resume words leave the window, and pulls are cancelled
(R220, R243, R244). Rows that a TMMA holds back for its O bit are written (R335). -/
def stopBanks (s : State) : State × List Entry × Map Resume :=
  let words := resumeWords s
  let s0 := s.g.bq.foldl (fun s e => showRows e.seq s) s
  let (s1, es) := settleTags s0 words s0.g.bq.zipIdx
  ({ s1 with g := { s1.g with bq := [], banks := [], pulls := [], tokens := [], rq := dropReserved s1.g.rq } }, es, words)

/-- The fault to report among the banks' (R221, R310): lowest ISN, then element, operand and step, with the entry's sequence number. -/
def Gang.lowestBankFault (g : Gang) : Option (Nat × Cause) :=
  g.banks.foldl (fun acc p => match p.2.cause with
    | none => acc
    | some c => match acc with
      | none => some (p.2.next, c)
      | some (n, d) =>
        if p.2.next < n ∨ (p.2.next = n ∧ c.before d) then some (p.2.next, c)
        else acc) none

/-- Whether the reported fault can be taken: every bank has finished the entries before the faulting one, so that none of them can still
raise an earlier cause (R221, R244). -/
def Gang.bankFaultReady (g : Gang) : Bool :=
  match g.lowestBankFault with
  | some (n, _) => (List.range g.banksInSpan).all fun b => decide (n ≤ (g.bankAt b).next)
  | none => false

/-- The lowest NEXT of the entry at position k over the banks that stand at it, or its captured start (R244). -/
def stopStart (es : List Entry) (words : Map Resume) (k : Nat) : Nat :=
  match (words.filter fun p => p.2.pos == k).map fun p => p.2.next with
  | [] => ((es[k]?).map startShown).getD 0
  | n :: r => r.foldl Nat.min n

/-- Clear a cluster (R30): every byte of its slices zero, every tag RAW. -/
def clearCluster (s : State) (c : Nat) : State :=
  { s with
    field := mclear s.field (c * 2 ^ 23) ((c + 1) * 2 ^ 23)
    fieldBad := s.fieldBad.filter fun w => w / 2 ^ 20 != c
    ftags := mclear s.ftags (c * 1024) ((c + 1) * 1024)
    ftagBad := s.ftagBad.filter fun f => f / 1024 != c }

/-- The command core has a reason for a scheduling pass, which follows (R427). -/
def requestPass (s : State) : State := if s.agenda.contains .schedulingPass then s else { s with agenda := s.agenda ++ [.schedulingPass] }

/-- Release the selected gang's span: clusters cleared, slots free (R30, R47). -/
def releaseSpan (s : State) : State :=
  let s1 := requestPass (s.g.clusters.foldl clearCluster s)
  { s1 with g := { s1.g with clusters := [], followers := [] } }

/-- Stop a queue with an error (R425, R432 type 1). -/
def stopQueue (s : State) (q err ix : Nat) : State :=
  if q < 8192 then
    let x := mget ({} : Queue) s.queues q
    sendFrame { s with queues := mset {} s.queues q { x with st := 3, err := err, errix := ix } } 1 0 [w64 q, w64 err, w64 ix]
  else s

/-- GCAUSE of a cause (R197, R219). -/
def causeWord (c : Cause) (imp : Bool) : Word := w64 (c.code + 256 * b2n imp)

/-- Halt the selected gang as for pre-emption (R228). ESTART shows where the oldest entry of the frame stands (R244); the value that the
next instruction is to capture is kept and returns at resumption (R44, R245; assumption log 50). -/
def haltGang (phase : Phase) (s : State) : State :=
  let (s, es, words) := stopBanks s
  let s := if es = [] then s
    else { s with g := { s.g with heldStart := some s.g.estart, estart := w64 (stopStart es words 0 % 2 ^ 48) } }
  haltSelected phase s es words

/-- A gang failure (R223): the context is saved, the host is told (R432 type 2), the record's queue stops with ERR 5 (R425), and the
gang never runs again. -/
def failGang (s : State) (c : Cause) (imp : Bool) (gepc : Word) : State :=
  let s1 := discardCopies (haltGang .failed s)
  let g := s1.g
  let s2 := sendFrame s1 2 g.lead [w64 g.launch.queue, w64 g.launch.index, g.gangId, causeWord c imp, gepc, c.val]
  rotate (releaseSpan (stopQueue s2 g.launch.queue 5 g.launch.index))

/-- Entry into the handler (R220): the frame and the resume words are kept, the cause registers are set by R219, GQPOS and ESTART by
the faulting entry (R197, R244), the level becomes handler and the PC takes GTVEC. Values of the read queue are set aside (R206). At
handler level, or with GTVEC = 0, the gang fails instead (R223). -/
def enterHandler (s : State) (c : Cause) (imp : Bool) (gepc : Word) (fault : Option Nat) : State :=
  if s.g.pl ∨ s.g.gtvec = 0 then failGang s c imp gepc
  else
    let captured := s.g.bq
    let (s1, es, words) := stopBanks s
    let pos := fault.bind fun n => captured.findIdx? fun e => e.seq == n
    let start := pos.map (stopStart es words)
    let g := s1.g
    { s1 with g := { g with
        frame := es
        resume := words
        fv := es != []
        gcause := causeWord c imp
        gepc := setBits gepc 0 2 0
        geval := c.val
        geval2 := c.val2
        gqpos := match pos, fault with
          | some k, some n => w64 (k + 2 ^ 7 + n % 2 ^ 16 * 2 ^ 16)
          | _, _ => 0
        estart := match start with | some n => w64 (n % 2 ^ 48) | none => g.estart
        rqAside := g.rq.length
        pl := true
        pc := setBits g.gtvec 0 2 0 } }

/-- Whether the command core handles a cause first (R219, R222, R357): a page fault or a copy fault that is "not present". -/
def coreFirst (c : Cause) : Bool := (c.code == 8 && bit c.val2 2) || (c.code == 9 && bit c.val2 4)

/-- The GEVAL2 access code of a page request (R179, R432). A copy fault's channel code is given as one: a load or a store, not present,
of an earlier instruction (assumption log 23). -/
def requestAccess (c : Cause) : Word := if c.code = 9 then w64 (bitsOf c.val2.toNat 3 1 + 12) else w64 (bitsOf c.val2.toNat 0 4)

/-- A gang that executes, or is about to once it is loaded (R34, R36). -/
def Gang.active (g : Gang) : Bool := g.phase == .running || g.phase == .loading

/-- A gang that a pre-emption halts: it executes, or it is stopped for `svk` and its channels go on (assumption log 77). -/
def Gang.haltable (g : Gang) : Bool := g.active || g.phase == .svkStop

/-- Members of the selected gang's cohort, itself left out, that a pre-emption halts with it. -/
def cohortRunning (s : State) : List Nat :=
  if s.g.cohN = 1 then []
  else (s.others.filter fun h => sameCohort h s.g && h.haltable).map fun h => h.id

/-- Pre-empt the other running members of the selected gang's cohort (R37). -/
def haltCohort (s : State) : State := (cohortRunning s).foldl (fun s id => onGang s id (haltGang .halted)) s

/-- The command core takes a page fault first: the context is saved as for pre-emption and the host is asked for the page (R222,
R432 type 3). -/
def pageRequest (s : State) (c : Cause) (imp : Bool) (gepc : Word) : State :=
  let s1 := haltGang .pageWait { s with g := { s.g with savedCause := some (c, imp, gepc) } }
  let s2 := sendFrame s1 3 s1.g.lead [w64 s1.g.pasid, c.val, requestAccess c, Config.contextAddress s1.g.id]
  rotate (haltCohort s2)

/-- Take a cause: the command core first where R219 says so, else the handler. -/
def takeCause (s : State) (c : Cause) (imp : Bool) (gepc : Word) (fault : Option Nat) : State :=
  if coreFirst c then pageRequest s c imp gepc else enterHandler s c imp gepc fault

/-- A copy fault that is pending (R357): the lowest-numbered stopped channel's. -/
def Gang.copyFault (g : Gang) : Option (Nat × Cause) :=
  (g.channels.find? fun p => p.2.stopped && p.2.fault.isSome && !p.2.taken).bind fun p => p.2.fault.map fun c => (p.1, c)

/-- A copy fault is taken once; the channel stays stopped (R357). -/
def takeCopyFault (s : State) (c : Nat) : State :=
  let ch := mget ({} : Channel) s.g.channels c
  { s with g := { s.g with channels := mset {} s.g.channels c { ch with taken := true } } }

/-- The cause a NAKed STG leaves (R185, R219): a store, imprecise. -/
def nakCause (a : Word) : Cause := ⟨8, a, 9, 0, 0, 0⟩
/-- The span-revoked cause (R46, R219). -/
def revokedCause (k : Nat) : Cause := ⟨14, w64 k, 0, 0, 0, 0⟩

/-- Whether a cause other than one of the instruction at the PC is pending: it comes before that instruction, or waits for the queue. -/
def Gang.pendingReady (g : Gang) : Bool :=
  g.bankFault || (!g.pl && (g.fpDue.isSome || g.stgNak.isSome || g.copyFault.isSome || g.revoked.isSome || g.held.isSome))

/-- A single step is due (R226): with DB = 1 the debugger stops the gang (R219), else its handler is entered. -/
def takeStep (s : State) : State :=
  let s := { s with g := { s.g with held := none } }
  if s.g.db then rotate { s with g := { s.g with phase := .svkStop, savedCause := some (stepCause, false, s.g.pc) } }
  else takeCause s stepCause false s.g.pc none

/-- A copy fault is taken (R357). -/
def takeCopy (s : State) : State :=
  match s.g.copyFault with
  | some (k, c) => takeCause (takeCopyFault s k) c true s.g.pc none
  | none => s

/-- Take the pending cause that comes first in the order of R221: B causes, then an FP trap, a single step, and the asynchronous
causes in code order. A B cause waits for the banks behind it. A single step waits for the queue, and only a B or a copy fault replaces it
then (R220, R226). At handler level asynchronous causes stay held (R224). An FP trap that is due stays so while a B cause is taken
(assumption log 71). -/
def takePending (s : State) : State :=
  match s.g.lowestBankFault with
  | some (n, c) => if s.g.bankFaultReady then takeCause s c false s.g.pc (some n) else stall s
  | none =>
    if s.g.pl then s
    else match s.g.fpDue with
      | some v => enterHandler { s with g := { s.g with fpDue := none } } ⟨10, v, 0, 0, 0, 0⟩ true s.g.pc none
      | none =>
        if s.g.held.isSome then
          (if s.g.bq.isEmpty then takeStep s else if s.g.copyFault.isSome then takeCopy s else stall s)
        else match s.g.stgNak with
          | some (_, a) => takeCause { s with g := { s.g with stgNak := none } } (nakCause a) true s.g.pc none
          | none =>
            if s.g.copyFault.isSome then takeCopy s
            else match s.g.revoked with
              | some k => takeCause { s with g := { s.g with revoked := none } } (revokedCause k) true s.g.pc none
              | none => s

/-- What a synchronous cause does at an instruction (R219, R220): it waits until every committed broadcast and tile instruction has
retired; a bank fault comes first, and while it waits a copy fault replaces it. -/
def afterWaits (s : State) (take : State → State) : State :=
  if s.g.bankFault then takePending s
  else if s.g.bq ≠ [] then (if !s.g.pl && s.g.copyFault.isSome then takeCopy s else stall s)
  else take s

/-- A synchronous cause at an instruction. -/
def trapAt (s : State) (c : Cause) (gepc : Word) : State := afterWaits s fun s => takeCause s c false gepc none

/-- A synchronous cause at the instruction at the PC. -/
def trapS (s : State) (code : Nat) (val val2 : Word) : State := trapAt s ⟨code, val, val2, 0, 0, 0⟩ s.g.pc
/-- The illegal-instruction trap with a reason (R219). -/
def trapIllegal (s : State) (i : Instr) (reason : Nat) : State := trapS s 1 (w64 (encodeWord i)) (w64 reason)

/-- An entry of a frame as it is to be performed again: the captures as they were, the bounds of R245. -/
def returnEntry (g : Gang) (words : Map Resume) (k : Nat) (e : Entry) : Entry :=
  let bounds := (List.range g.banksInSpan).filterMap fun b =>
    let w := mget ⟨false, 0, 0, 0⟩ words b
    if !w.valid || decide (k < w.pos) then some (b, doneBound)
    else
      let done := mget 0 e.bounds b
      let v := if k = w.pos then max done (if isTmma e.instr then w.next * 16 + w.step else w.next) else done
      if v = 0 then none else some (b, v)
  { e with producers := [], gate := none, handler := g.pl
           bounds := if restartsWhole e.instr then [] else bounds
           delivered := if e.skipped && toReadQueue e.instr then some 0 else none }

/-- Enter an entry of a frame again: with a fresh ISN, and a read-queue reservation where it delivers (R206, R229). -/
def reissueEntry (g : Gang) (words : Map Resume) (k : Nat) (e : Entry) : Gang :=
  { g with bq := g.bq ++ [{ returnEntry g words k e with seq := g.nextSeq }], nextSeq := g.nextSeq + 1, rq := if toReadQueue e.instr then g.rq ++ [none] else g.rq }

/-- Latest earlier entry whose destination overlaps an operand, index arrays by themselves, and whose reads overlap the destination
(R114, R231). Key 2 × code names an operand's data, 2 × code + 1 its index array. -/
def tagEntry (g : Gang) (earlier : List Entry) (e : Entry) : Entry :=
  let ops := readOperands g e
  let prod := fun (r : ReadOperand) => ((earlier.reverse.find? fun j => rangesOverlap (destRanges g j) r.ranges).map fun j => j.seq)
  { e with
    producers := ops.foldl (fun m r => match prod r with
      | some n => (let k := 2 * r.code + b2n r.index
                   mput m k (max n (mget 0 m k)))
      | none => m) []
    gate := (earlier.reverse.find? fun j => rangesOverlap (readFootprint g j) (destRanges g e)).map fun j => j.seq }

/-- Producer tags and gates of a re-issued frame, computed afresh (R245). -/
def retagAll (g : Gang) : List Entry → List Entry → List Entry
  | _, [] => []
  | earlier, e :: r => let e' := tagEntry g earlier e; e' :: retagAll g (earlier ++ [e']) r

/-- Re-issue a frame in order (R225, R229, R245). -/
def reissueFrame (s : State) (es : List Entry) (words : Map Resume) : State :=
  let g := es.zipIdx.foldl (fun g p => reissueEntry g words p.2 p.1) s.g
  { s with g := { g with bq := retagAll g [] g.bq } }

/-- Let the queue run where entries complete at once (the model's `lockstep` timing). -/
def proceed (s : State) : State := if s.lockstep then runQueue s.g.bq s else s

/-- A channel whose copy fault has been taken goes on at RESTART (R358); a fault still pending keeps it stopped. -/
def Channel.resume (c : Channel) : Channel := if c.fault.isSome && !c.taken then c else { c with stopped := false, fault := none, taken := false }

/-- The position of the entry that ERET resumes from ESTART: GQPOS.POS, if GQPOS.V = 1 (R225). -/
def Gang.gqPos (g : Gang) : Option Nat := if bit g.gqpos 7 then some (g.gqpos.toNat % 64) else none

/-- The frame as ERET leaves it for re-issue (R225, R245): mode 1 marks the entry at GQPOS complete, which delivers 0 where it would
have delivered (R206); mode 2 discards the frame. ESTART as it now stands becomes the start of that entry. -/
def eretFrame (g : Gang) (mode : Nat) : List Entry :=
  if mode = 2 then []
  else match g.gqPos with
    | none => g.frame
    | some k => g.frame.zipIdx.map fun (e, i) =>
      if i ≠ k then e
      else if mode = 1 then { e with skipped := true, staged := false }
      else { e with start := g.estart.toNat % 2 ^ 48 }

/-- Return from an exception (R225): back to gang level with the frame's remaining entries re-issued ahead of the instruction at
GEPC, the handler's read-queue values discarded (R206), stopped channels resumed (R358), and a single step armed by SS (R226). The
value of ESTART that resumed the entry at GQPOS applies to it alone (R242). -/
def eretReturn (s : State) (mode : Nat) : State :=
  let g := s.g
  let es := eretFrame g mode
  let words := g.resume
  let rq := g.rq.take g.rqAside
  let used := mode ≠ 2 && g.gqPos.isSome
  let g1 : Gang := { g with
    pl := false, fv := false, frame := [], resume := [], rq := rq, rqAside := 0, bq := [], banks := [], pulls := [], tokens := []
    pc := g.gepc
    estart := if used then 0 else g.estart
    stepping := g.ss
    channels := g.channels.map fun p => (p.1, p.2.resume)
    retired := g.retired + 1 }
  let s1 := { s with g := g1 }
  if g1.stgNak.isSome || g1.revoked.isSome || g1.copyFault.isSome then
    -- a held asynchronous cause is taken before the frame is re-issued (R224): the next stop captures the frame as it stands
    takePending { s1 with g := { g1 with bq := es.zipIdx.map fun p => returnEntry g1 words p.2 p.1 } }
  else takePending (proceed (reissueFrame (if s.lockstep then runChannels s1 else s1) es words))

end Sys2Proof.Machine
end

