-- ==== Sys2Proof/Machine/Commit.lean ====
section
/-! DEFINITION. What comes before an instruction's own effect (R141, R183), what a release waits for (R122, R129), and the commit of
broadcast and tile instructions (R101, R193, R194, R231, R238, R240, R242). -/
namespace Sys2Proof.Machine

/-- What exec answers. -/
abbrev Result := Host.Outcome State Fault Refusal

/-- The general registers an instruction names, by number: what it reads, and what it writes, since a later write must follow the
one that an outstanding load makes (R167, R183). -/
def namedRegs (i : Instr) : List Nat :=
  match i with
  | .add d a b | .sub d a b | .and d a b | .or d a b | .xor d a b | .andn d a b | .sll d a b | .srl d a b | .sra d a b
  | .rol d a b | .ror d a b | .slt d a b | .sltu d a b | .min d a b | .max d a b | .minu d a b | .maxu d a b | .mul d a b
  | .mulh d a b | .mulhu d a b | .div d a b | .divu d a b | .rem d a b | .remu d a b | .clmul d a b | .clmulh d a b
  | .fwset d a b | .fwget d a b | .ldg d a b _ _ _ | .stg d a b _ _ _ | .amo d a b _ _ _ _ _ => [d.toNat, a.toNat, b.toNat]
  | .clz d a | .ctz d a | .popc d a | .sext d a _ | .zext d a _ | .setec d a | .setecT d a | .setspan d a | .owner d a
  | .addi d a _ | .andi d a _ | .ori d a _ | .xori d a _ | .slli d a _ | .srli d a _ | .srai d a _ | .slti d a _ | .sltiu d a _
  | .lb d a _ | .lbu d a _ | .lh d a _ | .lhu d a _ | .lw d a _ | .lwu d a _ | .ld d a _
  | .sb d a _ | .sh d a _ | .sw d a _ | .sd d a _ | .jalr d a _ | .cwr d a _ | .cset d a _ | .cclr d a _ => [d.toNat, a.toNat]
  | .lih d _ | .lim d _ | .jal d _ | .crd d _ | .rqpop d | .rqstat d | .eqpop d _ | .eqstat d _ => [d.toNat]
  | .beq _ a b _ | .bne _ a b _ | .blt _ a b _ | .bge _ a b _ | .bltu _ a b _ | .bgeu _ a b _
  | .sigwait _ a b | .sigpost _ a b | .awset _ a b => [a.toNat, b.toNat]
  | .eqpush a _ | .eqpushLast a _ | .qsave a | .qload a => [a.toNat]
  | .barcfg d _ n => [d.toNat, n.toNat]
  | .copy f | .copynd f | .gather f | .scatter f => [f.d.toNat, f.a.toNat, f.b.toNat, f.opx.toNat % 32]
  | .mtload f | .mtinv f | .bload f => [f.a.toNat, f.b.toNat]
  | .mtquery f => [f.d.toNat, f.a.toNat, f.b.toNat, f.b.toNat + 1]
  | i => capturedRegs i

/-- The general registers that an instruction reads, by number. -/
def readRegs (i : Instr) : List Nat :=
  match i with
  | .add _ a b | .sub _ a b | .and _ a b | .or _ a b | .xor _ a b | .andn _ a b | .sll _ a b | .srl _ a b | .sra _ a b
  | .rol _ a b | .ror _ a b | .slt _ a b | .sltu _ a b | .min _ a b | .max _ a b | .minu _ a b | .maxu _ a b | .mul _ a b
  | .mulh _ a b | .mulhu _ a b | .div _ a b | .divu _ a b | .rem _ a b | .remu _ a b | .clmul _ a b | .clmulh _ a b
  | .fwset _ a b | .fwget _ a b | .ldg _ a b _ _ _ => [a.toNat, b.toNat]
  | .clz _ a | .ctz _ a | .popc _ a | .sext _ a _ | .zext _ a _ | .setec _ a | .setecT _ a | .setspan _ a | .owner _ a
  | .addi _ a _ | .andi _ a _ | .ori _ a _ | .xori _ a _ | .slli _ a _ | .srli _ a _ | .srai _ a _ | .slti _ a _ | .sltiu _ a _
  | .lb _ a _ | .lbu _ a _ | .lh _ a _ | .lhu _ a _ | .lw _ a _ | .lwu _ a _ | .ld _ a _
  | .jalr _ a _ | .cwr _ a _ | .cset _ a _ | .cclr _ a _ => [a.toNat]
  | .lih _ _ | .lim _ _ | .jal _ _ | .crd _ _ | .rqpop _ | .rqstat _ | .eqpop _ _ | .eqstat _ _ => []
  | .amo d a b n _ _ _ _ => if n.toNat = 9 then [d.toNat, a.toNat, b.toNat] else [a.toNat, b.toNat]
  | .barcfg _ _ n => [n.toNat]
  | .copy f | .copynd f | .gather f | .scatter f => [f.d.toNat, f.a.toNat, f.b.toNat] ++ (if f.sig = 1 then [f.opx.toNat % 32] else [])
  | .mtquery f => [f.a.toNat, f.b.toNat, f.b.toNat + 1]
  | i => namedRegs i

/-- A register that the instruction reads fails its parity check (R444). -/
def readsBad (g : Gang) (i : Instr) : Bool := g.regBad != [] && (readRegs i).any fun n => n != 0 && g.regBad.contains n

/-- The gang stops with GCAUSE 7 for a register's parity (R223, R444); no GEVAL is stated (assumption log 2). -/
def registerParity (s : State) : State :=
  let (v, s) := freeWords s 1
  failGang s ⟨7, v.headD 0, 0, 0, 0, 0⟩ false s.g.pc

/-- Whether an instruction waits for an outstanding LDG or AMO: it names its register, or the access is an acquire or an AMO to
peer memory, which holds every later instruction (R122, R183, R188). -/
def waitsForLoad (g : Gang) (i : Instr) : Bool := g.loads.any fun l => l.hold || (namedRegs i).contains l.reg.toNat

/-- An instruction in the order of R141: its encoding, its level, the holds on its registers, then its effect. -/
def userOp (i : Instr) (s : State) (k : State → State) : Result :=
  .next (if !i.wf then trapIllegal s i 0
    else if i.privileged && !s.g.pl then trapS s 2 (w64 (encodeWord i)) 0
    else if waitsForLoad s.g i then stall s
    else if readsBad s.g i then registerParity s
    else k s)

/-- A step of another agent (spec/95): it has no encoding and no level, and comes about only on a device that is ready (R437, R439). -/
def eventOp (s : State) (k : State → State) : Result := .next (if s.power = .ready then k s else s)

/-- Whether every earlier STG of the gang to peer or host memory is performed at a scope (R129, R183). Until its target has acknowledged a
write no agent sees it, so the scopes do not differ (assumption log 47). -/
def stgsPerformed (s : State) (_scope : Nat) : Bool := !s.unacked.any fun u => u.gang == s.g.id && u.origin == 0

/-- Whether every earlier access of the gang is performed at a scope, copies not counted (R122): broadcast and tile instructions retired,
loads answered, STGs performed. -/
def releaseReady (s : State) (scope : Nat) : Bool := s.g.bq.isEmpty && s.g.loads.isEmpty && stgsPerformed s scope

/-- The control values that an entry captures (R101). -/
def captureOf (g : Gang) : Capture :=
  ⟨g.ecount.toNat, g.estart.toNat, g.emask.toNat, g.ectrl, g.tcount.toNat, g.convres.toNat, g.blktab.toNat⟩

/-- A new entry of the broadcast queue with its captures (R101, R193, R229, R242). -/
def newEntry (g : Gang) (i : Instr) : Entry where
  seq := g.nextSeq
  ord := g.nextSeq
  instr := i
  regs := (capturedRegs i).foldl (fun m n => mset 0 m n (g.reg (BitVec.ofNat 5 n))) []
  cap := captureOf g
  producers := []
  gate := none
  staged := false
  handler := g.pl
  flags := {}
  start := g.estart.toNat % 2 ^ 48
  bounds := []
  written := []
  skipped := false
  delivered := none
  poison := []

/-- An instruction marked staged at commit (R238). -/
def stagedEntry (g : Gang) (i : Instr) : Entry :=
  let e := newEntry g i
  { e with staged := isStaged g e }

/-- The d header array of VSPADD or VSPMUL overlaps the a or the b header array (R285). -/
def headersOverlap (e : Entry) (f : BX) : Bool :=
  let n := 16 * e.cap.ecount
  let at_ := fun (r : Reg) => ((e.reg r).toNat, (e.reg r).toNat + n)
  rangesOverlap [at_ f.d] [at_ f.a, at_ f.b]

/-- The reason of an illegal-instruction trap at commit, if the instruction is refused there: 0 for R240, R268, R275, R283 and R285, 1
for a read queue whose 32 entries are taken (R194). -/
def commitRefusal (g : Gang) (e : Entry) : Option Nat :=
  let bad := match e.instr with
    | .vcvtf4 f => e.cap.ecount % f4Elems f != 0
    | .vreshape f =>
      let l := (e.reg f.b).toNat
      l == 0 || decide (e.cap.ecount < l) || e.cap.ecount % l != 0
    | .vconfl _ => decide (4096 < e.cap.ecount)
    | .vspadd f | .vspmul f => headersOverlap e f
    | _ => false
  if bad || (e.staged && decide (65536 < stagingBytes g e)) then some 0
  else if toReadQueue e.instr && decide (32 ≤ g.rq.length) then some 1
  else none

/-- Whether an instruction's commit advances SRSTATE (R87). -/
def advancesSr (g : Gang) (i : Instr) : Bool :=
  match i with
  | .vrunb _ => true
  | .ttagr _ | .ttagw _ => false
  | i => match bxFields i with
    | some f => roundsSr f.rnd.toNat g.ectrl
    | none => (txFields i).isSome

/-- Whether the broadcast queue cannot take an entry: its 64 entries are in use, or the budget of the queue frame is spent (R193). -/
def queueFull (g : Gang) (e : Entry) : Bool := decide (64 ≤ g.bq.length) || decide (4032 < frameBudget none (g.bq ++ [e]))

/-- The entry joins the broadcast queue: its ISN is used, its producers and gate are set (R231), ESTART returns to 0 (R242), SRSTATE
advances (R87), and a delivery reserves its read-queue entry (R194). -/
def Gang.push (g : Gang) (e : Entry) : Gang :=
  { g with
    bq := g.bq ++ [tagEntry g g.bq e]
    nextSeq := g.nextSeq + 1
    estart := 0
    ectrl := if advancesSr g e.instr then advanceSr g.ectrl else g.ectrl
    rq := if toReadQueue e.instr then g.rq ++ [none] else g.rq }

/-- The commit of a broadcast or tile instruction. -/
def commitEntry (i : Instr) (s : State) : State :=
  let e := stagedEntry s.g i
  match commitRefusal s.g e with
  | some r => trapIllegal s i r
  | none =>
    if queueFull s.g e then stall s
    else proceed { s with g := s.g.push e }.commit8

/-- A broadcast or tile instruction at the sequencer. -/
def broadcast (i : Instr) (s : State) : Result := userOp i s (commitEntry i)

end Sys2Proof.Machine
end

