-- ==== Sys2Proof/Machine/Memory.lean ====
section
/-! DEFINITION. The memory instructions of the sequencer: LB to SD (R176 to R179), LDG and STG (R180 to R185), AMO (R186 to R188). -/
namespace Sys2Proof.Machine

/-- The X bit of an entry (R106). -/
def Entry.overtakes (e : Entry) : Bool :=
  match bxFields e.instr, txFields e.instr with
  | some f, _ => f.x == 1
  | none, some f => f.x == 1
  | none, none => false

/-- Whether a scalar access to field bytes waits: an overlapping broadcast or tile instruction with X = 0 has not retired (R106), or a
copy has still to land there (R109, R355). -/
def fieldHeld (s : State) (a n : Nat) : Bool :=
  (s.g.bq.any fun e => !e.overtakes && rangesOverlap (destRanges s.g e ++ destReach s e ++ ((readOperands s.g e).flatMap fun r => r.ranges) ++ sourceReach s e) [(a, a + n)])
    || (List.range n).any fun j => match fieldAt s (a + j) false with | .ok k => byteAwaited s k | .error _ => false

/-- Whether a scalar write of field bytes waits: as a read does, and for instructions whose block code may still load any byte of the field
(R106, R114). -/
def storeHeld (s : State) (a n : Nat) : Bool := fieldHeld s a n || s.g.bq.any fun e => !e.overtakes && runsBlock s.g e

/-- The keys of n field bytes, each resolved by itself, so that a scalar access may span two granules (R57, R66). -/
def fieldKeys (s : State) (write : Bool) (a : Nat) : Nat → Option (List Nat)
  | 0 => some []
  | n + 1 => match fieldAt s a write with
    | .ok k => (fieldKeys s write (a + 1) n).map (k :: ·)
    | .error _ => none

/-- A read of these bytes meets an uncorrectable word (R179). -/
def keysBad (s : State) (ks : List Nat) : Bool := ks.any fun k => s.fieldBad.contains (k / 8)
/-- A write of these bytes covers only part of an uncorrectable word (R179, R459). -/
def keysPart (s : State) (ks : List Nat) : Bool :=
  ks.any fun k => s.fieldBad.contains (k / 8) && decide ((ks.filter fun j => j / 8 == k / 8).length < 8)
/-- The bytes at these keys. -/
def readKeys (s : State) (ks : List Nat) : List Byte := ks.map (rdByte s.field)
/-- Store bytes at these keys; the words written whole carry no error any more. -/
def writeKeys (s : State) (ks : List Nat) (bs : List Byte) : State :=
  { s with
    field := (ks.zip bs).foldl (fun m p => wrByte m p.1 p.2) s.field
    fieldBad := s.fieldBad.filter fun w => !(ks.map (· / 8)).contains w }

/-- A read or write of sequencer-local memory meets an uncorrectable word (R179). -/
def localBad (s : State) (off n : Nat) (write : Bool) : Bool := s.g.lmemBad.contains (off / 8) && !(write && n == 8)
/-- Store bytes in sequencer-local memory. -/
def writeLocal (s : State) (off : Nat) (bs : List Byte) : State :=
  { s with g := { s.g with
      lmem := wrBytes s.g.lmem off bs
      lmemBad := if bs.length = 8 then s.g.lmemBad.filter (· != off / 8) else s.g.lmemBad } }

/-- A scalar load (R177, R179). -/
def scalarLoad (i : Instr) (d a : Reg) (imm : BitVec 15) (n : Nat) (signed : Bool) (s : State) : Result :=
  userOp i s fun s =>
    let ea := s.reg a + imm15 imm
    if ea.toNat % n ≠ 0 then trapS s 3 ea 0
    else match selectTarget ea with
      | .refused => trapS s 4 ea 0
      | .seqLocal off =>
        if localBad s off n false then trapS s 7 ea 0 else (s.setReg d (extendLoad signed (rdBytes s.g.lmem off n))).commit4
      | .field x =>
        if fieldHeld s x n then stall s
        else match fieldKeys s false x n with
          | none => trapS s 4 ea 0
          | some ks => if keysBad s ks then trapS s 7 ea 0 else (s.setReg d (extendLoad signed (readKeys s ks))).commit4

/-- A scalar store (R177, R178, R179). -/
def scalarStore (i : Instr) (v a : Reg) (imm : BitVec 15) (n : Nat) (s : State) : Result :=
  userOp i s fun s =>
    let ea := s.reg a + imm15 imm
    if ea.toNat % n ≠ 0 then trapS s 3 ea 1
    else match selectTarget ea with
      | .refused => trapS s 4 ea 1
      | .seqLocal off =>
        if localBad s off n true then trapS s 7 ea 1 else (writeLocal s off (leBytes n (s.reg v).toNat)).commit4
      | .field x =>
        if storeHeld s x n then stall s
        else match fieldKeys s true x n with
          | none => trapS s 4 ea 1
          | some ks => if keysPart s ks then trapS s 7 ea 1 else (writeKeys s ks (leBytes n (s.reg v).toNat)).commit4

/-- LB (R176). -/
def execLb (d a : Reg) (i : BitVec 15) (s : State) : Result := scalarLoad (.lb d a i) d a i 1 true s
/-- LBU (R176). -/
def execLbu (d a : Reg) (i : BitVec 15) (s : State) : Result := scalarLoad (.lbu d a i) d a i 1 false s
/-- LH (R176). -/
def execLh (d a : Reg) (i : BitVec 15) (s : State) : Result := scalarLoad (.lh d a i) d a i 2 true s
/-- LHU (R176). -/
def execLhu (d a : Reg) (i : BitVec 15) (s : State) : Result := scalarLoad (.lhu d a i) d a i 2 false s
/-- LW (R176). -/
def execLw (d a : Reg) (i : BitVec 15) (s : State) : Result := scalarLoad (.lw d a i) d a i 4 true s
/-- LWU (R176). -/
def execLwu (d a : Reg) (i : BitVec 15) (s : State) : Result := scalarLoad (.lwu d a i) d a i 4 false s
/-- LD (R176). -/
def execLd (d a : Reg) (i : BitVec 15) (s : State) : Result := scalarLoad (.ld d a i) d a i 8 false s
/-- SB (R176). -/
def execSb (d a : Reg) (i : BitVec 15) (s : State) : Result := scalarStore (.sb d a i) d a i 1 s
/-- SH (R176). -/
def execSh (d a : Reg) (i : BitVec 15) (s : State) : Result := scalarStore (.sh d a i) d a i 2 s
/-- SW (R176). -/
def execSw (d a : Reg) (i : BitVec 15) (s : State) : Result := scalarStore (.sw d a i) d a i 4 s
/-- SD (R176). -/
def execSd (d a : Reg) (i : BitVec 15) (s : State) : Result := scalarStore (.sd d a i) d a i 8 s

/-- What stops a G-space access of the sequencer: a precise trap with its GCAUSE and GEVAL2, or a page that migrates (R184, R360). -/
inductive GStop where
  | trap (code val2 : Nat)
  | hold
  deriving DecidableEq, Repr

/-- The physical address of a G-space access of the sequencer, with the checks of R181 and R184 in their order; `code` is the access
code of R179. -/
def globalPa (s : State) (ea : Word) (size : Nat) (acc : Access) (code : Nat) : Except GStop Nat :=
  if 2 ^ 48 ≤ ea.toNat then .error (.trap 8 code)
  else if ea.toNat % size ≠ 0 then .error (.trap 3 code)
  else match translateFull s s.g.lead s.g.pasid ea.toNat acc with
    | .ok pa _ => .ok pa
    | .notPresent => .error (.trap 8 (code + 4))
    | .permission => .error (.trap 8 code)
    | .shape => .error (.trap 8 code)
    | .migrating => .error .hold

/-- A precise trap at an access whose address has been translated: its walk counts at the stacks, and the hub keeps what it found
(R361, R377). -/
def trapG (s : State) (ea : Word) (code val2 : Nat) : State :=
  afterWaits s fun s => takeCause (useG s ea.toNat) ⟨code, ea, w64 val2, 0, 0, 0⟩ false s.g.pc none

/-- A precise trap at an access of n bytes at physical address pa that met an uncorrectable error: what the access leaves at the stacks
stays (R380, R385, R389). -/
def trapLost (s : State) (ea : Word) (val2 pa n : Nat) (write : Bool) : State :=
  afterWaits s fun s => takeCause (physTouch (useG s ea.toNat) pa n write) ⟨7, ea, w64 val2, 0, 0, 0⟩ false s.g.pc none

/-- The machine after a G-space access that was stopped. -/
def globalStop (s : State) (ea : Word) : GStop → State
  | .trap 8 v => trapG s ea 8 v
  | .trap c v => trapS s c ea (w64 v)
  | .hold => stall s

/-- What a G-space access leaves besides its data: the hub's fill, its page's hotness record and, of an LDG or STG, the walk registers'
positions (R361, R362, R366). -/
def atomicTouch (s : State) (ea : Nat) : State := heat (useG s ea) s.g.lead s.g.pasid ea .uni
def globalTouch (s : State) (ea : Nat) : State := touchWalks (atomicTouch s ea) ea

/-- The value of an LDG or AMO reaches its register: at once, or with a LOAD_RESPONSE (R183, R188). -/
def answerLoad (s : State) (d : Reg) (v : Word) (hold : Bool) : State :=
  if s.lockstep then s.setReg d v else { s with g := { s.g with loads := s.g.loads ++ [⟨d, v, hold⟩] } }

/-- A load or atomic operation that a peer or the host answers with a NAK (R184). -/
def targetRefuses (s : State) (pa : Nat) : Bool := region pa != 0 && Config.refusesLoad s.g.id s.g.retired pa

/-- LDG (R180 to R184). An acquire waits for the gang's earlier STGs (R183). -/
def execLdg (d a b : Reg) (z : BitVec 3) (o c : BitVec 2) (s : State) : Result :=
  userOp (.ldg d a b z o c) s fun s =>
    let ea := s.reg a + s.reg b
    let n := 2 ^ (z.toNat % 4)
    match globalPa s ea n .read 0 with
    | .error e => globalStop s ea e
    | .ok pa =>
      if pendingWrite s pa n || (o == 1 && !stgsPerformed s c.toNat) then stall s
      else if targetRefuses s pa then trapG s ea 8 0
      else match physRead (globalTouch s ea.toNat) pa n with
        | (_, none) => trapLost s ea 0 pa n false
        | (s, some bs) => (answerLoad s d (extendLoad (z.toNat < 4) bs) (o == 1)).commit4

/-- Store bytes at a physical address of local HBM, or send them to peer or host memory, where they are performed when the target
acknowledges them (R129, R185); a write through a peer window carries its generation (R132). -/
def sendWrite (s : State) (origin va pa : Nat) (bs : List Byte) : State :=
  if region pa = 0 then physWrite s pa bs
  else { s with unacked := s.unacked ++ [⟨s.g.id, origin, s.g.retired, va, pa, bs, sendGen s pa, false⟩] }

/-- STG (R180 to R185). -/
def execStg (d a b : Reg) (z : BitVec 3) (o c : BitVec 2) (s : State) : Result :=
  userOp (.stg d a b z o c) s fun s =>
    let ea := s.reg a + s.reg b
    let n := 2 ^ z.toNat
    match globalPa s ea n .write 1 with
    | .error e => globalStop s ea e
    | .ok pa =>
      if o == 2 && !releaseReady s c.toNat then stall s
      else if storeLost s pa n then trapLost s ea 1 pa n true
      else (sendWrite (globalTouch s ea.toNat) 0 ea.toNat pa (leBytes n (s.reg d).toNat)).commit4

/-- The new value of an atomic operation on n bytes; none where a CAS fails (R186, R187). -/
def amoNew (op n old y c : Nat) : Option Nat :=
  let w := 8 * n
  match op with
  | 0 => some y
  | 1 => some ((old + y) % 2 ^ w)
  | 2 => some (Nat.land old y)
  | 3 => some (Nat.lor old y)
  | 4 => some (Nat.xor old y)
  | 5 => some (if signedNat y w < signedNat old w then y else old)
  | 6 => some (if signedNat old w < signedNat y w then y else old)
  | 7 => some (if y < old then y else old)
  | 8 => some (if old < y then y else old)
  | _ => if old = c then some y else none

/-- An AMO at physical bytes, one read and its write together (R187, R371): the machine after it, and the old bytes. -/
def amoHome (s : State) (pa op n y c : Nat) : State × Option (List Byte) :=
  match physPeek s pa n with
  | none => (physTouch s pa n, none)
  | some bs => match amoNew op n (leNat bs) y c with
    | some v => (physStore (physTouch s pa n true) pa (leBytes n v), some bs)
    | none => (physTouch s pa n, some bs)

/-- Whether n bytes from an F-address lie in more than one granule (R66, R188). -/
def crossesGranule (g : Gang) (a n : Nat) : Bool :=
  match findUp (fun w => (g.window w).holds a) 0 64 with
  | none => false
  | some w =>
    let d := g.window w
    (a - d.base) / 2 ^ d.gran != (a + n - 1 - d.base) / 2 ^ d.gran

/-- AMO on sequencer-local memory or F-space (R187, R188). -/
def amoNear (s : State) (d : Reg) (op n y c : Nat) (m : Word) : State :=
  match selectTarget m with
  | .refused => trapS s 4 m 2
  | .seqLocal off =>
    if localBad s off n false then trapS s 7 m 2
    else
      let old := rdNat s.g.lmem off n
      let s := match amoNew op n old y c with
        | some v => writeLocal s off (leBytes n v)
        | none => s
      (s.setReg d (sextNat old (8 * n))).commit4
  | .field x =>
    if storeHeld s x n then stall s
    else if crossesGranule s.g x n then trapS s 3 m 2
    else match fieldKeys s true x n with
      | none => trapS s 4 m 2
      | some ks =>
        if keysBad s ks then trapS s 7 m 2
        else
          let old := leNat (readKeys s ks)
          let s := match amoNew op n old y c with
            | some v => writeKeys s ks (leBytes n v)
            | none => s
          (s.setReg d (sextNat old (8 * n))).commit4

/-- Whether an AMO on peer memory must wait for an earlier STG of the gang through the same window, which delivers in order (R130). -/
def behindStg (s : State) (pa : Nat) : Bool :=
  rodWindow s pa && s.unacked.any fun u => u.gang == s.g.id && u.origin == 0 && region u.pa == 1 && peerWindow u.pa == peerWindow pa

/-- AMO on local HBM or peer memory, performed there at once (R187, R188). Device registers are never a target, whatever the page's
leaf says. -/
def amoFar (s : State) (d : Reg) (op n y c : Nat) (acq : Bool) (m : Word) : State :=
  match globalPa s m n .write 2 with
  | .error (.trap 8 v) => trapG s m 8 (if v = 6 ∧ mapsDevice s s.g.pasid m.toNat then 2 else v)
  | .error e => globalStop s m e
  | .ok pa =>
    if 2 ≤ region pa then trapG s m 8 2
    else if pendingWrite s pa n || behindStg s pa then stall s
    else if targetRefuses s pa then trapG s m 8 2
    else match amoHome (atomicTouch s m.toNat) pa op n y c with
      | (_, none) => trapLost s m 2 pa n false
      | (s, some bs) => (answerLoad s d (sextNat (leNat bs) (8 * n)) (acq || region pa == 1)).commit4

/-- AMO (R186 to R188): the operand and the comparand are read before the result is written. -/
def execAmo (d a b : Reg) (n : BitVec 4) (z : BitVec 1) (o c : BitVec 2) (g : BitVec 1) (s : State) : Result :=
  userOp (.amo d a b n z o c g) s fun s =>
    let m := s.reg a
    let size := if z = 0 then 4 else 8
    let y := (s.reg b).toNat % 2 ^ (8 * size)
    let cmp := (s.reg d).toNat % 2 ^ (8 * size)
    if g = 0 ∧ m.toNat % size ≠ 0 then trapS s 3 m 2
    else if ((o == 2 || o == 3) && !releaseReady s c.toNat) || (o == 1 && !stgsPerformed s c.toNat) then stall s
    else if g = 0 then amoNear s d n.toNat size y cmp m
    else amoFar s d n.toNat size y cmp (o == 1 || o == 3) m

/-- LOAD_RESPONSE (R183, R188): the oldest outstanding response for the register arrives. -/
def loadResponse (s : State) (d : Reg) : State :=
  match s.g.loads.find? fun l => l.reg == d with
  | none => s
  | some l => { s with g := { s.g.setReg d l.value with loads := s.g.loads.erase l } }

end Sys2Proof.Machine
end

