-- ==== Sys2Proof/Machine/BaseDie.lean ====
section
/-! DEFINITION. The parity homes, lost stacks, contraction, row remapping, the physical allocation table and pseudo-channel power
(R369 to R390). -/
namespace Sys2Proof.Machine

/-- PARST (R379). -/
def Parity.word (q : Parity) : Word := w64 (q.state + q.lost * 16 + q.lost2 * 256 + q.errlim * 2 ^ 16)
/-- STKSTAT (R378). -/
def StackStat.word (x : StackStat) : Word := w64 (b2n x.lost + x.why * 4 + x.errc * 256 + x.recon * 2 ^ 32)

/-- The frame that every change of the parity state sends (R379, R432), stamped by die 0 (assumption log 68). -/
def parityFrame (s : State) (k : Nat) : State := sendFrame s 4 0 [s.parity.word, (mget ({} : StackStat) s.hbmStat k).word]

/-- Add the listed words to those in error. -/
def addWords (bad ws : List Nat) : List Nat := ws.eraseDups.foldl (fun m w => if m.contains w then m else m ++ [w]) bad

/-- The words of an access, in its data or in its parity, meet an error that ECC and SECDED cannot correct; a lost stack is not read
(R374, R375). -/
def meetError (s : State) (x : HomeAccess) : State :=
  let ps := (List.range x.size).map (x.pa + ·)
  let p := placeOf s.parity x.pa
  { s with
    memBad := if x.eccError && !stackLost s p.dstack then addWords s.memBad (ps.map (· / 8)) else s.memBad
    parityBad := if x.parityError && !stackLost s p.pstack then addWords s.parityBad (ps.map (parityWord s.parity)) else s.parityBad }

/-- One read, write or AMO of local HBM at its parity home (R371 to R377, R380): the machine after it, and the data it returns. -/
def homeAccess (s : State) (kind : HomeKind) (pa size : Nat) (val cmp : Word) : State × Option Word :=
  match kind with
  | .read => match physRead s pa size with
    | (s, some bs) => (s, some (w64 (leNat bs)))
    | (s, none) => (s, none)
  | .write => if storeLost s pa size then (physTouch s pa size true, none) else (physWrite s pa (leBytes size val.toNat), some 0)
  | .amo op =>
    let (s, bs) := amoHome s pa op.toNat size (val.toNat % 2 ^ (8 * size)) (cmp.toNat % 2 ^ (8 * size))
    (s, bs.map fun bs => w64 (leNat bs))

/-- An access of 1, 2, 4 or 8 bytes, aligned (R66). -/
def accessShape (size a : Nat) : Bool := [1, 2, 4, 8].contains size && a % size == 0

/-- An access of 1, 2, 4 or 8 bytes, aligned, within the bytes of local HBM (R66, R72). -/
def homeShape (s : State) (pa size : Nat) : Bool :=
  accessShape size pa && region pa == 0 && decide (pa + size ≤ hbmLimit s.parity)

/-- PARITY_HOME_ACCESS (R371). -/
def parityHomeAccess (x : HomeAccess) (s : State) : State :=
  if !homeShape s x.pa x.size then s
  else
    let s := meetError s x
    let (s, r) := homeAccess s x.kind x.pa x.size x.val x.cmp
    { s with homeData := r }

/-- PARST after a stack is lost (R379). -/
def parityLoss (q : Parity) (k : Nat) : Parity :=
  match q.state with
  | 0 => { q with state := 1, lost := k }
  | 1 | 2 => { q with state := 5, lost2 := k }
  | 3 => { q with state := 4, lost2 := k }
  | 4 => { q with state := 5 }
  | _ => q

/-- STACK_LOST (R375, R378 to R380): a stack that is lost already stays so. -/
def loseStack (k why : Nat) (s : State) : State :=
  let x := mget ({} : StackStat) s.hbmStat k
  if 12 ≤ k ∨ x.lost then s
  else
    let q := parityLoss s.parity k
    let s' := { s with hbmStat := mset {} s.hbmStat k { x with lost := true, why := why % 4 }, parity := q }
    if q.state = s.parity.state then s' else parityFrame s' k

/-- The leaves of a level-2 and level-3 table: physical address and page size (R360). -/
def leaves2 (s : State) (t : Nat) : List (Nat × Nat) :=
  (List.range 2048).flatMap fun i =>
    let e := (tableEntry s (t + 8 * i)).getD 0
    if !entryOk e then []
    else if e / 2 % 2 = 1 then [(entryPa e, 2 ^ 25)]
    else (List.range 512).filterMap fun j =>
      let f := (tableEntry s (entryPa e + 8 * j)).getD 0
      if entryOk f && f / 2 % 2 == 1 then some (entryPa f, 2 ^ 16) else none

/-- Every page that is mapped to local HBM, with its PASID (R360, R381). -/
def mappedPages (s : State) : List (Nat × Nat × Nat) :=
  s.roots.flatMap fun r =>
    ((List.range 4096).flatMap fun i =>
      let e := (tableEntry s (r.2 + 8 * i)).getD 0
      if entryOk e && e / 2 % 2 == 0 then leaves2 s (entryPa e) else []).filterMap fun p =>
        if region p.1 = 0 then some (r.1, p) else none

/-- The neighbour rule of R388 over a table's groups. -/
def neighboursOk (t : Map (BitVec 16)) : Bool :=
  (List.range 24575).all fun g => domainIn t g == domainIn t (g + 1) || domainIn t g == 0xFFF || domainIn t (g + 1) == 0xFFF

/-- The second table is what R387 asks for: each 20 MiB range has the domain of the pages in it, or 0xFFF. -/
def secondTableOk (s : State) (pages : List (Nat × Nat × Nat)) : Bool :=
  neighboursOk s.domains2 && (List.range 24552).all fun g =>
    let lo := g * 20 * 2 ^ 20
    let here := pages.filter fun p => decide (p.2.1 < lo + 20 * 2 ^ 20) && decide (lo < p.2.1 + p.2.2)
    match here with
    | [] => domainIn s.domains2 g == 0xFFF
    | ps => ps.all fun p => domainIn s.domains2 g == mget 0 s.pasidDomain p.1

/-- CONTRACTION_START (R379, R381, R387): refused, with nothing changed, where a condition is not met. -/
def contractionStart (s : State) : State :=
  let pages := mappedPages s
  if s.parity.state = 1 ∧ (pages.all fun p => decide (p.2.1 + p.2.2 ≤ contractLimit)) ∧ secondTableOk s pages then
    parityFrame { s with parity := { s.parity with state := 2, boundary := end10 } } s.parity.lost
  else s

/-- The units at their old places that a move of the stripe below BOUNDARY reads (R383): its own, or the old places of the tags that
belong there. -/
def moveReads (b : Nat) : List Nat :=
  (List.range 10).filterMap fun j =>
    let u := b - 5120 + 512 * j
    if contractLimit ≤ u then
      (if (u - contractLimit) / 8 < contractLimit / 8192 then some (u - contractLimit + tagBase11) else none)
    else some u

/-- Words with errors after a move: those of tags lie at the tags' new places, over what lay there (R383). A unit that can be neither
read nor rebuilt moves as it is (assumption log 73). -/
def movedErrors (b : Nat) (bad : List Nat) : List Nat :=
  (bad.filter fun w => !(decide (contractLimit ≤ w * 8) && decide (b - 5120 ≤ w * 8) && decide (w * 8 < b))).map fun w =>
    let new := w * 8 - tagBase11 + contractLimit
    if tagBase11 ≤ w * 8 ∧ b - 5120 ≤ new ∧ new < b then new / 8 else w

/-- BOUNDARY has reached 0 (R379, R387): the second table is in force, and what lay at or above the limit is gone. -/
def contractionComplete (s : State) : State :=
  parityFrame { s with
    parity := { s.parity with state := 3, boundary := 0, tenPlusOne := true }
    domains := s.domains2
    domains2 := []
    mem := mclear s.mem contractLimit (2 ^ 50)
    memBad := s.memBad.filter fun w => decide (w * 8 < end10)
    parityBad := s.parityBad.filter fun w => decide (2 ^ 40 ≤ w)
    hbmTags := mclear s.hbmTags (contractLimit / 8192) (2 ^ 37) } s.parity.lost

/-- CONTRACTION_STRIPE_MOVE (R383): reads of the lost stack count as reconstructions (R377), and the channels that the move reads and
writes wake (R389, R390). -/
def contractionStripeMove (s : State) : State :=
  if s.parity.state ≠ 2 ∨ s.parity.boundary = 0 then s
  else
    let b := s.parity.boundary
    let s := (moveReads b).foldl (fun s u => physTouch s u 512) s
    let q := { s.parity with boundary := b - 5120 }
    let s := { s with
      memBad := movedErrors b s.memBad
      channelPower := awake s ((List.range 12).filter fun k => !stackLost s k) (place10 q.lost (b - 5120)).pc }
    let s := ((List.range 12).filter fun k => !stackLost s k).foldl remapLookup s
    if b ≤ 5120 then contractionComplete s else { s with parity := q }

/-- ROW_REMAP_UPDATE (R385): the mirror, then the primary copy; a damaged copy of the table is served from the other and rewritten. -/
def rowRemapUpdate (k row spare : Nat) (s : State) : State :=
  if 12 ≤ k ∨ stackLost s k then s
  else
    let key := row * 12 + k
    let s := if (mirrorOf s k).isSome then { s with remapMirror := mset 0 s.remapMirror key spare } else s
    remapLookup { s with remap := mset 0 s.remap key spare } k

/-- Bytes of a row group in one of the two tables. -/
def groupSize (second : Bool) (s : State) : Nat := if second || s.parity.tenPlusOne then 20 * 2 ^ 20 else 22 * 2 ^ 20

/-- The addresses, from and to, over which a table is in force (R387): while contraction runs the second from BOUNDARY on and the first
below it. -/
def tableSpan (second : Bool) (s : State) : Nat × Nat :=
  let b := s.parity.boundary
  if s.parity.tenPlusOne ∨ b = 0 then (if second then (0, 0) else (0, 2 ^ 50)) else if second then (b, 2 ^ 50) else (0, b)

/-- A hub holds a translation into a row group of a table in force (R388). -/
def hubHoldsGroup (s : State) (second : Bool) (g : Nat) : Bool :=
  let size := groupSize second s
  let (lo, hi) := tableSpan second s
  s.hubs.any fun h => h.2.any fun f =>
    let pa := entryPa f.leaf.toNat
    region pa == 0 && decide (max pa (max lo (g * size)) < min (pa + f.size) (min hi ((g + 1) * size)))

/-- Whether the hardware admits a change of one entry of a table (R381, R388). The second table is prepared freely until contraction
starts, which checks it (R387); from then on it is in force. -/
def allocationOk (s : State) (second : Bool) (g d : Nat) : Bool :=
  let t := if second then s.domains2 else s.domains
  let near := fun (h : Nat) => domainIn t h == d || domainIn t h == 0xFFF || d == 0xFFF
  let contracting := s.parity.boundary != 0
  let limited := (s.parity.tenPlusOne || contracting) && decide (contractLimit < (g + 1) * groupSize second s) && d != 0xFFF
  decide (g < 24552) && !limited
    && ((second && !contracting) || (near (g + 1) && (g == 0 || near (g - 1)) && (domainIn t g == d || !hubHoldsGroup s second g)))

/-- ALLOCATION_TABLE_UPDATE (R386 to R388): refused where a rule forbids it. The second table is checked when contraction starts
(R387). -/
def allocationTableUpdate (second : Bool) (g d : Nat) (s : State) : State :=
  let d := d % 4096
  if !allocationOk s second g d then s
  else if second then { s with domains2 := mset 0xFFF s.domains2 g (BitVec.ofNat 16 d) }
  else { s with domains := mset 0xFFF s.domains g (BitVec.ofNat 16 d) }

/-- PCPWR (R389); its reset value by field. -/
def pcpwrReset : Word := w64 (64 + 1000 * 2 ^ 16 + 30 * 2 ^ 32 + 40 * 2 ^ 40)
def pcpwrOf (s : State) (k : Nat) : Word := mget pcpwrReset s.pcpwr k

/-- A pseudo-channel that has idled enters a low-power state: 1 power-down, 2 self-refresh; its time 0 disables it (R389). -/
def channelIdle (field level k pc : Nat) (s : State) : State :=
  if 12 ≤ k ∨ 64 ≤ pc ∨ stackLost s k ∨ bitsOf (pcpwrOf s k).toNat field 16 = 0 then s
  else { s with channelPower := mset 0 s.channelPower (k * 64 + pc) (max level (mget 0 s.channelPower (k * 64 + pc))) }

/-- A step of another agent. -/
def execParityHomeAccess (x : HomeAccess) (s : State) : Result := eventOp s (parityHomeAccess x)
/-- STACK_LOST. -/
def execStackLost (k : Nat) (why : BitVec 2) (s : State) : Result := eventOp s (loseStack k why.toNat)
/-- CONTRACTION_START. -/
def execContractionStart (s : State) : Result := eventOp s contractionStart
/-- CONTRACTION_STRIPE_MOVE. -/
def execContractionStripeMove (s : State) : Result := eventOp s contractionStripeMove
/-- ROW_REMAP_UPDATE. -/
def execRowRemapUpdate (k row spare : Nat) (s : State) : Result := eventOp s (rowRemapUpdate k row spare)
/-- ALLOCATION_TABLE_UPDATE. -/
def execAllocationTableUpdate (second : Bool) (g : Nat) (d : BitVec 16) (s : State) : Result := eventOp s (allocationTableUpdate second g d.toNat)
/-- POWER_DOWN_ENTRY (R389). -/
def execPowerDownEntry (k pc : Nat) (s : State) : Result := eventOp s (channelIdle 0 1 k pc)
/-- SELF_REFRESH_ENTRY (R389). -/
def execSelfRefreshEntry (k pc : Nat) (s : State) : Result := eventOp s (channelIdle 16 2 k pc)

end Sys2Proof.Machine
end

