-- ==== Sys2Proof/Machine/Branch.lean ====
section
/-! DEFINITION. The conditional branches and the jumps (R189 to R192). A target that cannot be fetched faults at the fetch, after the
jump has completed (R192). -/
namespace Sys2Proof.Machine

/-- A conditional branch: the target is counted from the branch itself (R189). -/
def branch (i : Instr) (a b : Reg) (l : BitVec 5) (h : BitVec 10) (taken : Word → Word → Bool) (s : State) : Result :=
  userOp i s fun s => if taken (s.reg a) (s.reg b) then s.commitAt (s.g.pc + branchOffset l h) else s.commit4

/-- BEQ: taken when equal (R189). -/
def execBeq (l : BitVec 5) (a b : Reg) (h : BitVec 10) (s : State) : Result := branch (.beq l a b h) a b l h (fun x y => x == y) s
/-- BNE: taken when not equal (R189). -/
def execBne (l : BitVec 5) (a b : Reg) (h : BitVec 10) (s : State) : Result := branch (.bne l a b h) a b l h (fun x y => x != y) s
/-- BLT: taken when signed less (R189). -/
def execBlt (l : BitVec 5) (a b : Reg) (h : BitVec 10) (s : State) : Result := branch (.blt l a b h) a b l h (fun x y => x.slt y) s
/-- BGE: taken when signed not less (R189). -/
def execBge (l : BitVec 5) (a b : Reg) (h : BitVec 10) (s : State) : Result := branch (.bge l a b h) a b l h (fun x y => !x.slt y) s
/-- BLTU: taken when unsigned less (R189). -/
def execBltu (l : BitVec 5) (a b : Reg) (h : BitVec 10) (s : State) : Result := branch (.bltu l a b h) a b l h (fun x y => x.ult y) s
/-- BGEU: taken when unsigned not less (R189). -/
def execBgeu (l : BitVec 5) (a b : Reg) (h : BitVec 10) (s : State) : Result := branch (.bgeu l a b h) a b l h (fun x y => !x.ult y) s
/-- JAL: the link register takes PC + 4 (R190). -/
def execJal (d : Reg) (o : BitVec 20) (s : State) : Result :=
  userOp (.jal d o) s fun s => (s.setReg d (s.g.pc + 4)).commitAt (s.g.pc + jumpOffset o)
/-- JALR: s[a] is read before s[d] is written, and a target that is not 4-aligned traps with s[d] unchanged, as a fetch does
(R140, R191). -/
def execJalr (d a : Reg) (i : BitVec 15) (s : State) : Result :=
  userOp (.jalr d a i) s fun s =>
    let t := s.reg a + imm15 i
    if t.toNat % 4 ≠ 0 then trapS s 3 t 3 else (s.setReg d (s.g.pc + 4)).commitAt t

end Sys2Proof.Machine
end

