-- ==== Sys2Proof/Machine/Broadcast.lean ====
section
/-! DEFINITION. The broadcast element instructions. Each is committed to the broadcast queue (R193, R229); its element operation is in Element,
Reduce and Block, chosen by the instruction that the entry holds. (R248 to R297) -/
namespace Sys2Proof.Machine

/-- VADD: Broadcast element add d[i] := a[i] + b[i] (R255). -/
def execVadd (f : BX) (s : State) : Result := broadcast (.vadd f) s
/-- VSUB: Broadcast element subtract (R255). -/
def execVsub (f : BX) (s : State) : Result := broadcast (.vsub f) s
/-- VMUL: Broadcast element multiply (R255). -/
def execVmul (f : BX) (s : State) : Result := broadcast (.vmul f) s
/-- VFMA: Broadcast fused multiply-add a × b + c (R255). -/
def execVfma (f : BX) (s : State) : Result := broadcast (.vfma f) s
/-- VFMS: Broadcast fused multiply-subtract a × b − c (R255). -/
def execVfms (f : BX) (s : State) : Result := broadcast (.vfms f) s
/-- VFNMA: Broadcast fused −(a × b) + c (R255). -/
def execVfnma (f : BX) (s : State) : Result := broadcast (.vfnma f) s
/-- VDIV: Broadcast element divide, with integer division by R257 (R255). -/
def execVdiv (f : BX) (s : State) : Result := broadcast (.vdiv f) s
/-- VSQRT: Broadcast element square root (R255). -/
def execVsqrt (f : BX) (s : State) : Result := broadcast (.vsqrt f) s
/-- VMIN: Broadcast element minimum (R256). -/
def execVmin (f : BX) (s : State) : Result := broadcast (.vmin f) s
/-- VMAX: Broadcast element maximum (R256). -/
def execVmax (f : BX) (s : State) : Result := broadcast (.vmax f) s
/-- VABS: Broadcast element absolute value (R255). -/
def execVabs (f : BX) (s : State) : Result := broadcast (.vabs f) s
/-- VNEG: Broadcast element negation (R255). -/
def execVneg (f : BX) (s : State) : Result := broadcast (.vneg f) s
/-- VCPYS: Broadcast copy of the magnitude of a with the sign of b (R255). -/
def execVcpys (f : BX) (s : State) : Result := broadcast (.vcpys f) s
/-- VFUN: Broadcast correctly rounded transcendental function chosen by FN (R260). -/
def execVfun (f : BX) (s : State) : Result := broadcast (.vfun f) s
/-- VMULH: Broadcast high half of the integer product (R255). -/
def execVmulh (f : BX) (s : State) : Result := broadcast (.vmulh f) s
/-- VAVG: Broadcast rounded half-sum of a and b (R255). -/
def execVavg (f : BX) (s : State) : Result := broadcast (.vavg f) s
/-- VCLASS: Broadcast floating-point class bits into U16 or U32 elements (R259). -/
def execVclass (f : BX) (s : State) : Result := broadcast (.vclass f) s
/-- VAND: Broadcast bitwise AND (R261). -/
def execVand (f : BX) (s : State) : Result := broadcast (.vand f) s
/-- VOR: Broadcast bitwise OR (R261). -/
def execVor (f : BX) (s : State) : Result := broadcast (.vor f) s
/-- VXOR: Broadcast bitwise XOR (R261). -/
def execVxor (f : BX) (s : State) : Result := broadcast (.vxor f) s
/-- VSLL: Broadcast shift left (R261). -/
def execVsll (f : BX) (s : State) : Result := broadcast (.vsll f) s
/-- VSRL: Broadcast logical shift right (R261). -/
def execVsrl (f : BX) (s : State) : Result := broadcast (.vsrl f) s
/-- VSRA: Broadcast arithmetic shift right (R261). -/
def execVsra (f : BX) (s : State) : Result := broadcast (.vsra f) s
/-- VCLMUL: Broadcast low half of the carry-less product (R261). -/
def execVclmul (f : BX) (s : State) : Result := broadcast (.vclmul f) s
/-- VCLMULH: Broadcast high half of the carry-less product (R261). -/
def execVclmulh (f : BX) (s : State) : Result := broadcast (.vclmulh f) s
/-- VPOPC: Broadcast population count (R261). -/
def execVpopc (f : BX) (s : State) : Result := broadcast (.vpopc f) s
/-- VCLZ: Broadcast count of leading zeros (R261). -/
def execVclz (f : BX) (s : State) : Result := broadcast (.vclz f) s
/-- VCMP: Broadcast comparison writing one mask bit per element (R262). -/
def execVcmp (f : BX) (s : State) : Result := broadcast (.vcmp f) s
/-- VSELM: Broadcast select of a or b by mask bit (R264). -/
def execVselm (f : BX) (s : State) : Result := broadcast (.vselm f) s
/-- VCVTN: Broadcast narrowing conversion between a pair of R94 (R265). -/
def execVcvtn (f : BX) (s : State) : Result := broadcast (.vcvtn f) s
/-- VCVTW: Broadcast exact widening conversion between a pair of R94 (R265). -/
def execVcvtw (f : BX) (s : State) : Result := broadcast (.vcvtw f) s
/-- VCVTI: Broadcast conversion between integer and other formats (R266). -/
def execVcvti (f : BX) (s : State) : Result := broadcast (.vcvti f) s
/-- VCVTF4: Fused conversion of an F32 array into SF4 tiles with chosen block and band scales (R269). -/
def execVcvtf4 (f : BX) (s : State) : Result := broadcast (.vcvtf4 f) s
/-- VMOV: Broadcast element move (R274). -/
def execVmov (f : BX) (s : State) : Result := broadcast (.vmov f) s
/-- VIOTA: Broadcast write of splat value plus element index (R274). -/
def execViota (f : BX) (s : State) : Result := broadcast (.viota f) s
/-- VREV: Broadcast reversal of element order (R274). -/
def execVrev (f : BX) (s : State) : Result := broadcast (.vrev f) s
/-- VRESHAPE: Transpose of R rows of L elements, performed by the reshape unit (R275). -/
def execVreshape (f : BX) (s : State) : Result := broadcast (.vreshape f) s
/-- VCOMPRESS: Packs the active source elements to the front of the destination (R276). -/
def execVcompress (f : BX) (s : State) : Result := broadcast (.vcompress f) s
/-- VEXPAND: Spreads consecutive source elements to the active destination positions (R276). -/
def execVexpand (f : BX) (s : State) : Result := broadcast (.vexpand f) s
/-- VREDSUM: Pairwise-tree sum of the active elements to the read queue or memory (R277). -/
def execVredsum (f : BX) (s : State) : Result := broadcast (.vredsum f) s
/-- VREDMAX: Maximum of the active elements (R277). -/
def execVredmax (f : BX) (s : State) : Result := broadcast (.vredmax f) s
/-- VREDMIN: Minimum of the active elements (R277). -/
def execVredmin (f : BX) (s : State) : Result := broadcast (.vredmin f) s
/-- VREDBIT: Bitwise AND, OR or XOR reduction of the active elements (R277). -/
def execVredbit (f : BX) (s : State) : Result := broadcast (.vredbit f) s
/-- VSCAN: Inclusive or exclusive prefix add, max or min (R280). -/
def execVscan (f : BX) (s : State) : Result := broadcast (.vscan f) s
/-- VFIRST: Index of the first active nonzero element (R277). -/
def execVfirst (f : BX) (s : State) : Result := broadcast (.vfirst f) s
/-- VCOUNT: Count of the active nonzero elements (R277). -/
def execVcount (f : BX) (s : State) : Result := broadcast (.vcount f) s
/-- VSCATADD: Indexed scatter combining contributions by tree sum into one update per target (R282). -/
def execVscatadd (f : BX) (s : State) : Result := broadcast (.vscatadd f) s
/-- VSCATMAX: Indexed scatter of the maximum into each target (R282). -/
def execVscatmax (f : BX) (s : State) : Result := broadcast (.vscatmax f) s
/-- VSCATMIN: Indexed scatter of the minimum into each target (R282). -/
def execVscatmin (f : BX) (s : State) : Result := broadcast (.vscatmin f) s
/-- VCONFL: For each element, counts the earlier active elements with an equal value (R283). -/
def execVconfl (f : BX) (s : State) : Result := broadcast (.vconfl f) s
/-- VSPADD: Union-add of sparse coordinate lists, per header (R286). -/
def execVspadd (f : BX) (s : State) : Result := broadcast (.vspadd f) s
/-- VSPMUL: Intersection-multiply of sparse coordinate lists, per header (R286). -/
def execVspmul (f : BX) (s : State) : Result := broadcast (.vspmul f) s
/-- VRUNB: Runs block a[i] on the block runner of the owner of each active destination element (R290). -/
def execVrunb (f : BX) (s : State) : Result := broadcast (.vrunb f) s

end Sys2Proof.Machine
end

