-- ==== Sys2Proof/Machine/Control.lean ====
section
/-! DEFINITION. Control registers through CRX (R161, R162, R195 to R198), counts, spans and windows (R28 to R32, R56, R62, R201 to R204)
and the read queue (R205, R206). -/
namespace Sys2Proof.Machine

/-- Copies run as far as they go wherever an instruction waits for them, in the model's `lockstep` timing. -/
def waitCopies (s : State) : State := if s.lockstep then runChannels s else s

/-- Earlier broadcast and tile instructions have retired and earlier copies have completed, but for those of a channel that a fault has
stopped and those that wait for the pending frame (R62, R220). -/
def mapReady (s : State) : Bool := s.g.bq.isEmpty && s.g.channels.all fun p => p.2.stopped || queueDone s p.2.queue

/-- CYCLE: the lead die's count (R22, R24). -/
def readCycle (s : State) : Word × State := (w64 (dieCycle s s.g.lead), tickDie s s.g.lead)

/-- Read a control register (R195). -/
def readControl (s : State) (n : Nat) : Word × State := if n = 0x040 then readCycle s else (s.g.control n, s)

/-- The frames of every bank of the span from frame lo to hi - 1 become zero, with tags RAW (R30, R302). -/
def clearFrames (s : State) (lo hi : Nat) : State :=
  (List.range s.g.banksInSpan).foldl (fun s b =>
    let k := s.g.fieldKey b 0
    { s with
      field := mclear s.field (k + lo * 8192) (k + hi * 8192)
      fieldBad := s.fieldBad.filter fun w => decide (w * 8 < k + lo * 8192) || decide (k + hi * 8192 ≤ w * 8)
      ftags := mclear s.ftags (k / 8192 + lo) (k / 8192 + hi)
      ftagBad := s.ftagBad.filter fun f => decide (f < k / 8192 + lo) || decide (k / 8192 + hi ≤ f) }) s

/-- Store NCF: at most 16, and the frames that move into or out of the reservation are cleared (R302). -/
def storeConvres (s : State) (v : Word) : State :=
  let old := s.g.convres.toNat % 32
  let new := min 16 (v.toNat % 32)
  let s := clearFrames s (64 - max old new) (64 - min old new)
  { s with g := { s.g with convres := w64 new } }

/-- W1C and WO bits of CHSTAT: error bits whose 1 is written are cleared, and CN = 1 cancels a stopped channel (R343, R358). -/
def storeChstat (s : State) (ch : Nat) (v : Word) : State :=
  let x := s.g.channel ch
  let s := setChannel s ch { x with errors := x.errors &&& ~~~(BitVec.ofNat 7 (bitsOf v.toNat 8 7)) }
  if bit v 16 then proceed (cancelChannel s ch) else s

/-- ECTRL as written: RM 6 and 7 leave RM unchanged, zero fields stay zero (R88). -/
def ectrlWrite (old v : Word) : Word :=
  w64 ((if v.toNat % 8 ≤ 5 then v.toNat % 8 else old.toNat % 8) + bitsOf v.toNat 4 6 * 16 + bitsOf v.toNat 16 48 * 2 ^ 16)

/-- Store a control register; RO and zero fields keep their value (R6, R88, R91, R195 to R197, R241, R287). CHSTAT is stored by
`storeChstat`, CONVRES by `storeConvres`. -/
def Gang.setControl (g : Gang) (n : Nat) (v : Word) : Gang :=
  match n with
  | 0x000 => { g with ss := bit v 5 }
  | 0x001 => { g with gcause := w64 (v.toNat % 2 ^ 9) }
  | 0x002 => { g with gepc := setBits v 0 2 0 }
  | 0x003 => { g with geval := v }
  | 0x004 => { g with geval2 := v }
  | 0x005 => { g with gqpos := v &&& 0xFFFF00BF }
  | 0x006 => { g with gtvec := setBits v 0 2 0 }
  | 0x007 => { g with gscratch := v }
  | 0x010 => { g with ecount := w64 (min (2 ^ 34) v.toNat) }
  | 0x011 => { g with estart := w64 (v.toNat % 2 ^ 48) }
  | 0x012 => { g with emask := v }
  | 0x013 => { g with ectrl := ectrlWrite g.ectrl v }
  | 0x014 => { g with tcount := w64 (min 131072 v.toNat) }
  | 0x015 => { g with eflags := w64 (v.toNat % 32) }
  | 0x032 => { g with blktab := w64 (min 4096 (v.toNat % 2 ^ 13)) }
  | _ => g

/-- Store a control register of any number. -/
def storeControl (s : State) (n : Nat) (v : Word) : State :=
  if n = 0x030 then storeConvres s v
  else if 0x50 ≤ n ∧ n ≤ 0x57 then storeChstat s (n - 0x50) v
  else { s with g := s.g.setControl n v }

/-- EFLAGS and the FX registers wait for earlier broadcast and tile instructions (R92). -/
def waitsForFlags (n : Nat) : Bool := decide (0x15 ≤ n) && decide (n ≤ 0x1A)

/-- CRD (R195, R198). -/
def execCrd (d : Reg) (n : BitVec 12) (s : State) : Result :=
  userOp (.crd d n) s fun s =>
    if waitsForFlags n.toNat && !s.g.bq.isEmpty then stall s
    else
      let (v, s) := readControl s n.toNat
      (s.setReg d v).commit4

/-- CWR, CSET and CCLR: the read and the write are one step. In a CHSTAT register, whose writable fields are W1C or WO, the old value is
not combined into the write (R195). -/
def crxWrite (i : Instr) (d a : Reg) (n : BitVec 12) (f : Word → Word → Word) (clears : Bool) (s : State) : Result :=
  userOp i s fun s =>
    let s := if n.toNat = 0x030 then waitCopies s else s
    if (waitsForFlags n.toNat && !s.g.bq.isEmpty) || (n.toNat == 0x030 && !mapReady s) then stall s
    else
      let y := s.reg a
      let (old, s) := readControl s n.toNat
      let v := if 0x50 ≤ n.toNat ∧ n.toNat ≤ 0x57 then (if clears then 0 else y) else f old y
      ((storeControl s n.toNat v).setReg d old).commit4

/-- CWR (R195). -/
def execCwr (d a : Reg) (n : BitVec 12) (s : State) : Result := crxWrite (.cwr d a n) d a n (fun _ y => y) false s
/-- CSET (R195). -/
def execCset (d a : Reg) (n : BitVec 12) (s : State) : Result := crxWrite (.cset d a n) d a n (fun old y => old ||| y) false s
/-- CCLR (R195). -/
def execCclr (d a : Reg) (n : BitVec 12) (s : State) : Result := crxWrite (.cclr d a n) d a n (fun old y => old &&& ~~~y) true s

/-- SETEC (R201). -/
def execSetec (d a : Reg) (s : State) : Result :=
  userOp (.setec d a) s fun s =>
    let v := w64 (min (2 ^ 34) (s.reg a).toNat)
    ({ s with g := { s.g with ecount := v, estart := 0 } }.setReg d v).commit4

/-- SETEC.t (R201). -/
def execSetecT (d a : Reg) (s : State) : Result :=
  userOp (.setecT d a) s fun s =>
    let v := w64 (min 131072 (s.reg a).toNat)
    ({ s with g := { s.g with tcount := v, estart := 0 } }.setReg d v).commit4

/-- A cluster that a grant may take: online, held by no gang, and in no reservation (R28, R31). -/
def clusterFree (s : State) (c : Nat) : Bool :=
  !s.offline.contains c && !((s.g :: s.others).any fun h => h.clusters.contains c) && !(s.reservations.any fun p => p.2.clusters.contains c)

/-- A sequencer slot that no resident gang holds, as its lead slot or as a follower (R26). -/
def slotFree (s : State) (die k : Nat) : Bool :=
  !((s.g :: s.others).any fun h => h.clusters != [] && ((h.lead == die && h.slot == k) || h.followers.contains (die, k)))
/-- The lowest free sequencer slot of a die. -/
def freeSlot (s : State) (die : Nat) : Option Nat := findUp (slotFree s die) 0 8

/-- Clusters lo to lo + n - 1 are all free. -/
def rangeFree (s : State) (lo n : Nat) : Bool := (List.range n).all fun j => clusterFree s (lo + j)

/-- The size code of a cluster count (R25). -/
def sizeCode (n : Nat) : Option Nat :=
  match n with | 4 => some 0 | 8 => some 1 | 16 => some 2 | 32 => some 3 | 64 => some 4 | 128 => some 5 | _ => none

/-- Dies other than the lead that a grant may add: all 32 clusters and a slot free, lowest-numbered first (R28). -/
def addableDies (s : State) : List Nat :=
  (List.range 4).filter fun d => d != s.g.lead && rangeFree s (32 * d) 32 && (freeSlot s d).isSome &&
    !(s.g.clusters.any fun c => c / 32 == d)

/-- Growth within the die: `above` clusters above the range and the rest below, the most above first (R28). -/
def growWithin (s : State) (n : Nat) : Option (List Nat) :=
  let cs := s.g.clusters
  let lo := cs.foldl Nat.min (cs.headD 0)
  let hi := cs.foldl Nat.max 0
  let die := lo / 32
  let add := n - cs.length
  if hi + 1 - lo ≠ cs.length then none
  else
    let fits := fun (below : Nat) =>
      let above := add - below
      decide (below ≤ add) && decide (32 * die + below ≤ lo) && decide (hi + above < 32 * (die + 1)) && (lo - below) % 4 == 0
        && rangeFree s (lo - below) below && rangeFree s (hi + 1) above
    (findUp fits 0 (add + 1)).map fun below =>
      ((List.range below).map fun j => lo - below + j) ++ (List.range (add - below)).map fun j => hi + 1 + j

/-- Growth to 64 or 128 clusters: the lead die's other clusters first, then whole dies in ascending order (R28). -/
def growDies (s : State) (n : Nat) : Option (List Nat) :=
  let own := (List.range 32).map (32 * s.g.lead + ·)
  let rest := if s.g.clusters.length < 32 then own.filter fun c => !s.g.clusters.contains c else []
  let need := (n - s.g.clusters.length - rest.length) / 32
  let dies := (addableDies s).take need
  if (rest.all fun c => clusterFree s c) && dies.length == need then
    some (rest ++ dies.flatMap fun d => (List.range 32).map (32 * d + ·))
  else none

/-- The clusters that SETSPAN adds for n clusters, or nothing where the request is refused (R28). -/
def spanGrant (s : State) (n : Nat) : Option (List Nat) :=
  if (sizeCode n).isNone then none
  else if n ≤ s.g.clusters.length then some []
  else if n ≤ 32 then growWithin s n
  else growDies s n

/-- The slots of the follower dies of a cluster set; a die that is new takes its lowest free slot (R26). -/
def followersOf (s : State) (cs : List Nat) : List (Nat × Nat) :=
  let dies := (cs.map (· / 32)).eraseDups.filter (· != s.g.lead)
  dies.map fun d => match s.g.followers.find? fun p => p.1 == d with
    | some p => p
    | none => (d, (freeSlot s d).getD 0)

/-- A granted span: added clusters take the next relative numbers, released ones are the highest and lose their contents (R28, R30). -/
def applySpan (s : State) (n : Nat) (added : List Nat) : State :=
  let kept := s.g.clusters.take n
  let s1 := (s.g.clusters.drop n).foldl clearCluster s
  let cs := kept ++ added
  { s1 with g := { s1.g with
      clusters := cs, followers := followersOf s1 cs, sz := (sizeCode n).getD 0
      storeBad := s1.g.storeBad.filter fun k => decide (k / 8192 < 16 * kept.length) } }

/-- Every engine command that the gang has pushed has completed (R29, R47). -/
def portsDone (g : Gang) : Bool := g.ports.all fun p => p.2.commands.isEmpty

/-- The lowest channel that a fault has stopped. -/
def Gang.stoppedChannel (g : Gang) : Option (Nat × Channel) := g.channels.find? fun p => p.2.stopped

/-- An instruction at handler level would wait for a stopped channel: where the command core can bring the page it does, else the gang
stops (R222, R223, R224). -/
def stuckOnChannel (s : State) (k : Nat) (c : Channel) : State :=
  match c.fault with
  | some f => if coreFirst f && !c.taken then pageRequest (takeCopyFault s k) f true s.g.pc else failGang s f true s.g.pc
  | none => stall s

/-- SETSPAN (R28 to R31, R202). -/
def execSetspan (d a : Reg) (s : State) : Result :=
  userOp (.setspan d a) s fun s =>
    let s := waitCopies s
    match (if s.g.pl then s.g.stoppedChannel else none) with
    | some (k, c) => stuckOnChannel s k c
    | none =>
      if !s.g.bq.isEmpty || !(s.g.channels.all fun p => queueDone s p.2.queue) || !portsDone s.g then stall s
      else
        let n := (s.reg a).toNat
        match spanGrant s n with
        | none => (s.setReg d 0).commit4
        | some added => ((applySpan s n added).setReg d (w64 n)).commit4

/-- A window from the four words of its descriptor (R55). -/
def windowOf (w0 w1 w2 : Word) : Window where
  base := bitsOf w0.toNat 12 20 * 4096
  size := bitsOf w0.toNat 32 32
  first := bitsOf w1.toNat 0 12
  count := bitsOf w1.toNat 12 12
  gran := bitsOf w1.toNat 24 5
  ro := bit w1 29
  fa := bit w1 30
  valid := bit w1 31
  loc := bitsOf w2.toNat 0 19

/-- One past the last byte of a window's local extent at each of its banks (R56). -/
def Window.localEnd (w : Window) : Nat :=
  let granules := (w.size + 2 ^ w.gran - 1) / 2 ^ w.gran
  w.loc + (granules + w.count - 1) / w.count * 2 ^ w.gran

/-- The local extents of two windows meet at some bank (R56). -/
def Window.meets (a b : Window) : Bool :=
  decide (a.first < b.first + b.count) && decide (b.first < a.first + a.count) && decide (a.loc < b.localEnd) && decide (b.loc < a.localEnd)

/-- The zero fields of a window's descriptor are zero (R55). -/
def windowZeros (w0 w1 w2 w3 : Word) : Bool :=
  w0.toNat % 4096 == 0 && bitsOf w1.toNat 32 32 == 0 && bitsOf w2.toNat 19 45 == 0 && w3 == 0

/-- R56 for a descriptor with V = 1 as window k, against the span and the other windows. A SIZE outside R55's range is refused, and a
FIRST above 2,047 is not refused for itself (assumption log 69). -/
def windowValid (ws : Map Window) (banks k : Nat) (w0 w1 w2 w3 : Word) : Bool :=
  let w := windowOf w0 w1 w2
  windowZeros w0 w1 w2 w3
    && decide (2 ≤ w.gran) && decide (w.gran ≤ 16) && w.base % max 4096 (2 ^ w.gran) == 0
    && w.size % 4096 == 0 && decide (4096 ≤ w.size) && decide (w.size ≤ 2 ^ 30) && decide (w.base + w.size ≤ 2 ^ 32)
    && decide (1 ≤ w.count) && decide (w.count ≤ banks) && w.loc % 2 ^ min w.gran 13 == 0 && (!w.fa || decide (13 ≤ w.gran))
    && ws.all fun p => p.1 == k || !p.2.valid || !w.meets p.2

/-- Install a descriptor if R56 admits it (R56, R203). -/
def installWindow (g : Gang) (k : Nat) (w0 w1 w2 w3 : Word) : Option Gang :=
  if bit w1 31 && !windowValid g.windows g.banksInSpan k w0 w1 w2 w3 then none
  else some { g with windows := mset {} g.windows k (windowOf w0 w1 w2) }

/-- The image address of FWSET and FWGET: 8-aligned, 32 bytes of sequencer-local memory (R203). -/
def imageAt (s : State) (a : Word) (code : Nat) : Except State Nat :=
  if a.toNat % 8 ≠ 0 then .error (trapS s 3 a (w64 code))
  else match selectTarget a with
    | .seqLocal off => if off + 32 ≤ 65536 then .ok off else .error (trapS s 4 a (w64 code))
    | _ => .error (trapS s 4 a (w64 code))

/-- A word of sequencer-local memory. -/
def localWord (g : Gang) (off : Nat) : Word := w64 (rdNat g.lmem off 8)

/-- FWSET (R56, R62, R203). -/
def execFwset (d a b : Reg) (s : State) : Result :=
  userOp (.fwset d a b) s fun s =>
    match imageAt s (s.reg a) 0 with
    | .error t => t
    | .ok off =>
      let s := waitCopies s
      let k := (s.reg b).toNat
      if !mapReady s then stall s
      else if (List.range 4).any fun j => s.g.lmemBad.contains (off / 8 + j) then trapS s 7 (s.reg a) 0
      else if 63 < k then (s.setReg d 0).commit4
      else match installWindow s.g k (localWord s.g off) (localWord s.g (off + 8)) (localWord s.g (off + 16)) (localWord s.g (off + 24)) with
        | none => (s.setReg d 0).commit4
        | some g => ({ s with g := g }.setReg d 1).commit4

/-- FWGET (R203). -/
def execFwget (d a b : Reg) (s : State) : Result :=
  userOp (.fwget d a b) s fun s =>
    match imageAt s (s.reg a) 1 with
    | .error t => t
    | .ok off =>
      let k := (s.reg b).toNat
      if 63 < k then (s.setReg d 0).commit4
      else
        let bs := (windowWords (s.g.window k)).flatMap fun w => leBytes 8 w.toNat
        ({ s with g := { s.g with
            lmem := wrBytes s.g.lmem off bs
            lmemBad := s.g.lmemBad.filter fun w => decide (w < off / 8) || decide (off / 8 + 4 ≤ w) } }.setReg d 1).commit4

/-- The result of OWNER (R204). -/
def ownerWord (s : State) (a : Word) : Word :=
  let no := fun (r : Nat) => w64 r
  if 2 ^ 32 ≤ a.toNat then no 1
  else match resolve s.g s.offline a.toNat false with
    | .ok r => w64 (r.loc + r.own * 2 ^ 32 + r.win * 2 ^ 48 + 2 ^ 63)
    | .error .noWindow => no 1
    | .error .outsideSpan => no 2
    | .error .offlineOwner => no 3
    | .error .beyondSlice => no 4
    | .error .readOnly => no 0

/-- OWNER (R204). -/
def execOwner (d a : Reg) (s : State) : Result := userOp (.owner d a) s fun s => (s.setReg d (ownerWord s (s.reg a))).commit4

/-- RQPOP (R205, R206): the values set aside for gang level are not seen. -/
def execRqpop (d : Reg) (s : State) : Result :=
  userOp (.rqpop d) s fun s =>
    match s.g.rq.drop s.g.rqAside with
    | [] => trapIllegal s (.rqpop d) 2
    | none :: _ => stall s
    | some v :: r => ({ s with g := { s.g with rq := s.g.rq.take s.g.rqAside ++ r } }.setReg d v).commit4

/-- RQSTAT (R205). -/
def execRqstat (d : Reg) (s : State) : Result :=
  userOp (.rqstat d) s fun s => (s.setReg d (w64 (s.g.rqv + s.g.rqr * 256))).commit4

/-- AWSET: bits [63:48] of the pattern are cleared and the position starts at the base (R362). -/
def execAwset (w a b : Reg) (s : State) : Result :=
  userOp (.awset w a b) s fun s =>
    { s with g := { s.g with
        walks := mset {} s.g.walks w.toNat ⟨s.reg a, w64 ((s.reg b).toNat % 2 ^ 48), s.reg a⟩ } }.commit4

end Sys2Proof.Machine
end

