-- ==== Sys2Proof/Machine/CopyIssue.lean ====
section
/-! DEFINITION. The copy instructions at the sequencer: COPY, COPYND, GATHER, SCATTER and DRAIN (R344 to R349, R353, R354). -/
namespace Sys2Proof.Machine

/-- SGR and ESZ of OPX (R344). -/
def sgrOf (f : CX) : Reg := BitVec.ofNat 5 (f.opx.toNat % 32)
def eszOf (f : CX) : Nat := bitsOf f.opx.toNat 5 3

/-- What an instruction that reads its sequencer memory at commit meets: a trap with its code, GEVAL and GEVAL2, or a hold. -/
inductive CommitStop where
  | trap (code : Nat) (val val2 : Word)
  | hold
  deriving DecidableEq, Repr

/-- Read n bytes as a scalar load of the address would (R65, R179, R355). -/
def loadBytes (s : State) (ea : Word) (n : Nat) : Except CommitStop (List Byte) :=
  match selectTarget ea with
  | .refused => .error (.trap 4 ea 0)
  | .seqLocal off =>
    if 65536 < off + n then .error (.trap 4 ea 0)
    else if localBad s off n false then .error (.trap 7 ea 0) else .ok (rdBytes s.g.lmem off n)
  | .field x =>
    if fieldHeld s x n then .error .hold
    else match fieldKeys s false x n with
      | none => .error (.trap 4 ea 0)
      | some ks => if keysBad s ks then .error (.trap 7 ea 0) else .ok (readKeys s ks)

/-- Successive 8-byte words, as scalar loads. -/
def loadWords (s : State) (ea : Word) : Nat → Except CommitStop (List Word)
  | 0 => .ok []
  | n + 1 => do
    let bs ← loadBytes s ea 8
    let r ← loadWords s (ea + 8) n
    .ok (w64 (leNat bs) :: r)

/-- The refusal of R345 that is an illegal-instruction trap with reason 13. -/
def refused (i : Instr) : CommitStop := .trap 1 (w64 (encodeWord i)) 13

/-- The dimensions of a shape block after its head (R347). -/
def shapeDims : List Word → List (Int × Nat)
  | st :: ex :: r => (st.toInt, ex.toNat) :: shapeDims r
  | _ => []

/-- The rules of a shape block (R347). -/
def shapeOk (head : Word) (dims : List (Int × Nat)) : Bool :=
  let esz := bitsOf head.toNat 4 3
  let z := 2 ^ esz
  decide (1 ≤ head.toNat % 16) && decide (head.toNat % 16 ≤ 8) && decide (esz ≤ 3) && bitsOf head.toNat 7 1 == 0 && head.toNat / 2 ^ 9 == 0
    && (dims.all fun d => d.1 % (z : Int) == 0 && decide (1 ≤ d.2) && decide (d.2 ≤ 2 ^ 32))
    && decide ((dims.foldl (fun (n : Nat) d => n * d.2) 1) * z < 2 ^ 36)

/-- The captures that every copy makes (R345). -/
def copyBase (g : Gang) (i : Instr) (f : CX) (kind esz : Nat) : Copy where
  kind := kind
  dir := f.dir.toNat
  sig := f.sig == 1
  esz := esz
  dst := (g.reg f.d).toNat
  src := (g.reg f.a).toNat
  third := (g.reg f.b).toNat
  sigAddr := if f.sig = 1 then (g.reg (sgrOf f)).toNat else 0
  count := 0
  ecount := g.ecount.toNat
  side := 0
  dims := []
  pp := ectrlPp g.ectrl
  isn := g.nextSeq
  num := g.retired
  handler := g.pl
  code := w64 (encodeWord i)
  block := []
  started := false
  position := 0
  landed := []
  sent := []
  stops := []
  touched := []
  saved := []
  savedTags := []
  posted := []
  staled := []
  zeroed := []

/-- The signal address of a copy with SIG = 1 is 8-aligned (R345). -/
def signalOk (c : Copy) : Except CommitStop Unit := if c.sigAddr % 8 ≠ 0 then .error (.trap 3 (w64 c.sigAddr) 0) else .ok ()

/-- An address is a multiple of n (R345). -/
def alignedTo (a n : Nat) : Except CommitStop Unit := if a % n ≠ 0 then .error (.trap 3 (w64 a) 0) else .ok ()

/-- The copy that COPY commits (R345, R346); of several refusals the first one here is reported (assumption log 83). -/
def captureCopy (s : State) (f : CX) : Except CommitStop Copy := do
  let c := { copyBase s.g (.copy f) f 0 3 with count := (s.reg f.b).toNat }
  if 2 ^ 36 ≤ c.count then .error (refused (.copy f)) else .ok ()
  signalOk c
  .ok c

/-- The copy that COPYND commits: the shape block is read at once (R345, R347); of several refusals the first one here is reported
(assumption log 83). -/
def captureCopynd (s : State) (f : CX) : Except CommitStop Copy := do
  let at_ := s.reg f.b
  if at_.toNat % 8 ≠ 0 then .error (.trap 3 at_ 0) else .ok ()
  let head ← loadWords s at_ 1
  let h := head.headD 0
  if h.toNat % 16 = 0 ∨ 8 < h.toNat % 16 then .error (refused (.copynd f)) else .ok ()
  let body ← loadWords s (at_ + 8) (2 * (h.toNat % 16))
  let dims := shapeDims body
  if !shapeOk h dims then .error (refused (.copynd f)) else .ok ()
  let esz := bitsOf h.toNat 4 3
  let c := { copyBase s.g (.copynd f) f 1 esz with side := bitsOf h.toNat 8 1, dims := dims, block := h :: body }
  signalOk c
  alignedTo c.dst (2 ^ esz)
  alignedTo c.src (2 ^ esz)
  .ok c

/-- The copy that GATHER or SCATTER commits (R345, R348); of several refusals the first one here is reported (assumption log 83). -/
def captureIndexed (s : State) (i : Instr) (f : CX) (kind : Nat) : Except CommitStop Copy := do
  let c := { copyBase s.g i f kind (eszOf f) with count := s.g.ecount.toNat }
  if 2 ^ 34 ≤ c.count then .error (refused i) else .ok ()
  signalOk c
  alignedTo c.dst (2 ^ (eszOf f))
  alignedTo c.src (2 ^ (eszOf f))
  alignedTo c.third 4
  .ok c

/-- Queue a copy on its channel (R341); in the model's `lockstep` timing it runs as far as it goes. -/
def queueCopy (s : State) (ch : Nat) (c : Copy) : State :=
  let x := s.g.channel ch
  if c.outstanding = [] then s
  else
    let s := setChannel s ch { x with queue := x.queue ++ [c] }
    if s.lockstep then runChannels s else s

/-- The commit of a copy (R341, R345, R354). -/
def commitCopy (i : Instr) (f : CX) (cap : State → Except CommitStop Copy) (s : State) : State :=
  let s := waitCopies s
  match cap s with
  | .error (.trap code v v2) => trapS s code v v2
  | .error .hold => stall s
  | .ok c =>
    if tooManyRuns s c then trapIllegal s i 13
    else if decide (16 ≤ (s.g.channel f.ch.toNat).queue.length) || scoreboardFull s c then stall s
    else (queueCopy s f.ch.toNat c).commit8

/-- COPY (R346). -/
def execCopy (f : CX) (s : State) : Result := userOp (.copy f) s (commitCopy (.copy f) f fun s => captureCopy s f)
/-- COPYND (R347). -/
def execCopynd (f : CX) (s : State) : Result := userOp (.copynd f) s (commitCopy (.copynd f) f fun s => captureCopynd s f)
/-- GATHER (R348). -/
def execGather (f : CX) (s : State) : Result := userOp (.gather f) s (commitCopy (.gather f) f fun s => captureIndexed s (.gather f) f 2)
/-- SCATTER (R348). -/
def execScatter (f : CX) (s : State) : Result := userOp (.scatter f) s (commitCopy (.scatter f) f fun s => captureIndexed s (.scatter f) f 3)

/-- A peer or the host has still to acknowledge a write of a copy on one of the listed channels (R129, R137). -/
def copiesUnseen (s : State) (chs : List Nat) : Bool := s.unacked.any fun u => u.gang == s.g.id && decide (1 ≤ u.origin) && decide (u.origin ≤ 8) && chs.contains (u.origin - 1)

/-- Every earlier copy on the listed channels is complete and visible (R124, R137). -/
def channelsDrained (s : State) (chs : List Nat) : Bool := (chs.all fun ch => (s.g.channel ch).queue.isEmpty) && !copiesUnseen s chs

/-- Wait until `done` says that the listed channels have drained; at handler level a stopped one among them stops the gang (R224). -/
def drainThen (chs : List Nat) (done : State → Bool) (k : State → State) (s : State) : State :=
  let s := waitCopies s
  match (if s.g.pl then s.g.channels.find? fun p => p.2.stopped && chs.contains p.1 else none) with
  | some (ch, x) => stuckOnChannel s ch x
  | none => if done s then k s else stall s

/-- Every earlier copy of the gang is complete and visible, but for those that wait for the pending frame at handler level (R124, R220). -/
def copiesFenced (s : State) : Bool := (s.g.channels.all fun p => queueDone s p.2.queue) && !copiesUnseen s (List.range 8)

/-- DRAIN (R137, R349). -/
def execDrain (f : CX) (s : State) : Result := userOp (.drain f) s (drainThen [f.ch.toNat] (channelsDrained · [f.ch.toNat]) fun s => s.commit8)

/-- COPY_START (R342). -/
def execCopyStart (c : BitVec 3) (s : State) : Result := eventOp s fun s => copyStart s c.toNat
/-- COPY_ELEMENT_LAND (R353). -/
def execCopyElementLand (c : BitVec 3) (n : Nat) (s : State) : Result := eventOp s fun s => copyLand s c.toNat n
/-- COPY_FAULT_STOP (R356). -/
def execCopyFaultStop (c : BitVec 3) (s : State) : Result := eventOp s fun s => copyFaultStop s c.toNat
/-- GATHER_PIECE (R391). -/
def execGatherPiece (c : BitVec 3) (s : State) : Result := eventOp s fun s => gatherPiece s c.toNat

end Sys2Proof.Machine
end

