-- ==== Sys2Proof/Machine/Tables.lean ====
section
/-! DEFINITION. The method table and the block store at the sequencer: MTLOAD, MTINV, MTQUERY (R311 to R314) and BLOAD (R289). -/
namespace Sys2Proof.Machine

/-- An F-space read of n bytes by the sequencer: 4 where it does not resolve, 7 where a word is uncorrectable (R289, R312). -/
def sourceField (s : State) (ea : Word) (n : Nat) : Except CommitStop (List Byte) :=
  if 2 ^ 32 ≤ ea.toNat then .error (.trap 4 ea 0)
  else if fieldHeld s ea.toNat n then .error .hold
  else match fieldKeys s false ea.toNat n with
    | none => .error (.trap 4 ea 0)
    | some ks => if keysBad s ks then .error (.trap 7 ea 0) else .ok (readKeys s ks)

/-- A G-space read of n bytes by the sequencer. -/
def sourceGlobal (s : State) (ea : Word) (n : Nat) : Except CommitStop (List Byte) :=
  match globalPa s ea n .read 0 with
  | .error (.trap c v) => .error (.trap c ea (w64 v))
  | .error .hold => .error .hold
  | .ok pa =>
    if pendingWrite s pa n then .error .hold
    else if targetRefuses s pa then .error (.trap 8 ea 0)
    else match physPeek s pa n with
      | some bs => .ok bs
      | none => .error (.trap 7 ea 0)

/-- A read from the space that DIR names: 0b10 is F-space. -/
def sourceBytes (s : State) (dir : BitVec 2) (ea : Word) (n : Nat) : Except CommitStop (List Byte) :=
  if dir = 2 then sourceField s ea n else sourceGlobal s ea n

/-- Successive units of n bytes. -/
def sourceUnits (s : State) (dir : BitVec 2) (n : Nat) (ea : Word) : Nat → Except CommitStop (List (List Byte))
  | 0 => .ok []
  | k + 1 => do
    let bs ← sourceBytes s dir ea n
    let r ← sourceUnits s dir n (ea + w64 n) k
    .ok (bs :: r)

/-- What the reads leave besides their data: the hubs' fills and the counts at lost or failing stacks (R361, R374, R377). -/
def countSource (s : State) (dir : BitVec 2) (n : Nat) (ea : Word) (k : Nat) : State :=
  if dir = 2 then s
  else (List.range k).foldl (fun s i =>
    let a := ea + w64 (n * i)
    match globalPa s a n .read 0 with
    | .ok pa => physTouch (useG s a.toNat) pa n
    | .error _ => s) s

/-- TOP and FN form an operator of R157 other than TTAGR and TTAGW (R312). -/
def operatorOk (top fn : Nat) : Bool :=
  match top with
  | 0 | 4 | 5 | 7 => fn == 0
  | 1 => decide (fn ≤ 4)
  | 2 => decide (fn ≤ 9)
  | 3 => decide (fn ≤ 2)
  | 6 => decide (fn ≤ 18) || fn == 32 || fn == 33
  | 8 => decide (fn ≤ 18)
  | _ => false

/-- A kernel code belongs to its operator, with a mode word of R324. -/
def kernelCodeOk (top fn arg fmt : Nat) : Bool :=
  let plain := arg / 256 == 0
  let any := decide (kernelRnd arg ≤ 6) && arg / 4096 == 0
  let anyInt := any && (efInt fmt || !kernelSat arg)
  match top, kernelOf arg with
  | 0, 1 | 0, 2 | 5, 0x14 | 7, 0x16 | 8, 0x17 => plain
  | 2, 0x11 | 4, 0x13 | 6, 0x15 => any
  | 1, 0x10 => anyInt
  | 3, 0x12 => if fn = 0 then anyInt else plain
  | _, _ => false

/-- CVOP names a frame operand of the operator (R312). -/
def cvopOk (top cvop : Nat) : Bool := (cvop == 1 && top != 8) || (cvop == 2 && top ≤ 1)

/-- The zero fields of an entry: CVOP outside KIND 2, and the bits R303 marks zero. -/
def methodZeros (m : Method) : Bool := (mtKind m == 2 || mtCvop m == 0) && m.w1.toNat / 2 ^ 54 == 0 && m.w2.toNat / 2 ^ 54 == 0 && m.w3.toNat / 2 ^ 54 == 0

/-- The checks of MTLOAD on one entry (R312). -/
def methodOk (m : Method) : Bool :=
  methodZeros m && (!mtV m ||
    (operatorOk (mtTop m) (mtFn m) && match mtKind m with
      | 0 => mtCvop m == 0 && kernelCodeOk (mtTop m) (mtFn m) (mtArg m) (mtRtag m % 64)
      | 1 => mtCvop m == 0 && mtArg m / 2 ^ 12 == 0
      | 2 => cvopOk (mtTop m) (mtCvop m) && mtCvkey m / 2 ^ 14 == 0 && decide (1 ≤ mtArg m) && decide (mtArg m ≤ 4)
      | _ => mtCvop m == 0 && mtArg m == 0))

/-- An entry from its 32 bytes (R303). -/
def methodOf (bs : List Byte) : Method :=
  let w := fun (k : Nat) => w64 (leNat ((bs.drop (8 * k)).take 8))
  ⟨w 0, w 1, w 2, w 3⟩

/-- What a run of sequencer reads that stopped leaves: those before the one that trapped, and that one, are made (R361, R377, R385). -/
def sourceStop (s : State) (dir : BitVec 2) (n : Nat) (ea : Word) : CommitStop → State
  | .trap c v v2 =>
    if dir = 2 then trapS s c v v2
    else afterWaits s fun s => takeCause (useG (countSource s dir n ea ((v - ea).toNat / n + 1)) v.toNat) ⟨c, v, v2, 0, 0, 0⟩ false s.g.pc none
  | .hold => stall s

/-- The effect of MTLOAD (R311, R312). -/
def loadMethods (f : CX) (s : State) : State :=
  let a := s.reg f.a
  let n := (s.reg f.b).toNat
  let first := f.opx.toNat % 256
  if !s.g.bq.isEmpty then stall s
  else if n = 0 ∨ 256 < first + n then trapIllegal s (.mtload f) 12
  else if a.toNat % 32 ≠ 0 then trapS s 3 a 0
  else match sourceUnits s f.dir 8 a (4 * n) with
    | .error e => sourceStop s f.dir 8 a e
    | .ok us =>
      let ms := (List.range n).map fun k => methodOf ((us.drop (4 * k)).take 4).flatten
      if ms.all methodOk then
        let s := countSource s f.dir 8 a (4 * n)
        { s with g := { s.g with methods := ms.zipIdx.foldl (fun (t : Map Method) (p : Method × Nat) => mset {} t (first + p.2) p.1) s.g.methods } }.commit8
      else trapIllegal s (.mtload f) 12

/-- MTLOAD (R312). -/
def execMtload (f : CX) (s : State) : Result := userOp (.mtload f) s (loadMethods f)

/-- MTINV (R311, R313). -/
def execMtinv (f : CX) (s : State) : Result :=
  userOp (.mtinv f) s fun s =>
    if !s.g.bq.isEmpty then stall s
    else
      let lo := (s.reg f.a).toNat
      let hi := lo + (s.reg f.b).toNat
      { s with g := { s.g with methods := mclear s.g.methods lo hi } }.commit8

/-- The result of MTQUERY (R314). -/
def queryWord (g : Gang) (a b d : Nat) : Word :=
  if a / 2 ^ 15 ≠ 0 ∨ b / 2 ^ 54 ≠ 0 ∨ d / 2 ^ 18 ≠ 0 then 0
  else match searchMethods g.methods (a % 256) (a / 256) ⟨d, bitsOf b 0 18, bitsOf b 18 18, bitsOf b 36 18⟩ 0 with
    | none => 0
    | some e => w64 (e + 256 + mtKind (mget {} g.methods e) * 512)

/-- MTQUERY (R314). -/
def execMtquery (f : CX) (s : State) : Result :=
  userOp (.mtquery f) s fun s =>
    (s.setReg f.d (queryWord s.g (s.reg f.a).toNat (s.reg f.b).toNat (s.reg (f.b + 1)).toNat)).commit8

/-- A block table entry obeys R289: (OFF, LEN) in a table of n entries. -/
def blockOk (n : Nat) (off len : Nat) : Bool :=
  off % 4 == 0 && decide (8 * n ≤ off) && len % 4 == 0 && decide (8 ≤ len) && decide (off + len ≤ 65536)

/-- OFF and LEN of a table entry (R288). -/
def offLen (w : List Byte) : Nat × Nat := (leNat (w.take 2), leNat ((w.drop 2).take 2))

/-- The blocks' bytes with their offsets, 4 bytes each (R289); a stop names its block by what is left of the list. -/
def readBlocks (s : State) (dir : BitVec 2) (a : Word) : List (Nat × Nat) → Except (Nat × CommitStop) (List (Nat × List Byte))
  | [] => .ok []
  | (off, len) :: r =>
    match sourceUnits s dir 4 (a + w64 off) (len / 4) with
    | .error e => .error (r.length + 1, e)
    | .ok us => (readBlocks s dir a r).map ((off, us.flatten) :: ·)

/-- What reading blocks leaves besides their data. -/
def countBlocks (s : State) (dir : BitVec 2) (a : Word) (es : List (Nat × Nat)) : State :=
  es.foldl (fun s e => countSource s dir 4 (a + w64 e.1) (e.2 / 4)) s

/-- A table entry as the block store holds it: bits [63:32] are zero (R6, R288). -/
def entryBytes (w : List Byte) : List Byte := w.take 4 ++ List.replicate 4 0

/-- The effect of BLOAD (R289). -/
def loadBlocks (f : CX) (s : State) : State :=
  let a := s.reg f.a
  let n := (s.reg f.b).toNat
  if !s.g.bq.isEmpty then stall s
  else if n = 0 ∨ 4096 < n then trapIllegal s (.bload f) 11
  else if a.toNat % 8 ≠ 0 then trapS s 3 a 0
  else match sourceUnits s f.dir 8 a n with
    | .error e => sourceStop s f.dir 8 a e
    | .ok table =>
      let es := table.map offLen
      if !(es.all fun e => blockOk n e.1 e.2) then trapIllegal s (.bload f) 11
      else match readBlocks s f.dir a es with
        | .error (left, e) =>
          let k := es.length - left
          let begun := countBlocks (countSource s f.dir 8 a n) f.dir a (es.take k)
          sourceStop (if e = .hold then s else begun) f.dir 4 (a + w64 ((es[k]?).getD (0, 0)).1) e
        | .ok bs =>
          let s := countBlocks (countSource s f.dir 8 a n) f.dir a es
          { s with g := { s.g with
              store := bs.foldl (fun (m : List Host.Cell) (b : Nat × List Byte) => wrBytes m b.1 b.2) (wrBytes [] 0 (table.map entryBytes).flatten)
              storeBad := []
              blktab := w64 n } }.commit8

/-- BLOAD (R289). -/
def execBload (f : CX) (s : State) : Result := userOp (.bload f) s (loadBlocks f)

end Sys2Proof.Machine
end

