-- ==== Sys2Proof/Machine/Image.lean ====
section
/-! DEFINITION. The launch image: its check (R458) and the creation of a gang from it (R34, R35, R456). -/
namespace Sys2Proof.Machine

/-- A field segment of an image: an F-address with data bytes, or with a tag (R458). -/
inductive Segment where
  | data (addr : Nat) (bytes : List Byte)
  | tag (addr : Nat) (tag : Word)
  deriving DecidableEq, Repr

/-- What a checked image gives a gang (R34, R458). -/
structure Image where
  sz : Nat
  handler : Word
  nblk : Nat
  windows : Map Window
  methods : Map Method
  store : List Byte
  data : List Byte
  segments : List Segment
  deriving DecidableEq, Repr

/-- A little-endian field of an image. -/
def imgNat (im : List Byte) (off n : Nat) : Nat := leNat ((im.drop off).take n)
/-- Bytes lo to hi - 1 of an image are zero. -/
def imgZero (im : List Byte) (lo hi : Nat) : Bool := ((im.drop lo).take (hi - lo)).all (· == 0)
/-- A 64-bit word of an image. -/
def imgWord (im : List Byte) (off : Nat) : Word := w64 (imgNat im off 8)

/-- The segments from an offset on, or nothing where one breaks the rules of R458. The bytes that pad a data segment to 8 are not looked
at: the model's choice (assumption log 36). -/
def imgSegments (im : List Byte) : Nat → Nat → Option (List Segment)
  | 0, _ => some []
  | n + 1, off =>
    let addr := imgNat im off 4
    let len := imgNat im (off + 4) 4
    let body := off + 16
    let next := body + (len + 7) / 8 * 8
    if im.length < next || !imgZero im (off + 9) (off + 16) then none
    else match imgNat im (off + 8) 1 with
      | 0 => (imgSegments im n next).map (.data addr ((im.drop body).take len) :: ·)
      | 1 => if len = 8 ∧ addr % 8192 = 0 then (imgSegments im n next).map (.tag addr (imgWord im body) :: ·) else none
      | _ => none

/-- Banks of a span of size code sz (R25). -/
def spanClusters (sz : Nat) : Nat := 4 * 2 ^ sz

/-- The window descriptors of an image: their zero fields are zero, and each with V = 1 is valid under R56 for the span (R458). -/
def imgWindows (im : List Byte) (sz : Nat) : Option (Map Window) :=
  let ws := fun (k : Nat) => (imgWord im (4096 + 32 * k), imgWord im (4104 + 32 * k), imgWord im (4112 + 32 * k), imgWord im (4120 + 32 * k))
  let all : Map Window := (List.range 64).foldl (fun m k => mset {} m k (let (a, b, c, _) := ws k; windowOf a b c)) []
  if (List.range 64).all fun k => let (a, b, c, d) := ws k; windowZeros a b c d && (!bit b 31 || windowValid all (16 * spanClusters sz) k a b c d)
  then some all else none

/-- The method table of an image (R303, R312). -/
def imgMethods (im : List Byte) : Option (Map Method) :=
  let ms := (List.range 256).map fun k => methodOf ((im.drop (8192 + 32 * k)).take 32)
  if ms.all methodOk then some (ms.zipIdx.foldl (fun (t : Map Method) (p : Method × Nat) => mset {} t p.2 p.1) []) else none

/-- The block table and NBLK pass the checks of BLOAD (R289, R458), and bits [63:32] of its entries are zero (R288). Whether an absent
block's entry, which R456 has a loader build with OFF 0 and LEN 0, passes is left open (assumption log 36). -/
def imgBlocksOk (store : List Byte) (n : Nat) : Bool :=
  if n = 0 then store == []
  else decide (8 * n ≤ store.length) && (List.range n).all fun k =>
    let w := (store.drop (8 * k)).take 8
    let e := offLen w
    (w.drop 4).all (· == 0) && ((Config.absentBlockLoads && e == (0, 0)) || (blockOk n e.1 e.2 && decide (e.1 + e.2 ≤ store.length)))

/-- A gang that has only an image's windows and span size, to resolve the image's addresses under. -/
def imgGang (sz : Nat) (ws : Map Window) : Gang := { clusters := List.range (spanClusters sz), windows := ws }

/-- A segment resolves under the image's windows, and the zero field of a tag is zero (R57, R298, R458). -/
def segmentOk (g : Gang) : Segment → Bool
  | .data a bs => (List.range bs.length).all fun j => (resolve g [] (a + j) false).toOption.isSome
  | .tag a t => bitsOf t.toNat 19 13 == 0 && match resolve g [] a false with | .ok r => (g.window r.win).fa | .error _ => false

/-- The zero fields of an image's head (R458). -/
def imgZeros (im : List Byte) : Bool :=
  imgNat im 4 1 / 8 == 0 && imgZero im 5 8 && imgZero im 44 48 && imgZero im 60 64 && imgZero im 72 128 && imgZero im 192 4096
    && imgZero im 6144 8192

/-- The regions of an image and their alignment (R458). -/
def imgRegions (im : List Byte) : Bool :=
  let handler := imgNat im 8 8
  let nblk := imgNat im 24 4
  let blkLen := imgNat im 28 4
  let blkOff := imgNat im 32 8
  let dataLen := imgNat im 40 4
  let dataOff := imgNat im 48 8
  let segOff := imgNat im 64 8
  handler % 4 == 0 && decide (handler < 2 ^ 48) && decide (nblk ≤ 4096) && decide (blkLen ≤ 65536) && blkLen % 4 == 0 && blkOff % 4096 == 0
    && decide (blkOff + blkLen ≤ im.length) && decide (dataLen ≤ 65536) && dataOff % 4096 == 0 && decide (dataOff + dataLen ≤ im.length)
    && segOff % 8 == 0 && decide (segOff ≤ im.length)

/-- The check of R458 on an image as read, for a record's SZ. -/
def imageCheck (im : List Byte) (sz : Nat) : Option Image :=
  if imgNat im 0 4 ≠ 1 ∨ imgZeros im = false ∨ imgNat im 4 1 % 8 ≠ sz ∨ imgRegions im = false
      ∨ (im.drop 128).take 64 ≠ sha512 (im.take 128 ++ im.drop 192) then none
  else do
    let ws ← imgWindows im sz
    let ms ← imgMethods im
    let segs ← imgSegments im (min (imgNat im 56 4) (im.length / 16 + 1)) (imgNat im 64 8)
    let store := (im.drop (imgNat im 32 8)).take (imgNat im 28 4)
    if imgBlocksOk store (imgNat im 24 4) && segs.all (segmentOk (imgGang sz ws)) && decide (imgNat im 56 4 ≤ im.length / 16 + 1) then
      some ⟨sz, w64 (imgNat im 8 8), imgNat im 24 4, ws, ms, store, (im.drop (imgNat im 48 8)).take (imgNat im 40 4), segs⟩
    else none

/-- What the command core finds of something it reads: it fails where a translation is refused or a word is uncorrectable, and is held
while a page migrates (R360). -/
inductive CoreRead (α : Type) where
  | got (x : α)
  | failed
  | held
  deriving DecidableEq, Repr

/-- Bytes of G-space as the command core reads them, 4 KiB at a time, through the hub of die 0, with the reconstructions they cause (R361,
R377). -/
def coreRead (s : State) (pasid : Nat) : Nat → Nat → State × CoreRead (List Byte)
  | 0, _ => (s, .got [])
  | n + 1, a =>
    match translateFull s 0 pasid a .read with
    | .ok pa _ =>
      match physRead (hubUse s 0 pasid a) pa 4096 with
      | (s, some bs) => match coreRead s pasid n (a + 4096) with
        | (s, .got r) => (s, .got (bs ++ r))
        | (s, x) => (s, x)
      | (s, none) => (s, .failed)
    | .migrating => (s, .held)
    | _ => (hubUse s 0 pasid a, .failed)

/-- The image at a G-address, read whole and checked (R425 ERR 4, R458). -/
def readImage (s : State) (pasid a sz : Nat) : State × CoreRead Image :=
  match coreRead s pasid 1 a with
  | (s, .held) => (s, .held)
  | (s, .failed) => (s, .failed)
  | (s, .got head) =>
    let len := imgNat head 16 8
    if len % 4096 ≠ 0 ∨ len < 16384 ∨ 2 ^ 48 < a + len then (s, .failed)
    else match coreRead s pasid (len / 4096) a with
      | (s, .got im) => (s, match imageCheck im sz with | some x => .got x | none => .failed)
      | (s, .held) => (s, .held)
      | (s, .failed) => (s, .failed)

/-- The entry state of a gang (R35), apart from its field. -/
def entryGang (im : Image) (launch : Launch) (id pasid lead slot : Nat) (followers : List (Nat × Nat)) (clusters : List Nat)
    (cohIx cohN : Nat) (entry arg : Word) : Gang where
  id := id
  phase := .loading
  launch := launch
  sz := im.sz
  lead := lead
  slot := slot
  followers := followers
  clusters := clusters
  cohIx := cohIx
  cohN := cohN
  pasid := pasid
  pc := entry
  regs := mset 0 (mset 0 (mset 0 [] 2 0x8000000000010000) 3 arg) 4 (w64 launch.queue)
  gtvec := im.handler
  blktab := w64 im.nblk
  windows := im.windows
  methods := im.methods
  store := wrBytes [] 0 im.store
  lmem := wrBytes [] 0 im.data

/-- Write one data byte of an image (R57). -/
def loadByte (g : Gang) (a : Nat) (m : List Host.Cell) (p : Byte × Nat) : List Host.Cell :=
  match resolve g [] (a + p.2) false with
  | .ok r => wrByte m (g.fieldKey r.own r.loc) p.1
  | .error _ => m

/-- Write a segment into a new gang's cleared field (R30, R34, R458). -/
def loadSegment (g : Gang) (s : State) : Segment → State
  | .data a bs => { s with field := bs.zipIdx.foldl (loadByte g a) s.field }
  | .tag a t =>
    match resolve g [] a false with
    | .ok r => { s with ftags := mset rawTag s.ftags (g.fieldKey r.own r.loc / 8192) t }
    | .error _ => s

/-- A new gang joins the package; the first one is the selected one. -/
def addGang (s : State) (g : Gang) : State := if s.g.phase = .none then { s with g := g } else { s with others := s.others ++ [g] }

/-- Create a gang: its span is clear, and its tables and field are loaded (R30, R34). Its first instruction issues with GANG_START. -/
def createGang (s : State) (im : Image) (g : Gang) : State :=
  let s := g.clusters.foldl clearCluster s
  let s := im.segments.foldl (loadSegment g) s
  addGang { s with agenda := s.agenda ++ [.gangStart g.id] } g

end Sys2Proof.Machine
end

