-- ==== Sys2Proof/Machine/Reduction.lean ====
section
/-! DEFINITION. Engine ports as the engines see them (R207, R209), the memory accesses of engines, and the reduction engine
(R393 to R398). -/
namespace Sys2Proof.Machine

/-- A port of a gang. -/
def Gang.port (g : Gang) (p : Nat) : Port := mget {} g.ports p
def setPort (s : State) (p : Nat) (x : Port) : State := { s with g := { s.g with ports := mset {} s.g.ports p x } }

/-- ENG of a command's head (R207). -/
def engOf (w : List Word) : Nat := (w.headD 0).toNat % 16
/-- Word k of a command as a number. -/
def cmdWord (w : List Word) (k : Nat) : Nat := ((w[k]?).getD 0).toNat

/-- The commands of an engine at a port that stand at a stage. -/
def commandsAt (x : Port) (eng stage : Nat) : List Command := x.commands.filter fun c => engOf c.words == eng && c.stage == stage

/-- One of them: nothing orders the commands of an engine, so that which one is a free value (R397, R409; assumption log 2). -/
def findCommand (s : State) (p eng stage : Nat) : Option Command :=
  let cs := commandsAt (s.g.port p) eng stage
  cs[Config.pick s.fresh % cs.length]?

/-- A free value has been used (assumption log 2). -/
def State.used (s : State) : State := { s with fresh := s.fresh + 1 }

/-- Replace the first command equal to c. -/
def replaceCommand (x : Port) (c c' : Command) : Port :=
  { x with commands := (x.commands.takeWhile (· != c)) ++ c' :: ((x.commands.dropWhile (· != c)).drop 1) }

/-- A command's result word reaches the port and sets EV (R209, R216). -/
def finishCommand (s : State) (p : Nat) (c : Command) (result : Word) : State :=
  let x := s.g.port p
  let s := setPort s p { x with commands := x.commands.erase c, results := x.results ++ [result] }
  { s with g := { s.g with ev := true } }

/-- The engine that runs a command, by ENG and INSTANCE of its head (R207): for a reduction on a lost stack that of the next online stack
in ascending order, modulo 12 (R393). -/
def engineKey (s : State) (w : List Word) : Nat :=
  let key := (w.headD 0).toNat % 65536
  if engOf w ≠ 1 then key
  else match (List.range 12).find? fun i => !stackLost s ((key / 16 + i) % 12) with
    | some i => 1 + 16 * ((key / 16 + i) % 12)
    | none => key
/-- The buffer of the engine that runs a command gives an uncorrectable word at its next read (R444; assumption log 75). -/
def bufferBad (s : State) (w : List Word) : Bool := s.engineBad.contains (engineKey s w)
/-- That error has been met. -/
def spendBuffer (s : State) (w : List Word) : State := { s with engineBad := s.engineBad.filter (· != engineKey s w) }

/-- A result word of R396, R405 or R419. -/
def resultWord (status flags which index : Nat) : Word := w64 (status + flags * 2 ^ 8 + which * 2 ^ 16 + index % 2 ^ 40 * 2 ^ 24)

/-- What stops an engine's access: a status code, or a migrating page that holds it (R360). -/
inductive EngStop where
  | status (n : Nat)
  | hold
  deriving DecidableEq, Repr

/-- Translate a G-address for an engine; `near` asks for local HBM (R394, R406, R419). -/
def engTranslate (s : State) (va : Nat) (write near : Bool) : Except EngStop Nat :=
  match translateFull s s.g.lead s.g.pasid va (if write then .write else .read) with
  | .ok pa _ => if near && region pa != 0 then .error (.status 6) else .ok pa
  | .migrating => .error .hold
  | _ => .error (.status 3)

/-- Bytes of local HBM for an engine; what the access leaves besides is `engTouch`. -/
def engRead (s : State) (va n : Nat) : Except EngStop (List Byte) := do
  let pa ← engTranslate s va false true
  match physPeek s pa n with
  | some bs => .ok bs
  | none => .error (.status 4)

/-- What an engine's read of local HBM leaves besides its data: the hub's fill, and the counts and repairs at the stacks (R361, R374,
R377). -/
def engTouch (s : State) (va n : Nat) : State :=
  match engTranslate s va false true with
  | .ok pa => physTouch (useG s va) pa n
  | .error _ => useG s va

/-- An engine's write of local HBM (R372); one that needs two lost units is an uncorrectable error (R380). -/
def engWrite (s : State) (va : Nat) (bs : List Byte) : Except EngStop State :=
  match engTranslate s va true true with
  | .error e => .error e
  | .ok pa => if storeLost s pa bs.length then .error (.status 4) else .ok (physWrite (useG s va) pa bs)

/-- What an engine's write of local HBM that fails leaves (R361, R385, R389). -/
def engRefused (s : State) (va n : Nat) : State :=
  match engTranslate s va true true with
  | .ok pa => physTouch (useG s va) pa n true
  | .error _ => useG s va

/-- Two ranges of addresses, neither of them empty, meet. -/
def meets (a n b m : Nat) : Bool := n != 0 && m != 0 && decide (a < b + m) && decide (b < a + n)

/-- A reduction command's fields (R393). -/
structure Reduce where
  nbuf : Nat
  ef : Nat
  rnd : Nat
  sat : Bool
  n : Nat
  dst : Nat
  flag : Nat
  fval : Nat
  srcs : List Nat
  deriving DecidableEq, Repr

def reduceOf (w : List Word) : Reduce where
  nbuf := bitsOf (cmdWord w 0) 24 5
  ef := bitsOf (cmdWord w 0) 29 5
  rnd := bitsOf (cmdWord w 0) 34 3
  sat := bitsOf (cmdWord w 0) 37 1 == 1
  n := cmdWord w 1
  dst := cmdWord w 2
  flag := cmdWord w 3
  fval := cmdWord w 4
  srcs := (w.drop 5).map fun x => x.toNat

/-- The formats of reductions, with their RND and SAT rule (R393). -/
def reduceFormat (ef rnd : Nat) (sat : Bool) : Bool := ([4, 5, 6, 7].contains ef && rnd == 0) || (efFlt ef && rnd ≤ 4 && !sat)

/-- The checks made before any access: status 1, 5 or 2 (R394). -/
def reduceCheck (w : List Word) : Nat :=
  let c := reduceOf w
  let z := efBits c.ef / 8
  let bytes := c.n * z
  if c.nbuf = 0 ∨ 16 < c.nbuf ∨ w.length ≠ 5 + c.nbuf ∨ reduceFormat c.ef c.rnd c.sat = false ∨ 2 ^ 38 ≤ cmdWord w 0 ∨ 2 ^ 34 < c.n
      ∨ (c.dst :: c.flag :: c.srcs).any (2 ^ 48 ≤ ·) then 1
  else if (c.dst :: c.srcs).any (· % z != 0) ∨ c.flag % 8 ≠ 0 then 5
  else if (c.srcs.any fun b => b != c.dst && meets b bytes c.dst bytes)
      ∨ (c.flag ≠ 0 ∧ (c.dst :: c.srcs).any fun b => meets b bytes c.flag 8) then 2
  else 0

/-- What element j gives: its result and the flags of its adds, or the lowest WHICH with its status (R394, R395, R397). An element that
cannot be written has raised the flags of its adds (R395). -/
inductive ElemEnd where
  | done (s : State) (f : Fl)
  | failed (s : State) (f : Fl) (which status : Nat)
  | held

/-- The codes of element j of each source buffer, in order. -/
def reduceTermsOf (s : State) (c : Reduce) (j : Nat) : Nat → List Nat → Except (Option (Nat × Nat)) (List Nat)
  | _, [] => .ok []
  | b, src :: r =>
    let z := efBits c.ef / 8
    match engRead s (src + j * z) z with
    | .ok bs => (reduceTermsOf s c j (b + 1) r).map (leNat bs :: ·)
    | .error (.status n) => .error (some (b, n))
    | .error .hold => .error none

/-- Element j of a reduction command: summed by the tree from the buffers as the engine has read them, and written (R395, R398). -/
def reduceElement (read s : State) (c : Reduce) (j : Nat) : ElemEnd :=
  let z := efBits c.ef / 8
  match reduceTermsOf read c j 0 c.srcs with
  | .error (some (b, n)) => .failed s 0 b n
  | .error none => .held
  | .ok ts =>
    let (code, f) := sumCodes c.ef (modeOf c.rnd 0) c.sat 0 ts
    match engWrite s (c.dst + j * z) (leBytes z code) with
    | .error (.status n) => .failed (engRefused s (c.dst + j * z) z) f 16 n
    | .error .hold => .held
    | .ok s => .done s f

/-- The 512-byte units of local HBM that a buffer's elements touch, each read once (R398): what the reads leave at hubs and stacks. -/
def readUnits (s : State) (src z n : Nat) : State :=
  let s := (List.range n).foldl (fun s j => useG s (src + j * z)) s
  let units := ((List.range n).filterMap fun j => (engTranslate s (src + j * z) false true).toOption.map (· / 512)).eraseDups
  units.foldl (fun s u => physTouch s (u * 512) 512) s

/-- The elements of a command: flags so far, and the lowest failed element (R397). `read` is the machine as its buffers were read. -/
def reduceElements (read : State) (c : Reduce) : List Nat → State → Fl → Option (Nat × Nat × Nat) → Option (State × Fl × Option (Nat × Nat × Nat))
  | [], s, f, err => some (s, f, err)
  | j :: js, s, f, err =>
    match reduceElement read s c j with
    | .held => none
    | .done s' f' => reduceElements read c js s' (f ||| f') err
    | .failed s' f' which status => reduceElements read c js s' (f ||| f') (err.orElse fun _ => some (j, which, status))

/-- The elements that a command forms, and the one that an error in the engine's buffer has cost it: the first that it reads (R394, R444). -/
def reduceStart (s : State) (w : List Word) (n : Nat) : List Nat × Option (Nat × Nat × Nat) :=
  if bufferBad s w && n != 0 then ((List.range n).drop 1, some (0, 0, 4)) else (List.range n, none)

/-- The result word of a command run, and the machine after its elements; nothing where a migrating page holds an access. -/
def reduceRun (s : State) (w : List Word) : Option (State × Word × Bool) :=
  match reduceCheck w with
  | 0 =>
    let c := reduceOf w
    let (js, lost) := reduceStart s w c.n
    let begun := if lost.isSome then spendBuffer s w else s
    match reduceElements s c js (c.srcs.foldl (fun s b => readUnits s b (efBits c.ef / 8) c.n) begun) 0 lost with
    | none => none
    | some (s, f, none) => some (s, resultWord 0 f.toNat 0 0, true)
    | some (s, f, some (j, which, status)) => some (s, resultWord status f.toNat which j, false)
  | n => some (s, resultWord n 0 0 0, false)

/-- REDUCTION_COMMAND (R393 to R397): the engine checks a command of the port that it has not begun, and sums its buffers. -/
def reductionCommand (p : Nat) (s : State) : State :=
  match findCommand s p 1 0 with
  | none => s
  | some c =>
    match reduceRun s.used c.words with
    | none => s
    | some (s, word, ok) => setPort s p (replaceCommand (s.g.port p) c { c with stage := 1, result := word, doneOk := ok })

/-- The flag of a command, written after every element as a release (R138, R397): a status, or the machine with the flag. -/
def writeFlag (s : State) (flag fval : Nat) : Except EngStop State := engWrite s flag (leBytes 8 fval)

/-- REDUCTION_COMPLETE (R395, R397): the flag if every element succeeded, then the result word. -/
def reductionComplete (p : Nat) (s : State) : State :=
  match findCommand s p 1 1 with
  | none => s
  | some c =>
    let s := s.used
    let r := reduceOf c.words
    if c.doneOk && r.flag != 0 then
      match writeFlag s r.flag r.fval with
      | .ok s => finishCommand s p c c.result
      | .error (.status n) => finishCommand (engRefused s r.flag 8) p c (resultWord n (bitsOf c.result.toNat 8 5) 17 0)
      | .error .hold => s
    else finishCommand s p c c.result

end Sys2Proof.Machine
end

