-- ==== Sys2Proof/Machine/CommandCore.lean ====
section
/-! DEFINITION. Work queues, the scheduling pass, reservations, pre-emption and resumption, and hang recovery (R36, R37, R40 to R46,
R421 to R436). -/
namespace Sys2Proof.Machine

/-- A launch record's fields (R424). -/
structure Record where
  entry : Word
  image : Word
  arg : Word
  pasid : Nat
  prio : Nat
  sz : Nat
  cohn : Nat
  flags : Nat
  waddr : Word
  wval : Word
  paddr : Word
  pval : Word
  deriving DecidableEq, Repr

/-- A record from its eight words. -/
def recordOf (ws : List Word) : Record :=
  let w := fun (k : Nat) => (ws[k]?).getD 0
  ⟨w 0, w 1, w 2, bitsOf (w 3).toNat 0 32, bitsOf (w 3).toNat 32 8, bitsOf (w 3).toNat 40 8, bitsOf (w 3).toNat 48 8, bitsOf (w 3).toNat 56 8,
    w 4, w 5, w 6, w 7⟩

def Record.wv (r : Record) : Bool := r.flags % 2 == 1
def Record.pv (r : Record) : Bool := r.flags / 2 % 2 == 1
/-- Gangs that a record launches (R424). -/
def Record.members (r : Record) : Nat := max 1 r.cohn

/-- The form of a record: ERR 1 (R425). -/
def Record.formOk (r : Record) : Bool :=
  r.entry.toNat % 4 == 0 && decide (r.entry.toNat < 2 ^ 48) && r.image.toNat % 4096 == 0 && decide (r.image.toNat < 2 ^ 48)
    && decide (r.pasid < 2 ^ 20) && decide (r.prio < 8) && decide (r.sz ≤ 5) && decide (r.cohn ≤ 32) && decide (r.flags < 32)
    && r.flags / 4 % 4 != 3
    && (if r.wv then r.waddr.toNat % 8 == 0 else r.waddr == 0) && (if r.pv then r.paddr.toNat % 8 == 0 else r.paddr == 0)

/-- Members of a size that the package can hold at most (R25, R26, R36). -/
def capacity (sz : Nat) : Nat := match sz with | 0 => 32 | 1 => 16 | 2 => 8 | 3 => 4 | 4 => 2 | _ => 1

/-- A signal address of a record translates into local HBM (R425). -/
def signalFault (s : State) (r : Record) (present : Bool) (a : Word) (acc : Access) : Bool :=
  present && match translateFull s 0 r.pasid a.toNat acc with
    | .ok pa _ => region pa != 0
    | .migrating => false
    | _ => true

/-- ERR of a record, 0 where it may be launched, apart from the image (R425). -/
def recordErr (s : State) (r : Record) (qpasid : Option Nat) : Nat :=
  if !r.formOk then 1
  else if capacity r.sz < r.members then 2
  else if (qpasid.isSome && qpasid != some r.pasid) || (mfind s.roots r.pasid).isNone then 3
  else if signalFault s r r.wv r.waddr .read || signalFault s r r.pv r.paddr .write then 4
  else 0

/-- A wait-signal's condition (R215, R424). -/
def condMet (cond : Nat) (v w : Word) : Bool := match cond with | 0 => w.ule v | 1 => v == w | _ => v != w

/-- Whether a record's wait-signal is met (R426). -/
def waitMet (s : State) (r : Record) : Bool :=
  !r.wv || match translateFull s 0 r.pasid r.waddr.toNat .read with
    | .ok pa _ => (match physPeek s pa 8 with | some bs => condMet (r.flags / 4 % 4) (w64 (leNat bs)) r.wval | none => false)
    | _ => false

/-- What an access of the command core, through the hub of die 0, leaves besides its data (R361, R374, R377). -/
def coreTouch (s : State) (pasid va n : Nat) : State :=
  match translateFull s 0 pasid va .read with
  | .ok pa _ => physTouch (hubUse s 0 pasid va) pa n
  | _ => hubUse s 0 pasid va

/-- What testing a record's signal addresses and its wait-signal leaves (R425, R426). -/
def touchSignals (s : State) (r : Record) : State :=
  let s := if r.pv then hubUse s 0 r.pasid r.paddr.toNat else s
  if r.wv then coreTouch s r.pasid r.waddr.toNat 8 else s

/-- Stable insertion of an item before the first one that it comes before. -/
def insertBy {α : Type} (before : α → α → Bool) (x : α) : List α → List α
  | [] => [x]
  | y :: r => if before x y then x :: y :: r else y :: insertBy before x r

/-- A list in the order of a relation. -/
def sortBy {α : Type} (before : α → α → Bool) (l : List α) : List α := l.foldr (insertBy before) []

/-- A queue's descriptor. -/
def queueOf (s : State) (q : Nat) : Queue := mget ({} : Queue) s.queues q
def setQueue (s : State) (q : Nat) (x : Queue) : State := { s with queues := mset {} s.queues q x }

/-- A queue that a pass looks at (R426). -/
def Queue.scanned (x : Queue) : Bool := x.en && x.pending && x.st != 3

/-- The record at HEAD, read whole (R422, R425 ERR 4): `held` where its page migrates (R360). -/
def headRecord (s : State) (q : Nat) : State × CoreRead Record :=
  let x := queueOf s q
  match translateFull s 0 x.qpasid (x.base + 64 * (x.head % 2 ^ x.lgn)) .read with
  | .ok pa _ => match physRead (hubUse s 0 x.qpasid (x.base + 64 * (x.head % 2 ^ x.lgn))) pa 64 with
    | (s, some bs) => (s, .got (recordOf ((List.range 8).map fun k => w64 (leNat ((bs.drop (8 * k)).take 8)))))
    | (s, none) => (s, .failed)
  | .migrating => (s, .held)
  | _ => (hubUse s 0 x.qpasid (x.base + 64 * (x.head % 2 ^ x.lgn)), .failed)

/-- A record that is ready to be launched, with its checked image. -/
structure Ready where
  queue : Nat
  record : Record
  img : Image
  deriving DecidableEq, Repr

/-- Evaluate a queue (R425, R426): the record's error stops it, an image that does not check too, though its wait is not met (R458; assumption
log 76), an unmet wait leaves it at ST 2, else it is ready. -/
def evalQueue (s : State) (q : Nat) : State × Option Ready :=
  let x := queueOf s q
  if !x.scanned then (s, none)
  else match headRecord s q with
    | (s, .held) => (s, none)
    | (s, .failed) => (stopQueue s q 4 x.head, none)
    | (s, .got r) =>
      match recordErr s r (some x.qpasid) with
      | 0 =>
        match readImage s r.pasid r.image.toNat r.sz with
        | (s, .held) => (s, none)
        | (s, .failed) => (stopQueue s q 4 x.head, none)
        | (s, .got im) =>
          let t := touchSignals s r
          if waitMet s r then (setQueue t q { x with st := 1 }, some ⟨q, r, im⟩) else (setQueue t q { x with st := 2 }, none)
      | n => (stopQueue s q n x.head, none)

/-- Every queue that has a descriptor, in ascending order. -/
def evalQueues (s : State) : State × List Ready :=
  s.queues.foldl (fun (acc : State × List Ready) p => match evalQueue acc.1 p.1 with
    | (s, some r) => (s, acc.2 ++ [r])
    | (s, none) => (s, acc.2)) (s, [])

/-- The spans of a size in ascending die and cluster order, each in relative order (R25, R430). -/
def candidates (sz : Nat) : List (List Nat) :=
  let die := fun (d : Nat) => (List.range 32).map (32 * d + ·)
  if sz ≤ 3 then
    let n := spanClusters sz
    (List.range 4).flatMap fun d => ((List.range 8).filter fun k => decide (4 * k + n ≤ 32)).map fun k => (List.range n).map (32 * d + 4 * k + ·)
  else if sz = 4 then [(0, 1), (0, 2), (0, 3), (1, 2), (1, 3), (2, 3)].map fun p => die p.1 ++ die p.2
  else [die 0 ++ die 1 ++ die 2 ++ die 3]

/-- The spans of a size with their lead on die d: of several dies, the lead first and the others in ascending order (R27, R28). -/
def spansLedBy (sz d : Nat) : List (List Nat) :=
  let die := fun (d : Nat) => (List.range 32).map (32 * d + ·)
  let rest := [0, 1, 2, 3].filter (· != d)
  if sz ≤ 3 then (candidates sz).filter fun cs => cs.headD 0 / 32 == d
  else if sz = 4 then rest.map fun e => die d ++ die e
  else [die d ++ rest.flatMap die]

/-- A span with its sequencer slots by die, the lead's first. -/
structure Placement where
  clusters : List Nat
  slots : List (Nat × Nat)
  deriving DecidableEq, Repr

/-- Dies of a cluster list, the lead first. -/
def diesOf (cs : List Nat) : List Nat := (cs.map (· / 32)).eraseDups

/-- A cluster that a launch for queue q may take: a reservation for q itself does not hold it (R31, R428). -/
def clusterFreeFor (s : State) (q : Option Nat) (c : Nat) : Bool :=
  !s.offline.contains c && !((s.g :: s.others).any fun h => h.clusters.contains c)
    && !(s.reservations.any fun p => some p.2.queue != q && p.2.clusters.contains c)

/-- Slots for a span, the lowest free one on each die that none of `used` takes (R26). -/
def slotsFor (s : State) (used : List (Nat × Nat)) : List Nat → Option (List (Nat × Nat))
  | [] => some []
  | d :: r => match findUp (fun k => slotFree s d k && !used.contains (d, k)) 0 8 with
    | none => none
    | some k => (slotsFor s used r).map ((d, k) :: ·)

/-- One span, if its clusters and slots are free. -/
def placeOne (s : State) (q : Option Nat) (taken : List Placement) (cs : List Nat) : Option Placement :=
  if cs.all fun c => clusterFreeFor s q c && !(taken.any fun p => p.clusters.contains c) then
    (slotsFor s (taken.flatMap fun p => p.slots) (diesOf cs)).map fun sl => ⟨cs, sl⟩
  else none

/-- The first fitting candidate. -/
def placeFirst (s : State) (q : Option Nat) (taken : List Placement) : List (List Nat) → Option Placement
  | [] => none
  | cs :: r => match placeOne s q taken cs with
    | some p => some p
    | none => placeFirst s q taken r

/-- place(q) (R430): every member at once, each at the first candidate of its list. -/
def placeAll (s : State) (q : Option Nat) : List (List (List Nat)) → List Placement → Option (List Placement)
  | [], taken => some taken
  | cands :: r, taken => match placeFirst s q taken cands with
    | none => none
    | some p => placeAll s q r (taken ++ [p])

/-- Members of one size. -/
def placeMembers (s : State) (q : Option Nat) (sz n : Nat) : Option (List Placement) := placeAll s q (List.replicate n (candidates sz)) []

/-- The launch fields of a record for a queue (R424). -/
def launchOf (s : State) (queue index : Nat) (r : Record) : Launch where
  queue := queue
  index := index
  prio := r.prio
  pv := r.pv
  postSet := r.flags / 16 % 2 == 1
  paddr := r.paddr
  pval := r.pval
  cohort := s.nextGang

/-- Create every member of a launch (R34, R36, R430): member i receives COHIX i. -/
def launchMembers (s : State) (queue index : Nat) (r : Record) (im : Image) (ps : List Placement) : State :=
  let launch := launchOf s queue index r
  ps.zipIdx.foldl (fun s (p, i) =>
    let lead := (p.clusters.headD 0) / 32
    let slot := ((p.slots.head?).getD (0, 0)).2
    let g := entryGang im launch s.nextGang r.pasid lead slot (p.slots.drop 1) p.clusters i ps.length r.entry r.arg
    createGang { s with nextGang := s.nextGang + 1 } im g) s

/-- HEAD advances with a launch; the pending bit clears when it reaches TAIL (R422, R426). -/
def consumeRecord (s : State) (q : Nat) : State :=
  let x := queueOf s q
  let head := (x.head + 1) % 2 ^ 16
  let more := head != x.tail
  setQueue s q { x with head := head, age := 0, pending := more, st := if more then 1 else 0 }

/-- Launch a ready record at given placements. -/
def launchReady (s : State) (r : Ready) (ps : List Placement) : State :=
  consumeRecord (launchMembers s r.queue (queueOf s r.queue).head r.record r.img ps) r.queue

/-- The spans of a reservation's members (R428). -/
def chunks (n : Nat) : Nat → List Nat → List (List Nat)
  | 0, _ => []
  | k + 1, cs => cs.take n :: chunks n k (cs.drop n)

/-- A queue's reservation. -/
def reservationOf (s : State) (q : Nat) : Option Reservation := (s.reservations.find? fun p => p.2.queue == q).map (·.2)
/-- End a queue's reservation. -/
def dropReservation (s : State) (q : Nat) : State := { s with reservations := s.reservations.filter fun p => p.2.queue != q }

/-- A reserved queue launches on its reservation once every cluster of it is free (R428). -/
def launchReserved (s : State) (r : Ready) (v : Reservation) : Option State :=
  match placeAll s (some r.queue) ((chunks (spanClusters r.record.sz) r.record.members v.clusters).map ([·])) [] with
  | none => none
  | some ps => some (dropReservation (launchReady s r ps) r.queue)

/-- The search of a level goes on behind a queue that has launched (R427). -/
def advanceStart (s : State) (r : Ready) : State := { s with startPtr := mset 0 s.startPtr r.record.prio (r.queue + 1) }

/-- A queue that has stopped in this pass, by a gang of it that failed, consumes no record (R425). -/
def stoppedNow (s : State) (r : Ready) : Bool := (queueOf s r.queue).st == 3

/-- Reservations first, even where higher levels are ready (R428): the machine and the queues that launched. -/
def reservedPass (ready : List Ready) (s : State) : State × List Nat :=
  ready.foldl (fun (acc : State × List Nat) r => match reservationOf acc.1 r.queue with
    | none => acc
    | some v => match launchReserved acc.1 r v with
      | some s => (advanceStart s r, acc.2 ++ [r.queue])
      | none => acc) (s, [])

/-- The resume list (R431): halted gangs in the order of their halt. -/
def resumeList (s : State) : List Gang :=
  sortBy (fun a b => decide (a.haltOrder ≤ b.haltOrder)) ((s.g :: s.others).filter fun h => h.phase == .halted || h.phase == .pageWait)

/-- The die that a die barrier ties a gang to: it set the barrier's count, or its arrival is counted there (R44, R213), is on its way there, or
has not been met by a WAITB (assumption log 84). -/
def barrierDie (s : State) (g : Gang) : Option Nat :=
  let held := (s.barriers.filter fun p => p.2.count != 0 && (p.2.cfg == g.id || p.2.arrived.contains g.id)).map fun p => p.1
  let keys := held ++ (match g.arriving with | some (k, _) => [k] | none => []) ++ g.unawaited
  (keys.find? fun k => decide (k < 64)).map (· / 16)

/-- A gang's candidates at resumption (R44). -/
def resumeCandidates (s : State) (g : Gang) : List (List Nat) :=
  match barrierDie s g with
  | none => candidates g.sz
  | some d => spansLedBy g.sz d

/-- Put an evicted field image back into the gang's clusters (R43, R44). -/
def restoreField (s : State) : State :=
  s.g.evicted.foldl (fun s (b, cells, tags) =>
    let k := s.g.fieldKey b 0
    { s with
      field := cells.foldl (fun m c => wrByte m (k + c.1) c.2) s.field
      ftags := tags.foldl (fun m t => mset rawTag m (k / 8192 + t.1) t.2) s.ftags })
    (s.g.clusters.foldl clearCluster s)

/-- A channel at a resumption after pre-emption (R357, R358): a copy fault is withdrawn, and the channel goes on at RESTART. -/
def Channel.reopen (c : Channel) : Channel := { c with stopped := false, fault := none, taken := false }

/-- A channel at a resumption into the handler (R222, R358): one whose fault the handler now takes stays stopped for it. -/
def Channel.reopenFor (handler : Bool) (c : Channel) : Channel := if handler && c.taken then c else c.reopen

/-- The selected gang runs again where it stopped (R44, R45, R228), its per-bank counters at zero (R163); a cause kept by a page request
enters its handler (R222). One that was stopped for `svk` stays so (assumption log 77). -/
def wakeGang (s : State) : State :=
  let es := s.g.haltFrame
  let words := s.g.haltResume
  let cause := if s.g.svkHeld then none else s.g.savedCause
  let s := { s with g := { s.g with
    phase := if s.g.svkHeld then .svkStop else .running, haltFrame := [], haltResume := [], evicted := [], perf := []
    savedCause := if s.g.svkHeld then s.g.savedCause else none, svkHeld := false
    estart := s.g.heldStart.getD s.g.estart, heldStart := none
    channels := s.g.channels.map fun p => (p.1, p.2.reopenFor cause.isSome) } }
  let s := reissueFrame s es words
  match cause with
  | some (c, imp, gepc) => enterHandler s c imp gepc none
  | none => proceed (if s.lockstep then runChannels s else s)

/-- Give the selected gang a span (R44). -/
def seatGang (p : Placement) (s : State) : State :=
  let s := { s with g := { s.g with
    clusters := p.clusters, lead := p.clusters.headD 0 / 32, slot := ((p.slots.head?).getD (0, 0)).2, followers := p.slots.drop 1 } }
  restoreField s

/-- Halted members that resume together with a gang (R37). -/
def cohortHalted (s : State) (g : Gang) : List Gang :=
  (s.g :: s.others).filter fun h => (h.id == g.id || (g.cohN != 1 && sameCohort h g)) && (h.phase == .halted || h.phase == .pageWait)

/-- Whether a gang has been pre-empted for a reservation that covers clusters which it still holds (R431): it does not run there again. -/
def reservedAway (s : State) (h : Gang) : Bool :=
  s.reservations.any fun p => p.2.timedOut && decide (h.launch.prio < p.2.prio) && h.clusters.any fun c => p.2.clusters.contains c

/-- GANG_RESUME (R44): the members resume together, if none waits for a page or has to make room for a reservation, and every evicted one
can be placed. -/
def resumeGang (id : Nat) (s : State) : State :=
  match findGang s id with
  | none => s
  | some g =>
    let members := cohortHalted s g
    if g.phase ≠ .halted ∨ members.any (fun h => h.phase == .pageWait || reservedAway s h) then s
    else
      let out := members.filter fun h => h.clusters.isEmpty
      match placeAll s none (out.map (resumeCandidates s)) [] with
      | none => s
      | some ps =>
        let s := (out.zip ps).foldl (fun s (h, p) => onGang s h.id (seatGang p)) s
        members.foldl (fun s h => onGang s h.id wakeGang) s

/-- Resumable gangs of a level, ahead of its new records, oldest halt first (R431). -/
def resumeLevel (level : Nat) (s : State) : State :=
  ((resumeList s).filter fun h => h.phase == .halted && h.launch.prio == level).foldl (fun s h => resumeGang h.id s) s

/-- Queues of a level from the rotating start pointer on (R427). -/
def levelOrder (s : State) (level : Nat) (ready : List Ready) : List Ready :=
  let at_ := mget 0 s.startPtr level
  let rs := ready.filter fun r => r.record.prio == level
  rs.filter (fun r => decide (at_ ≤ r.queue)) ++ rs.filter (fun r => decide (r.queue < at_))

/-- One level of a pass (R427): the machine, the queues launched so far, and the queues that could not be placed, a queue that still
waits for its reservation among them. -/
def levelPass (ready : List Ready) (acc : State × List Nat × List Ready) (level : Nat) : State × List Nat × List Ready :=
  let s := resumeLevel level acc.1
  (levelOrder s level ready).foldl (fun (acc : State × List Nat × List Ready) r =>
    let (s, done, failed) := acc
    if done.contains r.queue || stoppedNow s r then acc
    else if (reservationOf s r.queue).isSome then (s, done, failed ++ [r])
    else match placeMembers s (some r.queue) r.record.sz r.record.members with
      | some ps =>
        (advanceStart (launchReady s r ps) r, done ++ [r.queue], failed)
      | none => (s, done, failed ++ [r])) (s, acc.2.1, acc.2.2)

/-- AGE counts the passes in which another queue launched (R427). -/
def ageQueue (s : State) (r : Ready) : State :=
  let x := queueOf s r.queue
  setQueue s r.queue { x with age := min (x.age + 1) 15 }

/-- A placement that a reservation may take: online, and on dies without another reservation (R428). -/
def reservable (s : State) (taken : List Nat) (cs : List Nat) : Bool :=
  (cs.all fun c => !s.offline.contains c && !taken.contains c) && !((diesOf cs).any fun d => s.reservations.any fun p => p.1 == d)

/-- The clusters that a reservation covers: the first placement that fits the record (R428, R429). -/
def reserveClusters (s : State) (sz : Nat) : Nat → List Nat → Option (List Nat)
  | 0, taken => some taken
  | n + 1, taken => match (candidates sz).find? fun cs => reservable s taken cs with
    | none => none
    | some cs => reserveClusters s sz n (taken ++ cs)

/-- Take a reservation for a queue, if it has none and one can be chosen. -/
def reserve (s : State) (r : Ready) : State :=
  if (reservationOf s r.queue).isSome then s
  else match reserveClusters s r.record.sz r.record.members [] with
    | none => s
    | some cs =>
      let v : Reservation := ⟨r.queue, r.record.prio, cs, false⟩
      { s with reservations := (diesOf cs).foldl (fun m d => mput m d v) s.reservations }

/-- The order in which aged queues are served: AGE, then PRIO, then number (R428). -/
def agedBefore (s : State) (a b : Ready) : Bool :=
  let x := (queueOf s a.queue).age
  let y := (queueOf s b.queue).age
  decide (y < x) || (x == y && (decide (b.record.prio < a.record.prio) || (a.record.prio == b.record.prio && decide (a.queue ≤ b.queue))))

/-- New reservations at the end of a pass: for the highest-level queue that could not be placed, if it asks for SZ 4 or 5, and for
queues of AGE 8 or more (R428, R429). -/
def reservePass (failed : List Ready) (s : State) : State :=
  let s := match failed with
    | r :: _ => if 4 ≤ r.record.sz then reserve s r else s
    | [] => s
  (sortBy (agedBefore s) (failed.filter fun r => decide (8 ≤ (queueOf s r.queue).age))).foldl reserve s

/-- A reservation fits a record: it holds a placement of the record's size for each member (R428). -/
def Reservation.fits (v : Reservation) (r : Record) : Bool :=
  v.clusters.length == r.members * spanClusters r.sz
    && (chunks (spanClusters r.sz) r.members v.clusters).all fun cs => (candidates r.sz).contains cs

/-- A reservation of a queue that no longer asks for a span, or whose record it does not fit, ends; one that stays has the record's
priority (R422, R428). -/
def staleReservations (ready : List Ready) (s : State) : State :=
  let recordOf := fun (v : Reservation) => (ready.find? fun r => r.queue == v.queue).map fun r => r.record
  let stays := fun (v : Reservation) => (queueOf s v.queue).scanned && ((recordOf v).map v.fits).getD true
  { s with reservations := (s.reservations.filter fun p => stays p.2).map fun p =>
      (p.1, { p.2 with prio := ((recordOf p.2).map fun r => r.prio).getD p.2.prio }) }

/-- What an eviction keeps of a bank: its bytes and tags (R43). -/
def bankImage (s : State) (b : Nat) : Nat × List Host.Cell × Map Word :=
  let k := s.g.fieldKey b 0
  (b, ((s.field.filter fun c => decide (k ≤ c.1) && decide (c.1 < k + 2 ^ 19)).map fun c => (c.1 - k, c.2)),
    (s.ftags.filter fun t => decide (k / 8192 ≤ t.1) && decide (t.1 < k / 8192 + 64)).map fun t => (t.1 - k / 8192, t.2))

/-- A merge command of the gang is still at its engine. -/
def mergeOutstanding (g : Gang) : Bool := g.ports.any fun p => p.2.commands.any fun c => engOf c.words == 2

/-- FIELD_EVICTION (R43, R431): a halted gang on the resume list gives its span up, unless the command core is held in reset (R433). -/
def fieldEviction (id : Nat) (s : State) : State :=
  if !s.frozen && ((resumeList s).take 256).any fun h => h.id == id && !h.clusters.isEmpty && !mergeOutstanding h then
    onGang s id fun s =>
      let kept := (List.range s.g.banksInSpan).map (bankImage s)
      releaseSpan { s with g := { s.g with evicted := kept } }
  else s

/-- Whether the command core needs the span of a halted gang (R43): a queue's reservation covers a cluster of it (R428, R431), or a ready
queue of a higher level, which comes before the gang's resumption (R427, R431), cannot be placed. -/
def spanNeeded (s : State) (ready : List Ready) (h : Gang) : Bool :=
  reservedAway s h || ready.any fun r => match reservationOf s r.queue with
    | some v => h.clusters.any fun c => v.clusters.contains c
    | none => decide (h.launch.prio < r.record.prio) && (placeMembers s (some r.queue) r.record.sz r.record.members).isNone

/-- Halted gangs whose spans are needed give them up before a pass places anything (R43). -/
def evictFor (ready : List Ready) (s : State) : State :=
  ((resumeList s).take 256).foldl (fun s h => if spanNeeded s ready h then fieldEviction h.id s else s) s

/-- A start that a direct launch port holds, because a page that it reads migrates, is tried again (R360, R435). -/
def retryPorts (s : State) : State :=
  { s with agenda := s.agenda ++ (s.directPorts.filter fun p => p.2.status == 1).map fun p => .directLaunch (BitVec.ofNat 2 p.1) }

/-- SCHEDULING_PASS (R427): nothing is created or resumed while scheduling is frozen (R433), when only the direct launch ports work
(R435). -/
def schedulingPass (s : State) : State :=
  if s.power ≠ .ready then s
  else if s.frozen then retryPorts s
  else
    let (s, ready) := evalQueues { s with heartbeats := s.heartbeats + 1 }
    let s := evictFor ready (staleReservations ready s)
    let (s, done) := reservedPass ready s
    let (s, done, failed) := [7, 6, 5, 4, 3, 2, 1, 0].foldl (levelPass ready) (s, done, [])
    let s := if done = [] then s else failed.foldl ageQueue s
    reservePass failed s

/-- GANG_START (R34). -/
def gangStart (id : Nat) (s : State) : State := updGang s id fun g => if g.phase = .loading then { g with phase := .running } else g

/-- QUEUE_TAIL_WRITE (R422): a queue whose record's wait is unmet stays at ST 2 (R426). -/
def queueTailWrite (q tail : Nat) (s : State) : State :=
  let x := queueOf s q
  let diff := (tail + 2 ^ 16 - x.head) % 2 ^ 16
  if 8192 ≤ q then s
  else if 2 ^ x.lgn < diff then stopQueue (setQueue s q { x with tail := tail }) q 6 x.head
  else requestPass (setQueue s q { x with tail := tail, pending := diff != 0, st := if x.st = 3 then 3 else if diff = 0 then 0 else if x.st = 2 then 2 else 1 })

/-- QUEUE_ERROR_CLEAR (R421, R425): the queue goes on from HEAD once ERR is 0. -/
def queueErrorClear (q m : Nat) (s : State) : State :=
  let x := queueOf s q
  let err := Nat.land x.err (15 - m % 16)
  if 8192 ≤ q then s
  else requestPass (setQueue s q { x with err := err, st := if x.st = 3 ∧ err = 0 then b2n x.pending else x.st })

/-- QUEUE_WATCH_FIRE (R426): the command core evaluates the queue that waits, unless it is held in reset (R433). -/
def queueWatchFire (q : Nat) (s : State) : State := if (queueOf s q).st = 2 ∧ !s.frozen then requestPass (evalQueue s q).1 else s

/-- RESERVATION_TIMEOUT (R431): lower-priority gangs in a reservation's clusters are asked to halt, with their cohorts; those that stand
stopped for `svk` halt at once. Gangs that wait for a page are halted already. -/
def reservationTimeout (die : Nat) (s : State) : State :=
  match mfind s.reservations die with
  | none => s
  | some v =>
    if v.timedOut ∨ s.frozen ∨ 256 ≤ (resumeList s).length then s
    else
      let hit := fun (h : Gang) => (h.haltable || h.phase == .pageWait) && decide (h.launch.prio < v.prio) && h.clusters.any fun c => v.clusters.contains c
      let cohorts := ((s.g :: s.others).filter hit).map fun h => h.launch.cohort
      let ask := fun (h : Gang) => if h.active && cohorts.contains h.launch.cohort then { h with preempt := true } else h
      let stopped := ((s.g :: s.others).filter fun h => h.phase == .svkStop && cohorts.contains h.launch.cohort).map fun h => h.id
      let s := { s with
        reservations := s.reservations.map fun p => (p.1, if p.2.queue = v.queue then { p.2 with timedOut := true } else p.2)
        g := ask s.g
        others := s.others.map ask }
      stopped.foldl (fun s id => onGang s id fun s => if s.g.phase = .svkStop then haltCohort (haltGang .halted s) else s) s

/-- PREEMPTION_HALT (R37, R40, R41): a gang that the command core has asked to halt stops at its boundary, with its cohort. -/
def preemptionHalt (id : Nat) (s : State) : State :=
  match findGang s id with
  | none => s
  | some g =>
    if g.active && g.preempt then
      let s := onGang s id fun s => haltCohort (haltGang .halted s)
      if s.g.phase = .running then s else rotate s
    else s

/-- PAGE_REPLY (R222): the gang goes on, or enters its handler with the cause that it has kept; one that is evicted, or has to make room for a
reservation, resumes by a pass (R431). -/
def pageReply (id : Nat) (present : Bool) (s : State) : State :=
  match findGang s id with
  | none => s
  | some g =>
    if g.phase ≠ .pageWait then s
    else
      let s := updGang s id fun g => { g with phase := .halted, svkHeld := false, savedCause := if present then none else g.savedCause }
      if g.clusters.isEmpty || reservedAway s g then requestPass s else resumeGang id s

/-- CLUSTER_OFFLINE (R46, R428): the gang that holds it is told, and a reservation that covers it is dropped. -/
def clusterOffline (c : Nat) (s : State) : State :=
  if 128 ≤ c ∨ s.offline.contains c then s
  else
    let tell := fun (h : Gang) => if h.clusters.contains c then
        (let k := h.clusters.idxOf c; { h with revoked := some (match h.revoked with | some j => min j k | none => k) })
      else h
    let hit := (s.reservations.filter fun p => p.2.clusters.contains c).map fun p => p.2.queue
    { s with
      offline := s.offline ++ [c], g := tell s.g, others := s.others.map tell
      reservations := s.reservations.filter fun p => !hit.contains p.2.queue }

/-- EVENT_POST (R216). -/
def eventPost (id : Nat) (s : State) : State := updGang s id fun g => { g with ev := true }

/-- A queue position of the recovery mailbox (R434). -/
def Queue.position (x : Queue) : Word := w64 (x.head + x.tail * 2 ^ 16 + x.st * 2 ^ 32 + x.age * 2 ^ 36 + b2n x.pending * 2 ^ 40)

/-- Two 32-bit fields in one word. -/
def pairWord (lo hi : Nat) : Word := w64 (lo % 2 ^ 32 + hi % 2 ^ 32 * 2 ^ 32)

/-- A phase as the mailbox shows it (assumption log 6). -/
def Phase.code : Phase → Nat
  | .none => 0 | .loading => 1 | .running => 2 | .halted => 3 | .pageWait => 4 | .svkStop => 5 | .failed => 6 | .retired => 7

/-- A cluster's holder in a span allocation table: 0 if free, twice the gang's number, or one more than twice the queue of its
reservation (R434, assumption log 6). -/
def holderOf (s : State) (c : Nat) : Nat :=
  match (s.g :: s.others).find? fun h => h.clusters.contains c with
  | some h => 2 * h.id
  | none => match s.reservations.find? fun p => p.2.clusters.contains c with | some p => 2 * p.2.queue + 1 | none => 0

/-- The 32 bytes of a sequencer slot, the lead's and the followers' alike: GANGID, queue, record index, priority, state (R434). -/
def slotWords (s : State) (die slot : Nat) : List Word :=
  match (s.g :: s.others).find? fun h => !h.clusters.isEmpty && ((h.lead, h.slot) :: h.followers).contains (die, slot) with
  | some h => [h.gangId, pairWord h.launch.queue h.launch.index, pairWord h.launch.prio h.phase.code, 0]
  | none => [0, 0, 0, 0]

/-- The 16 bytes of a die's reservation: the queue, and the die's clusters of the placement as a bit mask (R434). -/
def reservationWords (s : State) (die : Nat) : List Word :=
  match mfind s.reservations die with
  | some v => [w64 (2 * v.queue + 1), w64 (((List.range 32).filter fun k => v.clusters.contains (32 * die + k)).foldl (fun m k => m + 2 ^ k) 0)]
  | none => [0, 0]

/-- The 32 bytes of a resume list entry: context address, queue, record index, priority, size code, halt order (R434). -/
def resumeEntry (h : Gang) : List Word :=
  [Config.contextAddress h.id, pairWord h.launch.queue h.launch.index, pairWord h.launch.prio h.sz, w64 h.haltOrder]

/-- The recovery mailbox (R434): its nonzero bytes by offset. The places of the fields inside an entry and the codes of a holder and a
state are the model's choice (assumption log 6). -/
def mailboxOf (s : State) : List Host.Cell :=
  wordCells 0 [Config.mailboxVersion, w64 s.heartbeats, Config.commandCorePc s.fresh, w64 (dieCycle s 0)]
    ++ wordCells 0x40 ((List.range 64).map fun k => pairWord (holderOf s (2 * k)) (holderOf s (2 * k + 1)))
    ++ wordCells 0x240 ((List.range 32).flatMap fun k => slotWords s (k / 8) (k % 8))
    ++ wordCells 0x640 ((List.range 4).flatMap (reservationWords s))
    ++ wordCells 0x680 (((resumeList s).take 256).flatMap resumeEntry)
    ++ s.queues.flatMap fun p => wordCells (0x3000 + 8 * p.1) [p.2.position]

/-- HEARTBEAT_TIMEOUT (R433). -/
def heartbeatTimeout (s : State) : State :=
  if s.frozen then s
  else sendFrame { tickDie s 0 with frozen := true, mailbox := some (mailboxOf s) } 5 0 [w64 s.heartbeats, Config.mailboxAddress]

/-- COMMAND_CORE_RELEASE (R436). -/
def commandCoreRelease (s : State) : State := requestPass { s with frozen := false }

/-- Status of a direct launch that has failed (R435). -/
def portStatus (s : State) (p : Nat) (v : Nat) : State :=
  { s with directPorts := mset {} s.directPorts p { mget ({} : DirectPort) s.directPorts p with status := w64 v } }

/-- The placements of a direct launch: the named one, then the next free ones in ascending order (R435). -/
def directPlaces (s : State) (r : Record) (w : Nat) : Option (List Placement) :=
  let lead := w % 4
  let first := bitsOf w 8 5
  let slot := bitsOf w 16 3
  match placeFirst s none [] ((spansLedBy r.sz lead).filter fun cs => cs.headD 0 == 32 * lead + first) with
  | none => none
  | some p =>
    if !slotFree s lead slot then none
    else
      let p := { p with slots := (lead, slot) :: p.slots.drop 1 }
      let later := (candidates r.sz).filter fun cs => decide (p.clusters.headD 0 < cs.headD 0)
      placeAll s none (List.replicate (r.members - 1) later) [p]

/-- DIRECT_LAUNCH (R435): only while scheduling is frozen, or for a start that the port still holds, and without a wait on a signal. A
start whose image lies in a page that migrates is held, with status 1. -/
def directLaunch (p : Nat) (s : State) : State :=
  let x := mget ({} : DirectPort) s.directPorts p
  if !s.frozen && x.status != 1 then s
  else
    let r := recordOf x.record
    match recordErr s r none with
    | 0 =>
      match readImage s r.pasid r.image.toNat r.sz with
      | (s, .held) => portStatus s p 1
      | (s, .failed) => portStatus s p 0x14
      | (s, .got im) => match directPlaces s r x.placement.toNat with
        | none => portStatus s p 0x12
        | some ps => portStatus (launchMembers s (8192 + p) 0 r im ps) p 2
    | n => portStatus s p (0x10 + n)

/-- SCHEDULING_PASS. -/
def execSchedulingPass (s : State) : Result := eventOp s schedulingPass
/-- GANG_START. -/
def execGangStart (id : Nat) (s : State) : Result := eventOp s (gangStart id)
/-- QUEUE_TAIL_WRITE. -/
def execQueueTailWrite (q : Nat) (tail : BitVec 16) (s : State) : Result := eventOp s (queueTailWrite q tail.toNat)
/-- QUEUE_ERROR_CLEAR. -/
def execQueueErrorClear (q : Nat) (m : BitVec 4) (s : State) : Result := eventOp s (queueErrorClear q m.toNat)
/-- QUEUE_WATCH_FIRE. -/
def execQueueWatchFire (q : Nat) (s : State) : Result := eventOp s (queueWatchFire q)
/-- RESERVATION_TIMEOUT. -/
def execReservationTimeout (die : Nat) (s : State) : Result := eventOp s (reservationTimeout die)
/-- PREEMPTION_HALT. -/
def execPreemptionHalt (id : Nat) (s : State) : Result := eventOp s (preemptionHalt id)
/-- FIELD_EVICTION. -/
def execFieldEviction (id : Nat) (s : State) : Result := eventOp s (fieldEviction id)
/-- PAGE_REPLY. -/
def execPageReply (id : Nat) (present : Bool) (s : State) : Result := eventOp s (pageReply id present)
/-- CLUSTER_OFFLINE. -/
def execClusterOffline (c : Nat) (s : State) : Result := eventOp s (clusterOffline c)
/-- EVENT_POST. -/
def execEventPost (id : Nat) (s : State) : Result := eventOp s (eventPost id)
/-- HEARTBEAT_TIMEOUT. -/
def execHeartbeatTimeout (s : State) : Result := eventOp s heartbeatTimeout
/-- COMMAND_CORE_RELEASE. -/
def execCommandCoreRelease (s : State) : Result := eventOp s commandCoreRelease
/-- DIRECT_LAUNCH. -/
def execDirectLaunch (p : BitVec 2) (s : State) : Result := eventOp s (directLaunch p.toNat)

end Sys2Proof.Machine
end

