-- ==== Sys2Proof/Machine/Merge.lean ====
section
/-! DEFINITION. The merge unit: commands, rows, the two passes, and completion (R400 to R409). -/
namespace Sys2Proof.Machine

/-- A merge command's fields (R400). -/
structure Merge where
  op : Nat
  write : Bool
  keepZ : Bool
  ef : Nat
  rnd : Nat
  sat : Bool
  rows : Nat
  deriving DecidableEq, Repr

def mergeOf (w : List Word) : Merge where
  op := bitsOf (cmdWord w 0) 24 2
  write := bitsOf (cmdWord w 0) 26 1 == 1
  keepZ := bitsOf (cmdWord w 0) 27 1 == 1
  ef := bitsOf (cmdWord w 0) 28 5
  rnd := bitsOf (cmdWord w 0) 33 3
  sat := bitsOf (cmdWord w 0) 36 1 == 1
  rows := cmdWord w 1

/-- Whether an address word is a G-address, and the address (R400). -/
def addrIsG (a : Nat) : Bool := 2 ^ 63 ≤ a
def addrOf (a : Nat) : Nat := if addrIsG a then a % 2 ^ 48 else a % 2 ^ 32
/-- An address word with its zero bits zero (R400). -/
def addrOk (a : Nat) : Bool := if addrIsG a then bitsOf a 48 15 == 0 else decide (a < 2 ^ 32)

/-- Read bytes for a merge unit, in either space (R406). -/
def mergeRead (s : State) (a off n : Nat) : Except EngStop (List Byte) :=
  if addrIsG a then engRead s (addrOf a + off) n
  else match fieldKeys s false (addrOf a + off) n with
    | none => .error (.status 3)
    | some ks => if keysBad s ks then .error (.status 4) else .ok (readKeys s ks)

/-- Write bytes for a merge unit, presented to their owners; tags stay (R406, R408). -/
def mergeWrite (s : State) (a off : Nat) (bs : List Byte) : Except EngStop State :=
  if addrIsG a then engWrite s (addrOf a + off) bs
  else match fieldKeys s true (addrOf a + off) bs.length with
    | none => .error (.status 3)
    | some ks => if keysPart s ks then .error (.status 4) else .ok (writeKeys s ks bs)

/-- What a write of a merge unit that fails leaves. -/
def mergeRefused (s : State) (a off n : Nat) : State := if addrIsG a then engRefused s (addrOf a + off) n else s

/-- How a pass ended: held by a migrating page, or with its status, flags, WHICH, and TOTAL or INDEX. -/
inductive PassEnd where
  | held
  | ended (s : State) (status : Nat) (flags : Fl) (which index : Nat)

/-- The arrays of a command with their alignment and WHICH, and the addresses that must be well formed (R400, R401, R405). -/
def mergeArrays (w : List Word) (c : Merge) : List (Nat × Nat × Nat) :=
  let z := efBits c.ef / 8
  [(cmdWord w 2, 4, 0), (cmdWord w 3, 4, 1), (cmdWord w 4, z, 2), (cmdWord w 5, 4, 3), (cmdWord w 6, 4, 4), (cmdWord w 7, z, 5),
    (cmdWord w 8, 4, 6)]
    ++ (if c.write then [(cmdWord w 9, 4, 7), (cmdWord w 10, z, 8)] else [])
    ++ (if cmdWord w 12 = 0 then [] else [(cmdWord w 12, 8, 9)])

/-- Statuses 1 and 5, before any access: the status and its WHICH (R405, R406). -/
def mergeCheck (w : List Word) : Nat × Nat :=
  let c := mergeOf w
  let arrays := mergeArrays w c
  if w.length ≠ 13 ∨ 2 ^ 37 ≤ cmdWord w 0 ∨ 1 < c.op
      ∨ ¬ ([4, 5].contains c.ef ∧ c.rnd = 0 ∨ efFlt c.ef ∧ c.rnd ≤ 4 ∧ c.sat = false) ∨ 2 ^ 24 < c.rows
      ∨ (arrays.any fun x => !addrOk x.1)
      ∨ (if c.write then 2 ^ 32 ≤ cmdWord w 11 else cmdWord w 9 ≠ 0 ∨ cmdWord w 10 ≠ 0 ∨ cmdWord w 11 ≠ 0) then (1, 0)
  else match arrays.find? fun x => addrOf x.1 % x.2.1 != 0 with
    | some x => (5, x.2.2)
    | none => (0, 0)

/-- The row pointers of an operand as they read, each by itself. -/
def readPointers (s : State) (a n : Nat) : List (Except EngStop Nat) := (List.range n).map fun k => (mergeRead s a (4 * k) 4).map leNat

/-- Pointer k, or what stops its read. -/
def pointerAt (ps : List (Except EngStop Nat)) (k : Nat) : Except EngStop Nat := (ps[k]?).getD (.ok 0)

/-- The entries of one row of an operand, from position p: columns strictly above `prev`, with their codes (R401). WHICH is 0 for the
pointers, 1 for columns, 2 for values of this operand. -/
def readRow (s : State) (col val z : Nat) : Nat → Nat → Option Nat → Except (Nat × EngStop) (List (Nat × Nat))
  | 0, _, _ => .ok []
  | n + 1, p, prev =>
    match mergeRead s col (4 * p) 4 with
    | .error e => .error (1, e)
    | .ok cb =>
      let j := leNat cb
      if (match prev with | some q => decide (j ≤ q) | none => false) then .error (1, .status 7)
      else match mergeRead s val (z * p) z with
        | .error e => .error (2, e)
        | .ok vb => (readRow s col val z n (p + 1) (some j)).map ((j, leNat vb) :: ·)

/-- One value delivered once, with its flags (R402, R252). -/
def mergeValue (c : Merge) (x : Num × Fl) : Nat × Fl :=
  let (code, f) := deliver c.ef (modeOf c.rnd 0) c.sat 0 x.1
  (code, x.2 ||| f)

/-- The merged columns of a row with their values before the zero test (R402). -/
def mergeColumns (c : Merge) : Nat → List (Nat × Nat) → List (Nat × Nat) → List (Nat × Nat × Fl)
  | 0, _, _ => []
  | _, [], [] => []
  | k + 1, [], (j, y) :: bs =>
    if c.op = 1 then [] else (let v := mergeValue c (valueOf c.ef y, 0); (j, v)) :: mergeColumns c k [] bs
  | k + 1, (i, x) :: as, [] =>
    if c.op = 1 then [] else (let v := mergeValue c (valueOf c.ef x, 0); (i, v)) :: mergeColumns c k as []
  | k + 1, (i, x) :: as, (j, y) :: bs =>
    if i = j then
      let v := mergeValue c (if c.op = 0 then addNum (modeOf c.rnd 0) (valueOf c.ef x) (valueOf c.ef y) else mulNum (valueOf c.ef x) (valueOf c.ef y))
      (i, v) :: mergeColumns c k as bs
    else if i < j then
      if c.op = 1 then mergeColumns c k as ((j, y) :: bs)
      else (let v := mergeValue c (valueOf c.ef x, 0); (i, v)) :: mergeColumns c k as ((j, y) :: bs)
    else
      if c.op = 1 then mergeColumns c k ((i, x) :: as) bs
      else (let v := mergeValue c (valueOf c.ef y, 0); (j, v)) :: mergeColumns c k ((i, x) :: as) bs

/-- merge_row(r) of R402 on the two rows: the entries kept, and the flags of every value. -/
def mergeRow (c : Merge) (as bs : List (Nat × Nat)) : List (Nat × Nat) × Fl :=
  let all := mergeColumns c (as.length + bs.length) as bs
  ((all.filter fun p => c.keepZ || !isZero (valueOf c.ef p.2.1)).map fun p => (p.1, p.2.1), all.foldl (fun f p => f ||| p.2.2) 0)

/-- Row r of an operand whose pointers have WHICH `base` (R401, R406). -/
def mergeOperand (s : State) (z base : Nat) (ps : List (Except EngStop Nat)) (col val r : Nat) : Except (Nat × EngStop) (List (Nat × Nat)) := do
  let bound := fun (k : Nat) => match pointerAt ps k with | .ok p => .ok p | .error e => (.error (base, e) : Except (Nat × EngStop) Nat)
  let p ← bound r
  let q ← bound (r + 1)
  if q < p then .error (base, .status 7) else .ok ()
  match readRow s col val z (q - p) p none with
  | .ok es => .ok es
  | .error (k, e) => .error (base + k, e)

/-- The rows of both operands at r. -/
def mergeInputs (s : State) (w : List Word) (c : Merge) (pa pb : List (Except EngStop Nat)) (r : Nat) :
    Except (Nat × EngStop) (List (Nat × Nat) × List (Nat × Nat)) := do
  let as ← mergeOperand s (efBits c.ef / 8) 0 pa (cmdWord w 3) (cmdWord w 4) r
  let bs ← mergeOperand s (efBits c.ef / 8) 3 pb (cmdWord w 6) (cmdWord w 7) r
  pure (as, bs)

/-- Write a row's entries in order at their positions (R404). -/
def writeRow (s : State) (w : List Word) (z : Nat) : Nat → List (Nat × Nat) → Except (State × Nat × EngStop) State
  | _, [] => .ok s
  | p, (j, v) :: r =>
    match mergeWrite s (cmdWord w 9) (4 * p) (leBytes 4 j) with
    | .error e => .error (mergeRefused s (cmdWord w 9) (4 * p) 4, 7, e)
    | .ok s =>
      match mergeWrite s (cmdWord w 10) (z * p) (leBytes z v) with
      | .error e => .error (mergeRefused s (cmdWord w 10) (z * p) z, 8, e)
      | .ok s => writeRow s w z (p + 1) r

/-- An engine stop as the end of a pass. -/
def passStop (s : State) (f : Fl) (which index : Nat) : EngStop → PassEnd
  | .hold => .held
  | .status n => .ended s n f which index

/-- The slot of row r in the write pass: its first position and one past its last (R404). -/
def slotOf (pc : List (Except EngStop Nat)) (r : Nat) : Except EngStop (Nat × Nat) := do
  let p ← pointerAt pc r
  let q ← pointerAt pc (r + 1)
  pure (p, q)

/-- The rows of a pass in ascending order (R403, R404): flags and entries so far. -/
def mergeRows (w : List Word) (c : Merge) (pa pb pc : List (Except EngStop Nat)) : List Nat → State → Fl → Nat → PassEnd
  | [], s, f, total =>
    if c.write then .ended s 0 f 0 total
    else match mergeWrite s (cmdWord w 8) (4 * c.rows) (leBytes 4 0) with
      | .ok s => .ended s 0 f 0 total
      | .error e => passStop (mergeRefused s (cmdWord w 8) (4 * c.rows) 4) f 6 c.rows e
  | r :: rs, s, f, total =>
    match mergeInputs s w c pa pb r with
    | .error (which, e) => passStop s f which r e
    | .ok (as, bs) =>
      let (out, fl) := mergeRow c as bs
      let f := f ||| fl
      if c.write then
        match slotOf pc r with
        | .error e => passStop s f 6 r e
        | .ok (p, q) =>
          if p + out.length ≠ q then .ended s 8 f 6 r
          else match writeRow s w (efBits c.ef / 8) p out with
            | .error (s, which, e) => passStop s f which r e
            | .ok s => mergeRows w c pa pb pc rs s f (total + out.length)
      else match mergeWrite s (cmdWord w 8) (4 * r) (leBytes 4 out.length) with
        | .error e => passStop (mergeRefused s (cmdWord w 8) (4 * r) 4) f 6 r e
        | .ok s => mergeRows w c pa pb pc rs s f (total + out.length)

/-- Two arrays of a command share a byte: the same space, and ranges that meet (R406). -/
def arraysMeet (a n b m : Nat) : Bool := addrIsG a == addrIsG b && meets (addrOf a) n (addrOf b) m

/-- Status 2: an output range meets an input range or another output range (R406). -/
def mergeOverlap (w : List Word) (c : Merge) (na nb : Nat) : Bool :=
  let z := efBits c.ef / 8
  let ptr := 4 * (c.rows + 1)
  let ins := [(cmdWord w 2, ptr), (cmdWord w 3, 4 * na), (cmdWord w 4, z * na), (cmdWord w 5, ptr), (cmdWord w 6, 4 * nb),
    (cmdWord w 7, z * nb)] ++ (if c.write then [(cmdWord w 8, ptr)] else [])
  let cap := cmdWord w 11
  let outs := if c.write then [(cmdWord w 9, 4 * cap), (cmdWord w 10, z * cap)] else [(cmdWord w 8, ptr)]
  (outs.any fun o => ins.any fun x => arraysMeet o.1 o.2 x.1 x.2)
    || (c.write && arraysMeet (cmdWord w 9) (4 * cap) (cmdWord w 10) (z * cap))

/-- The pointers of A, B and, in the write pass, C. An error in the unit's buffer falls on the first that it reads (R406, R444). -/
def passPointers (s : State) (w : List Word) (c : Merge) : List (Except EngStop Nat) × List (Except EngStop Nat) × List (Except EngStop Nat) :=
  let pa := readPointers s (cmdWord w 2) (c.rows + 1)
  (if bufferBad s w then .error (.status 4) :: pa.drop 1 else pa, readPointers s (cmdWord w 5) (c.rows + 1),
    if c.write then readPointers s (cmdWord w 8) (c.rows + 1) else [])

/-- What stops a pass without rows: a last pointer that cannot be read (R406). -/
def noRowStop (c : Merge) (pa pb pc : List (Except EngStop Nat)) : Option (Nat × EngStop) :=
  if c.rows ≠ 0 then none
  else match pointerAt pa 0, pointerAt pb 0, pointerAt pc 0 with
    | .error e, _, _ => some (0, e)
    | .ok _, .error e, _ => some (3, e)
    | .ok _, .ok _, .error e => some (6, e)
    | _, _, _ => none

/-- A whole pass: the pointers, the checks that need them, and the rows (R403, R404, R406). A pointer that cannot be read stops the lowest
row that needs it; the entries of an operand whose last pointer cannot be read have no range to check (assumption log 44). -/
def mergePass (s : State) (w : List Word) : PassEnd :=
  match mergeCheck w with
  | (0, _) =>
    let c := mergeOf w
    let (pa, pb, pc) := passPointers s w c
    let last := fun (ps : List (Except EngStop Nat)) => match pointerAt ps c.rows with | .ok n => n | .error _ => 0
    if (pa ++ pb ++ pc).any fun x => match x with | .error .hold => true | _ => false then .held
    else if mergeOverlap w c (last pa) (last pb) then .ended s 2 0 0 0
    else if c.write ∧ cmdWord w 11 < last pc then .ended s 8 0 6 c.rows
    else match noRowStop c pa pb pc with
      | some (which, e) => passStop s 0 which 0 e
      | none => mergeRows w c pa pb pc (List.range c.rows) s 0 0
  | (n, which) => .ended s n 0 which 0

/-- The reads that readRow makes, up to the one that stops it: array, offset, length. -/
def rowReads (s : State) (col val z : Nat) : Nat → Nat → Option Nat → List (Nat × Nat × Nat)
  | 0, _, _ => []
  | n + 1, p, prev =>
    (col, 4 * p, 4) :: match mergeRead s col (4 * p) 4 with
    | .error _ => []
    | .ok cb =>
      let j := leNat cb
      if (match prev with | some q => decide (j ≤ q) | none => false) then []
      else (val, z * p, z) :: match mergeRead s val (z * p) z with
        | .error _ => []
        | .ok _ => rowReads s col val z n (p + 1) (some j)

/-- The reads of row r of both operands, up to the one that stops the pass. -/
def inputReads (s : State) (w : List Word) (c : Merge) (pa pb : List (Except EngStop Nat)) (r : Nat) : List (Nat × Nat × Nat) :=
  let z := efBits c.ef / 8
  let reads := fun (ps : List (Except EngStop Nat)) (col val : Nat) =>
    match pointerAt ps r, pointerAt ps (r + 1) with | .ok p, .ok q => rowReads s col val z (q - p) p none | _, _ => []
  reads pa (cmdWord w 3) (cmdWord w 4) ++ match mergeOperand s z 0 pa (cmdWord w 3) (cmdWord w 4) r with
    | .ok _ => reads pb (cmdWord w 6) (cmdWord w 7)
    | .error _ => []

/-- The reads of local HBM that a pass has made when it ends with a status at an index: address and length. None comes before the checks
of statuses 1 and 5, and none but the pointers before the rows (R406). -/
def mergeReads (s : State) (w : List Word) (status index : Nat) : List (Nat × Nat) :=
  let c := mergeOf w
  if (mergeCheck w).1 ≠ 0 then []
  else
    let (pa, pb, _) := passPointers s w c
    let ptrs := (List.range (c.rows + 1)).flatMap fun k =>
      [(cmdWord w 2, 4 * k, 4), (cmdWord w 5, 4 * k, 4)] ++ if c.write then [(cmdWord w 8, 4 * k, 4)] else []
    let rows := if status = 2 ∨ (status = 8 ∧ index = c.rows) then 0 else if status = 0 then c.rows else min (index + 1) c.rows
    (ptrs ++ (List.range rows).flatMap (inputReads s w c pa pb)).filterMap fun x => if addrIsG x.1 then some (addrOf x.1 + x.2.1, x.2.2) else none

/-- What reads of local HBM leave at the hubs and at lost or failing stacks (R361, R374, R377). -/
def countReads (s : State) (reads : List (Nat × Nat)) : State := reads.foldl (fun s x => engTouch s x.1 x.2) s

/-- Commands of the merge unit of a cluster that have begun and not ended, over the gang's ports (R409). -/
def unitBusy (g : Gang) (inst : Nat) : Nat :=
  (g.ports.map fun p => (p.2.commands.filter fun c => engOf c.words == 2 && c.stage != 0 && bitsOf (cmdWord c.words 0) 4 12 == inst).length).foldl (· + ·) 0

/-- A merge unit performs a command of the port that it has not begun, if its pass is the one asked for and the unit runs fewer than four
(R409). -/
def mergeCommand (write : Bool) (p : Nat) (s : State) : State :=
  match findCommand s p 2 0 with
  | none => s
  | some c =>
    let s := s.used
    if (mergeOf c.words).write ≠ write ∨ 4 ≤ unitBusy s.g (bitsOf (cmdWord c.words 0) 4 12) then s
    else match mergePass s c.words with
      | .held => s
      | .ended s' status f which index =>
        let s := countReads s' (mergeReads s c.words status index)
        let s := if (mergeCheck c.words).1 = 0 then spendBuffer s c.words else s
        setPort s p (replaceCommand (s.g.port p) c
          { c with stage := 1, result := resultWord status f.toNat which index, doneOk := status == 0 })

/-- MERGE_COUNT_PASS (R403). -/
def mergeCountPass (p : Nat) (s : State) : State := mergeCommand false p s
/-- MERGE_WRITE_PASS (R404). -/
def mergeWritePass (p : Nat) (s : State) : State := mergeCommand true p s

/-- The add to DONE, after every output write and before the result word (R407). -/
def mergeDone (s : State) (a : Nat) : Except EngStop State := do
  let bs ← mergeRead s a 0 8
  let v := leBytes 8 ((leNat bs + 1) % 2 ^ 64)
  if addrIsG a then
    let pa ← engTranslate s (addrOf a) true true
    .ok (physStore (physTouch (useG s (addrOf a)) pa 8 true) pa v)
  else mergeWrite s a 0 v

/-- MERGE_COMPLETE (R405, R407). -/
def mergeComplete (p : Nat) (s : State) : State :=
  match findCommand s p 2 1 with
  | none => s
  | some c =>
    let s := s.used
    let done := cmdWord c.words 12
    if c.doneOk && done != 0 then
      match mergeDone s done with
      | .ok s => finishCommand s p c c.result
      | .error (.status n) =>
        let s := if addrIsG done then engTouch s (addrOf done) 8 else s
        finishCommand s p c (resultWord n (bitsOf c.result.toNat 8 5) 9 0)
      | .error .hold => s
    else finishCommand s p c c.result

end Sys2Proof.Machine
end

