-- ==== Sys2Proof/Machine/Collective.lean ====
section
/-! DEFINITION. The collective engine: all-gather, reduce-scatter and their completion (R416 to R420). -/
namespace Sys2Proof.Machine

/-- A collective command's fields (R416). -/
structure Coll where
  scatter : Bool
  treeOrder : Bool
  path : Nat
  ef : Nat
  rnd : Nat
  sat : Bool
  nrank : Nat
  rank : Nat
  n : Nat
  send : Nat
  recv : Nat
  group : Nat
  flag : Nat
  fval : Nat
  target : Nat
  deriving DecidableEq, Repr

def collOf (w : List Word) : Coll where
  scatter := bitsOf (cmdWord w 0) 24 1 == 1
  treeOrder := bitsOf (cmdWord w 0) 25 1 == 1
  path := bitsOf (cmdWord w 0) 26 2
  ef := bitsOf (cmdWord w 0) 28 5
  rnd := bitsOf (cmdWord w 0) 33 3
  sat := bitsOf (cmdWord w 0) 36 1 == 1
  nrank := bitsOf (cmdWord w 1) 0 13
  rank := bitsOf (cmdWord w 1) 16 13
  n := cmdWord w 2
  send := cmdWord w 3
  recv := cmdWord w 4
  group := cmdWord w 5
  flag := cmdWord w 6
  fval := cmdWord w 7
  target := cmdWord w 8

/-- Element size in bytes. -/
def Coll.z (c : Coll) : Nat := efBits c.ef / 8
/-- Bytes of one slot. -/
def Coll.slot (c : Coll) : Nat := c.n * c.z
/-- Bytes of SEND, RECV and the device's own landing area (R416). -/
def Coll.sendBytes (c : Coll) : Nat := if c.scatter then c.nrank * c.slot else c.slot
def Coll.recvBytes (c : Coll) : Nat := if c.scatter then c.slot else c.nrank * c.slot

/-- The fields of R416: LEN, EF, RND, SAT and OR by OP, PATH, and every zero bit. -/
def collFields (w : List Word) : Bool :=
  let c := collOf w
  w.length == 9 && decide (cmdWord w 0 < 2 ^ 37) && c.path != 3
    && (if c.scatter then reduceFormat c.ef c.rnd c.sat
        else (decide (c.ef ≤ 7) || (decide (12 ≤ c.ef) && decide (c.ef ≤ 16)) || c.ef == 18) && c.rnd == 0 && !c.sat && !c.treeOrder)
    && cmdWord w 1 == c.nrank + c.rank * 2 ^ 16 && decide (2 ≤ c.nrank) && decide (c.nrank ≤ 4096) && decide (c.rank < c.nrank)
    && decide (1 ≤ c.n) && decide (c.n ≤ 2 ^ 34) && [c.send, c.recv, c.group, c.flag].all (· < 2 ^ 48)

/-- Entry q of the group table: LAND and CNT (R416). -/
def groupEntry (s : State) (c : Coll) (q : Nat) : Except EngStop (Nat × Nat) := do
  let a := c.group + 16 * q
  let p0 ← engTranslate s a false false
  let p1 ← engTranslate s (a + 8) false false
  match physPeek s p0 8, physPeek s p1 8 with
  | some x, some y => .ok (leNat x, leNat y)
  | _, _ => .error (.status 4)

/-- The whole group table. -/
def groupTable (s : State) (c : Coll) : Except EngStop (List (Nat × Nat)) := (List.range c.nrank).mapM (groupEntry s c)

/-- What reading the group table, up to an entry that cannot be read, leaves at the hub and the stacks (R361, R374, R377). -/
def touchTable (s : State) (c : Coll) : State :=
  let n := ((List.range c.nrank).find? fun q => (groupEntry s c q).toOption.isNone).getD c.nrank
  (List.range (2 * min (n + 1) c.nrank)).foldl (fun s k => engTouch s (c.group + 8 * k) 8) s

/-- The checks of R419 that the words alone decide: status 1, then 5, then 2. -/
def collWords (w : List Word) : Nat :=
  let c := collOf w
  if !collFields w then 1
  else if c.send % c.z ≠ 0 ∨ c.recv % c.z ≠ 0 ∨ c.group % 8 ≠ 0 ∨ c.flag % 8 ≠ 0 then 5
  else if meets c.send c.sendBytes c.recv c.recvBytes
      ∨ (c.flag ≠ 0 ∧ (meets c.flag 8 c.send c.sendBytes ∨ meets c.flag 8 c.recv c.recvBytes)) then 2
  else 0

/-- The checks of R419 that need the group table: status 1, 5, then 2. -/
def collTable (c : Coll) (t : List (Nat × Nat)) : Nat :=
  let land := ((t[c.rank]?).getD (0, 0)).1
  let all := c.nrank * c.slot
  if (t.any fun e => decide (2 ^ 48 ≤ e.1) || decide (2 ^ 48 ≤ e.2)) ∨ (c.scatter = false ∧ land ≠ c.recv) then 1
  else if t.any fun e => e.1 % c.z != 0 || e.2 % 8 != 0 then 5
  else if meets c.send c.sendBytes land all ∨ (c.flag ≠ 0 ∧ meets c.flag 8 land all) then 2
  else 0

/-- Where an access of a collective command that failed was made, as R396 has it for WHICH and INDEX: element j of a source or of the
destination, the flag, or the group table or a counter, for which it has no code. -/
inductive CollPlace where
  | source (j : Nat)
  | destination (j : Nat)
  | flag
  | other
  deriving DecidableEq, Repr

/-- What stopped a collective engine: the machine as its accesses have left it, the flags so far, the cause, and the place. -/
structure CollStop where
  after : State
  flags : Fl := 0
  stop : EngStop
  place : CollPlace

/-- Write element j of a slot of rank q: at once in local HBM, else sent to its peer (R129, R417). One that a lost unit would need is an
uncorrectable error (R380). -/
def collElement (p : Nat) (c : Coll) (land q j : Nat) (s : State) : Except CollStop State :=
  let src := c.send + (if c.scatter then q * c.slot else 0) + j * c.z
  let dst := land + c.rank * c.slot + j * c.z
  let s1 := engTouch s src c.z
  match engRead s src c.z with
  | .error e => .error { after := s1, stop := e, place := .source j }
  | .ok bs =>
    match engTranslate s dst true (q == c.rank) with
    | .error e => .error { after := useG s1 dst, stop := e, place := .destination j }
    | .ok pa =>
      if storeLost s pa c.z then .error { after := physTouch (useG s1 dst) pa c.z true, stop := .status 4, place := .destination j }
      else .ok (sendWrite (useG s1 dst) (16 + p + 16 * q) dst pa bs)

/-- The writes of a command: slot r of every rank (R417). -/
def collSend (p : Nat) (c : Coll) (t : List (Nat × Nat)) (s : State) : Except CollStop State :=
  t.zipIdx.foldlM (fun s e => (List.range c.n).foldlM (fun s j => collElement p c e.1.1 e.2 j s) s) s

/-- The result word of a command that ended early, with the flags raised so far (R396, R419): 16 for the destination and 17 for the flag;
which source, and WHICH and INDEX of the group table or a counter, are free values (assumption log 2). -/
def collResult (s : State) (status : Nat) (f : Fl) : CollPlace → Word × State
  | .destination j => (resultWord status f.toNat 16 j, s)
  | .flag => (resultWord status f.toNat 17 0, s)
  | .source j => let (v, s) := freeValue s; (resultWord status f.toNat (v.toNat % 16) j, s)
  | .other => let (v, s) := freeValue s; (resultWord status f.toNat (v.toNat % 32) (v.toNat / 32), s)

/-- The command of a collective engine that has begun on a port: it sends, waits, or has ended early. -/
def collBegun (x : Port) : Option Command := x.commands.find? fun c => engOf c.words == 3 && c.stage != 0

/-- Whether a peer has still to acknowledge a write or a counter add of the command on a port. -/
def collUnacked (s : State) (p : Nat) : Bool :=
  s.unacked.any fun u => u.gang == s.g.id && decide (16 ≤ u.origin) && u.origin % 16 == p

/-- A command that has ended gives its result once every write that it has sent is performed or dropped (R136). -/
def collGive (s : State) (p : Nat) (cmd : Command) : State :=
  if collUnacked s p then s else finishCommand s p cmd cmd.result

/-- A command ends early with a status and the flags so far; where a migrating page holds it (R360), it goes on later from `before`. Its
status stands whatever a peer refuses afterwards (assumption log 79). -/
def collEnd (p : Nat) (cmd : Command) (before : State) (x : CollStop) : State :=
  match x.stop with
  | .hold => before
  | .status n =>
    let (word, s) := collResult x.after n x.flags x.place
    setPort s p (replaceCommand (s.g.port p) cmd { cmd with stage := 2, result := word })

/-- The send phase of a collective command that the port has not begun, if its operation is the one asked for and no other command of the
engine is under way on the port. -/
def collCommand (scatter : Bool) (p : Nat) (s : State) : State :=
  match (commandsAt (s.g.port p) 3 0).head? with
  | none => s
  | some cmd =>
    let c := collOf cmd.words
    if c.scatter ≠ scatter ∨ (collBegun (s.g.port p)).isSome then s
    else
      let ended := fun (n : Nat) => setPort s p (replaceCommand (s.g.port p) cmd { cmd with stage := 2, result := resultWord n 0 0 0 })
      match collWords cmd.words with
      | 0 =>
        match (if bufferBad s cmd.words then .error (.status 4) else groupTable s c) with
        | .error e => collEnd p cmd s { after := spendBuffer (touchTable s c) cmd.words, stop := e, place := .other }
        | .ok t =>
          match collTable c t with
          | 0 => match collSend p c t (touchTable s c) with
            | .ok s => setPort s p (replaceCommand (s.g.port p) cmd { cmd with stage := 1 })
            | .error x => collEnd p cmd s x
          | n => ended n
      | n => ended n

/-- ALL_GATHER (R417). -/
def allGather (p : Nat) (s : State) : State := collCommand false p s
/-- REDUCE_SCATTER (R417). -/
def reduceScatter (p : Nat) (s : State) : State := collCommand true p s

/-- Add 1 at rank q's counter, unless its peer has dropped a write of this command (R415, R417): at once in local HBM, else sent to the
peer, which acknowledges it or refuses it (R419). -/
def collCount (p : Nat) (c : Coll) (cmd : Command) (cnt q : Nat) (s : State) : Except CollStop State :=
  if cmd.nak.contains q then .ok s
  else match engTranslate s cnt true (q == c.rank) with
    | .error e => .error { after := useG s cnt, stop := e, place := .other }
    | .ok pa =>
      if 2 ≤ region pa then .error { after := useG s cnt, stop := .status 3, place := .other }
      else if region pa = 1 then
        let u : Unacked := ⟨s.g.id, 16 + p + 16 * q, s.g.retired, cnt, pa, leBytes 8 1, sendGen s pa, true⟩
        .ok { (useG s cnt) with unacked := s.unacked ++ [u] }
      else match physPeek s pa 8 with
        | some bs => .ok (physStore (physTouch (useG s cnt) pa 8 true) pa (leBytes 8 ((leNat bs + 1) % 2 ^ 64)))
        | none => .error { after := physTouch (useG s cnt) pa 8, stop := .status 4, place := .other }

/-- The terms of element j: element j of each slot of the device's own landing area (R417). -/
def collTerms (s : State) (c : Coll) (land j : Nat) : Except EngStop (List Nat) :=
  (List.range c.nrank).mapM fun q => (engRead s (land + q * c.slot + j * c.z) c.z).map leNat

/-- The sum of the terms in tree or ring order (R96, R417). -/
def collSum (c : Coll) (ts : List Nat) : Nat × Fl :=
  if c.treeOrder then sumCodes c.ef (modeOf c.rnd 0) c.sat 0 ts
  else foldCodes c.ef (modeOf c.rnd 0) c.sat 0 (ts.drop ((c.rank + 1) % c.nrank) ++ ts.take ((c.rank + 1) % c.nrank))

/-- The reads of element j's terms, up to the one that stops. -/
def touchTerms (s : State) (c : Coll) (land j : Nat) : State :=
  let at_ := fun (q : Nat) => land + q * c.slot + j * c.z
  let n := ((List.range c.nrank).find? fun q => (engRead s (at_ q) c.z).toOption.isNone).getD c.nrank
  (List.range (min (n + 1) c.nrank)).foldl (fun s q => engTouch s (at_ q) c.z) s

/-- Element j of RECV, with the flags of its additions (R417). -/
def collReceive (c : Coll) (land j : Nat) (s : State) (f0 : Fl) : Except CollStop (State × Fl) :=
  let s1 := touchTerms s c land j
  match collTerms s c land j with
  | .error e => .error { after := s1, flags := f0, stop := e, place := .source j }
  | .ok ts =>
    let (code, f) := collSum c ts
    match engWrite s1 (c.recv + j * c.z) (leBytes c.z code) with
    | .error e => .error { after := engRefused s1 (c.recv + j * c.z) c.z, flags := f0 ||| f, stop := e, place := .destination j }
    | .ok t => .ok (t, f0 ||| f)

/-- RECV of a reduce-scatter, as far as its elements can be made, with the flags so far (R417). -/
def collReduce (c : Coll) (land : Nat) : List Nat → State → Fl → Except CollStop (State × Fl)
  | [], s, f => .ok (s, f)
  | j :: js, s, f => match collReceive c land j s f with
    | .ok (s, f) => collReduce c land js s f
    | .error x => .error x

/-- The device's own counter has reached TARGET (R417). -/
def collArrived (s : State) (c : Coll) (t : List (Nat × Nat)) : Except EngStop Bool := do
  let bs ← engRead s ((t[c.rank]?).getD (0, 0)).2 8
  .ok (decide (c.target ≤ leNat bs))

/-- The reduction, the flag and the result once the counter has reached TARGET (R417, R419). -/
def collFinish (p : Nat) (cmd : Command) (c : Coll) (t : List (Nat × Nat)) (s : State) : Except CollStop State := do
  let land := ((t[c.rank]?).getD (0, 0)).1
  let (s, f) ← (if c.scatter then collReduce c land (List.range c.n) s 0 else .ok (s, 0))
  match cmd.nak with
  | q :: r => .ok (finishCommand s p cmd (resultWord 9 f.toNat 0 (r.foldl Nat.min q)))
  | [] =>
    let s ← (if c.flag = 0 then .ok s else match writeFlag s c.flag c.fval with
      | .ok t => .ok t
      | .error e => .error { after := engRefused s c.flag 8, flags := f, stop := e, place := .flag })
    .ok (finishCommand s p cmd (resultWord 0 f.toNat 0 0))

/-- The counter adds of a command, each once every write is performed (R417). -/
def collCounts (p : Nat) (c : Coll) (cmd : Command) (t : List (Nat × Nat)) (s : State) : Except CollStop State :=
  t.zipIdx.foldlM (fun s e => collCount p c cmd e.1.2 e.2 s) s

/-- The counter adds of a command at stage 1 whose writes are performed or dropped (R417). -/
def collAdd (p : Nat) (cmd : Command) (c : Coll) (t : List (Nat × Nat)) (s : State) : State :=
  match collCounts p c cmd t s with
  | .error x => collEnd p cmd s x
  | .ok s => setPort s p (replaceCommand (s.g.port p) cmd { cmd with doneOk := true })

/-- What is left to a command once its adds are performed or dropped: its own counter, then the reduction and the flag (R417, R420). -/
def collRest (p : Nat) (cmd : Command) (c : Coll) (t : List (Nat × Nat)) (s : State) : State :=
  match collArrived s c t with
  | .error e => collEnd p cmd s { after := engTouch s ((t[c.rank]?).getD (0, 0)).2 8, stop := e, place := .other }
  | .ok false => s
  | .ok true => match collFinish p cmd c t (engTouch s ((t[c.rank]?).getD (0, 0)).2 8) with
    | .error x => collEnd p cmd s x
    | .ok s => s

/-- The wait of a command at stage 1 (R417, R420). -/
def collWait (p : Nat) (cmd : Command) (s : State) : State :=
  let c := collOf cmd.words
  if collUnacked s p then s
  else match groupTable s c with
    | .error e => collEnd p cmd s { after := touchTable s c, stop := e, place := .other }
    | .ok t =>
      if cmd.doneOk then collRest p cmd c t s
      else
        let s := collAdd p cmd c t s
        if collUnacked s p then s
        else match collBegun (s.g.port p) with
          | none => s
          | some cmd => if cmd.stage = 1 ∧ cmd.doneOk then collRest p cmd c t s else s

/-- COLLECTIVE_WAIT_COMPLETE (R417, R419, R420): a command that waits goes on once its counter has reached TARGET; one that ended early
gives its result. -/
def collectiveWaitComplete (p : Nat) (s : State) : State :=
  match collBegun (s.g.port p) with
  | none => s
  | some cmd =>
    if cmd.stage = 2 then collGive s p cmd
    else
      let s := collWait p cmd s
      match collBegun (s.g.port p) with
      | some cmd => if cmd.stage = 2 then collGive s p cmd else s
      | none => s

/-- A peer has refused a write or a counter add of the command on port p for rank q (R132, R419). -/
def collNak (p q : Nat) (s : State) : State :=
  match collBegun (s.g.port p) with
  | none => s
  | some cmd => setPort s p (replaceCommand (s.g.port p) cmd { cmd with nak := cmd.nak ++ (if cmd.nak.contains q then [] else [q]) })

end Sys2Proof.Machine
end

