-- ==== Sys2Proof/Machine/Fabric.lean ====
section
/-! DEFINITION. What arrives over the Ethernet ports: acknowledgements and NAKs, peer accesses, and the state of ports, connections
and peer windows (R129, R132, R185, R411 to R415). -/
namespace Sys2Proof.Machine

/-- A refused STG is reported once, the one earliest in gang order (R185). -/
def Gang.noteNak (g : Gang) (seq : Nat) (a : Word) : Gang :=
  match g.stgNak with
  | some (n, _) => if seq < n then { g with stgNak := some (seq, a) } else g
  | none => { g with stgNak := some (seq, a) }

/-- A write of the copy numbered n on channel c has been dropped (R132, R343): NK is set, and the frame that lacks the bytes posts no signal
(R138; assumption log 24). -/
def nakChannel (c n d : Nat) (s : State) : State :=
  let x := s.g.channel c
  let mark := fun (y : Copy) => if y.num = n then { y with posted := y.posted ++ [d] } else y
  setChannel s c { x with errors := x.errors ||| 0x10, queue := x.queue.map mark }

/-- The write is dropped, and its sender learns of it (R132, R185, R419). -/
def dropWrite (s : State) (u : Unacked) : State :=
  if u.origin = 0 then updGang s u.gang fun g => g.noteNak u.seq (w64 u.va)
  else if u.origin < 16 then onGang s u.gang (nakChannel (u.origin - 1) u.seq (u.va / 8192))
  else onGang s u.gang (collNak (u.origin % 16) (u.origin / 16 - 1))

/-- Whether a write's peer window has been retired or remapped since it was sent (R132, R413). -/
def windowMoved (s : State) (u : Unacked) : Bool := region u.pa == 1 && (sendGen s u.pa != u.gen || !peerOk s u.pa)

/-- The bytes that a write leaves: those it carries, or for a counter add the sum with what stands there (R417). -/
def landing (s : State) (u : Unacked) : List Byte :=
  if u.add then leBytes u.bytes.length ((leNat (memBytes s u.pa u.bytes.length) + leNat u.bytes) % 2 ^ (8 * u.bytes.length)) else u.bytes

/-- WRITE_ACKNOWLEDGEMENT (R129, R132): the oldest write to peer or host memory is performed, or dropped. -/
def writeAcknowledgement (ok : Bool) (s : State) : State :=
  match s.unacked with
  | [] => s
  | u :: r =>
    let s := { s with unacked := r }
    if ok && !windowMoved s u then physStore s u.pa (landing s u) else dropWrite s u

/-- STG_NAK (R185): an STG of the gang at address a that is not yet acknowledged is dropped. -/
def stgNak (gang a : Nat) (s : State) : State :=
  match s.unacked.find? fun u => u.gang == gang && u.origin == 0 && u.va == a with
  | none => s
  | some u => dropWrite { s with unacked := s.unacked.erase u } u

/-- A descriptor's words without their zero bits (R413). -/
def descriptorWord (k : Nat) (v : Word) : Word :=
  match k with
  | 0 => v &&& 0xFFFFFFFFFFFF0003
  | 1 => v &&& 0x0000FFFFFFFFFFFF
  | 2 => v &&& 0xFFFFFFFF000FFFFF
  | _ => 0

/-- The grant for window `win` that the device at endpoint `peer` has opened towards this one (R415). -/
def grantKey (peer win : Nat) : Nat := peer * 256 + win

/-- An inbound access of host memory, or of a further peer's (R414): a write waits for that target's acknowledgement, and an AMO reaches
peer memory alone (R188; assumption log 25). -/
def forwardAccess (s : State) (x : PeerAccess) (pa : Nat) : State :=
  match x.kind with
  | .read => { s with homeData := some (w64 (leNat (memBytes s pa x.size))) }
  | .write => { s with homeData := some 0, unacked := s.unacked ++ [⟨0, 0, 0, 0, pa, leBytes x.size x.val.toNat, sendGen s pa, false⟩] }
  | .amo op =>
    if region pa ≠ 1 then { s with homeData := none }
    else
      let (s, bs) := amoHome s pa op.toNat x.size (x.val.toNat % 2 ^ (8 * x.size)) (x.cmp.toNat % 2 ^ (8 * x.size))
      { s with homeData := bs.map fun bs => w64 (leNat bs) }

/-- PEER_INBOUND_ACCESS (R414, R415): performed under the grant's PASID, or dropped where its generation or its offset does not match
the grant or its translation is refused. -/
def peerInboundAccess (x : PeerAccess) (s : State) : State :=
  let m := mget ({} : Method) s.grants (grantKey x.peer.toNat x.win.toNat)
  let va := rbaseOf m + x.off
  let acc : Access := match x.kind with | .read => .read | .write => .write | .amo _ => .write
  let dropped := { s with homeData := none }
  if genOf m ≠ x.gen.toNat ∨ lengthOf m < x.off + x.size ∨ !accessShape x.size va then dropped
  else match translateFull s 0 (rpasidOf m) va acc with
    | .ok pa _ =>
      let s := hubUse s 0 (rpasidOf m) va
      if region pa ≠ 0 then forwardAccess s x pa
      else
        let (s, r) := homeAccess s x.kind pa x.size x.val x.cmp
        { s with homeData := r }
    | .migrating => s
    | _ => dropped

/-- PEER_WINDOW_REMAP (R413, R415): the generation advances, then the new contents are written. -/
def peerWindowRemap (w : Nat) (w0 w1 w2 : Word) (s : State) : State :=
  let old := mget ({} : Method) s.peerWindows w
  let v := setBits (descriptorWord 0 w0) 16 16 (genOf old + 1)
  { s with peerWindows := mset {} s.peerWindows w ⟨v, descriptorWord 1 w1, descriptorWord 2 w2, 0⟩ }

/-- PORT_DOWN and PORT_UP (R411): the ports over which traffic may travel. -/
def portDown (p : Nat) (s : State) : State :=
  if 12 ≤ p ∨ s.portsDown.contains p then s else { s with portsDown := s.portsDown ++ [p] }
def portUp (p : Nat) (s : State) : State := { s with portsDown := s.portsDown.erase p }

/-- CONNECTION_SETUP (R411): a request for unreliable delivery is refused. -/
def connectionSetup (mode : DeliveryMode) (s : State) : State :=
  if mode = .unreliable then s else { s with connections := s.connections ++ [mode] }

/-- WRITE_ACKNOWLEDGEMENT. -/
def execWriteAcknowledgement (ok : Bool) (s : State) : Result := eventOp s (writeAcknowledgement ok)
/-- STG_NAK. -/
def execStgNak (gang a : Nat) (s : State) : Result := eventOp s (stgNak gang a)
/-- PEER_INBOUND_ACCESS. -/
def execPeerInboundAccess (x : PeerAccess) (s : State) : Result := eventOp s (peerInboundAccess x)
/-- PEER_WINDOW_REMAP. -/
def execPeerWindowRemap (w : BitVec 8) (w0 w1 w2 : Word) (s : State) : Result := eventOp s (peerWindowRemap w.toNat w0 w1 w2)
/-- PORT_DOWN. -/
def execPortDown (p : Nat) (s : State) : Result := eventOp s (portDown p)
/-- PORT_UP. -/
def execPortUp (p : Nat) (s : State) : Result := eventOp s (portUp p)
/-- CONNECTION_SETUP. -/
def execConnectionSetup (mode : DeliveryMode) (s : State) : Result := eventOp s (connectionSetup mode)

end Sys2Proof.Machine
end

