-- ==== Sys2Proof/Machine/Ports.lean ====
section
/-! DEFINITION. Engine ports: EQPUSH, EQPOP, EQSTAT and the steps of the engines behind them (R134 to R136, R207 to R210). -/
namespace Sys2Proof.Machine

/-- The steps of the engines for one port, oldest command first. -/
def enginePass (p : Nat) (s : State) : State :=
  collectiveWaitComplete p (reduceScatter p (allGather p
    (mergeComplete p (mergeWritePass p (mergeCountPass p (reductionComplete p (reductionCommand p s)))))))

/-- Engines act at once in the model's `lockstep` timing. -/
def runEngines (p : Nat) (s : State) : State := if s.lockstep then enginePass p s else s

/-- Every port's engines. -/
def runAllEngines (s : State) : State := (List.range 16).foldl (fun s p => runEngines p s) s

/-- The result word of a command that the port discards (R207). -/
def discardWord : Word := BitVec.allOnes 64

/-- The port discards the open command (R207). -/
def discardOpen (s : State) (p : Nat) : State :=
  let s := setPort s p { s.g.port p with openWords := [], results := (s.g.port p).results ++ [discardWord], err := true }
  { s with g := { s.g with ev := true } }

/-- ENG and INSTANCE name an engine (R207). -/
def engineExists (g : Gang) (head : Nat) : Bool :=
  match head % 16 with
  | 1 => bitsOf head 4 12 < 12
  | 2 => bitsOf head 4 12 < g.clusters.length
  | 3 => bitsOf head 4 12 < 4
  | _ => false

/-- A command as the port accepts it: its head names an engine and its LEN is its word count (R207). -/
def commandOk (g : Gang) (w : List Word) : Bool := engineExists g (cmdWord w 0) && bitsOf (cmdWord w 0) 16 8 == w.length

/-- Commands that are outstanding or whose results are unpopped (R208). -/
def Port.held (x : Port) : Nat := x.commands.length + x.results.length

/-- Words of commands that no engine has accepted (R208). -/
def Port.words (x : Port) : Nat := x.openWords.length + ((x.commands.filter fun c => c.stage == 0).map fun c => c.words.length).foldl (· + ·) 0

/-- The command ends: an engine starts it, or the port discards it (R207, R208). A bad ENG or INSTANCE is looked for here, at its last
word (assumption log 70). -/
def endCommand (s : State) (p : Nat) (v : Word) : State :=
  let x := s.g.port p
  let w := x.openWords ++ [v]
  if commandOk s.g w then runEngines p (setPort s p { x with openWords := [], commands := x.commands ++ [⟨w, 0, 0, false, []⟩] })
  else discardOpen s p

/-- EQPUSH (R207, R208): a 65th word discards the command, and a word after it begins another (assumption log 70). -/
def execEqpush (a : Reg) (p : BitVec 5) (s : State) : Result :=
  userOp (.eqpush a p) s fun s =>
    let x := s.g.port p.toNat
    if x.openWords.length = 64 then
      (if 4 ≤ x.held then trapIllegal s (.eqpush a p) 3 else (discardOpen s p.toNat).commit4)
    else if 64 ≤ x.words then stall s
    else (setPort s p.toNat { x with openWords := x.openWords ++ [s.reg a] }).commit4

/-- EQPUSH.last (R135, R207, R208). -/
def execEqpushLast (a : Reg) (p : BitVec 5) (s : State) : Result :=
  userOp (.eqpushLast a p) s fun s =>
    let x := s.g.port p.toNat
    if 4 ≤ x.held then trapIllegal s (.eqpushLast a p) 3
    else if x.openWords.length = 64 then (discardOpen s p.toNat).commit4
    else if decide (64 ≤ x.words) || !releaseReady s 2 then stall s
    else (endCommand s p.toNat (s.reg a)).commit4

/-- EQPOP (R136, R209), an acquire: it waits for the gang's earlier STGs (R183). -/
def execEqpop (d : Reg) (p : BitVec 5) (s : State) : Result :=
  userOp (.eqpop d p) s fun s =>
    let s := runEngines p.toNat s
    let x := s.g.port p.toNat
    match x.results with
    | v :: r => if stgsPerformed s 2 then ((setPort s p.toNat { x with results := r }).setReg d v).commit4 else stall s
    | [] => if x.commands = [] then trapIllegal s (.eqpop d p) 4 else stall s

/-- EQSTAT (R210). -/
def execEqstat (d : Reg) (p : BitVec 5) (s : State) : Result :=
  userOp (.eqstat d p) s fun s =>
    let s := runEngines p.toNat s
    let x := s.g.port p.toNat
    ((setPort s p.toNat { x with err := false }).setReg d x.status).commit4

/-- A step of an engine for a gang's port. -/
def engineStep (gang : Nat) (f : State → State) (s : State) : State := onGang s gang f

/-- REDUCTION_COMMAND. -/
def execReductionCommand (gang : Nat) (p : BitVec 4) (s : State) : Result := eventOp s (engineStep gang (reductionCommand p.toNat))
/-- REDUCTION_COMPLETE. -/
def execReductionComplete (gang : Nat) (p : BitVec 4) (s : State) : Result := eventOp s (engineStep gang (reductionComplete p.toNat))
/-- MERGE_COUNT_PASS. -/
def execMergeCountPass (gang : Nat) (p : BitVec 4) (s : State) : Result := eventOp s (engineStep gang (mergeCountPass p.toNat))
/-- MERGE_WRITE_PASS. -/
def execMergeWritePass (gang : Nat) (p : BitVec 4) (s : State) : Result := eventOp s (engineStep gang (mergeWritePass p.toNat))
/-- MERGE_COMPLETE. -/
def execMergeComplete (gang : Nat) (p : BitVec 4) (s : State) : Result := eventOp s (engineStep gang (mergeComplete p.toNat))
/-- ALL_GATHER. -/
def execAllGather (gang : Nat) (p : BitVec 4) (s : State) : Result := eventOp s (engineStep gang (allGather p.toNat))
/-- REDUCE_SCATTER. -/
def execReduceScatter (gang : Nat) (p : BitVec 4) (s : State) : Result := eventOp s (engineStep gang (reduceScatter p.toNat))
/-- COLLECTIVE_WAIT_COMPLETE. -/
def execCollectiveWaitComplete (gang : Nat) (p : BitVec 4) (s : State) : Result := eventOp s (engineStep gang (collectiveWaitComplete p.toNat))

end Sys2Proof.Machine
end

