-- ==== Sys2Proof/Machine/System.lean ====
section
/-! DEFINITION. Fences and barriers (R124 to R127, R211 to R213), waiting and signals (R214 to R216), leaving (R217, R47), traps and
returns by instruction (R225, R226) and the queue frame in memory (R227). -/
namespace Sys2Proof.Machine

/-- Whether every earlier read of the gang has returned its value (R124): the sequencer's loads, and what unretired broadcast and tile
instructions read. -/
def readsReturned (s : State) : Bool := s.g.loads.isEmpty && s.g.bq.isEmpty

/-- FENCE (R124, R211): K bit 0 reads, 1 writes, 2 copies; of whatever kind, it waits for the gang's earlier STGs (R183). -/
def execFence (sc k : BitVec 5) (s : State) : Result :=
  userOp (.fence sc k) s fun s =>
    let reads := k.toNat % 2 == 1
    let writes := k.toNat / 2 % 2 == 1
    if (reads && !readsReturned s) || (writes && !releaseReady s sc.toNat) || !stgsPerformed s sc.toNat then stall s
    else if k.toNat / 4 % 2 = 1 then drainThen (List.range 8) copiesFenced State.commit4 s
    else s.commit4

/-- The key of a barrier code: the lead die's barriers, then the package's (R126, R212). -/
def barrierKey (g : Gang) (b : BitVec 5) : Nat := if b.toNat / 16 = 1 then 64 + b.toNat % 16 else g.lead * 16 + b.toNat % 16

/-- A barrier. -/
def barrierOf (s : State) (k : Nat) : Barrier := mget ({} : Barrier) s.barriers k
def setBarrier (s : State) (k : Nat) (x : Barrier) : State := { s with barriers := mset {} s.barriers k x }

/-- The scope that a FENCEB waits for: the wider of the named one and the barrier's own (R126). -/
def effectiveScope (b : BitVec 5) (c : BitVec 5) : Nat := max (c.toNat % 4) (if b.toNat / 16 = 1 then 2 else 1)

/-- Count the selected gang as arrived at barrier k; the phase completes with its last member, and EV of every member is set
(R126, R216). Until the gang's WAITB of it the barrier ties the gang to its die (R44). -/
def arriveAt (k : Nat) (s : State) : State :=
  let x := barrierOf s k
  let who := x.arrived ++ [s.g.id]
  let s := { s with g := { s.g with arrivals := mset 0 s.g.arrivals k (x.phase + 1), unawaited := (s.g.unawaited ++ [k]).eraseDups } }
  if who.length < x.count then setBarrier s k { x with arrived := who }
  else
    let tell := fun (h : Gang) => if who.contains h.id then { h with ev := true } else h
    setBarrier { s with g := tell s.g, others := s.others.map tell } k { x with arrived := [], phase := x.phase + 1 }

/-- The checks that FENCEB and WAITB share (R212). -/
def barrierUsable (i : Instr) (k : Nat) (s : State) (f : State → State) : State :=
  let x := barrierOf s k
  if x.count = 0 then trapIllegal s i 7
  else if x.owner ≠ s.g.pasid then trapS s 2 (w64 (encodeWord i)) 0
  else f s

/-- FENCEB (R126, R212): the arrival is counted at once, or by BARRIER_ARRIVAL. -/
def execFenceb (b c : BitVec 5) (s : State) : Result :=
  userOp (.fenceb b c) s fun s =>
    let k := barrierKey s.g b
    barrierUsable (.fenceb b c) k s fun s =>
      if s.g.arriving.isSome || !releaseReady s (effectiveScope b c) then stall s
      else
        let arrive := fun (s : State) =>
          if s.lockstep then (arriveAt k s).commit4 else { s with g := { s.g with arriving := some (k, true) } }.commit4
        if c.toNat / 4 = 1 then drainThen (List.range 8) copiesFenced arrive s else arrive s

/-- BARRIER_ARRIVAL (R126): the arrival that the gang's FENCEB has sent is counted. -/
def barrierArrival (id : Nat) (b : BitVec 5) (s : State) : State :=
  onGang s id fun s =>
    let k := barrierKey s.g b
    match s.g.arriving with
    | some (k', _) => if k' = k then arriveAt k { s with g := { s.g with arriving := none } } else s
    | none => s

/-- BARRIER_ARRIVAL. -/
def execBarrierArrival (id : Nat) (b : BitVec 5) (s : State) : Result := eventOp s (barrierArrival id b)

/-- WAITB (R126, R127, R212): it acquires at the barrier's effective scope, so it waits for the gang's earlier STGs (R183). -/
def execWaitb (b : BitVec 5) (s : State) : Result :=
  userOp (.waitb b) s fun s =>
    let k := barrierKey s.g b
    barrierUsable (.waitb b) k s fun s =>
      if s.g.arriving.isSome then stall s
      else match mget 0 s.g.arrivals k with
        | 0 => trapIllegal s (.waitb b) 6
        | n + 1 =>
          if n < (barrierOf s k).phase && stgsPerformed s (effectiveScope b 0) then
            { s with g := { s.g with unawaited := s.g.unawaited.filter (· != k) } }.commit4
          else stall s

/-- BARCFG succeeds (R213). -/
def barcfgOk (s : State) (b : BitVec 5) (n : Nat) : Bool :=
  let x := barrierOf s (barrierKey s.g b)
  decide (n ≤ if b.toNat / 16 = 1 then 32 else 8) && (x.count == 0 || (x.owner == s.g.pasid && x.arrived == []))

/-- BARCFG (R213). -/
def execBarcfg (d b n : BitVec 5) (s : State) : Result :=
  userOp (.barcfg d b n) s fun s =>
    let k := barrierKey s.g b
    let x := barrierOf s k
    let count := (s.reg n).toNat
    if barcfgOk s b count then
      ((setBarrier s k { count := count, owner := s.g.pasid, phase := x.phase + 1, arrived := [], cfg := s.g.id }).setReg d 1).commit4
    else (s.setReg d 0).commit4

/-- BQWAIT (R214). -/
def execBqwait (s : State) : Result := userOp .bqwait s fun s => if s.g.bq.isEmpty then s.commit4 else stall s

/-- The physical address of a signal, in local HBM (R184, R215). -/
def signalPa (s : State) (ea : Word) (acc : Access) (code : Nat) : Except GStop Nat :=
  match globalPa s ea 8 acc code with
  | .ok pa => if region pa = 0 then .ok pa else .error (.trap 8 code)
  | .error e => .error e

/-- SIGWAIT (R215): it acquires at system scope, so it waits for the gang's earlier STGs (R183). -/
def execSigwait (c a b : BitVec 5) (s : State) : Result :=
  userOp (.sigwait c a b) s fun s =>
    let s := waitCopies s
    let ea := s.reg a
    match signalPa s ea .read 0 with
    | .error e => globalStop s ea e
    | .ok pa => match physRead (useG s ea.toNat) pa 8 with
      | (_, none) => trapLost s ea 0 pa 8 false
      | (s', some bs) => if condMet c.toNat (w64 (leNat bs)) (s.reg b) && stgsPerformed s 3 then s'.commit4 else stall s

/-- SIGPOST (R215, R216): the access code of a fault is that of an AMO. -/
def execSigpost (c a b : BitVec 5) (s : State) : Result :=
  userOp (.sigpost c a b) s fun s =>
    let ea := s.reg a
    match signalPa s ea .write 2 with
    | .error e => globalStop s ea e
    | .ok pa =>
      if !releaseReady s 3 then stall s
      else match physRead (useG s ea.toNat) pa 8 with
        | (_, none) => trapLost s ea 2 pa 8 false
        | (s, some bs) =>
          let v := if c = 0 then (leNat bs + (s.reg b).toNat) % 2 ^ 64 else (s.reg b).toNat
          (signalEvents (physStore s pa (leBytes 8 v))).commit4

/-- TRAP (R219, R226): cause 11, with GEPC at the next instruction. A TRAP that is stepped takes cause 11 alone (assumption log 71). -/
def execTrap (l h : BitVec 5) (s : State) : Result :=
  userOp (.trap l h) s fun s =>
    let c : Cause := ⟨11, w64 (h.toNat * 32 + l.toNat), 0, 0, 0, 0⟩
    afterWaits s fun s => takeCause { s with g := { s.g with retired := s.g.retired + 1 } } c false (s.g.pc + 4) none

/-- ERET in one of its modes (R225): it waits for what the handler has committed. -/
def eretIn (i : Instr) (mode : Nat) (s : State) : Result :=
  userOp i s fun s =>
    if mode = 1 ∧ s.g.gqPos = none then trapIllegal s i 0
    else if s.g.bq ≠ [] then stall s
    else eretReturn s mode

/-- ERET (R225). -/
def execEret (s : State) : Result := eretIn .eret 0 s
/-- ERET.skip (R225). -/
def execEretSkip (s : State) : Result := eretIn .eretSkip 1 s
/-- ERET.drop (R225). -/
def execEretDrop (s : State) : Result := eretIn .eretDrop 2 s

/-- BRK (R219, R226): cause 12, or a stop for `svk` where DB = 1. -/
def execBrk (s : State) : Result :=
  userOp .brk s fun s =>
    if !s.g.db then trapAt s ⟨12, 0, 0, 0, 0, 0⟩ s.g.pc
    else afterWaits s fun s => rotate { s with g := { s.g with phase := .svkStop } }

/-- WFE (R216). -/
def execWfe (s : State) : Result :=
  userOp .wfe s fun s =>
    let s := runAllEngines (waitCopies s)
    if s.g.ev then { s with g := { s.g with ev := false } }.commit4 else stall s

/-- A ready queue of equal or higher priority waits for a span (R217). -/
def spanWanted (s : State) : Bool :=
  s.power == .ready && !s.frozen && decide ((resumeList s).length < 256) &&
    (evalQueues s).2.any fun r => decide (s.g.launch.prio ≤ r.record.prio) && (placeMembers s (some r.queue) r.record.sz r.record.members).isNone

/-- YIELD (R51, R217, R431): the command core may ask the gang and its cohort to halt at the next boundary. -/
def execYield (s : State) : Result :=
  userOp .yield s fun s =>
    if spanWanted s then
      let ask := fun (h : Gang) => if sameCohort h s.g && h.active then { h with preempt := true } else h
      { s with g := { s.g with preempt := true }, others := s.others.map fun h => if s.g.cohN = 1 then h else ask h }.commit4
    else s.commit4

/-- Cancel every channel that a fault has stopped (R47, R358). -/
def cancelStopped (s : State) : State := (List.range 8).foldl cancelChannel s

/-- Where the post-signal goes (R47 step 4): a writable page of local HBM, nowhere, or a page that migrates. -/
inductive PostTarget where
  | at (pa : Nat)
  | dropped
  | held
  deriving DecidableEq, Repr

def postTarget (s : State) : PostTarget :=
  match translateFull s s.g.lead s.g.pasid s.g.launch.paddr.toNat .write with
  | .ok pa _ => if region pa = 0 && (physPeek s pa 8).isSome then .at pa else .dropped
  | .migrating => .held
  | _ => .dropped

/-- Step 4 of HALT: the post-signal (R47, R424). The frame of one that is dropped carries HALT's own address as GEPC (assumption log 43). -/
def postSignalOf (l : Launch) (t : PostTarget) (gangId pc : Word) (die : Nat) (s : State) : State :=
  if !l.pv then s
  else match t with
    | .at pa => match physRead (useG s l.paddr.toNat) pa 8 with
      | (s, some bs) => physStore s pa (leBytes 8 (if l.postSet then l.pval.toNat else (leNat bs + l.pval.toNat) % 2 ^ 64))
      | (s, none) => s
    | _ => stopQueue (sendFrame s 2 die [w64 l.queue, w64 l.index, gangId, 8, pc, l.paddr]) l.queue 5 l.index

/-- What HALT waits for: instructions retired, channels drained, engine commands complete, loads answered and, since its post-signal is a
release at system scope, every write acknowledged (R47, R129). -/
def haltReady (s : State) : Bool :=
  s.g.bq.isEmpty && s.g.loads.isEmpty && portsDone s.g && (s.g.channels.all fun p => p.2.queue.isEmpty) && !s.unacked.any fun u => u.gang == s.g.id

/-- Steps 2 to 4 of HALT (R47). -/
def retireGang (s : State) : State :=
  let g := s.g
  let t := postTarget s
  let s1 := releaseSpan { s with g := { g with
    phase := .retired, rq := [], rqAside := 0, ports := [], frame := [], resume := [], fv := false, held := none, fpDue := none
    stgNak := none, revoked := none, retired := g.retired + 1 } }
  rotate (postSignalOf g.launch t g.gangId g.pc g.lead s1)

/-- HALT (R47, R217). -/
def execHalt (s : State) : Result :=
  userOp .halt s fun s =>
    let s := { s with g := { s.g with frame := if s.g.pl then [] else s.g.frame } }
    let s := runAllEngines (waitCopies (cancelStopped s))
    if !s.g.pl && s.g.copyFault.isSome then stall s
    else
      let s := cancelStopped s
      if !haltReady s || (s.g.launch.pv && postTarget s == .held) then stall s
      else retireGang s

/-- The physical address of a queue-frame record, 4 KiB aligned (R184, R227). -/
def recordPa (s : State) (ea : Word) (acc : Access) (code : Nat) : Except GStop Nat := globalPa s ea 4096 acc code

/-- Store the 512 words of a record with plain stores (R227). -/
def storeRecord (s : State) (va pa : Nat) (ws : List Word) : State :=
  ws.zipIdx.foldl (fun s p => sendWrite s 0 (va + 8 * p.2) (pa + 8 * p.2) (leBytes 8 p.1.toNat)) s

/-- QSAVE (R227): the record's words are opaque (assumption log 11). -/
def execQsave (a : Reg) (s : State) : Result :=
  userOp (.qsave a) s fun s =>
    if s.g.bq ≠ [] then stall s
    else
      let ea := s.reg a
      match recordPa s ea .write 1 with
      | .error e => globalStop s ea e
      | .ok pa =>
        if storeLost s pa 4096 then trapLost s ea 1 pa 4096 true
        else
          let (ws, s) := freeWords s 512
          let x : SavedFrame := ⟨ws, s.g.frame, s.g.resume, s.g.cohN, s.g.cohIx, s.g.clusters.length⟩
          { storeRecord (globalTouch s ea.toNat) ea.toNat pa ws with savedFrames := s.savedFrames ++ [x] }.commit4

/-- The record that QLOAD accepts (R227): its words, cohort, span and resume words agree. -/
def acceptedFrame (s : State) (ws : List Word) : Option SavedFrame :=
  s.savedFrames.find? fun x => x.image == ws && x.cohN == s.g.cohN && x.cohIx == s.g.cohIx && x.ncl == s.g.clusters.length && x.resume == s.g.resume

/-- The words of a record in memory. -/
def wordsOf : Nat → List Byte → List Word
  | 0, _ => []
  | n + 1, bs => w64 (leNat (bs.take 8)) :: wordsOf n (bs.drop 8)

/-- QLOAD (R227). -/
def execQload (a : Reg) (s : State) : Result :=
  userOp (.qload a) s fun s =>
    let ea := s.reg a
    match recordPa s ea .read 0 with
    | .error e => globalStop s ea e
    | .ok pa =>
      if pendingWrite s pa 4096 then stall s
      else if targetRefuses s pa then trapG s ea 8 0
      else match physRead (globalTouch s ea.toNat) pa 4096 with
        | (_, none) => trapLost s ea 0 pa 4096 false
        | (s', some bs) => match acceptedFrame s (wordsOf 512 bs) with
          | none => trapIllegal s (.qload a) 5
          | some x => { s' with g := { s'.g with frame := x.entries, fv := true } }.commit4

end Sys2Proof.Machine
end

