-- ==== Sys2Proof/Machine/Events.lean ====
section
/-! DEFINITION. Steps of the gang's own units and of the firmware: register writes from outside a program, the bank and pull steps, trap
entry, shoot-downs, walk prefetch, page migration, PASID teardown, the host's RMA writes, the debugger and the clock (R195, R226, R230
to R239, R302, R343, R358, R362 to R367, R423, R448). -/
namespace Sys2Proof.Machine

/-- A queue's word 0 as written: EN stays clear unless LGN is 4 to 13 (R421). -/
def queueWord0 (x : Queue) (v : Word) : Queue :=
  let lgn := bitsOf v.toNat 1 4
  { x with en := bit v 0 && decide (4 ≤ lgn) && decide (lgn ≤ 13), lgn := lgn, base := bitsOf v.toNat 12 36 * 4096 }

/-- A write of word k of queue q's descriptor (R421, R422, R425). -/
def queueWrite (q k : Nat) (v : Word) (s : State) : State :=
  if 8192 ≤ q then s
  else match k with
    | 0 => setQueue s q (queueWord0 (queueOf s q) v)
    | 1 => setQueue s q { queueOf s q with qpasid := v.toNat % 2 ^ 20 }
    | 2 => queueTailWrite q (v.toNat % 2 ^ 16) s
    | _ => queueErrorClear q (v.toNat % 16) s

/-- One word of a window descriptor written (R413). -/
def Method.setWord (m : Method) (k : Nat) (v : Word) : Method :=
  match k with
  | 0 => { m with w0 := descriptorWord 0 v }
  | 1 => { m with w1 := descriptorWord 1 v }
  | 2 => { m with w2 := descriptorWord 2 v }
  | _ => m

/-- ERRC of a stack as written; the other fields of STKSTAT are RO (R378). -/
def setErrc (s : State) (k : Nat) (v : Word) : State :=
  if 12 ≤ k then s else { s with hbmStat := mset {} s.hbmStat k { mget ({} : StackStat) s.hbmStat k with errc := bitsOf v.toNat 8 16 } }

/-- PDT and SRT of a stack as written; the other fields of PCPWR are RO (R389). -/
def setPcpwr (s : State) (k : Nat) (v : Word) : State :=
  if 12 ≤ k then s else { s with pcpwr := mset pcpwrReset s.pcpwr k (w64 (v.toNat % 2 ^ 32 + (pcpwrOf s k).toNat / 2 ^ 32 * 2 ^ 32)) }

/-- A word of a direct launch port's record or its placement written (R435). -/
def portWrite (s : State) (p : Nat) (f : DirectPort → DirectPort) : State :=
  { s with directPorts := mset {} s.directPorts p (f (mget {} s.directPorts p)) }

/-- A write of CONVRES takes effect once earlier instructions have retired and earlier copies have completed (R302). -/
def convresWrite (v : Word) (s : State) : State := if mapReady s then storeConvres s v else s

/-- The value that a register write stores, with RO and zero fields kept (R6, R195). -/
def registerWrite (r : DevReg) (v : Word) (s : State) : State :=
  match r with
  | .control n => if n.toNat = 0x030 then convresWrite v s else storeControl s n.toNat v
  | .stkstat k => errorLimit (setErrc s k v) k
  | .parst => (List.range 12).foldl errorLimit { s with parity := { s.parity with errlim := bitsOf v.toNat 16 16 } }
  | .pcpwr k => setPcpwr s k v
  | .queueWord q k => queueWrite q k.toNat v s
  | .peerWord w k => { s with peerWindows := mset {} s.peerWindows w.toNat ((mget {} s.peerWindows w.toNat).setWord k.toNat v) }
  | .grantWord p w k =>
    let n := grantKey p.toNat w.toNat
    { s with grants := mset {} s.grants n ((mget {} s.grants n).setWord k.toNat v) }
  | .portRecord p k => portWrite s p.toNat fun x => { x with record := x.record.set k.toNat v }
  | .portPlacement p => portWrite s p.toNat fun x => { x with placement := v }
  | .pasidRoot pasid => { s with roots := mput s.roots pasid (v.toNat / 32768 * 32768) }
  | .pasidDomain pasid => { s with pasidDomain := mset 0 s.pasidDomain pasid (BitVec.ofNat 16 (v.toNat % 4096)) }
  | .hotnessClear pasid page => { s with hotness := mset {} s.hotness (pasid * 2 ^ 32 + page) {} }

/-- CHSTAT_ERROR_CLEAR (R343). -/
def clearErrors (c : Nat) (m : BitVec 7) (s : State) : State :=
  let x := s.g.channel c
  setChannel s c { x with errors := x.errors &&& ~~~m }

/-- TRAP_ENTRY (R220, R221): a cause that is ready at a boundary of the gang is taken. -/
def trapEntry (s : State) : State := if s.g.phase = .running ∧ s.g.pendingReady then takePending s else s

/-- A fill meets a range of a PASID. -/
def Fill.meets (f : Fill) (pasid lo hi : Nat) : Bool := f.pasid == pasid && decide (f.va < hi) && decide (lo < f.va + f.size)

/-- SHOOT_DOWN (R363): the generation of every hub advances and every matching entry is dropped. -/
def shootDown (pasid lo hi : Nat) (s : State) : State :=
  { s with
    generation := s.generation + 1
    hubs := s.hubs.map fun h => (h.1, h.2.filter fun f => !f.meets pasid lo hi)
    shootDowns := s.shootDowns ++ [(pasid, lo, hi)] }

/-- The PASID of a gang, whether it still runs or not. -/
def pasidOf (s : State) (id : Nat) : Nat := ((findGang s id).map fun g => g.pasid).getD 0

/-- A write that its target has not acknowledged lies in a range of a PASID. -/
def writesInFlight (s : State) (pasid lo hi : Nat) : Bool :=
  s.unacked.any fun u => pasidOf s u.gang == pasid && decide (u.va < hi) && decide (lo < u.va + u.bytes.length)

/-- SHOOT_DOWN_COMPLETE (R363): the oldest shoot-down, once every access that used a dropped translation has performed. -/
def shootDownComplete (s : State) : State :=
  match s.shootDowns with
  | [] => s
  | (pasid, lo, hi) :: r => if writesInFlight s pasid lo hi then s else retryPorts { s with shootDowns := r }

/-- WALK_PREFETCH (R362): the hub of the gang's lead die holds the translations of the next DEPTH pages of walk register w. -/
def walkPrefetch (w : Nat) (s : State) : State :=
  let x := mget ({} : Walk) s.g.walks w
  let pages := (List.range (bitsOf x.pattern.toNat 40 8)).map fun k => (x.position + w64 k * sextNat x.pattern.toNat 40).toNat
  pages.foldl useG s

/-- Where the leaf of an address stands in memory, with the leaf and the page size (R360). -/
def leafAddress (s : State) (pasid va : Nat) : Option (Nat × Nat × Nat) :=
  match walk s pasid va, (walkEntries s pasid va).getLast? with
  | some (e, size), some a => some (a, e, size)
  | _, _ => none

/-- A run of sparse data moved to another key. -/
def moveRun (m : Map α) (src dst n : Nat) : Map α :=
  ((m.filter fun p => decide (src ≤ p.1) && decide (p.1 < src + n)).map fun p => (dst + (p.1 - src), p.2))

/-- The bytes of a page by their place in it, in local, host or peer memory. -/
def pageCells (s : State) (pa size : Nat) : List Host.Cell := if region pa = 1 then moveRun s.peerMem (peerCell s pa) 0 size else moveRun s.mem pa 0 size

/-- Replace the bytes of a page. -/
def putPage (s : State) (pa size : Nat) (cells : List Host.Cell) : State :=
  let put := fun (m : List Host.Cell) (a : Nat) => cells.foldl (fun m c => wrByte m (a + c.1) c.2) (mclear m a (a + size))
  if region pa = 1 then { s with peerMem := put s.peerMem (peerCell s pa) } else { s with mem := put s.mem pa }

/-- Words of a run, counted from its first, that cannot be delivered. -/
def lostWords (s : State) (pa n : Nat) : List Nat :=
  if region pa ≠ 0 ∨ sound s then [] else (List.range (n / 8)).filter fun k => !readable s (pa + 8 * k)

/-- The tag of HBM frame `old` copied to frame `new`: RAW where there is none to copy, and still in error where it cannot be read. -/
def moveTag (s : State) (old : Option Nat) (new : Nat) : State :=
  let t := match old with | some f => hbmTag s f | none => some rawTag
  let s := match old with | some f => touchHbmTag s f | none => s
  let s := setHbmTag s new (t.getD rawTag)
  if t.isNone then { s with memBad := s.memBad ++ [tagHome s.parity new / 8] } else s

/-- The tags of a page of local HBM that holds a copy of the page at `old`. -/
def moveTags (s : State) (old new size : Nat) : State :=
  if region new ≠ 0 then s
  else (List.range (size / 8192)).foldl (fun s i => moveTag s (if region old = 0 then some (old / 8192 + i) else none) (new / 8192 + i)) s

/-- A page's bytes with the errors in them, and its HBM tags, copied to a new place, with the reads and writes counted (R72, R367, R374,
R377). -/
def copyPage (s : State) (old new size : Nat) : State :=
  let s := physTouch (physTouch s old size) new size true
  let bad := if region new = 0 then (lostWords s old size).map (new / 8 + ·) else []
  let s := putPage s new size (pageCells s old size)
  let s := { s with
    memBad := (s.memBad.filter fun w => decide (w < new / 8) || decide ((new + size) / 8 ≤ w)) ++ bad }
  moveTags s old new size

/-- Whether a page lies clear of the tag plane (R72, R381, R382). -/
def dataPage (q : Parity) (pa size : Nat) : Bool :=
  region pa != 0 || decide (pa + size ≤ if q.tenPlusOne || q.boundary != 0 then contractLimit else tagBase11)

/-- MV and PIN after a move (R366, R367). -/
def movedHot (h : Hot) : Hot := { h with mv := min 3 (h.mv + 1), pin := decide (3 ≤ h.mv + 1) }

/-- A move that clears a page from where the 10+1 layout will hold no data, ahead of contraction, changes no MV (R381). -/
def clearsForContraction (s : State) (old new size : Nat) : Bool :=
  s.parity.state == 1 && region old == 0 && decide (contractLimit < old + size) && region new == 0 && decide (new + size ≤ contractLimit)

/-- A copy of a page's bytes kept by the copies of a gang goes with the page (R346, R364). -/
def Gang.movePage (g : Gang) (old new size : Nat) : Gang :=
  let key := fun (k : Nat) => if old ≤ k ∧ k < old + size then new + (k - old) else k
  let tag := fun (f : Nat) => if 2 ^ 32 + old / 8192 ≤ f ∧ f < 2 ^ 32 + (old + size) / 8192 ∧ region old = 0 ∧ region new = 0 then f - old / 8192 + new / 8192 else f
  let move := fun (c : Copy) => if c.dir ≠ 3 then c else
    { c with
      saved := c.saved.foldl (fun m p => mput m (key p.1) p.2) []
      savedTags := c.savedTags.foldl (fun m p => mput m (tag p.1) p.2) [] }
  { g with channels := g.channels.map fun p => (p.1, { p.2 with queue := p.2.queue.map move }) }

/-- Every gang's copies follow a page of their PASID to its new place. -/
def movePages (s : State) (pasid old new size : Nat) : State :=
  let move := fun (g : Gang) => if g.pasid = pasid then g.movePage old new size else g
  { s with g := move s.g, others := s.others.map move }

/-- Whether firmware moves a page: mapped and not migrating, unpinned, with no write to it in flight, and to a place that a leaf may
name (R360, R363, R367). -/
def migratable (s : State) (pasid va pa : Nat) (leaf size : Nat) : Bool :=
  !(mget ({} : Hot) s.hotness (hotKey s 0 pasid va)).pin && !bit (w64 leaf) 5 && decide (pa < 2 ^ 52)
    && leafOk s pasid (setBits (w64 leaf) 12 40 (pa / 4096)).toNat size && pa % size == 0
    && dataPage s.parity pa size && dataPage s.parity (entryPa leaf) size
    && !writesInFlight s pasid (va / size * size) (va / size * size + size)

/-- PAGE_MIGRATION (R367): the card of R364 as one step: copy, new leaf, shoot-down, and the count of moves. A command core that is held in
reset moves nothing (R433). -/
def pageMigration (pasid va pa : Nat) (s : State) : State :=
  match leafAddress s pasid va with
  | none => s
  | some (at_, leaf, size) =>
    if s.frozen || !migratable s pasid va pa leaf size then s
    else
      let page := va / size * size
      let key := hotKey s 0 pasid va
      let counts := !clearsForContraction s (entryPa leaf) pa size
      let s := movePages (copyPage s (entryPa leaf) pa size) pasid (entryPa leaf) pa size
      let s := physWrite s at_ (leBytes 8 (setBits (w64 leaf) 12 40 (pa / 4096)).toNat)
      let s := shootDownComplete (shootDown pasid page (page + size) s)
      let was := mget ({} : Hot) s.hotness key
      let h := if counts then movedHot was else was
      let s := { s with hotness := mset {} s.hotness key h }
      -- the frame of a pinned page is stamped by die 0 (assumption log 68)
      if h.pin && counts then sendFrame s 6 0 [w64 pasid, w64 page] else s

/-- A gang is stopped and discarded: its span is released and its responses are dropped (R365). -/
def discardGang (s : State) : State :=
  let s := releaseSpan (discardCopies (haltGang .retired { s with g := { s.g with loads := [] } }))
  { s with g := { s.g with
    haltFrame := [], haltResume := [], savedCause := none, evicted := [], context := [], frame := [], resume := [], fv := false
    rq := [], rqAside := 0, ports := [], channels := [], held := none, fpDue := none, stgNak := none, revoked := none } }

/-- A gang that still stands for something (R34, R47). -/
def Gang.alive (g : Gang) : Bool := match g.phase with | .none | .failed | .retired => false | _ => true

/-- PASID_TEARDOWN (R365). The PASID names no live address space afterwards (R425). It does not come about while the command core is held in
reset (R433). -/
def pasidTeardown (pasid : Nat) (s : State) : State :=
  if s.frozen then s else
  let ids := ((s.g :: s.others).filter fun h => h.alive && h.pasid == pasid).map fun h => h.id
  let s : State := ids.foldl (fun s id => onGang s id discardGang) s
  let s := shootDown pasid 0 (2 ^ 48) { s with
    queues := s.queues.map fun p => (p.1, if p.2.qpasid = pasid then { p.2 with en := false } else p.2)
    roots := s.roots.filter fun p => p.1 != pasid }
  if s.g.alive then s else rotate s

/-- One piece of an RMA write that lies in one page: dropped where its translation is refused (R360, R372, R412). The loader's copy of a page
is such a piece (R399). -/
def rmaPiece (pasid : Nat) (s : State) (a : Nat) (bs : List Byte) : State :=
  match translateFull s 0 pasid a .write with
  | .ok pa _ => physWriteRun (bs.length / 2560 + 3) (hubUse s 0 pasid a) pa bs
  | _ => hubUse s 0 pasid a

/-- The pieces of a write, at most 64 KiB each, the first up to a 64 KiB boundary. -/
def rmaPieces : Nat → Nat → List Byte → List (Nat × List Byte)
  | 0, _, _ => []
  | n + 1, a, bs =>
    if bs = [] then []
    else
      let k := 65536 - a % 65536
      (a, bs.take k) :: rmaPieces n (a + k) (bs.drop k)

/-- HOST_RMA_WRITE (R412, R423): it does not come about while a page of it migrates (R360). -/
def hostRmaWrite (pasid a : Nat) (bytes : List Byte) (s : State) : State :=
  let ps := rmaPieces (bytes.length / 65536 + 2) a bytes
  if ps.any fun p => translateFull s 0 pasid p.1 .write == .migrating then s
  else ps.foldl (fun s p => rmaPiece pasid s p.1 p.2) s

/-- SVK_ATTACH (R196). -/
def svkAttach (id : Nat) (on : Bool) (s : State) : State := updGang s id fun g => { g with db := on }

/-- SVK_CONTINUE (R226): a gang that BRK stopped goes on after the BRK, one that a single step
stopped where it stands. One that has been halted meanwhile goes on so at its resumption. -/
def svkContinue (id : Nat) (s : State) : State :=
  updGang s id fun g =>
    if g.phase = .svkStop ∨ g.svkHeld then
      let phase := if g.phase = .svkStop then .running else g.phase
      (if g.savedCause.isSome then { g with phase := phase, savedCause := none, svkHeld := false }
        else { g.commit (g.pc + 4) with phase := phase, svkHeld := false })
    else g

/-- REGISTER_WRITE. -/
def execRegisterWrite (r : DevReg) (v : Word) (s : State) : Result := eventOp s (registerWrite r v)
/-- CHSTAT_CANCEL (R358). -/
def execChstatCancel (c : BitVec 3) (s : State) : Result := eventOp s fun s => proceed (cancelChannel s c.toNat)
/-- CHSTAT_ERROR_CLEAR. -/
def execChstatErrorClear (c : BitVec 3) (m : BitVec 7) (s : State) : Result := eventOp s (clearErrors c.toNat m)
/-- CONVRES_WRITE. -/
def execConvresWrite (v : Word) (s : State) : Result := eventOp s (convresWrite v)
/-- BANK_BEGIN (R230). -/
def execBankBegin (b : Nat) (s : State) : Result := eventOp s fun s => bankBegin s b
/-- PULL_ARRIVAL (R234). -/
def execPullArrival (b : Nat) (s : State) : Result := eventOp s fun s => pullArrival s b
/-- PULL_SERVE (R235). -/
def execPullServe (b : Nat) (s : State) : Result := eventOp s fun s => pullServe s b
/-- PULL_RESPONSE (R232). -/
def execPullResponse (b : Nat) (s : State) : Result := eventOp s fun s => pullResponse s b
/-- STAGED_WRITE_PHASE (R239). -/
def execStagedWritePhase (s : State) : Result := eventOp s stagedWritePhase
/-- LOAD_RESPONSE (R183). -/
def execLoadResponse (d : Reg) (s : State) : Result := eventOp s fun s => loadResponse s d
/-- TRAP_ENTRY. -/
def execTrapEntry (s : State) : Result := eventOp s trapEntry
/-- SHOOT_DOWN. -/
def execShootDown (pasid lo hi : Nat) (s : State) : Result := eventOp s (shootDown pasid lo hi)
/-- SHOOT_DOWN_COMPLETE. -/
def execShootDownComplete (s : State) : Result := eventOp s shootDownComplete
/-- WALK_PREFETCH. -/
def execWalkPrefetch (w : BitVec 4) (s : State) : Result := eventOp s (walkPrefetch w.toNat)
/-- PAGE_MIGRATION. -/
def execPageMigration (pasid va pa : Nat) (s : State) : Result := eventOp s (pageMigration pasid va pa)
/-- PASID_TEARDOWN. -/
def execPasidTeardown (pasid : Nat) (s : State) : Result := eventOp s (pasidTeardown pasid)
/-- HOST_RMA_WRITE. -/
def execHostRmaWrite (pasid a : Nat) (bytes : List Byte) (s : State) : Result := eventOp s (hostRmaWrite pasid a bytes)
/-- SVK_ATTACH. -/
def execSvkAttach (id : Nat) (on : Bool) (s : State) : Result := eventOp s (svkAttach id on)
/-- SVK_CONTINUE. -/
def execSvkContinue (id : Nat) (s : State) : Result := eventOp s (svkContinue id)
/-- POWER_LIMIT_THROTTLE (R448): only timing changes. -/
def execPowerLimitThrottle (s : State) : Result := eventOp s fun s => { s with clockStep := s.clockStep + 1 }
/-- CLOCK_RAISE (R448). -/
def execClockRaise (s : State) : Result := eventOp s fun s => { s with clockStep := s.clockStep - 1 }

end Sys2Proof.Machine
end

