-- ==== Sys2Proof/Machine/Scalar.lean ====
section
/-! DEFINITION. The register instructions of the sequencer: the integer group, the immediate group, LIH and LIM (R165 to R175). -/
namespace Sys2Proof.Machine

/-- An instruction that writes one register from registers and immediates: it commits and moves to the next parcel (R167, R170). -/
def writeReg (i : Instr) (d : Reg) (v : State → Word) (s : State) : Result := userOp i s fun s => (s.setReg d (v s)).commit4

/-- ADD: the sum (R170). -/
def execAdd (d a b : Reg) (s : State) : Result := writeReg (.add d a b) d (fun s => aluAdd (s.reg a) (s.reg b)) s
/-- SUB: the difference (R170). -/
def execSub (d a b : Reg) (s : State) : Result := writeReg (.sub d a b) d (fun s => aluSub (s.reg a) (s.reg b)) s
/-- AND: bitwise and (R170). -/
def execAnd (d a b : Reg) (s : State) : Result := writeReg (.and d a b) d (fun s => aluAnd (s.reg a) (s.reg b)) s
/-- OR: bitwise or (R170). -/
def execOr (d a b : Reg) (s : State) : Result := writeReg (.or d a b) d (fun s => aluOr (s.reg a) (s.reg b)) s
/-- XOR: exclusive or (R170). -/
def execXor (d a b : Reg) (s : State) : Result := writeReg (.xor d a b) d (fun s => aluXor (s.reg a) (s.reg b)) s
/-- ANDN: x and not y (R170). -/
def execAndn (d a b : Reg) (s : State) : Result := writeReg (.andn d a b) d (fun s => aluAndn (s.reg a) (s.reg b)) s
/-- SLL: shift left (R170). -/
def execSll (d a b : Reg) (s : State) : Result := writeReg (.sll d a b) d (fun s => aluSll (s.reg a) (s.reg b)) s
/-- SRL: logical shift right (R170). -/
def execSrl (d a b : Reg) (s : State) : Result := writeReg (.srl d a b) d (fun s => aluSrl (s.reg a) (s.reg b)) s
/-- SRA: arithmetic shift right (R170). -/
def execSra (d a b : Reg) (s : State) : Result := writeReg (.sra d a b) d (fun s => aluSra (s.reg a) (s.reg b)) s
/-- ROL: rotate left (R170). -/
def execRol (d a b : Reg) (s : State) : Result := writeReg (.rol d a b) d (fun s => aluRol (s.reg a) (s.reg b)) s
/-- ROR: rotate right (R170). -/
def execRor (d a b : Reg) (s : State) : Result := writeReg (.ror d a b) d (fun s => aluRor (s.reg a) (s.reg b)) s
/-- SLT: signed less-than (R170). -/
def execSlt (d a b : Reg) (s : State) : Result := writeReg (.slt d a b) d (fun s => aluSlt (s.reg a) (s.reg b)) s
/-- SLTU: unsigned less-than (R170). -/
def execSltu (d a b : Reg) (s : State) : Result := writeReg (.sltu d a b) d (fun s => aluSltu (s.reg a) (s.reg b)) s
/-- MIN: signed minimum (R170). -/
def execMin (d a b : Reg) (s : State) : Result := writeReg (.min d a b) d (fun s => aluMin (s.reg a) (s.reg b)) s
/-- MAX: signed maximum (R170). -/
def execMax (d a b : Reg) (s : State) : Result := writeReg (.max d a b) d (fun s => aluMax (s.reg a) (s.reg b)) s
/-- MINU: unsigned minimum (R170). -/
def execMinu (d a b : Reg) (s : State) : Result := writeReg (.minu d a b) d (fun s => aluMinu (s.reg a) (s.reg b)) s
/-- MAXU: unsigned maximum (R170). -/
def execMaxu (d a b : Reg) (s : State) : Result := writeReg (.maxu d a b) d (fun s => aluMaxu (s.reg a) (s.reg b)) s
/-- MUL: low product (R170). -/
def execMul (d a b : Reg) (s : State) : Result := writeReg (.mul d a b) d (fun s => aluMul (s.reg a) (s.reg b)) s
/-- MULH: high signed product (R170). -/
def execMulh (d a b : Reg) (s : State) : Result := writeReg (.mulh d a b) d (fun s => aluMulh (s.reg a) (s.reg b)) s
/-- MULHU: high unsigned product (R170). -/
def execMulhu (d a b : Reg) (s : State) : Result := writeReg (.mulhu d a b) d (fun s => aluMulhu (s.reg a) (s.reg b)) s
/-- DIV: signed quotient (R171). -/
def execDiv (d a b : Reg) (s : State) : Result := writeReg (.div d a b) d (fun s => aluDiv (s.reg a) (s.reg b)) s
/-- DIVU: unsigned quotient (R171). -/
def execDivu (d a b : Reg) (s : State) : Result := writeReg (.divu d a b) d (fun s => aluDivu (s.reg a) (s.reg b)) s
/-- REM: signed remainder (R171). -/
def execRem (d a b : Reg) (s : State) : Result := writeReg (.rem d a b) d (fun s => aluRem (s.reg a) (s.reg b)) s
/-- REMU: unsigned remainder (R171). -/
def execRemu (d a b : Reg) (s : State) : Result := writeReg (.remu d a b) d (fun s => aluRemu (s.reg a) (s.reg b)) s
/-- CLMUL: low carry-less product (R170). -/
def execClmul (d a b : Reg) (s : State) : Result := writeReg (.clmul d a b) d (fun s => aluClmul (s.reg a) (s.reg b)) s
/-- CLMULH: high carry-less product (R170). -/
def execClmulh (d a b : Reg) (s : State) : Result := writeReg (.clmulh d a b) d (fun s => aluClmulh (s.reg a) (s.reg b)) s
/-- CLZ (R170). -/
def execClz (d a : Reg) (s : State) : Result := writeReg (.clz d a) d (fun s => aluClz (s.reg a)) s
/-- CTZ (R170). -/
def execCtz (d a : Reg) (s : State) : Result := writeReg (.ctz d a) d (fun s => aluCtz (s.reg a)) s
/-- POPC (R170). -/
def execPopc (d a : Reg) (s : State) : Result := writeReg (.popc d a) d (fun s => aluPopc (s.reg a)) s
/-- SEXT from the width that the b field codes (R172). -/
def execSext (d a w : Reg) (s : State) : Result := writeReg (.sext d a w) d (fun s => aluSext w (s.reg a)) s
/-- ZEXT from the width that the b field codes (R172). -/
def execZext (d a w : Reg) (s : State) : Result := writeReg (.zext d a w) d (fun s => aluZext w (s.reg a)) s
/-- ADDI (R173). -/
def execAddi (d a : Reg) (i : BitVec 15) (s : State) : Result := writeReg (.addi d a i) d (fun s => aluAdd (s.reg a) (imm15 i)) s
/-- ANDI (R173). -/
def execAndi (d a : Reg) (i : BitVec 15) (s : State) : Result := writeReg (.andi d a i) d (fun s => aluAnd (s.reg a) (imm15 i)) s
/-- ORI (R173). -/
def execOri (d a : Reg) (i : BitVec 15) (s : State) : Result := writeReg (.ori d a i) d (fun s => aluOr (s.reg a) (imm15 i)) s
/-- XORI (R173). -/
def execXori (d a : Reg) (i : BitVec 15) (s : State) : Result := writeReg (.xori d a i) d (fun s => aluXor (s.reg a) (imm15 i)) s
/-- SLTI (R173). -/
def execSlti (d a : Reg) (i : BitVec 15) (s : State) : Result := writeReg (.slti d a i) d (fun s => aluSlt (s.reg a) (imm15 i)) s
/-- SLTIU (R173). -/
def execSltiu (d a : Reg) (i : BitVec 15) (s : State) : Result := writeReg (.sltiu d a i) d (fun s => aluSltu (s.reg a) (imm15 i)) s
/-- SLLI, by 0 to 63 (R173). -/
def execSlli (d a : Reg) (i : BitVec 15) (s : State) : Result := writeReg (.slli d a i) d (fun s => aluSll (s.reg a) (i.zeroExtend 64)) s
/-- SRLI, by 0 to 63 (R173). -/
def execSrli (d a : Reg) (i : BitVec 15) (s : State) : Result := writeReg (.srli d a i) d (fun s => aluSrl (s.reg a) (i.zeroExtend 64)) s
/-- SRAI, by 0 to 63 (R173). -/
def execSrai (d a : Reg) (i : BitVec 15) (s : State) : Result := writeReg (.srai d a i) d (fun s => aluSra (s.reg a) (i.zeroExtend 64)) s
/-- LIH (R174). -/
def execLih (d : Reg) (i : BitVec 20) (s : State) : Result := writeReg (.lih d i) d (fun _ => w64 (i.toNat * 4096)) s
/-- LIM, the 64-bit LX instruction (R175, R160). -/
def execLim (d : Reg) (imm : BitVec 47) (s : State) : Result := userOp (.lim d imm) s fun s => (s.setReg d (imm.signExtend 64)).commit8

end Sys2Proof.Machine
end

