-- ==== Sys2Proof/Machine/Startup.lean ====
section
/-! DEFINITION. The start sequence, minimal mode, recovery, the firmware hand-over, attestation and the power states (R437 to R443,
R447). -/
namespace Sys2Proof.Machine

/-- The package as power-on or reset leaves it before its first step: flash and what lies outside the package stay (R437, R447). -/
def coldState (s : State) : State :=
  { boot := { s.boot with measurement := [], version := 0, keyHeld := false, pendingImage := none }
    mem := s.mem.filter fun c => region c.1 != 0
    peerMem := s.peerMem
    eventFrames := s.eventFrames
    lockstep := s.lockstep
    fresh := s.fresh
    agenda := s.agenda }

/-- A failed start (R437, R438). -/
def failStart (reason : Nat) (s : State) : State :=
  { s with power := .failed, boot := { s.boot with fails := s.boot.fails + 1, reason := reason, keyHeld := false } }

/-- Minimal mode (R438, R439): only Ethernet port 0 is live. -/
def enterMinimal (s : State) : State := { s with power := .minimal, portsDown := (List.range 11).map (· + 1) }

/-- Step 6 (R437): the field and its tags are cleared, the HBM tags are set, the heartbeat is written, and the first scheduling pass
makes the device ready. -/
def becomeReady (s : State) : State :=
  schedulingPass { s with
    power := .ready, field := [], fieldBad := [], ftags := [], ftagBad := [], hbmTags := [], boot := { s.boot with fails := 0 } }

/-- Step 5 (R375, R437): the stacks are trained. -/
def trainStacks (x : StartInputs) (s : State) : State :=
  match ((List.range 12).filter fun k => x.untrained.contains k) with
  | [] => s
  | k :: _ => loseStack k 1 s

/-- Steps 4 to 6, from the command core's start on (R437). A start that is not ready in time stays in progress until START_TIMEOUT. -/
def firmwareStart (x : StartInputs) (s : State) : State :=
  if !x.selfTest then failStart 6 s
  else if 2 ≤ ((List.range 12).filter fun k => x.untrained.contains k).length then failStart 5 s
  else
    let s := trainStacks x s
    if x.firmwareFault then failStart 4 s
    else if !x.inTime then { s with power := .starting }
    else becomeReady s

/-- Steps 1 to 3 (R437). Which of the reasons 1 and 2 an image cut by a loss of power gives is open (R440; assumption log 2). -/
def bootRom (x : StartInputs) (s : State) : State :=
  if !x.flashRead then failStart 2 s
  else match s.boot.flash with
  | none =>
    let (v, s) := freeValue s
    failStart (1 + v.toNat % 2) s
  | some img =>
    if !Config.imageReadable img then failStart 2 s
    else if !Config.signatureValid img then failStart 1 s
    else firmwareStart x { s with boot := { s.boot with measurement := sha512 img, version := Config.imageVersion img, keyHeld := true } }

/-- POWER_ON_RESET (R437, R438). -/
def powerOnReset (x : StartInputs) (s : State) : State :=
  let s := coldState s
  if 3 ≤ s.boot.fails then enterMinimal s else bootRom x s

/-- The minimal-mode status page (R439): VERSION is 0 for an image that cannot be read. -/
def statusPage (b : Boot) : List Byte :=
  leBytes 4 b.reason ++ leBytes 4 b.fails
    ++ leBytes 8 (match b.flash with | some img => if Config.imageReadable img then (Config.imageVersion img).toNat else 0 | none => 0)
    ++ (match b.flash with | some img => sha512 img | none => Config.cutImageDigest)
    ++ List.replicate 48 0

/-- RECOVERY_IMAGE_PUSH (R439, R440): only in minimal mode. An image that passes replaces the single one and restarts the package; the
answer is 0 for an acknowledgement. -/
def recoveryImagePush (img : List Byte) (s : State) : State :=
  if s.power ≠ .minimal then s
  else if !Config.imageReadable img then { s with boot := { s.boot with answer := some 2 } }
  else if !Config.signatureValid img then { s with boot := { s.boot with answer := some 1 } }
  else { s with
    boot := { s.boot with flash := some img, fails := 0, answer := some 0 }
    agenda := .powerOnReset cleanStart :: s.agenda }

/-- FIRMWARE_HANDOVER (R441): the offer of an image that passes its check starts the hand-over; the release of the key ends it. -/
def firmwareHandover (x : Handover) (s : State) : State :=
  match x with
  | .offer img =>
    if s.boot.pendingImage.isSome || !Config.imageReadable img || !Config.signatureValid img then s
    else { s with boot := { s.boot with flash := some img, pendingImage := some img } }
  | .release => match s.boot.pendingImage with
    | none => s
    | some img => { s with boot := { s.boot with pendingImage := none, measurement := sha512 img, version := Config.imageVersion img } }

/-- A field of n bytes. -/
def padTo (n : Nat) (bs : List Byte) : List Byte := bs.take n ++ List.replicate (n - bs.length) 0

/-- Bytes 0 to 639 of a report (R442). -/
def reportBody (nonce : List Byte) (b : Boot) (parst : Word) : List Byte :=
  padTo 64 nonce ++ padTo 64 Config.deviceId ++ leBytes 8 b.version.toNat ++ padTo 64 b.measurement
    ++ leBytes 8 (b2n b.pendingImage.isSome)
    ++ padTo 64 (match b.pendingImage with | some img => sha512 img | none => [])
    ++ leBytes 8 parst.toNat ++ List.replicate 360 0

/-- ATTESTATION_REQUEST (R442, R443): the firmware that holds the key answers. -/
def attestationRequest (nonce : List Byte) (s : State) : State :=
  if !s.boot.keyHeld then s
  else
    let body := reportBody nonce s.boot s.parity.word
    { s with boot := { s.boot with reports := s.boot.reports ++ [body ++ padTo 512 (Config.signReport (sha512 body))] } }

/-- POWER_INPUT_REMOVED (R440, R447): a flash write that it cuts leaves an image that fails its check. -/
def powerInputRemoved (midFlash : Bool) (s : State) : State :=
  let s := coldState s
  { s with power := .off, boot := { s.boot with flash := if midFlash then none else s.boot.flash } }

/-- POWER_ON_RESET. -/
def execPowerOnReset (x : StartInputs) (s : State) : Result := .next (powerOnReset x s)
/-- START_TIMEOUT (R437). -/
def execStartTimeout (s : State) : Result := .next (if s.power = .starting then failStart 3 s else s)
/-- RECOVERY_IMAGE_PUSH. -/
def execRecoveryImagePush (img : List Byte) (s : State) : Result := .next (recoveryImagePush img s)
/-- FIRMWARE_HANDOVER. -/
def execFirmwareHandover (x : Handover) (s : State) : Result := eventOp s (firmwareHandover x)
/-- ATTESTATION_REQUEST. -/
def execAttestationRequest (nonce : List Byte) (s : State) : Result := eventOp s (attestationRequest nonce)
/-- POWER_INPUT_REMOVED. -/
def execPowerInputRemoved (midFlash : Bool) (s : State) : Result := .next (powerInputRemoved midFlash s)

end Sys2Proof.Machine
end

