-- ==== Sys2Proof/Machine/TileOps.lean ====
section
/-! DEFINITION. The tile instructions. Each is committed to the broadcast queue (R193, R229); its operation is in Tile and Matrix, chosen by the
instruction that the entry holds and by the method that dispatch selects. (R315, R326 to R340) -/
namespace Sys2Proof.Machine

/-- TMMA: Tile matrix multiply-accumulate C += A × B over TCOUNT tiles and REP steps (R334). -/
def execTmma (f : TX) (s : State) : Result := broadcast (.tmma f) s
/-- TEW: Tile element-wise add, sub, mul, max or min (R337). -/
def execTew (f : TX) (s : State) : Result := broadcast (.tew f) s
/-- TACT: Tile activation function (R337). -/
def execTact (f : TX) (s : State) : Result := broadcast (.tact f) s
/-- TROWR: Tile row reduction into column 0 (R337). -/
def execTrowr (f : TX) (s : State) : Result := broadcast (.trowr f) s
/-- TSOFT: Tile row softmax (R338). -/
def execTsoft (f : TX) (s : State) : Result := broadcast (.tsoft f) s
/-- TTRN: Tile transpose (R337). -/
def execTtrn (f : TX) (s : State) : Result := broadcast (.ttrn f) s
/-- TCVT: Tile format conversion, including to and from scaled tiles (R339). -/
def execTcvt (f : TX) (s : State) : Result := broadcast (.tcvt f) s
/-- TCPY: Tile copy of all 8,192 bytes with the result tag from the entry (R337). -/
def execTcpy (f : TX) (s : State) : Result := broadcast (.tcpy f) s
/-- TFILL: Fills every element of each tile with a splat value (R337). -/
def execTfill (f : TX) (s : State) : Result := broadcast (.tfill f) s
/-- TTAGR: Reads TCOUNT frame tags into a U64 array (R315). -/
def execTtagr (f : TX) (s : State) : Result := broadcast (.ttagr f) s
/-- TTAGW: Writes TCOUNT frame tags from a U64 array and advances GEN (R315). -/
def execTtagw (f : TX) (s : State) : Result := broadcast (.ttagw f) s

end Sys2Proof.Machine
end

