-- ==== Sys2Proof/Machine/Dispatch.lean ====
section
/-! DEFINITION. One arm per instruction or event: each is one call of its meaning. -/
namespace Sys2Proof.Machine

def exec (i : Instr) (s : State) : Host.Outcome State Fault Refusal :=
  match i with
  | .add d a b => Sys2Proof.Machine.execAdd d a b s
  | .sub d a b => Sys2Proof.Machine.execSub d a b s
  | .and d a b => Sys2Proof.Machine.execAnd d a b s
  | .or d a b => Sys2Proof.Machine.execOr d a b s
  | .xor d a b => Sys2Proof.Machine.execXor d a b s
  | .andn d a b => Sys2Proof.Machine.execAndn d a b s
  | .sll d a b => Sys2Proof.Machine.execSll d a b s
  | .srl d a b => Sys2Proof.Machine.execSrl d a b s
  | .sra d a b => Sys2Proof.Machine.execSra d a b s
  | .rol d a b => Sys2Proof.Machine.execRol d a b s
  | .ror d a b => Sys2Proof.Machine.execRor d a b s
  | .slt d a b => Sys2Proof.Machine.execSlt d a b s
  | .sltu d a b => Sys2Proof.Machine.execSltu d a b s
  | .min d a b => Sys2Proof.Machine.execMin d a b s
  | .max d a b => Sys2Proof.Machine.execMax d a b s
  | .minu d a b => Sys2Proof.Machine.execMinu d a b s
  | .maxu d a b => Sys2Proof.Machine.execMaxu d a b s
  | .mul d a b => Sys2Proof.Machine.execMul d a b s
  | .mulh d a b => Sys2Proof.Machine.execMulh d a b s
  | .mulhu d a b => Sys2Proof.Machine.execMulhu d a b s
  | .div d a b => Sys2Proof.Machine.execDiv d a b s
  | .divu d a b => Sys2Proof.Machine.execDivu d a b s
  | .rem d a b => Sys2Proof.Machine.execRem d a b s
  | .remu d a b => Sys2Proof.Machine.execRemu d a b s
  | .clmul d a b => Sys2Proof.Machine.execClmul d a b s
  | .clmulh d a b => Sys2Proof.Machine.execClmulh d a b s
  | .clz d a => Sys2Proof.Machine.execClz d a s
  | .ctz d a => Sys2Proof.Machine.execCtz d a s
  | .popc d a => Sys2Proof.Machine.execPopc d a s
  | .sext d a w => Sys2Proof.Machine.execSext d a w s
  | .zext d a w => Sys2Proof.Machine.execZext d a w s
  | .addi d a im => Sys2Proof.Machine.execAddi d a im s
  | .andi d a im => Sys2Proof.Machine.execAndi d a im s
  | .ori d a im => Sys2Proof.Machine.execOri d a im s
  | .xori d a im => Sys2Proof.Machine.execXori d a im s
  | .slli d a im => Sys2Proof.Machine.execSlli d a im s
  | .srli d a im => Sys2Proof.Machine.execSrli d a im s
  | .srai d a im => Sys2Proof.Machine.execSrai d a im s
  | .slti d a im => Sys2Proof.Machine.execSlti d a im s
  | .sltiu d a im => Sys2Proof.Machine.execSltiu d a im s
  | .lih d im => Sys2Proof.Machine.execLih d im s
  | .lim d imm => Sys2Proof.Machine.execLim d imm s
  | .lb d a im => Sys2Proof.Machine.execLb d a im s
  | .lbu d a im => Sys2Proof.Machine.execLbu d a im s
  | .lh d a im => Sys2Proof.Machine.execLh d a im s
  | .lhu d a im => Sys2Proof.Machine.execLhu d a im s
  | .lw d a im => Sys2Proof.Machine.execLw d a im s
  | .lwu d a im => Sys2Proof.Machine.execLwu d a im s
  | .ld d a im => Sys2Proof.Machine.execLd d a im s
  | .sb d a im => Sys2Proof.Machine.execSb d a im s
  | .sh d a im => Sys2Proof.Machine.execSh d a im s
  | .sw d a im => Sys2Proof.Machine.execSw d a im s
  | .sd d a im => Sys2Proof.Machine.execSd d a im s
  | .ldg d a b z o c => Sys2Proof.Machine.execLdg d a b z o c s
  | .stg d a b z o c => Sys2Proof.Machine.execStg d a b z o c s
  | .amo d a b n z o c g => Sys2Proof.Machine.execAmo d a b n z o c g s
  | .beq l a b h => Sys2Proof.Machine.execBeq l a b h s
  | .bne l a b h => Sys2Proof.Machine.execBne l a b h s
  | .blt l a b h => Sys2Proof.Machine.execBlt l a b h s
  | .bge l a b h => Sys2Proof.Machine.execBge l a b h s
  | .bltu l a b h => Sys2Proof.Machine.execBltu l a b h s
  | .bgeu l a b h => Sys2Proof.Machine.execBgeu l a b h s
  | .jal d o => Sys2Proof.Machine.execJal d o s
  | .jalr d a im => Sys2Proof.Machine.execJalr d a im s
  | .crd d n => Sys2Proof.Machine.execCrd d n s
  | .cwr d a n => Sys2Proof.Machine.execCwr d a n s
  | .cset d a n => Sys2Proof.Machine.execCset d a n s
  | .cclr d a n => Sys2Proof.Machine.execCclr d a n s
  | .registerWrite r v => Sys2Proof.Machine.execRegisterWrite r v s
  | .chstatCancel c => Sys2Proof.Machine.execChstatCancel c s
  | .chstatErrorClear c m => Sys2Proof.Machine.execChstatErrorClear c m s
  | .convresWrite v => Sys2Proof.Machine.execConvresWrite v s
  | .setec d a => Sys2Proof.Machine.execSetec d a s
  | .setecT d a => Sys2Proof.Machine.execSetecT d a s
  | .setspan d a => Sys2Proof.Machine.execSetspan d a s
  | .fwset d a b => Sys2Proof.Machine.execFwset d a b s
  | .fwget d a b => Sys2Proof.Machine.execFwget d a b s
  | .owner d a => Sys2Proof.Machine.execOwner d a s
  | .rqpop d => Sys2Proof.Machine.execRqpop d s
  | .rqstat d => Sys2Proof.Machine.execRqstat d s
  | .eqpush a p => Sys2Proof.Machine.execEqpush a p s
  | .eqpushLast a p => Sys2Proof.Machine.execEqpushLast a p s
  | .eqpop d p => Sys2Proof.Machine.execEqpop d p s
  | .eqstat d p => Sys2Proof.Machine.execEqstat d p s
  | .fence sc k => Sys2Proof.Machine.execFence sc k s
  | .fenceb b c => Sys2Proof.Machine.execFenceb b c s
  | .barrierArrival gang bar => Sys2Proof.Machine.execBarrierArrival gang bar s
  | .waitb b => Sys2Proof.Machine.execWaitb b s
  | .barcfg d b n => Sys2Proof.Machine.execBarcfg d b n s
  | .bqwait => Sys2Proof.Machine.execBqwait s
  | .sigwait c a b => Sys2Proof.Machine.execSigwait c a b s
  | .sigpost c a b => Sys2Proof.Machine.execSigpost c a b s
  | .awset w a b => Sys2Proof.Machine.execAwset w a b s
  | .trap l h => Sys2Proof.Machine.execTrap l h s
  | .eret => Sys2Proof.Machine.execEret s
  | .eretSkip => Sys2Proof.Machine.execEretSkip s
  | .eretDrop => Sys2Proof.Machine.execEretDrop s
  | .brk => Sys2Proof.Machine.execBrk s
  | .wfe => Sys2Proof.Machine.execWfe s
  | .yield => Sys2Proof.Machine.execYield s
  | .halt => Sys2Proof.Machine.execHalt s
  | .qsave a => Sys2Proof.Machine.execQsave a s
  | .qload a => Sys2Proof.Machine.execQload a s
  | .vadd f => Sys2Proof.Machine.execVadd f s
  | .vsub f => Sys2Proof.Machine.execVsub f s
  | .vmul f => Sys2Proof.Machine.execVmul f s
  | .vfma f => Sys2Proof.Machine.execVfma f s
  | .vfms f => Sys2Proof.Machine.execVfms f s
  | .vfnma f => Sys2Proof.Machine.execVfnma f s
  | .vdiv f => Sys2Proof.Machine.execVdiv f s
  | .vsqrt f => Sys2Proof.Machine.execVsqrt f s
  | .vmin f => Sys2Proof.Machine.execVmin f s
  | .vmax f => Sys2Proof.Machine.execVmax f s
  | .vabs f => Sys2Proof.Machine.execVabs f s
  | .vneg f => Sys2Proof.Machine.execVneg f s
  | .vcpys f => Sys2Proof.Machine.execVcpys f s
  | .vfun f => Sys2Proof.Machine.execVfun f s
  | .vmulh f => Sys2Proof.Machine.execVmulh f s
  | .vavg f => Sys2Proof.Machine.execVavg f s
  | .vclass f => Sys2Proof.Machine.execVclass f s
  | .vand f => Sys2Proof.Machine.execVand f s
  | .vor f => Sys2Proof.Machine.execVor f s
  | .vxor f => Sys2Proof.Machine.execVxor f s
  | .vsll f => Sys2Proof.Machine.execVsll f s
  | .vsrl f => Sys2Proof.Machine.execVsrl f s
  | .vsra f => Sys2Proof.Machine.execVsra f s
  | .vclmul f => Sys2Proof.Machine.execVclmul f s
  | .vclmulh f => Sys2Proof.Machine.execVclmulh f s
  | .vpopc f => Sys2Proof.Machine.execVpopc f s
  | .vclz f => Sys2Proof.Machine.execVclz f s
  | .vcmp f => Sys2Proof.Machine.execVcmp f s
  | .vselm f => Sys2Proof.Machine.execVselm f s
  | .vcvtn f => Sys2Proof.Machine.execVcvtn f s
  | .vcvtw f => Sys2Proof.Machine.execVcvtw f s
  | .vcvti f => Sys2Proof.Machine.execVcvti f s
  | .vcvtf4 f => Sys2Proof.Machine.execVcvtf4 f s
  | .vmov f => Sys2Proof.Machine.execVmov f s
  | .viota f => Sys2Proof.Machine.execViota f s
  | .vrev f => Sys2Proof.Machine.execVrev f s
  | .vreshape f => Sys2Proof.Machine.execVreshape f s
  | .vcompress f => Sys2Proof.Machine.execVcompress f s
  | .vexpand f => Sys2Proof.Machine.execVexpand f s
  | .vredsum f => Sys2Proof.Machine.execVredsum f s
  | .vredmax f => Sys2Proof.Machine.execVredmax f s
  | .vredmin f => Sys2Proof.Machine.execVredmin f s
  | .vredbit f => Sys2Proof.Machine.execVredbit f s
  | .vscan f => Sys2Proof.Machine.execVscan f s
  | .vfirst f => Sys2Proof.Machine.execVfirst f s
  | .vcount f => Sys2Proof.Machine.execVcount f s
  | .vscatadd f => Sys2Proof.Machine.execVscatadd f s
  | .vscatmax f => Sys2Proof.Machine.execVscatmax f s
  | .vscatmin f => Sys2Proof.Machine.execVscatmin f s
  | .vconfl f => Sys2Proof.Machine.execVconfl f s
  | .vspadd f => Sys2Proof.Machine.execVspadd f s
  | .vspmul f => Sys2Proof.Machine.execVspmul f s
  | .vrunb f => Sys2Proof.Machine.execVrunb f s
  | .bload f => Sys2Proof.Machine.execBload f s
  | .tmma f => Sys2Proof.Machine.execTmma f s
  | .tew f => Sys2Proof.Machine.execTew f s
  | .tact f => Sys2Proof.Machine.execTact f s
  | .trowr f => Sys2Proof.Machine.execTrowr f s
  | .tsoft f => Sys2Proof.Machine.execTsoft f s
  | .ttrn f => Sys2Proof.Machine.execTtrn f s
  | .tcvt f => Sys2Proof.Machine.execTcvt f s
  | .tcpy f => Sys2Proof.Machine.execTcpy f s
  | .tfill f => Sys2Proof.Machine.execTfill f s
  | .ttagr f => Sys2Proof.Machine.execTtagr f s
  | .ttagw f => Sys2Proof.Machine.execTtagw f s
  | .mtload f => Sys2Proof.Machine.execMtload f s
  | .mtinv f => Sys2Proof.Machine.execMtinv f s
  | .mtquery f => Sys2Proof.Machine.execMtquery f s
  | .copy f => Sys2Proof.Machine.execCopy f s
  | .copynd f => Sys2Proof.Machine.execCopynd f s
  | .gather f => Sys2Proof.Machine.execGather f s
  | .scatter f => Sys2Proof.Machine.execScatter f s
  | .drain f => Sys2Proof.Machine.execDrain f s
  | .bankBegin b => Sys2Proof.Machine.execBankBegin b s
  | .pullArrival b => Sys2Proof.Machine.execPullArrival b s
  | .pullServe b => Sys2Proof.Machine.execPullServe b s
  | .pullResponse b => Sys2Proof.Machine.execPullResponse b s
  | .stagedWritePhase => Sys2Proof.Machine.execStagedWritePhase s
  | .loadResponse d => Sys2Proof.Machine.execLoadResponse d s
  | .stgNak gang a => Sys2Proof.Machine.execStgNak gang a s
  | .trapEntry => Sys2Proof.Machine.execTrapEntry s
  | .pageReply gang present => Sys2Proof.Machine.execPageReply gang present s
  | .preemptionHalt gang => Sys2Proof.Machine.execPreemptionHalt gang s
  | .fieldEviction gang => Sys2Proof.Machine.execFieldEviction gang s
  | .clusterOffline c => Sys2Proof.Machine.execClusterOffline c s
  | .copyStart c => Sys2Proof.Machine.execCopyStart c s
  | .copyElementLand c n => Sys2Proof.Machine.execCopyElementLand c n s
  | .copyFaultStop c => Sys2Proof.Machine.execCopyFaultStop c s
  | .gatherPiece c => Sys2Proof.Machine.execGatherPiece c s
  | .parityHomeAccess x => Sys2Proof.Machine.execParityHomeAccess x s
  | .stackLost k why => Sys2Proof.Machine.execStackLost k why s
  | .contractionStart => Sys2Proof.Machine.execContractionStart s
  | .contractionStripeMove => Sys2Proof.Machine.execContractionStripeMove s
  | .rowRemapUpdate k row spare => Sys2Proof.Machine.execRowRemapUpdate k row spare s
  | .allocationTableUpdate second grp dom => Sys2Proof.Machine.execAllocationTableUpdate second grp dom s
  | .powerDownEntry k pc => Sys2Proof.Machine.execPowerDownEntry k pc s
  | .selfRefreshEntry k pc => Sys2Proof.Machine.execSelfRefreshEntry k pc s
  | .reductionCommand gang p => Sys2Proof.Machine.execReductionCommand gang p s
  | .reductionComplete gang p => Sys2Proof.Machine.execReductionComplete gang p s
  | .mergeCountPass gang p => Sys2Proof.Machine.execMergeCountPass gang p s
  | .mergeWritePass gang p => Sys2Proof.Machine.execMergeWritePass gang p s
  | .mergeComplete gang p => Sys2Proof.Machine.execMergeComplete gang p s
  | .allGather gang p => Sys2Proof.Machine.execAllGather gang p s
  | .reduceScatter gang p => Sys2Proof.Machine.execReduceScatter gang p s
  | .collectiveWaitComplete gang p => Sys2Proof.Machine.execCollectiveWaitComplete gang p s
  | .peerInboundAccess x => Sys2Proof.Machine.execPeerInboundAccess x s
  | .peerWindowRemap w w0 w1 w2 => Sys2Proof.Machine.execPeerWindowRemap w w0 w1 w2 s
  | .shootDown pasid lo hi => Sys2Proof.Machine.execShootDown pasid lo hi s
  | .shootDownComplete => Sys2Proof.Machine.execShootDownComplete s
  | .walkPrefetch w => Sys2Proof.Machine.execWalkPrefetch w s
  | .pageMigration pasid va pa => Sys2Proof.Machine.execPageMigration pasid va pa s
  | .pasidTeardown pasid => Sys2Proof.Machine.execPasidTeardown pasid s
  | .hostRmaWrite pasid a bytes => Sys2Proof.Machine.execHostRmaWrite pasid a bytes s
  | .queueTailWrite q tail => Sys2Proof.Machine.execQueueTailWrite q tail s
  | .queueErrorClear q m => Sys2Proof.Machine.execQueueErrorClear q m s
  | .queueWatchFire q => Sys2Proof.Machine.execQueueWatchFire q s
  | .schedulingPass => Sys2Proof.Machine.execSchedulingPass s
  | .gangStart gang => Sys2Proof.Machine.execGangStart gang s
  | .reservationTimeout die => Sys2Proof.Machine.execReservationTimeout die s
  | .eventPost gang => Sys2Proof.Machine.execEventPost gang s
  | .heartbeatTimeout => Sys2Proof.Machine.execHeartbeatTimeout s
  | .commandCoreRelease => Sys2Proof.Machine.execCommandCoreRelease s
  | .directLaunch p => Sys2Proof.Machine.execDirectLaunch p s
  | .portDown p => Sys2Proof.Machine.execPortDown p s
  | .connectionSetup mode => Sys2Proof.Machine.execConnectionSetup mode s
  | .powerOnReset x => Sys2Proof.Machine.execPowerOnReset x s
  | .startTimeout => Sys2Proof.Machine.execStartTimeout s
  | .recoveryImagePush img => Sys2Proof.Machine.execRecoveryImagePush img s
  | .firmwareHandover x => Sys2Proof.Machine.execFirmwareHandover x s
  | .attestationRequest nonce => Sys2Proof.Machine.execAttestationRequest nonce s
  | .powerLimitThrottle => Sys2Proof.Machine.execPowerLimitThrottle s
  | .clockRaise => Sys2Proof.Machine.execClockRaise s
  | .writeAcknowledgement ok => Sys2Proof.Machine.execWriteAcknowledgement ok s
  | .powerInputRemoved midFlash => Sys2Proof.Machine.execPowerInputRemoved midFlash s
  | .portUp p => Sys2Proof.Machine.execPortUp p s
  | .svkAttach gang on => Sys2Proof.Machine.execSvkAttach gang on s
  | .svkContinue gang => Sys2Proof.Machine.execSvkContinue gang s

end Sys2Proof.Machine
end

