-- ==== Sys2Proof/Machine/Fetch.lean ====
section
/-! DEFINITION. What the next step is: an event of the agenda, a pending cause, or the instruction that the selected gang fetches at its
PC (R48, R139 to R141, R221, R228, R447); and the placing of an instruction where the next step fetches it. -/
namespace Sys2Proof.Machine

/-- What the fetch of a parcel or an instruction finds (R140): its bits, a trap with its cause code, address and access code, or a page
that migrates (R360). -/
inductive Fetched where
  | word (n : Nat)
  | trap (code : Nat) (addr : Word) (access : Nat)
  | held
  deriving DecidableEq, Repr

/-- One parcel through the hub of the lead die (R139, R140, R360, R361). -/
def fetchParcel (s : State) (a : Word) : State × Fetched :=
  match translateFull s s.g.lead s.g.pasid a.toNat .fetch with
  | .ok pa _ => match physRead (useG s a.toNat) pa 4 with
    | (s, some bs) => (s, .word (leNat bs))
    | (s, none) => (s, .trap 7 a 3)
  | .notPresent => (useG s a.toNat, .trap 8 a 7)
  | .permission => (useG s a.toNat, .trap 8 a 3)
  | .shape => (s, .trap 8 a 3)
  | .migrating => (s, .held)

/-- The instruction at the PC: one parcel, or two (R139, R140). Where the second parcel alone cannot be fetched, GEVAL holds its address,
PC + 4 (assumption log 62). -/
def fetchWord (s : State) : State × Fetched :=
  match fetchParcel s s.g.pc with
  | (s, .word p) =>
    if isLong p then
      match fetchParcel s (s.g.pc + 4) with
      | (s, .word q) => (s, .word (p + q * 2 ^ 32))
      | r => r
    else (s, .word p)
  | r => r

/-- The instruction that the bits at a PC stand for (R139). -/
def decodeFetched (n : Nat) : Except Reject Instr := if isLong n then decode64 n else decode32 n

/-- What the next step does. -/
inductive Turn where
  | run (i : Instr) (s : State)
  | idle (s : State)
  | off
  deriving DecidableEq, Repr

/-- The turn of the selected gang at its instruction boundary: an undecodable word traps (R141). -/
def fetchTurn (s : State) : Turn :=
  match fetchWord s with
  | (s, .word n) => match decodeFetched n with
    | .ok i => .run i s
    | .error _ => .idle (trapS s 1 (w64 n) 0)
  | (s, .trap c a v) => .idle (trapS s c a (w64 v))
  | (s, .held) => .idle (stall s)

/-- What an instruction does, as the sequencer's step asks it. -/
abbrev Exec := Instr → State → Result

/-- Whether the gang that stood selected in s has taken a cause of the instruction at its PC: it has entered its handler precisely, or
stopped for the command core, the debugger or good. -/
def tookSync (s : State) : Result → Bool
  | .next t => match findGang t s.g.id with
    | some h => (!s.g.pl && h.pl && !bit h.gcause 8) || h.phase == .pageWait || h.phase == .svkStop || h.phase == .failed
    | none => false
  | _ => false

/-- Whether the instruction at the PC raises a synchronous cause, once the queue has emptied for it (R220, R221). -/
def syncCause (exec : Exec) (s : State) : Bool :=
  let s := { s with g := { s.g with bq := [] } }
  match fetchTurn s with
  | .run i t => tookSync s (exec i t)
  | .idle t => tookSync s (.next t)
  | .off => false

/-- A cause is pending (R221): B causes, an FP trap and a single step come before the instruction at the PC; an asynchronous cause comes
after a synchronous one of that instruction. -/
def causeTurn (exec : Exec) (s : State) : Turn :=
  if s.g.bankFault || s.g.fpDue.isSome || s.g.held.isSome then .run .trapEntry s
  else if syncCause exec s then fetchTurn s
  else .run .trapEntry s

/-- Another gang can act. -/
def othersRun (s : State) : Bool := s.others.any fun h => h.runnable && !cohortStopped s h

/-- The selected gang has committed an instruction since it was selected, and another gang can act: so every resident gang goes on
(R48, R49). -/
def turnOver (s : State) : Bool := s.g.retired != s.g.turnMark && othersRun s

/-- Pre-emption comes before a cause, and a cause before the next instruction (R221, R228). Where no gang can act, the command core makes
a scheduling pass. -/
def gangTurn (exec : Exec) (s : State) : Turn :=
  if s.g.runnable && !cohortStopped s s.g then
    if s.g.preempt then .run (.preemptionHalt s.g.id) s
    else if turnOver s then .idle (rotate s)
    else if s.g.pendingReady then causeTurn exec s
    else fetchTurn s
  else if othersRun s then .idle (rotate s)
  else .run .schedulingPass s

/-- The next step: the first event of the agenda, else the selected gang's turn. -/
def turn (exec : Exec) (s : State) : Turn :=
  match s.agenda with
  | i :: r => if i.isEvent then .run i { s with agenda := r } else .idle { s with agenda := r }
  | [] =>
    if s.power = .off then .off
    else if s.power ≠ .ready then .idle s
    else gangTurn exec s

/-- A gang at a boundary with no cause pending, on a span. -/
def Gang.quiet (g : Gang) (pc : Word) : Gang :=
  { g with
    phase := .running, preempt := false, cohN := 1, pc := pc
    clusters := if g.clusters = [] then [0, 1, 2, 3] else g.clusters
    banks := g.banks.map fun p => (p.1, { p.2 with cause := none })
    fpDue := none, held := none, stgNak := none, revoked := none, turnMark := g.retired
    channels := g.channels.map fun p => (p.1, p.2.reopen) }

/-- Where `placeWord` puts the instruction: a page of host memory. -/
def placePa : Nat := 2 ^ 51 + 2 ^ 16

/-- A ready package in which the selected gang is at a boundary, with the bits of an instruction and zeros after them at its PC, in a
page that its hub maps for fetches and writes (assumption log 1). -/
def placeWord (s : State) (nbits w : Nat) : State :=
  let pc : Word := if s.g.pc.toNat < 2 ^ 48 ∧ s.g.pc.toNat % 65536 + 8 ≤ 65536 then s.g.pc else 0
  let page := pc.toNat / 65536 * 65536
  let fill : Fill := ⟨s.g.pasid, page, 65536, w64 (placePa + 0x17)⟩
  { s with
    power := .ready
    agenda := []
    hubs := mset [] s.hubs s.g.lead (fill :: mget [] s.hubs s.g.lead)
    mem := wrBytes s.mem (placePa + pc.toNat % 65536) (leBytes 8 (w % 2 ^ nbits))
    g := s.g.quiet pc }

end Sys2Proof.Machine
end

