-- ==== Sys2Proof/Machine/Step.lean ====
section
/-! DEFINITION. One step of the machine, and the placing of an instruction where the next step fetches it. -/
namespace Sys2Proof.Machine

/-- One step: the turn's instruction or event is executed; a package without power and without an input stops (R447). -/
def step (s : State) : Host.Outcome State Fault Refusal :=
  match turn exec s with
  | .run i t => exec i t
  | .idle t => .next t
  | .off => .fault .poweredOff

/-- `s` with an instruction where the next step fetches it. -/
def State.withFetchWord (s : State) (nbits w : Nat) : State := placeWord s nbits w

end Sys2Proof.Machine
end

