-- ==== Sys2Proof/Safety.lean ====
section
/-! DEFINITION. The terms in which claims about the machine are stated: when an instruction goes on to its own effect, what committing
it changes, what a step leaves alone, and the canonical form of the memories. -/
namespace Sys2Proof.Machine

/-- What R141, R183 and R444 ask of an instruction before its own effect: a legal encoding, its level, no hold of an outstanding load on
a register it names, and no parity error in a register it reads. -/
def issues (i : Instr) (s : State) : Prop :=
  i.wf = true ∧ (i.privileged = true → s.g.pl = true) ∧ waitsForLoad s.g i = false ∧ readsBad s.g i = false

/-- The 128-bit carry-less product of R170: the xor of x << i over every i with bit i of y set. -/
def clProduct (x y : Word) : BitVec 128 :=
  (List.range 64).foldl (fun acc i => if y.getLsbD i then acc ^^^ (x.zeroExtend 128 <<< i) else acc) 0

/-- Wherever the instruction goes on to its own effect, it completes in a next state, of which `P` holds. -/
def completes (i : Instr) (s : State) (P : State → Prop) : Prop := issues i s → ∃ t, exec i s = .next t ∧ P t

/-- A step of another agent on a ready device completes in a next state, of which `P` holds. -/
def occurs (i : Instr) (s : State) (P : State → Prop) : Prop := s.power = .ready → ∃ t, exec i s = .next t ∧ P t

/-- The memories are in canonical form: HBM and host memory, the memory of peers, and the field SRAM. -/
def State.memoriesOk (s : State) : Prop := Memory.wf s.mem = true ∧ Memory.wf s.peerMem = true ∧ Memory.wf s.field = true

/-- Two physical addresses name the same byte: they are equal, or two peer windows lead to one byte of a peer's memory (R414). -/
def sameCell (s : State) (x p : Nat) : Bool := x == p || (region x == 1 && region p == 1 && peerCell s x == peerCell s p)

/-- Every byte of HBM, its tag plane, host and peer memory reads as before. -/
def sameMem (s t : State) : Prop := ∀ a, memByte t a = memByte s a
/-- n bytes of memory from pa on as a number, little-endian (R4). -/
def memNat (s : State) (pa n : Nat) : Nat := leNat (memBytes s pa n)
/-- Every byte of memory but those that the n addresses from pa on name reads as before. -/
def memKept (pa n : Nat) (s t : State) : Prop := ∀ x, (∀ j < n, sameCell s x (pa + j) = false) → memByte t x = memByte s x
/-- Every byte of the field SRAM reads as before. -/
def sameField (s t : State) : Prop := ∀ a, rdByte t.field a = rdByte s.field a
/-- Every byte of the selected gang's sequencer-local memory reads as before. -/
def sameLocal (s t : State) : Prop := ∀ a, rdByte t.g.lmem a = rdByte s.g.lmem a
/-- No byte of memory changes. -/
def sameBytes (s t : State) : Prop := sameMem s t ∧ sameField s t ∧ sameLocal s t

/-- Every general register but those listed keeps its value. -/
def sameRegsBut (ds : List Reg) (s t : State) : Prop := ∀ r, r ∉ ds → t.g.reg r = s.g.reg r

/-- A scalar instruction has committed (R198, R226): the PC stands at `pc`, RETIRED has counted it, and a single step falls due only
where one was armed at gang level. -/
def committed (pc : Word) (s t : State) : Prop :=
  t.g.pc = pc ∧ t.g.retired = s.g.retired + 1
    ∧ (if s.g.stepping = true ∧ s.g.pl = false then t.g.held = some stepCause ∧ t.g.stepping = false
       else t.g.held = s.g.held ∧ t.g.stepping = s.g.stepping)

/-- Apart from the general registers, the PC, RETIRED and the single step, nothing of the machine has changed: no control register,
flag, window, channel, port or queue of the selected gang, no other gang, and nothing outside the gangs. -/
def onlyRegs (s t : State) : Prop :=
  t = { s with g := { s.g with
    regs := t.g.regs, regBad := t.g.regBad, pc := t.g.pc, retired := t.g.retired, held := t.g.held, stepping := t.g.stepping } }

/-- The effect of an instruction that only writes register d: its value, the registers it leaves, the commit, and everything else as
before. A write to s0 is discarded, and s0 reads as 0 (R143). -/
def writesReg (d : Reg) (v pc : Word) (s t : State) : Prop :=
  t.g.reg d = (if d = 0 then 0 else v) ∧ sameRegsBut [d] s t ∧ committed pc s t ∧ sameBytes s t ∧ onlyRegs s t

/-- Besides what `onlyRegs` allows, only the sequencer-local memory and its error marks have changed. -/
def onlyLocal (s t : State) : Prop :=
  t = { s with g := { s.g with
    lmem := t.g.lmem, lmemBad := t.g.lmemBad
    regs := t.g.regs, regBad := t.g.regBad, pc := t.g.pc, retired := t.g.retired, held := t.g.held, stepping := t.g.stepping } }

/-- Besides what `onlyRegs` allows, only the field SRAM and its error marks have changed: no tag. -/
def onlyField (s t : State) : Prop :=
  t = { s with field := t.field, fieldBad := t.fieldBad, g := { s.g with
    regs := t.g.regs, regBad := t.g.regBad, pc := t.g.pc, retired := t.g.retired, held := t.g.held, stepping := t.g.stepping } }

/-- Besides what `onlyRegs` allows, a G-space access has changed only its data in memory or on its way there, what it leaves in the hub,
the page's hotness record, the walk registers and the outstanding loads, and what the stacks count and repair of it (R361, R362, R366,
R374, R377, R385, R389). -/
def onlyGlobal (s t : State) : Prop :=
  t = { s with
    mem := t.mem, peerMem := t.peerMem, hbmTags := t.hbmTags, memBad := t.memBad, parityBad := t.parityBad, unacked := t.unacked
    hubs := t.hubs, hotness := t.hotness, hbmStat := t.hbmStat, remapBad := t.remapBad, mirrorBad := t.mirrorBad, channelPower := t.channelPower, agenda := t.agenda
    g := { s.g with
      walks := t.g.walks, loads := t.g.loads, regs := t.g.regs, regBad := t.g.regBad, pc := t.g.pc, retired := t.g.retired
      held := t.g.held, stepping := t.g.stepping } }

/-- The value in memory after an atomic operation, from the value before, the operand and the comparand (R186, R187). -/
def amoResult {w : Nat} (op : Nat) (old y c : BitVec w) : BitVec w :=
  match op with
  | 0 => y
  | 1 => old + y
  | 2 => old &&& y
  | 3 => old ||| y
  | 4 => old ^^^ y
  | 5 => if y.toInt < old.toInt then y else old
  | 6 => if old.toInt < y.toInt then y else old
  | 7 => if y.toNat < old.toNat then y else old
  | 8 => if old.toNat < y.toNat then y else old
  | _ => if old = c then y else old

/-- Byte j of a word, little-endian (R4). -/
def byteOf {w : Nat} (v : BitVec w) (j : Nat) : Byte := BitVec.ofNat 8 (v.toNat / 2 ^ (8 * j))

/-- A value of n bytes as a register holds it: sign-extended, or as it is. -/
def loaded (signed : Bool) (n : Nat) (bs : List Byte) : Word :=
  if signed = true then BitVec.ofInt 64 (BitVec.ofNat (8 * n) (leNat bs)).toInt else w64 (leNat bs)

/-- The value of an LDG or an AMO reaches s[d]: at once, or as an outstanding load that LOAD_RESPONSE answers (R183, R188). -/
def answers (d : Reg) (v : Word) (hold : Bool) (s t : State) : Prop :=
  if s.lockstep = true then t.g.reg d = (if d = 0 then 0 else v) ∧ sameRegsBut [d] s t ∧ t.g.loads = s.g.loads
  else sameRegsBut [] s t ∧ t.g.loads = s.g.loads ++ [⟨d, v, hold⟩]

/-- Where a synchronous cause of an instruction is taken into the handler at once: nothing of the broadcast stream is unretired, no cause
comes before it, and the gang runs at gang level with a handler (R220, R221, R223). -/
def trapsNow (s : State) : Prop :=
  s.g.bq = [] ∧ s.g.bankFault = false ∧ s.g.copyFault = none ∧ s.g.pl = false ∧ s.g.gtvec ≠ 0

/-- The machine after a precise synchronous trap from an empty broadcast queue (R206, R219, R220): the cause registers, the handler's
level and address, an empty frame, and the read queue's values set aside. -/
def afterTrap (code : Nat) (val val2 gepc : Word) (s : State) : State :=
  { s with g := { s.g with
    gcause := w64 code, gepc := gepc &&& ~~~3, geval := val, geval2 := val2, gqpos := 0
    pl := true, pc := s.g.gtvec &&& ~~~3
    frame := [], resume := [], fv := false, bq := [], banks := [], pulls := [], tokens := []
    rq := s.g.rq.filter Option.isSome, rqAside := (s.g.rq.filter Option.isSome).length } }

/-- Wherever the instruction gets as far as its own effect and the trap can be taken at once, it takes the trap with this cause. -/
def trapsWith (i : Instr) (code : Nat) (val val2 : Word) (s : State) : Prop :=
  issues i s → trapsNow s → exec i s = .next (afterTrap code val val2 s.g.pc s)

/-- As `trapsWith`, of an access that has been translated: `u` is the machine as its walk leaves it (R361, R377). -/
def trapsLeaving (i : Instr) (code : Nat) (val val2 : Word) (s u : State) : Prop :=
  issues i s → trapsNow s → exec i s = .next (afterTrap code val val2 s.g.pc u)

/-- No other resident gang has the selected gang's identifier. -/
def ownId (s : State) : Prop := ∀ h ∈ s.others, h.id ≠ s.g.id

/-- Wherever the instruction gets as far as an access whose page is not present, and its cause can be taken at once, the command core asks
the host for the page (R179, R222, R432): the gang waits with the cause kept, the instruction still before it, and no byte is changed. -/
def asksForPage (i : Instr) (ea : Word) (code : Nat) (s : State) : Prop :=
  issues i s → s.g.bq = [] → s.g.bankFault = false → s.g.copyFault = none → s.g.cohN = 1 → ownId s →
    ∃ t x, exec i s = .next t ∧ findGang t s.g.id = some x ∧ x.phase = .pageWait ∧ x.pc = s.g.pc
      ∧ x.savedCause = some (⟨8, ea, w64 (code + 4), 0, 0, 0⟩, false, s.g.pc) ∧ sameMem s t ∧ sameField s t
      ∧ ∃ f ∈ t.eventFrames, f.type = 3 ∧ f.payload = [w64 s.g.pasid, ea, w64 (code + 4), Config.contextAddress s.g.id]

/-- Some copy of the selected gang is queued, or unseen by a peer or the host: there is something left to drain (R124, R137). -/
def copiesLeft (s : State) : Prop :=
  (∃ ch < 8, (s.g.channel ch).queue ≠ []) ∨ ∃ u ∈ s.unacked, u.gang = s.g.id ∧ 1 ≤ u.origin ∧ u.origin ≤ 8

/-- No copy of the selected gang is queued, stopped, or unseen by a peer or the host: nothing is left to drain (R124, R137). -/
def copiesDone (s : State) : Prop :=
  (∀ p ∈ s.g.channels, p.2.queue = [] ∧ p.2.stopped = false) ∧ ∀ u ∈ s.unacked, u.gang = s.g.id → u.origin = 0 ∨ 8 < u.origin

/-- No engine command of the selected gang is outstanding (R29, R47). -/
def enginesDone (s : State) : Prop := ∀ p ∈ s.g.ports, p.2.commands = []

/-- Every STG of the selected gang to peer or host memory is acknowledged, and so performed at every scope (R129, R183; assumption
log 47). -/
def storesSeen (s : State) : Prop := ∀ u ∈ s.unacked, u.gang = s.g.id → u.origin ≠ 0

/-- The broadcast stream has retired, loads are answered, and STGs are performed (R122, R129). -/
def released (s : State) : Prop := s.g.bq = [] ∧ s.g.loads = [] ∧ storesSeen s

/-- No stack is lost, and no word of HBM and no row-remap table carries an error, so that every access of local HBM is served as it
stands. -/
def healthy (s : State) : Prop := sound s = true ∧ ∀ k, (mget ({} : StackStat) s.hbmStat k).lost = false

/-- Cluster c lies cleared: every byte of its slices is zero and every tag RAW (R30). -/
def clusterClear (c : Nat) (t : State) : Prop := ∀ x, x / 2 ^ 23 = c → rdByte t.field x = 0 ∧ tagOfKey t x = rawTag

/-- Field bytes and tags outside the listed clusters are as before. -/
def fieldKept (cs : List Nat) (s t : State) : Prop :=
  ∀ x, x / 2 ^ 23 ∉ cs → rdByte t.field x = rdByte s.field x ∧ tagOfKey t x = tagOfKey s x

/-- The commit of a broadcast or tile instruction (R101, R193, R194, R240, R242): it is refused, or waits for room, or joins the broadcast
queue with its captures while ESTART returns to 0. Its banks perform it by steps of their own, or, in the model's `lockstep` timing, at
once. -/
def joinsQueue (i : Instr) (s : State) : Prop :=
  let e := stagedEntry s.g i
  (∀ r, commitRefusal s.g e = some r → trapsWith i 1 (w64 (encodeWord i)) (w64 r) s)
  ∧ (commitRefusal s.g e = none → queueFull s.g e = true → completes i s (· = stall s))
  ∧ (commitRefusal s.g e = none → queueFull s.g e = false → completes i s fun t =>
      sameRegsBut [] s t ∧ sameMem s t ∧ sameLocal s t ∧ t.g.estart = 0 ∧ t.g.nextSeq = s.g.nextSeq + 1 ∧ committed (s.g.pc + 8) s t
        ∧ (s.lockstep = true → ∃ u, u.g.bq = s.g.bq ++ [tagEntry s.g s.g.bq e] ∧ sameBytes s u ∧ t = runQueue u.g.bq u)
        ∧ (s.lockstep = false → sameField s t ∧ ∃ x, t.g.bq = s.g.bq ++ [x] ∧ x.instr = i ∧ x.seq = s.g.nextSeq
            ∧ x.start = s.g.estart.toNat % 2 ^ 48 ∧ x.handler = s.g.pl ∧ (∀ n ∈ capturedRegs i, mget 0 x.regs n = s.g.reg (BitVec.ofNat 5 n))
            ∧ x.cap = ⟨s.g.ecount.toNat, s.g.estart.toNat, s.g.emask.toNat, s.g.ectrl, s.g.tcount.toNat, s.g.convres.toNat, s.g.blktab.toNat⟩
            ∧ t.g.rq = (if toReadQueue i = true then s.g.rq ++ [none] else s.g.rq)))

/-- An exact value times 2^320, which makes an integer of every finite value of a format and of every product of two (R75, R77, R79). -/
def scaledNum : Num → Option Int
  | .fin neg m e false =>
    let n : Nat := m * 2 ^ (e + 320).toNat
    if -320 ≤ e then some (if neg then -(n : Int) else n) else none
  | _ => none

/-- The value of a code of format EF, scaled likewise, if it is finite. -/
def scaledCode (ef code : Nat) : Option Int := scaledNum (valueOf ef code)

/-- Code c of format EF stands for one of its values, and that is r / 2^640 rounded by the mode (R84, R87), where r lies within the format's
range: the neighbour that the mode asks for among all values w of the format. -/
def roundsTo (ef : Nat) (mode : Mode) (draw : Nat) (r : Int) (c : Nat) : Prop :=
  let val := fun (z : Nat) => (scaledCode ef z).map (· * 2 ^ 320)
  ∃ v, val c = some v ∧
    match mode with
    | .rdn => v ≤ r ∧ ∀ z w, val z = some w → w ≤ r → w ≤ v
    | .rup => r ≤ v ∧ ∀ z w, val z = some w → r ≤ w → v ≤ w
    | .rtz => v.natAbs ≤ r.natAbs ∧ 0 ≤ v * r ∧ ∀ z w, val z = some w → 0 ≤ w * r → w.natAbs ≤ r.natAbs → w.natAbs ≤ v.natAbs
    | .rne => ∀ z w, val z = some w → (v - r).natAbs ≤ (w - r).natAbs ∧ ((v - r).natAbs = (w - r).natAbs → w = v ∨ c % 2 = 0)
    | .rna => ∀ z w, val z = some w → (v - r).natAbs ≤ (w - r).natAbs ∧ ((v - r).natAbs = (w - r).natAbs → w.natAbs ≤ v.natAbs)
    | .sr => (∀ z, val z = some r → v = r) ∧ ∀ y z lo hi, val y = some lo → val z = some hi → 0 ≤ lo * r → lo.natAbs ≤ r.natAbs → 0 < hi * r →
        r.natAbs < hi.natAbs → (∀ u w, val u = some w → 0 ≤ w * r → w.natAbs ≤ lo.natAbs ∨ hi.natAbs ≤ w.natAbs) →
        0 ≤ v * r ∧ v.natAbs = if draw * (hi.natAbs - lo.natAbs) < (r.natAbs - lo.natAbs) * 2 ^ 32 then hi.natAbs else lo.natAbs

/-- What delivering the exact value r / 2^640 in format EF gives (R84, R90, R252): within the range of the format its rounded value with NX
where that is inexact, UF only then, and no other flag; with SAT = 1 the extreme value and NX beyond it. The two half-step grids, and a
negative value for the unsigned E3M5, are left out. -/
def deliveredAs (ef : Nat) (mode : Mode) (sat : Bool) (draw : Nat) (r : Int) (out : Nat × Fl) : Prop :=
  let val := fun (z : Nat) => (scaledCode ef z).map (· * 2 ^ 320)
  let above := ∀ z w, val z = some w → w < r
  let below := ∀ z w, val z = some w → r < w
  ef ≤ 18 → ef ≠ 10 → ef ≠ 11 → (ef = 18 → 0 ≤ r) →
    out.1 < 2 ^ efBits ef
    ∧ (¬ above → ¬ below → roundsTo ef mode draw r out.1 ∧ out.2 &&& 7 = 0 ∧ (out.2 &&& 16 = 0 ↔ val out.1 = some r)
        ∧ (out.2 &&& 16 = 0 → out.2 = 0))
    ∧ (above → sat = true → out.2 &&& 19 = 16 ∧ ∃ v, val out.1 = some v ∧ ∀ z w, val z = some w → w ≤ v)
    ∧ (below → sat = true → out.2 &&& 19 = 16 ∧ ∃ v, val out.1 = some v ∧ ∀ z w, val z = some w → v ≤ w)

/-- The effect of an instruction that only commits. -/
def onlyCommits (pc : Word) (s t : State) : Prop := sameRegsBut [] s t ∧ committed pc s t ∧ sameBytes s t ∧ onlyRegs s t

end Sys2Proof.Machine
end

