-- ==== Sys2Proof/Certificates/Slice0/Obligations.lean ====
section
/-! DEFINITION. The statements for the provers: what the instructions and the steps of the other agents do, what the machine keeps, and
what its encodings mean. `completes` and `occurs` conclude that `exec` answers a next state; what an instruction leaves alone is part of
each conclusion. -/
open Sys2Proof Sys2Proof.Machine

/-- R170 to R172: every operation of the integer group writes s[d] from x = s[a] and y = s[b], read before the write, and changes
nothing else; SEXT and ZEXT extend from the width n = 2(b + 1) that their b field codes. -/
def Obligations.IntegerGroupWritesItsResult : Prop :=
  ∀ (s : State) (d a b : Reg) (x y : Word), x = s.reg a → y = s.reg b →
    let k := y.toNat % 64
    let pc := s.g.pc + 4
    completes (.add d a b) s (writesReg d (w64 (x.toNat + y.toNat)) pc s)
    ∧ completes (.sub d a b) s (writesReg d (BitVec.ofInt 64 (x.toInt - y.toInt)) pc s)
    ∧ completes (.and d a b) s (writesReg d (x &&& y) pc s)
    ∧ completes (.or d a b) s (writesReg d (x ||| y) pc s)
    ∧ completes (.xor d a b) s (writesReg d (x ^^^ y) pc s)
    ∧ completes (.andn d a b) s (writesReg d (x &&& ~~~y) pc s)
    ∧ completes (.sll d a b) s (writesReg d (w64 (x.toNat * 2 ^ k)) pc s)
    ∧ completes (.srl d a b) s (writesReg d (w64 (x.toNat / 2 ^ k)) pc s)
    ∧ completes (.sra d a b) s (writesReg d (BitVec.ofInt 64 (x.toInt / (2 ^ k : Nat))) pc s)
    ∧ completes (.rol d a b) s (writesReg d (w64 (x.toNat * 2 ^ k + x.toNat / 2 ^ (64 - k))) pc s)
    ∧ completes (.ror d a b) s (writesReg d (w64 (x.toNat / 2 ^ k + x.toNat * 2 ^ (64 - k))) pc s)
    ∧ completes (.slt d a b) s (writesReg d (if x.toInt < y.toInt then 1 else 0) pc s)
    ∧ completes (.sltu d a b) s (writesReg d (if x.toNat < y.toNat then 1 else 0) pc s)
    ∧ completes (.min d a b) s (writesReg d (if x.toInt ≤ y.toInt then x else y) pc s)
    ∧ completes (.max d a b) s (writesReg d (if x.toInt ≤ y.toInt then y else x) pc s)
    ∧ completes (.minu d a b) s (writesReg d (if x.toNat ≤ y.toNat then x else y) pc s)
    ∧ completes (.maxu d a b) s (writesReg d (if x.toNat ≤ y.toNat then y else x) pc s)
    ∧ completes (.mul d a b) s (writesReg d (w64 (x.toNat * y.toNat)) pc s)
    ∧ completes (.mulh d a b) s (writesReg d ((x.signExtend 128 * y.signExtend 128).extractLsb' 64 64) pc s)
    ∧ completes (.mulhu d a b) s (writesReg d ((x.zeroExtend 128 * y.zeroExtend 128).extractLsb' 64 64) pc s)
    ∧ completes (.div d a b) s (writesReg d (if y = 0 then -1 else BitVec.ofInt 64 (x.toInt.tdiv y.toInt)) pc s)
    ∧ completes (.divu d a b) s (writesReg d (if y = 0 then -1 else w64 (x.toNat / y.toNat)) pc s)
    ∧ completes (.rem d a b) s (writesReg d (if y = 0 then x else BitVec.ofInt 64 (x.toInt - x.toInt.tdiv y.toInt * y.toInt)) pc s)
    ∧ completes (.remu d a b) s (writesReg d (if y = 0 then x else w64 (x.toNat - x.toNat / y.toNat * y.toNat)) pc s)
    ∧ completes (.clmul d a b) s (writesReg d ((clProduct x y).extractLsb' 0 64) pc s)
    ∧ completes (.clmulh d a b) s (writesReg d ((clProduct x y).extractLsb' 64 64) pc s)
    ∧ completes (.clz d a) s (fun t => ∃ c : Nat, writesReg d (w64 c) pc s t ∧ c ≤ 64 ∧ x.toNat < 2 ^ (64 - c) ∧ (c < 64 → 2 ^ (63 - c) ≤ x.toNat))
    ∧ completes (.ctz d a) s (fun t => ∃ c : Nat, writesReg d (w64 c) pc s t ∧ c ≤ 64 ∧ x.toNat % 2 ^ c = 0 ∧ (c < 64 → x.getLsbD c = true))
    ∧ completes (.popc d a) s (writesReg d (w64 ((List.range 64).filter fun i => x.getLsbD i).length) pc s)
    ∧ (let n := 2 * (b.toNat + 1)
       completes (.sext d a b) s (writesReg d ((BitVec.ofNat n x.toNat).signExtend 64) pc s)
         ∧ completes (.zext d a b) s (writesReg d (w64 (x.toNat % 2 ^ n)) pc s))

/-- R173: the immediate group; a shift immediate above 63 takes the illegal-instruction trap. -/
def Obligations.ImmediateGroupWritesItsResult : Prop :=
  ∀ (s : State) (d a : Reg) (i : BitVec 15) (x : Word), x = s.reg a →
    let y : Word := i.signExtend 64
    let pc := s.g.pc + 4
    completes (.addi d a i) s (writesReg d (BitVec.ofInt 64 (x.toInt + i.toInt)) pc s)
    ∧ completes (.andi d a i) s (writesReg d (x &&& y) pc s)
    ∧ completes (.ori d a i) s (writesReg d (x ||| y) pc s)
    ∧ completes (.xori d a i) s (writesReg d (x ^^^ y) pc s)
    ∧ completes (.slli d a i) s (writesReg d (w64 (x.toNat * 2 ^ i.toNat)) pc s)
    ∧ completes (.srli d a i) s (writesReg d (w64 (x.toNat / 2 ^ i.toNat)) pc s)
    ∧ completes (.srai d a i) s (writesReg d (BitVec.ofInt 64 (x.toInt / (2 ^ i.toNat : Nat))) pc s)
    ∧ completes (.slti d a i) s (writesReg d (if x.toInt < i.toInt then 1 else 0) pc s)
    ∧ completes (.sltiu d a i) s (writesReg d (if x.toNat < y.toNat then 1 else 0) pc s)
    ∧ (63 < i.toNat → trapsNow s → ∀ j ∈ [Instr.slli d a i, .srli d a i, .srai d a i],
        exec j s = .next (afterTrap 1 (w64 (encodeWord j)) 0 s.g.pc s))

/-- R174 and R175: LIH places its immediate above twelve zero bits, LIM sign-extends its 47 bits; with the layouts that the rules give. -/
def Obligations.LongImmediatesWriteTheirValue : Prop :=
  ∀ (s : State) (d : Reg) (i : BitVec 20) (m : BitVec 47),
    completes (.lih d i) s (writesReg d (w64 (i.toNat * 2 ^ 12)) (s.g.pc + 4) s)
    ∧ completes (.lim d m) s (writesReg d (BitVec.ofInt 64 m.toInt) (s.g.pc + 8) s)
    ∧ encodeWord (.lih d i) = 0x01 + d.toNat * 2 ^ 7 + i.toNat * 2 ^ 12
    ∧ encodeWord (.lim d m) = 0x0F + d.toNat * 2 ^ 12 + m.toNat * 2 ^ 17

/-- R189: a conditional branch is taken on its condition, to PC + 4 × sext(off15), and changes no register. -/
def Obligations.ConditionalBranchesMoveThePc : Prop :=
  ∀ (s : State) (l : BitVec 5) (a b : Reg) (h : BitVec 10) (x y : Word), x = s.reg a → y = s.reg b →
    let pcIf := fun (taken : Prop) [Decidable taken] => if taken then s.g.pc + BitVec.ofInt 64 (4 * (h ++ l).toInt) else s.g.pc + 4
    completes (.beq l a b h) s (onlyCommits (pcIf (x = y)) s)
    ∧ completes (.bne l a b h) s (onlyCommits (pcIf (x ≠ y)) s)
    ∧ completes (.blt l a b h) s (onlyCommits (pcIf (x.toInt < y.toInt)) s)
    ∧ completes (.bge l a b h) s (onlyCommits (pcIf (y.toInt ≤ x.toInt)) s)
    ∧ completes (.bltu l a b h) s (onlyCommits (pcIf (x.toNat < y.toNat)) s)
    ∧ completes (.bgeu l a b h) s (onlyCommits (pcIf (y.toNat ≤ x.toNat)) s)

/-- R190 and R191: JAL and JALR link PC + 4; JALR reads s[a] before it writes s[d], and traps with no register written where its target
is not 4-aligned. GEVAL2 = 3 at that trap is the model's choice (assumption log 42). -/
def Obligations.JumpsLinkAndMoveThePc : Prop :=
  ∀ (s : State) (d a : Reg) (o : BitVec 20) (i : BitVec 15) (x : Word), x = s.reg a + BitVec.ofInt 64 i.toInt →
    completes (.jal d o) s (writesReg d (s.g.pc + 4) (s.g.pc + BitVec.ofInt 64 (4 * o.toInt)) s)
    ∧ (x.toNat % 4 = 0 → completes (.jalr d a i) s (writesReg d (s.g.pc + 4) x s))
    ∧ (x.toNat % 4 ≠ 0 → trapsWith (.jalr d a i) 3 x 3 s)

/-- R176, R177 and R179: each scalar load reads its bytes, little-endian, from sequencer-local memory or from F-space, extends them and
writes s[d]; a misaligned address, an address shape that R65 refuses, an F-address that does not resolve, and an uncorrectable word trap
with no register written. -/
def Obligations.ScalarLoadsWriteTheExtendedValue : Prop :=
  ∀ (s : State) (d a : Reg) (i : BitVec 15) (ea : Word), ea = s.reg a + BitVec.ofInt 64 i.toInt →
    ∀ p ∈ [(Instr.lb d a i, 1, true), (Instr.lbu d a i, 1, false), (Instr.lh d a i, 2, true), (Instr.lhu d a i, 2, false),
        (Instr.lw d a i, 4, true), (Instr.lwu d a i, 4, false), (Instr.ld d a i, 8, false)],
      let n := p.2.1
      let value := loaded p.2.2 n
      let off := ea.toNat - 2 ^ 63
      (ea.toNat % n = 0 → 2 ^ 63 ≤ ea.toNat → off < 2 ^ 16 → off / 8 ∉ s.g.lmemBad →
        completes p.1 s (writesReg d (value (rdBytes s.g.lmem off n)) (s.g.pc + 4) s))
      ∧ (∀ ks, ea.toNat % n = 0 → ea.toNat < 2 ^ 32 → fieldHeld s ea.toNat n = false → fieldKeys s false ea.toNat n = some ks →
        (∀ k ∈ ks, k / 8 ∉ s.fieldBad) → completes p.1 s (writesReg d (value (ks.map (rdByte s.field))) (s.g.pc + 4) s))
      ∧ (ea.toNat % n ≠ 0 → trapsWith p.1 3 ea 0 s)
      ∧ (ea.toNat % n = 0 → 2 ^ 32 ≤ ea.toNat → ea.toNat < 2 ^ 63 ∨ 2 ^ 63 + 2 ^ 16 ≤ ea.toNat → trapsWith p.1 4 ea 0 s)
      ∧ (ea.toNat % n = 0 → ea.toNat < 2 ^ 32 → fieldHeld s ea.toNat n = false → fieldKeys s false ea.toNat n = none → trapsWith p.1 4 ea 0 s)
      ∧ (ea.toNat % n = 0 → 2 ^ 63 ≤ ea.toNat → off < 2 ^ 16 → off / 8 ∈ s.g.lmemBad → trapsWith p.1 7 ea 0 s)
      ∧ (∀ ks, ea.toNat % n = 0 → ea.toNat < 2 ^ 32 → fieldHeld s ea.toNat n = false → fieldKeys s false ea.toNat n = some ks →
        (∃ k ∈ ks, k / 8 ∈ s.fieldBad) → trapsWith p.1 7 ea 0 s)

/-- R176 to R179: each scalar store writes the low bytes of s[d], little-endian, and no other byte, no register and no tag; it traps as
the loads do, and a store through a read-only window does not resolve. -/
def Obligations.ScalarStoresWriteTheirBytes : Prop :=
  ∀ (s : State) (d a : Reg) (i : BitVec 15) (ea : Word), ea = s.reg a + BitVec.ofInt 64 i.toInt →
    ∀ p ∈ [(Instr.sb d a i, 1), (Instr.sh d a i, 2), (Instr.sw d a i, 4), (Instr.sd d a i, 8)],
      let n := p.2
      let byte := byteOf (s.reg d)
      let off := ea.toNat - 2 ^ 63
      (ea.toNat % n = 0 → 2 ^ 63 ≤ ea.toNat → off < 2 ^ 16 → (off / 8 ∉ s.g.lmemBad ∨ n = 8) →
        completes p.1 s fun t => sameRegsBut [] s t ∧ committed (s.g.pc + 4) s t ∧ onlyLocal s t
          ∧ (∀ j < n, rdByte t.g.lmem (off + j) = byte j)
          ∧ ∀ x, x < off ∨ off + n ≤ x → rdByte t.g.lmem x = rdByte s.g.lmem x)
      ∧ (∀ ks, ea.toNat % n = 0 → ea.toNat < 2 ^ 32 → storeHeld s ea.toNat n = false → fieldKeys s true ea.toNat n = some ks →
        keysPart s ks = false →
        completes p.1 s fun t => sameRegsBut [] s t ∧ committed (s.g.pc + 4) s t ∧ onlyField s t
          ∧ (ks.Nodup → ∀ q ∈ ks.zipIdx, rdByte t.field q.1 = byte q.2)
          ∧ ∀ k, k ∉ ks → rdByte t.field k = rdByte s.field k)
      ∧ (ea.toNat % n ≠ 0 → trapsWith p.1 3 ea 1 s)
      ∧ (ea.toNat % n = 0 → 2 ^ 32 ≤ ea.toNat → ea.toNat < 2 ^ 63 ∨ 2 ^ 63 + 2 ^ 16 ≤ ea.toNat → trapsWith p.1 4 ea 1 s)
      ∧ (ea.toNat % n = 0 → ea.toNat < 2 ^ 32 → storeHeld s ea.toNat n = false → fieldKeys s true ea.toNat n = none → trapsWith p.1 4 ea 1 s)
      ∧ (ea.toNat % n = 0 → 2 ^ 63 ≤ ea.toNat → off < 2 ^ 16 → off / 8 ∈ s.g.lmemBad → n ≠ 8 → trapsWith p.1 7 ea 1 s)
      ∧ (∀ ks, ea.toNat % n = 0 → ea.toNat < 2 ^ 32 → storeHeld s ea.toNat n = false → fieldKeys s true ea.toNat n = some ks →
        keysPart s ks = true → trapsWith p.1 7 ea 1 s)

/-- R180 to R184: LDG returns the bytes at its address, extended as its size code says, and writes no byte; an address beyond 48 bits,
a misaligned one, a page without permission, a word that cannot be delivered, and an access that a peer or the host answers with a NAK
(GEVAL2 is then the model's choice: assumption log 2) trap with no register written; a page that is not present is asked for. An acquire
waits for the gang's earlier stores (assumption log 47), and any load for the gang's own stores to its bytes. -/
def Obligations.GlobalLoadsReturnTheirBytes : Prop :=
  ∀ (s : State) (d a b : Reg) (z : BitVec 3) (o c : BitVec 2) (ea : Word), ea = s.reg a + s.reg b →
    let i := Instr.ldg d a b z o c
    let n := 2 ^ (z.toNat % 4)
    let u := useG s ea.toNat
    let ready := fun (pa : Nat) => globalPa s ea n .read 0 = .ok pa ∧ pendingWrite s pa n = false ∧ (o = 1 → storesSeen s)
    (∀ pa bs, ready pa → targetRefuses s pa = false → (physRead (globalTouch s ea.toNat) pa n).2 = some bs →
      completes i s fun t => answers d (loaded (decide (z.toNat < 4)) n bs) (decide (o = 1)) s t ∧ committed (s.g.pc + 4) s t
        ∧ sameBytes s t ∧ onlyGlobal s t ∧ (sound s = true → bs = memBytes s pa n))
    ∧ (∀ pa, ready pa → targetRefuses s pa = true → trapsLeaving i 8 ea 0 s u)
    ∧ (∀ pa, ready pa → targetRefuses s pa = false → (physRead (globalTouch s ea.toNat) pa n).2 = none → trapsLeaving i 7 ea 0 s (physTouch u pa n))
    ∧ (∀ pa, globalPa s ea n .read 0 = .ok pa → (pendingWrite s pa n = true ∨ (o = 1 ∧ ¬ storesSeen s)) → completes i s (· = stall s))
    ∧ (ea.toNat < 2 ^ 48 → ea.toNat % n = 0 → translateFull s s.g.lead s.g.pasid ea.toNat .read = .notPresent → asksForPage i ea 0 s)
    ∧ (2 ^ 48 ≤ ea.toNat → trapsWith i 8 ea 0 s)
    ∧ (ea.toNat < 2 ^ 48 → ea.toNat % n ≠ 0 → trapsWith i 3 ea 0 s)
    ∧ (ea.toNat < 2 ^ 48 → ea.toNat % n = 0 → translateFull s s.g.lead s.g.pasid ea.toNat .read = .permission → trapsLeaving i 8 ea 0 s u)

/-- R180 to R185: STG stores the low bytes of s[d] at its address: in local HBM at once, and no other byte; to peer or host memory as a
write that its target has yet to acknowledge. A release waits for what it releases. It traps, and asks for its page, as LDG does, with the
access code of a store. -/
def Obligations.GlobalStoresWriteOrSendTheirBytes : Prop :=
  ∀ (s : State) (d a b : Reg) (z : BitVec 3) (o c : BitVec 2) (ea : Word), ea = s.reg a + s.reg b →
    let i := Instr.stg d a b z o c
    let n := 2 ^ z.toNat
    (∀ pa, globalPa s ea n .write 1 = .ok pa → (o = 2 → released s) → storeLost s pa n = false →
      completes i s fun t => sameRegsBut [] s t ∧ committed (s.g.pc + 4) s t ∧ onlyGlobal s t ∧ t.g.loads = s.g.loads
        ∧ (if region pa = 0 then
             (∀ j < n, memByte t (pa + j) = byteOf (s.reg d) j) ∧ memKept pa n s t ∧ t.unacked = s.unacked
           else sameMem s t
             ∧ t.unacked = s.unacked ++ [⟨s.g.id, 0, s.g.retired, ea.toNat, pa, leBytes n (s.reg d).toNat, sendGen s pa, false⟩]))
    ∧ (∀ pa, globalPa s ea n .write 1 = .ok pa → (o = 2 → released s) → storeLost s pa n = true →
        trapsLeaving i 7 ea 1 s (physTouch (useG s ea.toNat) pa n true))
    ∧ (∀ pa, globalPa s ea n .write 1 = .ok pa → o = 2 → ¬ released s → completes i s (· = stall s))
    ∧ (ea.toNat < 2 ^ 48 → ea.toNat % n = 0 → translateFull s s.g.lead s.g.pasid ea.toNat .write = .notPresent → asksForPage i ea 1 s)
    ∧ (2 ^ 48 ≤ ea.toNat → trapsWith i 8 ea 1 s)
    ∧ (ea.toNat < 2 ^ 48 → ea.toNat % n ≠ 0 → trapsWith i 3 ea 1 s)
    ∧ (ea.toNat < 2 ^ 48 → ea.toNat % n = 0 → translateFull s s.g.lead s.g.pasid ea.toNat .write = .permission → trapsLeaving i 8 ea 1 s (useG s ea.toNat))

/-- R186 to R188: an AMO writes its operation's result in memory and the old value, sign-extended, in s[d]; operand and comparand are
read before s[d] is written; memory of the host and device registers are no target. In sequencer-local memory and in F-space (SPACE 0) and
in G-space (SPACE 1), where it traps, and asks for its page, as an STG does. A release waits for what it releases, an acquire for the gang's
earlier stores (assumption log 47). GEVAL2 = 2 where a peer answers with a NAK is the model's choice (assumption log 2). -/
def Obligations.AtomicsUpdateMemoryAndReturnTheOldValue : Prop :=
  ∀ (s : State) (d a b : Reg) (op : BitVec 4) (z : BitVec 1) (o c : BitVec 2) (m : Word), m = s.reg a →
    let n := if z = 0 then 4 else 8
    let y := BitVec.ofNat (8 * n) (s.reg b).toNat
    let e := BitVec.ofNat (8 * n) (s.reg d).toNat
    let new := fun (bs : List Byte) => amoResult op.toNat (BitVec.ofNat (8 * n) (leNat bs)) y e
    let off := m.toNat - 2 ^ 63
    let u := useG s m.toNat
    let ready := fun (pa : Nat) => globalPa s m n .write 2 = .ok pa ∧ region pa < 2 ∧ pendingWrite s pa n = false ∧ behindStg s pa = false
    let waits := ((o = 2 ∨ o = 3) ∧ ¬ released s) ∨ (o = 1 ∧ ¬ storesSeen s)
    (waits → (m.toNat % n = 0 → completes (.amo d a b op z o c 0) s (· = stall s)) ∧ completes (.amo d a b op z o c 1) s (· = stall s))
    ∧ (¬ waits →
    (m.toNat % n = 0 → 2 ^ 63 ≤ m.toNat → off < 2 ^ 16 → off / 8 ∉ s.g.lmemBad →
      let bs := rdBytes s.g.lmem off n
      completes (.amo d a b op z o c 0) s fun t => t.g.reg d = (if d = 0 then 0 else loaded true n bs) ∧ sameRegsBut [d] s t
        ∧ committed (s.g.pc + 4) s t ∧ onlyLocal s t ∧ (∀ j < n, rdByte t.g.lmem (off + j) = byteOf (new bs) j)
        ∧ ∀ x, x < off ∨ off + n ≤ x → rdByte t.g.lmem x = rdByte s.g.lmem x)
    ∧ (∀ ks, m.toNat % n = 0 → m.toNat < 2 ^ 32 → storeHeld s m.toNat n = false → crossesGranule s.g m.toNat n = false →
      fieldKeys s true m.toNat n = some ks → (∀ k ∈ ks, k / 8 ∉ s.fieldBad) → ks.Nodup →
      let bs := ks.map (rdByte s.field)
      completes (.amo d a b op z o c 0) s fun t => t.g.reg d = (if d = 0 then 0 else loaded true n bs) ∧ sameRegsBut [d] s t
        ∧ committed (s.g.pc + 4) s t ∧ onlyField s t ∧ (∀ q ∈ ks.zipIdx, rdByte t.field q.1 = byteOf (new bs) q.2)
        ∧ ∀ k, k ∉ ks → rdByte t.field k = rdByte s.field k)
    ∧ (∀ pa bs, ready pa → targetRefuses s pa = false → (physRead (atomicTouch s m.toNat) pa n).2 = some bs →
      completes (.amo d a b op z o c 1) s fun t => answers d (loaded true n bs) (decide (o = 1 ∨ o = 3 ∨ region pa = 1)) s t
        ∧ committed (s.g.pc + 4) s t ∧ onlyGlobal s t ∧ t.unacked = s.unacked ∧ memKept pa n s t ∧ (sound s = true → bs = memBytes s pa n)
        ∧ (bs = memBytes s pa n → ∀ j < n, memByte t (pa + j) = byteOf (new bs) j))
    ∧ (m.toNat % n ≠ 0 → trapsWith (.amo d a b op z o c 0) 3 m 2 s ∧ (m.toNat < 2 ^ 48 → trapsWith (.amo d a b op z o c 1) 3 m 2 s))
    ∧ (2 ^ 48 ≤ m.toNat → trapsWith (.amo d a b op z o c 1) 8 m 2 s)
    ∧ (m.toNat < 2 ^ 48 → m.toNat % n = 0 → translateFull s s.g.lead s.g.pasid m.toNat .write = .permission →
        trapsLeaving (.amo d a b op z o c 1) 8 m 2 s u)
    ∧ (m.toNat < 2 ^ 48 → m.toNat % n = 0 → translateFull s s.g.lead s.g.pasid m.toNat .write = .notPresent →
        mapsDevice s s.g.pasid m.toNat = false → asksForPage (.amo d a b op z o c 1) m 2 s)
    ∧ (∀ pa, globalPa s m n .write 2 = .ok pa → 2 ≤ region pa → trapsLeaving (.amo d a b op z o c 1) 8 m 2 s u)
    ∧ (globalPa s m n .write 2 = .error (.trap 8 6) → mapsDevice s s.g.pasid m.toNat = true → trapsLeaving (.amo d a b op z o c 1) 8 m 2 s u)
    ∧ (∀ pa, ready pa → targetRefuses s pa = true → trapsLeaving (.amo d a b op z o c 1) 8 m 2 s u)
    ∧ (∀ pa, ready pa → targetRefuses s pa = false → (physRead (atomicTouch s m.toNat) pa n).2 = none →
        trapsLeaving (.amo d a b op z o c 1) 7 m 2 s (physTouch u pa n)))

/-- R22, R24, R92, R161, R162, R195, R196, R198 and R343: CRD writes the control register's value to s[d] and changes nothing else; a number
that names no register takes the illegal-instruction trap; RETIRED counts every instruction before it. EFLAGS and the FX registers are read
once earlier broadcast and tile instructions have retired. CYCLE is the lead die's count, which never runs backwards (how far it has moved is a free value of the model, assumption log 8). -/
def Obligations.ControlRegisterReadsReturnTheRegister : Prop :=
  ∀ (s : State) (d : Reg) (n : BitVec 12),
    (n.toNat = 0x040 → completes (.crd d n) s fun t =>
      t.g.reg d = (if d = 0 then 0 else w64 (mget 0 t.cycles s.g.lead)) ∧ sameRegsBut [d] s t ∧ committed (s.g.pc + 4) s t ∧ sameBytes s t
        ∧ mget 0 s.cycles s.g.lead ≤ mget 0 t.cycles s.g.lead ∧ ∀ die, die ≠ s.g.lead → mget 0 t.cycles die = mget 0 s.cycles die)
    ∧ (0x15 ≤ n.toNat → n.toNat ≤ 0x1A → s.g.bq ≠ [] → completes (.crd d n) s (· = stall s))
    ∧ (n.toNat ≠ 0x040 → (0x15 ≤ n.toNat → n.toNat ≤ 0x1A → s.g.bq = []) → completes (.crd d n) s fun t => ∃ v, writesReg d v (s.g.pc + 4) s t ∧
      ∀ p ∈ [(0x000, s.g.gstat), (0x001, s.g.gcause), (0x002, s.g.gepc), (0x003, s.g.geval), (0x004, s.g.geval2), (0x005, s.g.gqpos),
          (0x006, s.g.gtvec), (0x007, s.g.gscratch), (0x010, s.g.ecount), (0x011, s.g.estart), (0x012, s.g.emask), (0x013, s.g.ectrl),
          (0x014, s.g.tcount), (0x015, s.g.eflags), (0x016, s.g.fxnv), (0x017, s.g.fxdz), (0x018, s.g.fxof), (0x019, s.g.fxuf),
          (0x01A, s.g.fxnx), (0x020, s.g.span), (0x021, s.g.gangId), (0x022, w64 s.g.pasid), (0x030, s.g.convres), (0x032, s.g.blktab),
          (0x041, w64 (min (2 ^ 64 - 1) s.g.retired)), (0x050, chstat s.g 0), (0x051, chstat s.g 1), (0x052, chstat s.g 2), (0x053, chstat s.g 3),
          (0x054, chstat s.g 4), (0x055, chstat s.g 5), (0x056, chstat s.g 6), (0x057, chstat s.g 7)], p.1 = n.toNat → v = p.2)
    ∧ (8 ≤ n.toNat → (n.toNat < 0x10 ∨ 0x1A < n.toNat) → (n.toNat < 0x20 ∨ 0x22 < n.toNat) → n.toNat ≠ 0x30 → n.toNat ≠ 0x32 →
        n.toNat ≠ 0x40 → n.toNat ≠ 0x41 → (n.toNat < 0x50 ∨ 0x57 < n.toNat) → trapsNow s →
        exec (.crd d n) s = .next (afterTrap 1 (w64 (encodeWord (.crd d n))) 0 s.g.pc s))

/-- R88, R91 and R195 to R197: CWR, CSET and CCLR store in a control register what its layout admits of the new value, write its old
value to s[d], and change no other control register but RETIRED. ECTRL keeps its RM where 6 or 7 is written to it, and of GSTAT only SS is
written. That an NBLK above 4,096 stores 4,096 under CSET and CCLR too is the model's choice (assumption log 28). -/
def Obligations.ControlRegisterWritesStoreWhatTheLayoutAdmits : Prop :=
  ∀ (s : State) (d a : Reg) (n : BitVec 12) (y old : Word), y = s.reg a → old = s.g.control n.toNat →
    n.toNat ≠ 0x030 → n.toNat ≠ 0x040 → (n.toNat < 0x50 ∨ 0x57 < n.toNat) → (0x15 ≤ n.toNat → n.toNat ≤ 0x1A → s.g.bq = []) →
    ∀ p ∈ [(Instr.cwr d a n, y), (Instr.cset d a n, old ||| y), (Instr.cclr d a n, old &&& ~~~y)],
      let v := p.2
      completes p.1 s fun t => t.g.reg d = (if d = 0 then 0 else old) ∧ sameRegsBut [d] s t ∧ committed (s.g.pc + 4) s t ∧ sameBytes s t
        ∧ (∀ q ∈ [(0x000, (old &&& ~~~0x20) ||| (v &&& 0x20)),
            (0x013, if v.toNat % 8 ≤ 5 then v &&& 0xFFFFFFFFFFFF03F7 else (v &&& 0xFFFFFFFFFFFF03F0) ||| (old &&& 7)),
            (0x001, w64 (v.toNat % 2 ^ 9)), (0x002, v &&& ~~~3), (0x003, v), (0x004, v), (0x005, v &&& 0xFFFF00BF), (0x006, v &&& ~~~3),
            (0x007, v), (0x010, w64 (min (2 ^ 34) v.toNat)), (0x011, w64 (v.toNat % 2 ^ 48)), (0x012, v), (0x014, w64 (min 131072 v.toNat)),
            (0x015, w64 (v.toNat % 32)), (0x032, w64 (min 4096 (v.toNat % 2 ^ 13)))], q.1 = n.toNat → t.g.control n.toNat = q.2)
        ∧ (∀ m, m ≠ n.toNat → m ≠ 0x041 → t.g.control m = s.g.control m)
        ∧ t = { s with g := { s.g with
            ss := t.g.ss, gcause := t.g.gcause, gepc := t.g.gepc, geval := t.g.geval, geval2 := t.g.geval2, gqpos := t.g.gqpos
            gtvec := t.g.gtvec, gscratch := t.g.gscratch, ecount := t.g.ecount, estart := t.g.estart, emask := t.g.emask
            ectrl := t.g.ectrl, tcount := t.g.tcount, eflags := t.g.eflags, blktab := t.g.blktab
            regs := t.g.regs, regBad := t.g.regBad, pc := t.g.pc, retired := t.g.retired, held := t.g.held, stepping := t.g.stepping } }

/-- R195, R343 and R358: a write of CHSTAT by CWR or CSET clears the error bits whose 1 is in s[a], and cancels a stopped channel's copies
where CN is, which sets EV; CCLR changes no bit; each writes the old value to s[d]. So do the steps CHSTAT_ERROR_CLEAR and CHSTAT_CANCEL. A
cancelled copy leaves every byte as it stands, but for the tags of frames in local HBM that it has written only in part (R300). -/
def Obligations.ChannelStatusWritesClearAndCancel : Prop :=
  ∀ (s : State) (d a : Reg) (c : BitVec 3) (m : BitVec 7),
    let k := c.toNat
    let n : BitVec 12 := BitVec.ofNat 12 (0x50 + k)
    let settled := ∀ c ∈ (s.g.channel k).queue, ∀ f ∈ c.touched, f ∈ c.posted
    let left := fun (v : Word) => (s.g.channel k).errors &&& ~~~(BitVec.ofNat 7 (v.toNat / 2 ^ 8))
    (∀ p ∈ [(Instr.cwr d a n, s.reg a), (.cset d a n, s.reg a), (.cclr d a n, 0)],
      let effect := fun (x : Channel) (t : State) => t.g.reg d = (if d = 0 then 0 else chstat s.g k) ∧ sameRegsBut [d] s t
        ∧ committed (s.g.pc + 4) s t ∧ sameField s t ∧ sameLocal s t ∧ t.g.channel k = x ∧ ∀ j, j ≠ k → t.g.channel j = s.g.channel j
      (bit p.2 16 = false ∨ (s.g.channel k).stopped = false → s.g.bq = [] ∨ bit p.2 16 = false →
        completes p.1 s fun t => effect { s.g.channel k with errors := left p.2 } t ∧ sameMem s t)
      ∧ (bit p.2 16 = true → (s.g.channel k).stopped = true → s.g.bq = [] → completes p.1 s fun t => t.g.ev = true ∧ (settled → sameMem s t)
          ∧ effect { s.g.channel k with errors := left p.2, queue := [], stopped := false, fault := none, taken := false } t))
    ∧ occurs (.chstatErrorClear c m) s (fun t => sameBytes s t
        ∧ t.g.channel k = { s.g.channel k with errors := (s.g.channel k).errors &&& ~~~m } ∧ ∀ j, j ≠ k → t.g.channel j = s.g.channel j)
    ∧ ((s.g.channel k).stopped = true → s.g.bq = [] → occurs (.chstatCancel c) s fun t => sameField s t ∧ sameLocal s t
        ∧ (settled → sameMem s t) ∧ t.g.ev = true
        ∧ t.g.channel k = { s.g.channel k with queue := [], stopped := false, fault := none, taken := false }
        ∧ ∀ j, j ≠ k → t.g.channel j = s.g.channel j)

/-- R201: SETEC and SETEC.t set the count to the smaller of s[a] and its limit, write it to s[d], and set ESTART to 0; the instructions
committed before keep what they captured. -/
def Obligations.SetCountWritesTheCount : Prop :=
  ∀ (s : State) (d a : Reg),
    (let v := w64 (min (2 ^ 34) (s.reg a).toNat)
     completes (.setec d a) s fun t => t.g.reg d = (if d = 0 then 0 else v) ∧ sameRegsBut [d] s t ∧ committed (s.g.pc + 4) s t
       ∧ sameBytes s t ∧ t.g.ecount = v ∧ t.g.estart = 0 ∧ t.g.bq = s.g.bq ∧ ∀ n, n ≠ 0x010 → n ≠ 0x011 → n ≠ 0x041 → t.g.control n = s.g.control n)
    ∧ (let v := w64 (min 131072 (s.reg a).toNat)
       completes (.setecT d a) s fun t => t.g.reg d = (if d = 0 then 0 else v) ∧ sameRegsBut [d] s t ∧ committed (s.g.pc + 4) s t
         ∧ sameBytes s t ∧ t.g.tcount = v ∧ t.g.estart = 0 ∧ t.g.bq = s.g.bq ∧ ∀ n, n ≠ 0x014 → n ≠ 0x011 → n ≠ 0x041 → t.g.control n = s.g.control n)

/-- R28, R30, R31 and R202: with nothing outstanding, SETSPAN refuses a count that is no size of R25 or that cannot be granted (s[d] = 0,
nothing changes), keeps the lowest clusters and clears the released ones where it shrinks, and appends the clusters that the grant adds
where it grows: distinct ones, online, of no gang and of no reservation, as many as are wanted. -/
def Obligations.SetSpanGrantsOrRefuses : Prop :=
  ∀ (s : State) (d a : Reg) (n : Nat), n = (s.reg a).toNat → s.g.bq = [] → (∀ p ∈ s.g.channels, p.2.queue = [] ∧ p.2.stopped = false) →
    (∀ p ∈ s.g.ports, p.2.commands = []) →
    let sized := n ∈ [4, 8, 16, 32, 64, 128]
    (¬ sized ∨ spanGrant s n = none → completes (.setspan d a) s (writesReg d 0 (s.g.pc + 4) s))
    ∧ (sized → n ≤ s.g.clusters.length → completes (.setspan d a) s fun t =>
        t.g.reg d = (if d = 0 then 0 else w64 n) ∧ sameRegsBut [d] s t ∧ committed (s.g.pc + 4) s t ∧ sameMem s t ∧ sameLocal s t
          ∧ t.g.clusters = s.g.clusters.take n
          ∧ (∀ c ∈ s.g.clusters.drop n, ∀ x, c * 2 ^ 23 ≤ x → x < (c + 1) * 2 ^ 23 → rdByte t.field x = 0 ∧ tagOfKey t x = rawTag)
          ∧ ∀ x, x / 2 ^ 23 ∉ s.g.clusters.drop n → rdByte t.field x = rdByte s.field x ∧ tagOfKey t x = tagOfKey s x)
    ∧ (∀ added, s.g.clusters.length < n → spanGrant s n = some added → completes (.setspan d a) s fun t =>
        t.g.reg d = (if d = 0 then 0 else w64 n) ∧ sameRegsBut [d] s t ∧ committed (s.g.pc + 4) s t ∧ sameBytes s t
          ∧ t.g.clusters = s.g.clusters ++ added ∧ added.Nodup
          ∧ (∀ c ∈ added, c ∉ s.offline ∧ (∀ h ∈ s.g :: s.others, c ∉ h.clusters) ∧ ∀ r ∈ s.reservations, c ∉ r.2.clusters)
          ∧ (s.g.clusters.Nodup → s.g.clusters.length ∈ [4, 8, 16, 32, 64, 128] → (∀ c ∈ s.g.clusters, s.g.clusters.length < 32 → c / 32 = s.g.lead) →
              t.g.clusters.length = n))

/-- R195, R302: a write of NCF, by CWR, CSET, CCLR or the step CONVRES_WRITE, takes effect with nothing outstanding: at most 16 frames of each bank are
reserved, and the frames that move into or out of the reservation read as zeros; no other field byte changes. -/
def Obligations.ConversionReservationClearsTheFramesThatMove : Prop :=
  ∀ (s : State) (d a : Reg) (v : Word), s.g.bq = [] → (∀ p ∈ s.g.channels, p.2.queue = []) →
    let old := s.g.convres.toNat % 32
    let new := fun (v : Word) => min 16 (v.toNat % 32)
    let moved := fun (v : Word) (x : Nat) => ∃ b < s.g.banksInSpan,
      s.g.fieldKey b 0 + (64 - max old (new v)) * 8192 ≤ x ∧ x < s.g.fieldKey b 0 + (64 - min old (new v)) * 8192
    let effect := fun (v : Word) (t : State) => t.g.convres = w64 (new v) ∧ (∀ x, moved v x → rdByte t.field x = 0)
      ∧ (∀ x, ¬ moved v x → rdByte t.field x = rdByte s.field x) ∧ sameMem s t ∧ sameLocal s t
    occurs (.convresWrite v) s (effect v)
    ∧ ∀ p ∈ [(Instr.cwr d a 0x030, s.reg a), (.cset d a 0x030, s.g.convres ||| s.reg a), (.cclr d a 0x030, s.g.convres &&& ~~~(s.reg a))],
        completes p.1 s fun t => effect p.2 t ∧ t.g.reg d = (if d = 0 then 0 else s.g.convres) ∧ sameRegsBut [d] s t
          ∧ committed (s.g.pc + 4) s t

/-- R56, R62 and R203: FWSET installs the descriptor at s[a] as window s[b] if R56 admits it and writes 1, else it writes 0 and changes
nothing; FWGET writes the descriptor's four words to s[a] and 1, or 0 for a window number above 63. That a SIZE outside R55's range is not admitted,
and a FIRST above 2,047 is, is the model's reading (assumption log 69). -/
def Obligations.WindowInstructionsInstallAndReadDescriptors : Prop :=
  ∀ (s : State) (d a b : Reg) (off k : Nat), (s.reg a).toNat = 2 ^ 63 + off → off % 8 = 0 → off + 32 ≤ 65536 → k = (s.reg b).toNat →
    let w := fun (j : Nat) => w64 (rdNat s.g.lmem (off + 8 * j) 8)
    let ok := k < 64 ∧ (bit (w 1) 31 = true → windowValid s.g.windows s.g.banksInSpan k (w 0) (w 1) (w 2) (w 3) = true)
    (s.g.bq = [] → (∀ p ∈ s.g.channels, p.2.queue = []) → (∀ j < 4, off / 8 + j ∉ s.g.lmemBad) →
      (ok → completes (.fwset d a b) s fun t => t.g.reg d = (if d = 0 then 0 else 1) ∧ sameRegsBut [d] s t ∧ committed (s.g.pc + 4) s t
        ∧ sameBytes s t ∧ t.g.window k = windowOf (w 0) (w 1) (w 2) ∧ ∀ j, j ≠ k → t.g.window j = s.g.window j)
      ∧ (¬ ok → completes (.fwset d a b) s (writesReg d 0 (s.g.pc + 4) s)))
    ∧ (k < 64 → completes (.fwget d a b) s fun t => t.g.reg d = (if d = 0 then 0 else 1) ∧ sameRegsBut [d] s t ∧ committed (s.g.pc + 4) s t
        ∧ onlyLocal s t ∧ (∀ j < 4, w64 (rdNat t.g.lmem (off + 8 * j) 8) = (windowWords (s.g.window k)).getD j 0)
        ∧ ∀ x, x < off ∨ off + 32 ≤ x → rdByte t.g.lmem x = rdByte s.g.lmem x)
    ∧ (63 < k → completes (.fwget d a b) s (writesReg d 0 (s.g.pc + 4) s))

/-- R57, R58 and R204: OWNER writes the window, owner and bank-local offset of an F-address, or the reason why it has none. -/
def Obligations.OwnerReportsTheResolution : Prop :=
  ∀ (s : State) (d a : Reg),
    let x := (s.reg a).toNat
    completes (.owner d a) s fun t => ∃ v, writesReg d v (s.g.pc + 4) s t
      ∧ (∀ w own loc, x < 2 ^ 32 → resolve s.g s.offline x false = .ok ⟨w, own, loc⟩ → v = w64 (loc + own * 2 ^ 32 + w * 2 ^ 48 + 2 ^ 63))
      ∧ (2 ^ 32 ≤ x ∨ resolve s.g s.offline x false = .error .noWindow → v = 1)
      ∧ (x < 2 ^ 32 → (resolve s.g s.offline x false = .error .outsideSpan → v = 2)
          ∧ (resolve s.g s.offline x false = .error .offlineOwner → v = 3) ∧ (resolve s.g s.offline x false = .error .beyondSlice → v = 4))

/-- R205 and R206: RQPOP removes the oldest value of the read queue at the present level into s[d], or waits for it; RQSTAT counts the full and the reserved
entries; neither changes memory. -/
def Obligations.ReadQueueInstructionsPopAndCount : Prop :=
  ∀ (s : State) (d : Reg),
    (∀ v r, s.g.rq.drop s.g.rqAside = some v :: r → completes (.rqpop d) s fun t =>
      t.g.reg d = (if d = 0 then 0 else v) ∧ sameRegsBut [d] s t ∧ committed (s.g.pc + 4) s t ∧ sameBytes s t
        ∧ t.g.rq = s.g.rq.take s.g.rqAside ++ r)
    ∧ (∀ r, s.g.rq.drop s.g.rqAside = none :: r → completes (.rqpop d) s (· = stall s))
    ∧ (s.g.rq.drop s.g.rqAside = [] → trapsWith (.rqpop d) 1 (w64 (encodeWord (.rqpop d))) 2 s)
    ∧ completes (.rqstat d) s (writesReg d (w64 (((s.g.rq.drop s.g.rqAside).filter Option.isSome).length
        + 256 * (s.g.rq.drop s.g.rqAside).length)) (s.g.pc + 4) s)

/-- R38, R124, R183, R211 and R214: FENCE commits once what its mask names is performed (reads returned, those of unretired broadcast and tile
instructions among them; writes performed; copies complete) and the gang's earlier STGs are seen, and BQWAIT once the broadcast queue is
empty: each then moves the PC on and changes nothing else. Until then each waits, with nothing changed but the turn. That a FENCE of a narrower
scope waits for the same STGs as one of the widest, and that one at handler level does not wait for a copy which itself waits for the pending
frame, are the model's choices (assumption logs 47 and 86). -/
def Obligations.FencesWaitForWhatTheyName : Prop :=
  ∀ (s : State) (sc k : BitVec 5),
    let performed := (k.toNat % 2 = 1 → s.g.loads = [] ∧ s.g.bq = []) ∧ (k.toNat / 2 % 2 = 1 → released s) ∧ storesSeen s
    (issues (.fence sc k) s → performed → (k.toNat / 4 % 2 = 1 → copiesDone s) →
      ∃ t, exec (.fence sc k) s = .next t ∧ onlyCommits (s.g.pc + 4) s t)
    ∧ (issues (.fence sc k) s → ¬ performed → exec (.fence sc k) s = .next (stall s))
    ∧ (issues (.fence sc k) s → performed → k.toNat / 4 % 2 = 1 → copiesLeft s → s.lockstep = false →
        (s.g.pl = true → s.g.frame = [] ∧ ∀ p ∈ s.g.channels, p.2.stopped = false) → exec (.fence sc k) s = .next (stall s))
    ∧ (issues .bqwait s → s.g.bq = [] → ∃ t, exec .bqwait s = .next t ∧ onlyCommits (s.g.pc + 4) s t)
    ∧ (issues .bqwait s → s.g.bq ≠ [] → exec .bqwait s = .next (stall s))

/-- R126, R127 and R212: FENCEB waits until what it releases is performed, then counts its gang as arrived, at once or with BARRIER_ARRIVAL; the phase
completes with its last member; WAITB goes on once the phase of the gang's last arrival is complete; a barrier without members, a
barrier of another PASID and a WAITB without an arrival trap. BARCFG sets the count of a barrier that is free, or owned and without
arrivals, starts a phase and writes 1; else it writes 0 and changes nothing (R213). That a second arrival of a gang in a phase counts
again, that WAITB waits for the gang's STGs at every scope, and that a FENCEB at handler level does not wait for a copy which itself waits
for the pending frame, are the model's choices (assumption logs 49, 47 and 86). -/
def Obligations.BarriersCountTheirMembers : Prop :=
  ∀ (s : State) (b c d r : BitVec 5),
    let k := barrierKey s.g b
    let x := barrierOf s k
    let count := (s.reg r).toNat
    let free := (count ≤ if b.toNat / 16 = 1 then 32 else 8) ∧ (x.count = 0 ∨ (x.owner = s.g.pasid ∧ x.arrived = []))
    let full := ¬ (x.arrived ++ [s.g.id]).length < x.count
    let counted := fun (t : State) =>
      barrierOf t k = (if full then { x with arrived := [], phase := x.phase + 1 } else { x with arrived := x.arrived ++ [s.g.id] })
        ∧ (∀ j, j ≠ k → barrierOf t j = barrierOf s j) ∧ mget 0 t.g.arrivals k = x.phase + 1 ∧ (full → t.g.ev = true)
        ∧ sameRegsBut [] s t ∧ sameBytes s t
    let usable := x.count ≠ 0 ∧ x.owner = s.g.pasid
    (usable → s.g.arriving = none → released s → (c.toNat / 4 = 1 → copiesDone s) →
      completes (.fenceb b c) s fun t => committed (s.g.pc + 4) s t ∧
        (if s.lockstep = true then counted t
         else t.g.arriving = some (k, true) ∧ t.barriers = s.barriers ∧ sameRegsBut [] s t ∧ sameBytes s t))
    ∧ (usable → (s.g.arriving ≠ none ∨ ¬ released s ∨ (c.toNat / 4 = 1 ∧ copiesLeft s ∧ s.lockstep = false
          ∧ (s.g.pl = true → s.g.frame = [] ∧ ∀ p ∈ s.g.channels, p.2.stopped = false))) → completes (.fenceb b c) s (· = stall s))
    ∧ (∀ f, s.g.arriving = some (k, f) → occurs (.barrierArrival s.g.id b) s fun t => counted t ∧ t.g.arriving = none ∧ t.g.pc = s.g.pc)
    ∧ (usable → s.g.arriving = none →
        (∀ n, mget 0 s.g.arrivals k = n + 1 → n < x.phase → storesSeen s → completes (.waitb b) s (onlyCommits (s.g.pc + 4) s))
        ∧ (∀ n, mget 0 s.g.arrivals k = n + 1 → x.phase ≤ n ∨ ¬ storesSeen s → completes (.waitb b) s (· = stall s))
        ∧ (mget 0 s.g.arrivals k = 0 → trapsWith (.waitb b) 1 (w64 (encodeWord (.waitb b))) 6 s))
    ∧ (∀ i ∈ [Instr.fenceb b c, Instr.waitb b],
        (x.count = 0 → trapsWith i 1 (w64 (encodeWord i)) 7 s)
        ∧ (x.count ≠ 0 → x.owner ≠ s.g.pasid → trapsWith i 2 (w64 (encodeWord i)) 0 s))
    ∧ (free → completes (.barcfg d b r) s fun t => t.g.reg d = (if d = 0 then 0 else 1) ∧ sameRegsBut [d] s t ∧ committed (s.g.pc + 4) s t
        ∧ sameBytes s t ∧ barrierOf t k = { count := count, owner := s.g.pasid, phase := x.phase + 1, arrived := [], cfg := s.g.id }
        ∧ ∀ j, j ≠ k → barrierOf t j = barrierOf s j)
    ∧ (¬ free → completes (.barcfg d b r) s (writesReg d 0 (s.g.pc + 4) s))

/-- R215 and R216: SIGWAIT goes on once the signal meets its condition and the gang's stores are seen (assumption log 47), and waits
otherwise; SIGPOST waits until what it releases is performed, then adds to the signal or sets it, writes
no other byte, and sets every gang's EV; an address that is misaligned or outside local HBM traps. The access code 2 of SIGPOST's traps is
the model's choice (assumption log 44). -/
def Obligations.SignalsAreAwaitedAndPosted : Prop :=
  ∀ (s : State) (c a b : BitVec 5) (ea y : Word), ea = s.reg a → y = s.reg b →
    (∀ pa bs, globalPa s ea 8 .read 0 = .ok pa → region pa = 0 → copiesDone s → (physRead (useG s ea.toNat) pa 8).2 = some bs →
      let v := w64 (leNat bs)
      let met := match c.toNat with | 0 => y.toNat ≤ v.toNat | 1 => v = y | _ => v ≠ y
      (healthy s → bs = memBytes s pa 8)
        ∧ (met → storesSeen s → completes (.sigwait c a b) s fun t => sameRegsBut [] s t ∧ committed (s.g.pc + 4) s t ∧ sameBytes s t
            ∧ onlyGlobal s t)
        ∧ (¬ met ∨ ¬ storesSeen s → completes (.sigwait c a b) s (· = stall s)))
    ∧ (∀ pa bs, globalPa s ea 8 .write 2 = .ok pa → region pa = 0 → released s → (physRead (useG s ea.toNat) pa 8).2 = some bs →
      let new := if c = 0 then leNat bs + y.toNat else y.toNat
      (healthy s → bs = memBytes s pa 8)
        ∧ completes (.sigpost c a b) s fun t => sameRegsBut [] s t ∧ committed (s.g.pc + 4) s t ∧ sameField s t ∧ sameLocal s t
          ∧ memNat t pa 8 = new % 2 ^ 64 ∧ memKept pa 8 s t
          ∧ t.g.ev = true ∧ ∀ h ∈ t.others, h.ev = true)
    ∧ (∀ pa, globalPa s ea 8 .write 2 = .ok pa → region pa = 0 → ¬ released s → completes (.sigpost c a b) s (· = stall s))
    ∧ ∀ p ∈ [(Instr.sigwait c a b, Access.read, 0), (Instr.sigpost c a b, Access.write, 2)], copiesDone s →
      (2 ^ 48 ≤ ea.toNat → trapsWith p.1 8 ea (w64 p.2.2) s)
      ∧ (ea.toNat < 2 ^ 48 → ea.toNat % 8 ≠ 0 → trapsWith p.1 3 ea (w64 p.2.2) s)
      ∧ (∀ pa, globalPa s ea 8 p.2.1 p.2.2 = .ok pa → region pa ≠ 0 → trapsLeaving p.1 8 ea (w64 p.2.2) s (useG s ea.toNat))

/-- R216, R217 and R362: AWSET sets its walk register and no other; WFE clears EV and goes on, or waits for it; YIELD has no effect unless
a ready queue waits for a span, and then the gang and its cohort are to halt. -/
def Obligations.HintsWaitsAndYields : Prop :=
  ∀ (s : State) (w a b : BitVec 5),
    (completes (.awset w a b) s fun t => mget {} t.g.walks w.toNat = ⟨s.reg a, w64 ((s.reg b).toNat % 2 ^ 48), s.reg a⟩
      ∧ (∀ n, n ≠ w.toNat → mget {} t.g.walks n = mget {} s.g.walks n) ∧ sameRegsBut [] s t ∧ committed (s.g.pc + 4) s t ∧ sameBytes s t
      ∧ ∀ n, n ≠ 0x041 → t.g.control n = s.g.control n)
    ∧ (copiesDone s → enginesDone s →
        (s.g.ev = true → completes .wfe s fun t => t.g.ev = false ∧ sameRegsBut [] s t ∧ committed (s.g.pc + 4) s t ∧ sameBytes s t
          ∧ onlyRegs { s with g := { s.g with ev := false } } t)
        ∧ (s.g.ev = false → completes .wfe s (· = stall s)))
    ∧ (spanWanted s = false → completes .yield s (onlyCommits (s.g.pc + 4) s))
    ∧ (spanWanted s = true → completes .yield s fun t => t.g.preempt = true ∧ sameRegsBut [] s t ∧ committed (s.g.pc + 4) s t ∧ sameBytes s t
        ∧ (s.g.cohN ≠ 1 → ∀ h ∈ t.others, sameCohort h s.g = true → h.phase = .running → h.preempt = true))

/-- R141, R200, R206, R219 and R220: at gang level with nothing outstanding, every instruction whose encoding is not legal takes cause 1, and
every privileged one takes cause 2, with its encoding in GEVAL and with no other effect. -/
def Obligations.IllegalAndPrivilegedInstructionsTrap : Prop :=
  ∀ (i : Instr) (s : State), i.isEvent = false → trapsNow s →
    (i.wf = false → exec i s = .next (afterTrap 1 (w64 (encodeWord i)) 0 s.g.pc s))
    ∧ (i.wf = true → i.privileged = true → exec i s = .next (afterTrap 2 (w64 (encodeWord i)) 0 s.g.pc s))

/-- R220 and R223: an illegal encoding at handler level, or with GTVEC = 0, fails the gang: its record's queue stops with ERR 5 and the host
is told. That it then keeps no span and its clusters are cleared is the model's choice (assumption log 22). -/
def Obligations.CausesWithoutAHandlerFailTheGang : Prop :=
  ∀ (i : Instr) (s : State), i.isEvent = false → i.wf = false → ownId s → s.g.bq = [] → s.g.bankFault = false →
    (s.g.pl = true ∨ (s.g.gtvec = 0 ∧ s.g.copyFault = none)) →
    ∃ t x, exec i s = .next t ∧ findGang t s.g.id = some x ∧ x.phase = .failed ∧ x.clusters = []
      ∧ (∀ c ∈ s.g.clusters, clusterClear c t) ∧ fieldKept s.g.clusters s t
      ∧ ((∀ p ∈ s.g.channels, p.2.queue = []) → sameMem s t)
      ∧ (∃ f ∈ t.eventFrames, f.type = 2 ∧ f.payload.getD 3 0 = 1 ∧ f.payload.getD 5 0 = w64 (encodeWord i))
      ∧ (s.g.launch.queue < 8192 → (mget {} t.queues s.g.launch.queue).st = 3 ∧ (mget {} t.queues s.g.launch.queue).err = 5)

/-- R219 and R226: TRAP takes cause 11 with its immediate and the next instruction's address; BRK takes cause 12 with its own address, or
stops the gang for svk where DB = 1, until SVK_CONTINUE, which lets a gang that a single step stopped go on where it stands; SVK_ATTACH
sets DB. That SVK_CONTINUE counts the BRK and goes on behind it, and resumes a single step where it stands, is the model's choice
(assumption log 40), as is that TRAP counts in RETIRED (log 17), and that a TRAP which is stepped takes cause 11 alone (log 71). -/
def Obligations.TrapsAndBreakpoints : Prop :=
  ∀ (s : State) (l h : BitVec 5) (gang : Nat) (on : Bool),
    (issues (.trap l h) s → trapsNow s → exec (.trap l h) s =
      .next (afterTrap 11 (w64 (h.toNat * 32 + l.toNat)) 0 (s.g.pc + 4) { s with g := { s.g with retired := s.g.retired + 1 } }))
    ∧ (s.g.db = false → trapsWith .brk 12 0 0 s)
    ∧ (s.g.db = true → s.g.bq = [] → s.g.bankFault = false → s.g.copyFault = none →
        completes .brk s (· = rotate { s with g := { s.g with phase := .svkStop } }))
    ∧ (occurs (.svkAttach gang on) s fun t =>
        (s.g.id = gang → t = { s with g := { s.g with db := on } })
        ∧ (s.g.id ≠ gang → t = { s with others := s.others.map fun x => if x.id = gang then { x with db := on } else x }))
    ∧ (s.g.phase = .svkStop → occurs (.svkContinue s.g.id) s fun t => t.g.phase = .running ∧ sameRegsBut [] s t ∧ sameBytes s t
        ∧ (s.g.savedCause = none → t.g.pc = s.g.pc + 4 ∧ t.g.retired = s.g.retired + 1)
        ∧ (s.g.savedCause ≠ none → t.g.pc = s.g.pc ∧ t.g.retired = s.g.retired ∧ t.g.savedCause = none))

/-- R206, R225, R226, R242 and R245: ERET and its forms return to gang level at GEPC, re-issue the frame's instructions with their captures
(not those of ERET.drop), give up the handler's read-queue values, reserve an entry for each re-issued delivery, and arm a single step from
SS. ERET starts the instruction at GQPOS from ESTART as it now stands; ERET.skip marks it complete, and to the read queue it delivers 0. That
a return counts in RETIRED is the model's reading (assumption log 17). -/
def Obligations.ReturnsReissueTheFrame : Prop :=
  ∀ (s : State), s.g.bq = [] → s.g.fpDue = none → s.g.held = none → s.g.stgNak = none → s.g.revoked = none → s.g.copyFault = none →
    (s.lockstep = false ∨ (s.g.frame = [] ∧ copiesDone s)) →
    ∀ p ∈ [(Instr.eret, false), (Instr.eretSkip, false), (Instr.eretDrop, true)], (p.1 = .eretSkip → bit s.g.gqpos 7 = true) →
      completes p.1 s fun t =>
        t.g.pl = false ∧ t.g.pc = s.g.gepc ∧ t.g.retired = s.g.retired + 1 ∧ t.g.fv = false ∧ t.g.frame = [] ∧ t.g.resume = []
          ∧ t.g.stepping = s.g.ss ∧ t.g.rqAside = 0
          ∧ t.g.bq.map (fun e => (e.instr, e.regs, e.cap)) = (if p.2 = true then [] else s.g.frame.map fun e => (e.instr, e.regs, e.cap))
          ∧ t.g.bq.map (fun e => (e.start, e.skipped, e.delivered)) = (if p.2 = true then [] else s.g.frame.zipIdx.map fun (e, k) =>
              let here := bit s.g.gqpos 7 = true ∧ k = s.g.gqpos.toNat % 64
              let skipped := e.skipped = true ∨ (here ∧ p.1 = .eretSkip)
              (if here ∧ p.1 = .eret then s.g.estart.toNat % 2 ^ 48 else e.start, decide skipped,
                if skipped ∧ toReadQueue e.instr = true then some 0 else none))
          ∧ t.g.rq = s.g.rq.take s.g.rqAside
              ++ (if p.2 = true then [] else (s.g.frame.filter fun e => toReadQueue e.instr).map fun _ => none)
          ∧ t.g.estart = (if p.2 = false ∧ bit s.g.gqpos 7 = true then 0 else s.g.estart)
          ∧ sameRegsBut [] s t ∧ sameBytes s t ∧ ∀ n ∈ [0x001, 0x002, 0x003, 0x004, 0x005, 0x006, 0x007], t.g.control n = s.g.control n

/-- R219 to R221, R224, R226 and R244: TRAP_ENTRY takes the pending cause that comes first (a bank's fault once no earlier one can come, an FP
trap, a single step once the queue is empty or a copy fault in its place, a refused store, a copy fault, a revoked span) with its cause
registers, and keeps the unretired instructions as the frame. No byte changes, unless a TMMA holds rows back. GEVAL2 = 9 of a refused store
and that a bank's fault waits until every bank has passed the instructions before it are the model's choices (assumption logs 41 and 30), as
is that it comes before an FP trap that is due (log 71). -/
def Obligations.PendingCausesEnterTheHandlerInOrder : Prop :=
  ∀ (s : State), s.g.phase = .running → s.g.pl = false → s.g.gtvec ≠ 0 →
    let takes := fun (code imp : Nat) (val val2 : Word) => occurs .trapEntry s fun t =>
      t.g.gcause = w64 (code + 256 * imp) ∧ t.g.geval = val ∧ t.g.geval2 = val2 ∧ t.g.gepc = s.g.pc &&& ~~~3 ∧ t.g.pl = true
        ∧ t.g.pc = s.g.gtvec &&& ~~~3 ∧ t.g.bq = [] ∧ t.g.frame.map (fun e => e.instr) = s.g.bq.map (fun e => e.instr)
        ∧ sameRegsBut [] s t ∧ sameMem s t ∧ sameLocal s t ∧ ((∀ e ∈ s.g.bq, heldRows e = false) → sameField s t)
    let noBank := s.g.bankFault = false
    (∀ n c, s.g.lowestBankFault = some (n, c) →
      (s.g.bankFaultReady = true → coreFirst c = false → takes c.code 0 c.val c.val2)
      ∧ (s.g.bankFaultReady = false → occurs .trapEntry s (· = stall s)))
    ∧ (∀ v, noBank → s.g.fpDue = some v → takes 10 1 v 0)
    ∧ (noBank → s.g.fpDue = none → s.g.held = some stepCause →
        (s.g.bq = [] → s.g.db = false → takes 12 0 1 0)
        ∧ (s.g.bq ≠ [] → s.g.copyFault = none → occurs .trapEntry s (· = stall s))
        ∧ (s.g.bq ≠ [] → ∀ k c, s.g.copyFault = some (k, c) → coreFirst c = false → takes c.code 1 c.val c.val2))
    ∧ (noBank → s.g.fpDue = none → s.g.held = none →
        (∀ n a, s.g.stgNak = some (n, a) → takes 8 1 a 9)
        ∧ (s.g.stgNak = none →
            (∀ k c, s.g.copyFault = some (k, c) → coreFirst c = false → takes c.code 1 c.val c.val2)
            ∧ (∀ k, s.g.copyFault = none → s.g.revoked = some k → takes 14 1 (w64 k) 0)))

/-- R37, R40, R43, R46, R222 and R228: a gang that is asked to halts at its boundary with its unretired instructions kept; an eviction
clears and frees its span; a page's arrival lets it go on where it stopped, and a refusal enters its handler with the cause kept, but in a
reservation's clusters it stays halted for the command core (R431); a cluster taken offline is reported to the gang that holds it. -/
def Obligations.HaltsEvictionsAndPageReplies : Prop :=
  ∀ (s : State), ownId s → s.g.cohN = 1 →
    let kept := fun (es : List Entry) => es.map fun e => (e.instr, e.regs, e.cap)
    (s.g.phase = .running → s.g.preempt = true → occurs (.preemptionHalt s.g.id) s fun t => ∃ x, findGang t s.g.id = some x
      ∧ x.phase = .halted ∧ x.preempt = false ∧ x.pc = s.g.pc ∧ x.bq = [] ∧ kept x.haltFrame = kept s.g.bq ∧ x.loads = []
      ∧ x.clusters = s.g.clusters ∧ sameMem s t ∧ ((∀ e ∈ s.g.bq, heldRows e = false) → sameField s t))
    ∧ (s.frozen = false → s.g ∈ (resumeList s).take 256 → s.g.clusters ≠ [] → mergeOutstanding s.g = false → occurs (.fieldEviction s.g.id) s fun t =>
        t.g.clusters = [] ∧ t.g.evicted = (List.range s.g.banksInSpan).map (bankImage s) ∧ (∀ c ∈ s.g.clusters, clusterClear c t)
          ∧ fieldKept s.g.clusters s t ∧ sameMem s t ∧ sameLocal s t)
    ∧ (s.g.phase = .pageWait → reservedAway s s.g = true → occurs (.pageReply s.g.id true) s fun t => t.g.phase = .halted ∧ t.g.clusters = s.g.clusters
        ∧ sameRegsBut [] s t ∧ sameBytes s t ∧ Instr.schedulingPass ∈ t.agenda)
    ∧ (s.g.phase = .pageWait → s.g.bq = [] → s.g.clusters ≠ [] → reservedAway s s.g = false → (s.lockstep = false ∨ (s.g.haltFrame = [] ∧ copiesDone s)) →
        (occurs (.pageReply s.g.id true) s fun t => t.g.phase = .running ∧ t.g.pc = s.g.pc ∧ kept t.g.bq = kept s.g.haltFrame
          ∧ t.g.savedCause = none ∧ sameRegsBut [] s t ∧ sameBytes s t)
        ∧ ∀ c imp gepc, s.g.savedCause = some (c, imp, gepc) → s.g.pl = false → s.g.gtvec ≠ 0 →
          occurs (.pageReply s.g.id false) s fun t => t.g.phase = .running ∧ t.g.pl = true ∧ t.g.pc = s.g.gtvec &&& ~~~3
            ∧ t.g.gcause = causeWord c imp ∧ t.g.gepc = gepc &&& ~~~3 ∧ t.g.geval = c.val ∧ t.g.geval2 = c.val2
            ∧ kept t.g.frame = kept s.g.haltFrame ∧ sameRegsBut [] s t ∧ sameBytes s t)
    ∧ ∀ c, c ∈ s.g.clusters → c < 128 → c ∉ s.offline → occurs (.clusterOffline c) s fun t => t.offline = s.offline ++ [c]
        ∧ t.g.revoked = some (match s.g.revoked with | some j => min j (s.g.clusters.idxOf c) | none => s.g.clusters.idxOf c)
        ∧ (∀ p ∈ t.reservations, c ∉ p.2.clusters) ∧ sameRegsBut [] s t ∧ sameBytes s t

/-- R227: QSAVE stores the queue frame as 512 words and changes no other byte; QLOAD takes back the frame of a record that it accepts, sets
FV, and changes no byte; a record that it does not accept is an illegal-instruction cause with reason 5. That a record is 512 free words and
is known again by equality with one that was saved is the model's choice (assumption log 11). -/
def Obligations.QueueFramesAreSavedAndLoaded : Prop :=
  ∀ (s : State) (a : Reg) (pa : Nat),
    (s.g.bq = [] → globalPa s (s.reg a) 4096 .write 1 = .ok pa → region pa = 0 → region (pa + 4095) = 0 → storeLost s pa 4096 = false →
      completes (.qsave a) s fun t => ∃ x, t.savedFrames = s.savedFrames ++ [x] ∧ x.entries = s.g.frame ∧ x.resume = s.g.resume
        ∧ x.cohN = s.g.cohN ∧ x.cohIx = s.g.cohIx ∧ x.ncl = s.g.clusters.length ∧ x.image.length = 512
        ∧ (∀ j < 512, memNat t (pa + 8 * j) 8 = (x.image.getD j 0).toNat) ∧ memKept pa 4096 s t
        ∧ sameRegsBut [] s t ∧ committed (s.g.pc + 4) s t ∧ sameField s t ∧ sameLocal s t ∧ t.g.frame = s.g.frame ∧ t.g.fv = s.g.fv)
    ∧ ∀ bs, globalPa s (s.reg a) 4096 .read 0 = .ok pa → pendingWrite s pa 4096 = false → targetRefuses s pa = false →
      (physRead (globalTouch s (s.reg a).toNat) pa 4096).2 = some bs →
      (healthy s → bs = memBytes s pa 4096)
      ∧ (∀ x, acceptedFrame s (wordsOf 512 bs) = some x →
          x ∈ s.savedFrames ∧ x.image = wordsOf 512 bs ∧ x.cohN = s.g.cohN ∧ x.cohIx = s.g.cohIx ∧ x.ncl = s.g.clusters.length ∧ x.resume = s.g.resume
          ∧ completes (.qload a) s fun t => t.g.frame = x.entries ∧ t.g.fv = true ∧ t.g.resume = s.g.resume ∧ sameRegsBut [] s t
            ∧ committed (s.g.pc + 4) s t ∧ sameBytes s t)
      ∧ (acceptedFrame s (wordsOf 512 bs) = none → completes (.qload a) s (· = trapIllegal s (.qload a) 5))

/-- R30, R47 and R217: HALT, with nothing of its gang outstanding, retires the gang at either level: no frame, no cause and no span remain,
its clusters are cleared, and the post-signal of its record is performed in local HBM. That a post-signal is dropped also where its word is
uncorrectable, and that a handler's frame is given up before the waits, are the model's choices (assumption log 43), as is that HALT
counts in RETIRED (log 17). -/
def Obligations.HaltRetiresTheGang : Prop :=
  ∀ (s : State), ownId s → s.g.bq = [] → s.g.loads = [] → enginesDone s → copiesDone s → (∀ u ∈ s.unacked, u.gang ≠ s.g.id) →
    let gone := fun (t : State) => (∃ x, findGang t s.g.id = some x ∧ x.phase = .retired ∧ x.clusters = [] ∧ x.frame = [] ∧ x.resume = []
      ∧ x.fv = false ∧ x.held = none ∧ x.stgNak = none ∧ x.revoked = none ∧ x.fpDue = none ∧ x.retired = s.g.retired + 1
      ∧ ∀ r, x.reg r = s.g.reg r) ∧ (∀ c ∈ s.g.clusters, clusterClear c t) ∧ fieldKept s.g.clusters s t
    (s.g.launch.pv = false → completes .halt s fun t => gone t ∧ sameMem s t ∧ t.queues = s.queues)
    ∧ (∀ pa, s.g.launch.pv = true → postTarget s = .at pa → completes .halt s fun t => gone t ∧ t.queues = s.queues
        ∧ memKept pa 8 s t
        ∧ (healthy s → memNat t pa 8 =
            if s.g.launch.postSet = true then s.g.launch.pval.toNat else (memNat s pa 8 + s.g.launch.pval.toNat) % 2 ^ 64))
    ∧ (s.g.launch.pv = true → postTarget s = .held → s.g.pl = false → completes .halt s (· = stall s))
    ∧ (s.g.launch.pv = true → postTarget s = .dropped → s.g.launch.queue < 8192 → completes .halt s fun t => gone t ∧ sameMem s t
        ∧ (mget {} t.queues s.g.launch.queue).st = 3 ∧ (mget {} t.queues s.g.launch.queue).err = 5 ∧ ∃ f ∈ t.eventFrames, f.type = 2)

/-- R207 to R210: EQPUSH appends its word to the open command of its port; the last form ends the command, which an engine takes, or which
the port discards with a result of all ones; EQPOP removes the oldest result once the gang's STGs are seen (R183; assumption log 47); EQSTAT
reports and clears ERR; the limits of R208 trap with reason 3 and push nothing, and EQPOP on an idle port traps with reason 4. That a head
which takes no command is looked at only with the last word, and that a 65th word discards the command at once, is the model's choice (log 70). -/
def Obligations.EnginePortsQueueCommandsAndResults : Prop :=
  ∀ (s : State) (a : Reg) (p : BitVec 5),
    let k := p.toNat
    let x := s.g.port k
    let v := s.reg a
    let w := x.openWords ++ [v]
    let only := fun (t : State) => sameRegsBut [] s t ∧ committed (s.g.pc + 4) s t ∧ sameBytes s t ∧ ∀ j, j ≠ k → t.g.port j = s.g.port j
    let discarded := fun (t : State) => only t ∧ t.g.ev = true
      ∧ t.g.port k = { x with openWords := [], results := x.results ++ [BitVec.allOnes 64], err := true }
    (x.openWords.length ≠ 64 → x.words < 64 → completes (.eqpush a p) s fun t => only t ∧ t.g.port k = { x with openWords := w })
    ∧ (x.openWords.length ≠ 64 → 64 ≤ x.words → completes (.eqpush a p) s (· = stall s))
    ∧ (x.openWords.length = 64 → x.held < 4 → completes (.eqpush a p) s discarded ∧ completes (.eqpushLast a p) s discarded)
    ∧ (4 ≤ x.held → trapsWith (.eqpushLast a p) 1 (w64 (encodeWord (.eqpushLast a p))) 3 s
        ∧ (x.openWords.length = 64 → trapsWith (.eqpush a p) 1 (w64 (encodeWord (.eqpush a p))) 3 s))
    ∧ (x.held < 4 → x.openWords.length ≠ 64 → x.words < 64 → released s →
        (commandOk s.g w = false → completes (.eqpushLast a p) s discarded)
        ∧ (commandOk s.g w = true →
            let queued := setPort s k { x with openWords := [], commands := x.commands ++ [⟨w, 0, 0, false, []⟩] }
            completes (.eqpushLast a p) s fun t => t = (if s.lockstep = true then enginePass k queued else queued).commit4))
    ∧ (let u := runEngines k s
       (∀ r q, (u.g.port k).results = r :: q →
          (storesSeen u → completes (.eqpop a p) s fun t => t.g.reg a = (if a = 0 then 0 else r) ∧ sameRegsBut [a] u t
            ∧ committed (u.g.pc + 4) u t ∧ sameBytes u t ∧ t.g.port k = { u.g.port k with results := q } ∧ ∀ j, j ≠ k → t.g.port j = u.g.port j)
          ∧ (¬ storesSeen u → completes (.eqpop a p) s (· = stall u)))
       ∧ completes (.eqstat a p) s fun t => ∃ n, t.g.reg a = (if a = 0 then 0 else w64 n) ∧ sameRegsBut [a] u t
          ∧ committed (u.g.pc + 4) u t ∧ sameBytes u t ∧ t.g.port k = { u.g.port k with err := false } ∧ (∀ j, j ≠ k → t.g.port j = u.g.port j)
          ∧ n = (u.g.port k).openWords.length + (u.g.port k).results.length * 2 ^ 8 + (u.g.port k).commands.length * 2 ^ 12
              + (if (u.g.port k).err = true then 2 ^ 16 else 0))
    ∧ (x.commands = [] →
        (x.results = [] → trapsWith (.eqpop a p) 1 (w64 (encodeWord (.eqpop a p))) 4 s) ∧ runEngines k s = s)

/-- R394 to R397, R403 to R407 and R417 to R420: an engine takes a command of its port; one that fails its checks changes no byte and leaves
its status, and the completing step writes the flag, or adds 1 at DONE, where the command succeeded, delivers exactly one result word and
sets EV. -/
def Obligations.EnginesAnswerEveryCommandOnce : Prop :=
  ∀ (s : State) (q : BitVec 4),
    let p := q.toNat
    let id := s.g.id
    let x := s.g.port p
    let begun := fun (c : Command) (word : Word) (ok : Bool) (t : State) =>
      t.g.port p = replaceCommand x c { c with stage := 1, result := word, doneOk := ok }
    let answered := fun (c : Command) (r : Word) (t : State) => t.g.ev = true
      ∧ t.g.port p = { x with commands := x.commands.erase c, results := x.results ++ [r] }
    (∀ c, findCommand s p 1 0 = some c →
      (reduceCheck c.words ≠ 0 → occurs (.reductionCommand id q) s fun t => begun c (resultWord (reduceCheck c.words) 0 0 0) false t ∧ sameBytes s t)
      ∧ (∀ u word ok, reduceRun s.used c.words = some (u, word, ok) → occurs (.reductionCommand id q) s fun t => begun c word ok t ∧ sameMem u t
          ∧ sameField s t ∧ sameLocal s t))
    ∧ (∀ c, findCommand s p 1 1 = some c →
        let flag := (reduceOf c.words).flag
        let fval := (reduceOf c.words).fval
        (flag = 0 ∨ c.doneOk = false → occurs (.reductionComplete id q) s fun t => sameBytes s t ∧ answered c c.result t)
        ∧ (flag ≠ 0 → c.doneOk = true →
            (∀ pa, engTranslate s.used flag true true = .ok pa → storeLost s.used pa 8 = false → occurs (.reductionComplete id q) s fun t =>
              answered c c.result t ∧ memNat t pa 8 = fval % 2 ^ 64 ∧ memKept pa 8 s t)
            ∧ ∀ n, writeFlag s.used flag fval = .error (.status n) → occurs (.reductionComplete id q) s fun t =>
              answered c (resultWord n (bitsOf c.result.toNat 8 5) 17 0) t ∧ sameBytes s t))
    ∧ (∀ c u status f which index, findCommand s p 2 0 = some c → unitBusy s.g (bitsOf (cmdWord c.words 0) 4 12) < 4 →
        mergePass s.used c.words = .ended u status f which index →
        occurs (if (mergeOf c.words).write = true then .mergeWritePass id q else .mergeCountPass id q) s fun t =>
          begun c (resultWord status f.toNat which index) (decide (status = 0)) t ∧ sameMem u t ∧ sameField u t
            ∧ ((mergeCheck c.words).1 ≠ 0 → status = (mergeCheck c.words).1 ∧ sameBytes s t))
    ∧ (∀ c, findCommand s p 2 1 = some c →
        let done := cmdWord c.words 12
        (c.doneOk = false ∨ done = 0 → occurs (.mergeComplete id q) s fun t => sameBytes s t ∧ answered c c.result t)
        ∧ (c.doneOk = true → done ≠ 0 →
            (∀ pa, 2 ^ 63 ≤ done → engTranslate s.used (done % 2 ^ 48) false true = .ok pa → engTranslate s.used (done % 2 ^ 48) true true = .ok pa →
              healthy s → occurs (.mergeComplete id q) s fun t => answered c c.result t ∧ sameField s t
                ∧ memNat t pa 8 = (memNat s pa 8 + 1) % 2 ^ 64 ∧ memKept pa 8 s t)
            ∧ (∀ ks, done < 2 ^ 63 → fieldKeys s.used false (done % 2 ^ 32) 8 = some ks → fieldKeys s.used true (done % 2 ^ 32) 8 = some ks →
              ks.Nodup → keysBad s ks = false → occurs (.mergeComplete id q) s fun t => answered c c.result t ∧ sameMem s t
                ∧ (∀ j < 8, rdByte t.field (ks.getD j 0) = byteOf (w64 (leNat (ks.map (rdByte s.field)) + 1)) j)
                ∧ ∀ k, k ∉ ks → rdByte t.field k = rdByte s.field k)
            ∧ ∀ n, mergeDone s.used done = .error (.status n) → occurs (.mergeComplete id q) s fun t =>
              answered c (resultWord n (bitsOf c.result.toNat 8 5) 9 0) t ∧ sameBytes s t))
    ∧ (∀ c, (commandsAt x 3 0).head? = some c → collBegun x = none →
        let i := if (collOf c.words).scatter = true then Instr.reduceScatter id q else .allGather id q
        (collWords c.words ≠ 0 → occurs i s fun t => sameBytes s t
          ∧ t.g.port p = replaceCommand x c { c with stage := 2, result := resultWord (collWords c.words) 0 0 0 })
        ∧ ∀ tb u, collWords c.words = 0 → bufferBad s c.words = false → groupTable s (collOf c.words) = .ok tb →
          collTable (collOf c.words) tb = 0 → collSend p (collOf c.words) tb (touchTable s (collOf c.words)) = .ok u →
          occurs i s fun t => sameMem u t ∧ sameField s t ∧ t.unacked = u.unacked ∧ t.g.port p = replaceCommand x c { c with stage := 1 })
    ∧ (∀ c, collBegun x = some c → c.stage = 2 →
        (collUnacked s p = false → occurs (.collectiveWaitComplete id q) s fun t => sameBytes s t ∧ answered c c.result t)
        ∧ (collUnacked s p = true → occurs (.collectiveWaitComplete id q) s (· = s)))
    ∧ ∀ c tb, collBegun x = some c → c.stage ≠ 2 → groupTable s (collOf c.words) = .ok tb → collUnacked s p = false →
        let own := ((tb[(collOf c.words).rank]?).getD (0, 0)).2
        let flag := (collOf c.words).flag
        (∀ u, c.doneOk = false → collCounts p (collOf c.words) c tb s = .ok u → collUnacked u p = true →
          occurs (.collectiveWaitComplete id q) s fun t => sameMem u t ∧ sameField s t ∧ t.unacked = u.unacked
            ∧ t.g.port p = replaceCommand x c { c with doneOk := true })
        ∧ (c.doneOk = true → collArrived s (collOf c.words) tb = .ok false → occurs (.collectiveWaitComplete id q) s (· = s))
        ∧ (c.doneOk = true → collArrived s (collOf c.words) tb = .ok true → (collOf c.words).scatter = false →
            collBegun { x with commands := x.commands.erase c } = none →
            (∀ r rs, c.nak = r :: rs → occurs (.collectiveWaitComplete id q) s fun t => sameBytes s t
              ∧ answered c (resultWord 9 0 0 (rs.foldl min r)) t)
            ∧ (c.nak = [] → flag = 0 → occurs (.collectiveWaitComplete id q) s fun t => sameBytes s t ∧ answered c (resultWord 0 0 0 0) t)
            ∧ ∀ pa, c.nak = [] → flag ≠ 0 → engTranslate (engTouch s own 8) flag true true = .ok pa → storeLost (engTouch s own 8) pa 8 = false →
              occurs (.collectiveWaitComplete id q) s fun t => answered c (resultWord 0 0 0 0) t ∧ memNat t pa 8 = (collOf c.words).fval % 2 ^ 64
                ∧ memKept pa 8 s t)

/-- R101, R141, R193, R194, R240 and R242: every element instruction, reduction, scatter, sparse, block and tile instruction joins the
broadcast queue at its commit with the control values and registers that it captures, unless it is refused or must wait for room; its
commit changes no register and no byte of HBM, host or sequencer-local memory. -/
def Obligations.BroadcastAndTileInstructionsJoinTheQueue : Prop :=
  ∀ (s : State) (f : BX) (x : TX),
    (∀ i ∈ [Instr.vadd f, .vsub f, .vmul f, .vfma f, .vfms f, .vfnma f, .vdiv f, .vsqrt f, .vmin f, .vmax f, .vabs f, .vneg f, .vcpys f,
        .vfun f, .vmulh f, .vavg f, .vclass f, .vand f, .vor f, .vxor f, .vsll f, .vsrl f, .vsra f, .vclmul f, .vclmulh f, .vpopc f, .vclz f,
        .vcmp f, .vselm f, .vcvtn f, .vcvtw f, .vcvti f, .vcvtf4 f, .vmov f, .viota f, .vrev f, .vreshape f], joinsQueue i s)
    ∧ (∀ i ∈ [Instr.vcompress f, .vexpand f, .vredsum f, .vredmax f, .vredmin f, .vredbit f, .vscan f, .vfirst f, .vcount f, .vscatadd f,
        .vscatmax f, .vscatmin f, .vconfl f, .vspadd f, .vspmul f, .vrunb f], joinsQueue i s)
    ∧ ∀ i ∈ [Instr.tmma x, .tew x, .tact x, .trowr x, .tsoft x, .ttrn x, .tcvt x, .tcpy x, .tfill x, .ttagr x, .ttagw x], joinsQueue i s

/-- R84, R87, R89, R90, R96, R98, R255 to R258, R261, R262, R265, R266, R274, R277 to R282, R286, R318, R337 and R339: what most element
operations, reductions, scatters, sparse merges and tile kernels compute. Integer and bit operations on w-bit words wrap where SAT = 0, and
integers saturate with OF and NX where SAT = 1; sums, products, fused operations, averages and conversions deliver their exact value by the
rounding mode with its flags; a NaN gives the canonical NaN; comparisons and minima go by value; integer reductions and scatters combine
their terms, and any sum splits as the tree does; sparse merges unite or intersect coordinates; an F32 product row of dense tiles adds each
group of 32 products, rounded once, to its accumulator, and the element-wise, transpose, fill, copy and conversion kernels give each element
at its place in the layout. No value is stated of VFUN, VSQRT, a floating VDIV, VCLASS, VCVTF4, VSELM, VCPYS, a floating VABS, VNEG, VIOTA or
move, VSCAN, VCONFL, VRUNB, of where VCOMPRESS and VEXPAND place their elements, of floating maxima and minima in reductions and scatters,
floating scatters and sparse merges, TACT, TROWR, TSOFT, compressed and masked tiles, TMMA with other accumulators or a scaled or sparse a,
methods of block code, and overflow with SAT = 0; TTAGR and TTAGW are in BanksBeginAndStagedWritesWait. -/
def Obligations.IntegerElementsFollowTheirOperations : Prop :=
  (∀ (f : BX) (x : ElemCtx) (w i c : Nat) (a b : BitVec w), efBits x.ef = w → efInt x.ef = true →
    let gives := fun (ins : Instr) (r : BitVec w) => ∃ fl, elementResult ins f x i a.toNat b.toNat c = some (r.toNat, fl)
    let sgn := efSigned x.ef = true
    let k := b.toNat % w
    let spread := fun (v : BitVec w) => (List.range w).foldl (fun acc j => if b.getLsbD j then acc ^^^ (v.zeroExtend (2 * w) <<< j) else acc) 0
    (x.sat = false →
      gives (.vadd f) (a + b) ∧ gives (.vsub f) (a - b) ∧ gives (.vmul f) (a * b) ∧ gives (.viota f) (a + BitVec.ofNat w i)
      ∧ gives (.vneg f) (-a) ∧ gives (.vabs f) (if sgn ∧ a.slt 0 then -a else a)
      ∧ (b ≠ 0 → gives (.vdiv f) (if sgn then a.sdiv b else a / b)) ∧ (b = 0 → gives (.vdiv f) (BitVec.allOnes w)))
    ∧ gives (.vmulh f) (BitVec.ofInt w ((if sgn then a.toInt * b.toInt else a.toNat * b.toNat) / 2 ^ w))
    ∧ gives (.vand f) (a &&& b) ∧ gives (.vor f) (a ||| b) ∧ gives (.vxor f) (a ^^^ b)
    ∧ gives (.vsll f) (a <<< k) ∧ gives (.vsrl f) (a >>> k) ∧ gives (.vsra f) (a.sshiftRight k)
    ∧ gives (.vclmul f) ((spread a).truncate w) ∧ gives (.vclmulh f) ((spread a >>> w).truncate w)
    ∧ gives (.vpopc f) (BitVec.ofNat w ((List.range w).filter a.getLsbD).length)
    ∧ gives (.vclz f) (BitVec.ofNat w ((List.range w).takeWhile fun j => !a.getMsbD j).length)
    ∧ gives (.vmin f) (if sgn then (if b.slt a then b else a) else (if b.ult a then b else a))
    ∧ gives (.vmax f) (if sgn then (if a.slt b then b else a) else (if a.ult b then b else a))
    ∧ gives (.vmov f) a ∧ gives (.vrev f) a ∧ gives (.vreshape f) a
    ∧ (x.sat = true → ∀ p ∈ [(Instr.vadd f, intOf x.ef a.toNat + intOf x.ef b.toNat), (.vsub f, intOf x.ef a.toNat - intOf x.ef b.toNat),
        (.vmul f, intOf x.ef a.toNat * intOf x.ef b.toNat), (.vneg f, -(intOf x.ef a.toNat)), (.vabs f, ((intOf x.ef a.toNat).natAbs : Int))],
        ∃ r, elementResult p.1 f x i a.toNat b.toNat c = some (r, if p.2 < intMin x.ef ∨ intMax x.ef < p.2 then 20 else 0)
          ∧ intOf x.ef r = max (intMin x.ef) (min (intMax x.ef) p.2)))
  ∧ (∀ (f : BX) (x : ElemCtx) (i a b c : Nat) (va vb vc : Int), scaledCode x.ef a = some va → scaledCode x.ef b = some vb →
      scaledCode x.ef c = some vc →
      (∀ p ∈ [(Instr.vadd f, (va + vb) * 2 ^ 320), (.vsub f, (va - vb) * 2 ^ 320), (.vmul f, va * vb), (.vfma f, va * vb + vc * 2 ^ 320),
          (.vfms f, va * vb - vc * 2 ^ 320), (.vfnma f, vc * 2 ^ 320 - va * vb), (.vavg f, (va + vb) * 2 ^ 319)],
        ∃ out, elementResult p.1 f x i a b c = some out ∧ deliveredAs x.ef x.mode x.sat x.draw p.2 out)
      ∧ (∀ p ∈ [(Instr.vcvtn f, f.b.toNat), (.vcvtw f, f.b.toNat), (.vcvti f, f.fn.toNat)],
        ∃ out, elementResult p.1 f x i a b c = some out ∧ deliveredAs p.2 x.mode x.sat x.draw (va * 2 ^ 320) out)
      ∧ (x.ef ≤ 18 → (∃ r, elementResult (.vmin f) f x i a b c = some (r, 0) ∧ scaledCode x.ef r = some (min va vb))
          ∧ ∃ r, elementResult (.vmax f) f x i a b c = some (r, 0) ∧ scaledCode x.ef r = some (max va vb))
      ∧ ∀ p ∈ [(0, decide (va = vb)), (1, decide (va ≠ vb)), (2, decide (va < vb)), (3, decide (va ≤ vb)), (4, decide (vb < va)),
          (5, decide (vb ≤ va)), (6, false), (7, true)], compareCodes x.ef p.1 a b = (p.2, 0))
  ∧ (∀ (f : BX) (x : ElemCtx) (i a b c nan : Nat), (x.ef, nan) ∈ [(12, 0x7E00), (13, 0x7FC0), (14, 0x7FC00000), (15, 0x7F), (16, 0x7E), (18, 0xFF)] →
      (valueOf x.ef a = .nan ∨ valueOf x.ef b = .nan →
        (∀ ins ∈ [Instr.vadd f, .vsub f, .vmul f], elementResult ins f x i a b c = some (nan, 0))
        ∧ ∀ p ∈ [(0, false, 0), (1, true, 0), (2, false, 1), (3, false, 1), (4, false, 1), (5, false, 1), (6, true, 0), (7, false, 0)],
            compareCodes x.ef p.1 a b = p.2)
      ∧ (∀ n, valueOf x.ef a = .inf n → (valueOf x.ef b = .inf !n → elementResult (.vadd f) f x i a b c = some (nan, 1))
          ∧ (scaledCode x.ef b = some 0 → elementResult (.vmul f) f x i a b c = some (nan, 1))))
  ∧ (∀ (f : BX) (x : ElemCtx) (fn : Nat) (ts : List (Nat × Nat)), efInt x.ef = true → (∀ t ∈ ts, t.2 < 2 ^ efBits x.ef) →
      let vs := ts.map fun t => t.2
      (x.sat = false → reduceTerms (.vredsum f) x fn ts = (vs.sum % 2 ^ efBits x.ef, 0)
        ∧ ∀ old, old < 2 ^ efBits x.ef → scatterUpdate (.vscatadd f) x old vs = ((old + vs.sum) % 2 ^ efBits x.ef, 0))
      ∧ (ts = [] → intOf x.ef (reduceTerms (.vredmax f) x fn ts).1 = intMin x.ef ∧ intOf x.ef (reduceTerms (.vredmin f) x fn ts).1 = intMax x.ef)
      ∧ (ts ≠ [] → (∃ r ∈ vs, reduceTerms (.vredmax f) x fn ts = (r, 0) ∧ ∀ v ∈ vs, intOf x.ef v ≤ intOf x.ef r)
          ∧ ∃ r ∈ vs, reduceTerms (.vredmin f) x fn ts = (r, 0) ∧ ∀ v ∈ vs, intOf x.ef r ≤ intOf x.ef v)
      ∧ (∀ old, old < 2 ^ efBits x.ef →
          (∃ r ∈ old :: vs, scatterUpdate (.vscatmax f) x old vs = (r, 0) ∧ ∀ v ∈ old :: vs, intOf x.ef v ≤ intOf x.ef r)
          ∧ ∃ r ∈ old :: vs, scatterUpdate (.vscatmin f) x old vs = (r, 0) ∧ ∀ v ∈ old :: vs, intOf x.ef r ≤ intOf x.ef v)
      ∧ (∀ j < efBits x.ef, ((reduceTerms (.vredbit f) x 0 ts).1.testBit j = true ↔ ∀ v ∈ vs, v.testBit j = true)
          ∧ ((reduceTerms (.vredbit f) x 1 ts).1.testBit j = true ↔ ∃ v ∈ vs, v.testBit j = true)
          ∧ ((reduceTerms (.vredbit f) x 2 ts).1.testBit j = true ↔ (vs.filter fun v => v.testBit j).length % 2 = 1))
      ∧ reduceTerms (.vfirst f) x fn ts = ((((ts.find? fun t => t.2 ≠ 0).map fun t => t.1).getD (2 ^ 64 - 1)), 0)
      ∧ reduceTerms (.vcount f) x fn ts = ((ts.filter fun t => t.2 ≠ 0).length, 0))
  ∧ (∀ (f : BX) (x : ElemCtx) (fn k : Nat) (ts : List (Nat × Nat)), 2 ^ k < ts.length → ts.length ≤ 2 ^ (k + 1) →
      reduceTerms (.vredsum f) x fn ts = addCodes x.ef x.mode x.sat x.draw (reduceTerms (.vredsum f) x fn (ts.take (2 ^ k)))
        (reduceTerms (.vredsum f) x fn (ts.drop (2 ^ k))))
  ∧ (∀ (f : BX) (x : ElemCtx) (as bs : List (Nat × Nat)), efInt x.ef = true → x.sat = false →
      (as.map fun p => p.1).Pairwise (· < ·) → (bs.map fun p => p.1).Pairwise (· < ·) → (∀ p ∈ as ++ bs, p.2 < 2 ^ efBits x.ef) →
      let sum := mergePairs (.vspadd f) x as bs
      let prod := mergePairs (.vspmul f) x as bs
      let hasA := fun k => ∃ p ∈ as, p.1 = k
      let hasB := fun k => ∃ p ∈ bs, p.1 = k
      (sum.map fun p => p.1).Pairwise (· < ·) ∧ (prod.map fun p => p.1).Pairwise (· < ·)
        ∧ (∀ k, (∃ p ∈ sum, p.1 = k) ↔ hasA k ∨ hasB k) ∧ (∀ k, (∃ p ∈ prod, p.1 = k) ↔ hasA k ∧ hasB k)
        ∧ (∀ p ∈ as, ∀ q ∈ bs, p.1 = q.1 → (p.1, (p.2 + q.2) % 2 ^ efBits x.ef, 0) ∈ sum ∧ (p.1, p.2 * q.2 % 2 ^ efBits x.ef, 0) ∈ prod)
        ∧ (∀ p ∈ as, ¬ hasB p.1 → (p.1, p.2, 0) ∈ sum) ∧ ∀ p ∈ bs, ¬ hasA p.1 → (p.1, p.2, 0) ∈ sum)
  ∧ (∀ (c0 : Nat) (ps : List Machine.Num) (qs : List Int) (gs : List (List Machine.Num)),
      (ps.map scaledNum = qs.map some → ∃ mid out, mmaAccumulate c0 [ps] = (out.1, mid.2 ||| out.2)
        ∧ deliveredAs 14 .rne false 0 (qs.sum * 2 ^ 320) mid
        ∧ ∀ vm vc, scaledCode 14 mid.1 = some vm → scaledCode 14 c0 = some vc → deliveredAs 14 .rne false 0 ((vm + vc) * 2 ^ 320) out)
      ∧ mmaAccumulate c0 (ps :: gs) = ((mmaAccumulate (mmaAccumulate c0 [ps]).1 gs).1,
          (mmaAccumulate c0 [ps]).2 ||| (mmaAccumulate (mmaAccumulate c0 [ps]).1 gs).2))
  ∧ (∀ (y : Dispatched) (dc da db : FrameData) (mask r : Nat), keyFmt y.keys.d = 14 → keySpc y.keys.a = 0 →
      mmaRow y dc da db mask r = (List.range (keyCols y.keys.d)).map fun j => mmaAccumulate (tileCode y.keys.d dc r j)
        ((List.range ((keyCols y.keys.a + 31) / 32)).map fun g => ((List.range (keyCols y.keys.a)).filter fun k => k / 32 == g).map fun k =>
          (mulNum (tileValue y.keys.a da r k) (tileValue y.keys.b db k j)).1))
  ∧ ∀ (t : TX) (fn splat base i j : Nat) (cap : Capture) (y : Dispatched),
      let r := y.result
      keyValid r = true → keySpc r = 0 → isScaled (keyFmt r) = false → i < keyRows r → j < keyCols r →
      let da := (y.a.map fun o => o.data).getD fun _ => 0
      let db := (y.b.map fun o => o.data).getD fun _ => 0
      let el := fun (ins : Instr) (n : Nat) =>
        (tileCode r (runKernel ins n splat cap base y).1 i j, (runKernel ins n splat cap base y).2 i j)
      let is := fun (v : Int) (out : Nat × Fl) => deliveredAs (keyFmt r) (modeOf (kernelRnd (mtArg y.method)) cap.ectrl)
        (kernelSat (mtArg y.method)) (drawOf cap (base + i * keyCols r + j)) v out
      (∀ p q, scaledNum (tileValue y.keys.a da i j) = some p → scaledNum (tileValue y.keys.b db i j) = some q →
        is ((p + q) * 2 ^ 320) (el (.tew t) 0) ∧ is ((p - q) * 2 ^ 320) (el (.tew t) 1) ∧ is (p * q) (el (.tew t) 2)
          ∧ is (max p q * 2 ^ 320) (el (.tew t) 3) ∧ is (min p q * 2 ^ 320) (el (.tew t) 4) ∧ is (p * 2 ^ 320) (el (.tcvt t) fn))
      ∧ el (.ttrn t) fn = (canonical (keyFmt r) (tileCode y.keys.a da j i) % 2 ^ efBits (keyFmt r), 0)
      ∧ el (.tfill t) fn = (canonical (keyFmt r) (splat % 2 ^ efBits (keyFmt r)), 0)
      ∧ (runKernel (.tcpy t) fn splat cap base y).1 = da

/-- R311 to R314: with an empty broadcast queue, MTLOAD loads consecutive entries that all pass its checks or traps with reason 12 and
loads none, MTINV invalidates a range, and MTQUERY answers with the lowest-numbered matching entry; no byte of memory changes. -/
def Obligations.MethodTableInstructions : Prop :=
  ∀ (s : State) (f : CX),
    let a := s.reg f.a
    let n := (s.reg f.b).toNat
    let first := f.opx.toNat % 256
    let rest := fun (t : State) => sameRegsBut [] s t ∧ committed (s.g.pc + 8) s t ∧ sameBytes s t
    let illegal := trapsWith (.mtload f) 1 (w64 (encodeWord (.mtload f))) 12 s
    (s.g.bq ≠ [] → completes (.mtload f) s (· = stall s) ∧ completes (.mtinv f) s (· = stall s))
    ∧ (s.g.bq = [] →
        (n = 0 ∨ 256 < first + n → illegal)
        ∧ (n ≠ 0 → first + n ≤ 256 → a.toNat % 32 ≠ 0 → trapsWith (.mtload f) 3 a 0 s)
        ∧ (∀ us, n ≠ 0 → first + n ≤ 256 → a.toNat % 32 = 0 → sourceUnits s f.dir 8 a (4 * n) = .ok us →
            let m := fun (k : Nat) => methodOf ((us.drop (4 * k)).take 4).flatten
            ((∃ k < n, methodOk (m k) = false) → illegal)
            ∧ ((∀ k < n, methodOk (m k) = true) → completes (.mtload f) s fun t => rest t
                ∧ (∀ k < n, mget {} t.g.methods (first + k) = m k)
                ∧ ∀ k, k < first ∨ first + n ≤ k → mget {} t.g.methods k = mget {} s.g.methods k))
        ∧ completes (.mtinv f) s fun t => rest t
            ∧ ∀ k, mget {} t.g.methods k = if a.toNat ≤ k ∧ k < a.toNat + n then {} else mget {} s.g.methods k)
    ∧ completes (.mtquery f) s fun t => ∃ v, writesReg f.d v (s.g.pc + 8) s t ∧
        (let d := (s.reg (f.b + 1)).toNat
         let hit := fun (e : Nat) => methodMatches (mget {} s.g.methods e) (a.toNat % 256) (a.toNat / 256)
           ⟨d, bitsOf n 0 18, bitsOf n 18 18, bitsOf n 36 18⟩
         let wide := 2 ^ 15 ≤ a.toNat ∨ 2 ^ 54 ≤ n ∨ 2 ^ 18 ≤ d
         (wide ∨ (∀ e < 256, hit e = false) → v = 0)
           ∧ ∀ e < 256, ¬ wide → hit e = true → (∀ j < e, hit j = false) → v = w64 (e + 256 + 512 * mtKind (mget {} s.g.methods e)))

/-- R288 and R289: with an empty broadcast queue, BLOAD replaces the block table, whose bits [63:32] are zero, and the block store and sets
NBLK, or traps with reason 11 and changes nothing. -/
def Obligations.BlockLoadReplacesTheStore : Prop :=
  ∀ (s : State) (f : CX),
    let a := s.reg f.a
    let n := (s.reg f.b).toNat
    let illegal := trapsWith (.bload f) 1 (w64 (encodeWord (.bload f))) 11 s
    (s.g.bq ≠ [] → completes (.bload f) s (· = stall s))
    ∧ (s.g.bq = [] →
        (n = 0 ∨ 4096 < n → illegal)
        ∧ (n ≠ 0 → n ≤ 4096 → a.toNat % 8 ≠ 0 → trapsWith (.bload f) 3 a 0 s)
        ∧ ∀ table, n ≠ 0 → n ≤ 4096 → a.toNat % 8 = 0 → sourceUnits s f.dir 8 a n = .ok table →
          ((∃ e ∈ table.map offLen, blockOk n e.1 e.2 = false) → illegal)
          ∧ ∀ bs, (∀ e ∈ table.map offLen, blockOk n e.1 e.2 = true) → readBlocks s f.dir a (table.map offLen) = .ok bs →
            completes (.bload f) s fun t => t.g.blktab = w64 n ∧ t.g.storeBad = []
              ∧ t.g.store = bs.foldl (fun m b => wrBytes m b.1 b.2) (wrBytes [] 0 (table.map fun e => e.take 4 ++ List.replicate 4 0).flatten)
              ∧ sameRegsBut [] s t ∧ committed (s.g.pc + 8) s t ∧ sameBytes s t ∧ ∀ m, m ≠ 0x032 → m ≠ 0x041 → t.g.control m = s.g.control m)

/-- R341, R345 to R349, R353, R354: a copy is captured whole at its commit and queued on its channel, traps at commit where R345 refuses
it, and changes no byte by being queued; DRAIN waits until its channel is drained. -/
def Obligations.CopiesQueueOnTheirChannel : Prop :=
  ∀ (s : State) (f : CX),
    (copiesDone s ∨ s.lockstep = false →
      ∀ p ∈ [(Instr.copy f, captureCopy s f), (Instr.copynd f, captureCopynd s f), (Instr.gather f, captureIndexed s (.gather f) f 2),
          (Instr.scatter f, captureIndexed s (.scatter f) f 3)],
        let ch := f.ch.toNat
        (∀ code v v2, p.2 = .error (.trap code v v2) → coreFirst ⟨code, v, v2, 0, 0, 0⟩ = false → trapsWith p.1 code v v2 s)
        ∧ (p.2 = .error .hold → completes p.1 s (· = stall s))
        ∧ ∀ c, p.2 = .ok c →
          c.dst = (s.reg f.d).toNat ∧ c.src = (s.reg f.a).toNat ∧ c.dir = f.dir.toNat ∧ c.sig = (f.sig == 1) ∧ c.position = 0 ∧ c.started = false
          ∧ (tooManyRuns s c = true → trapsWith p.1 1 (w64 (encodeWord p.1)) 13 s)
          ∧ (tooManyRuns s c = false → (16 ≤ (s.g.channel ch).queue.length ∨ scoreboardFull s c = true) → completes p.1 s (· = stall s))
          ∧ (tooManyRuns s c = false → (s.g.channel ch).queue.length < 16 → scoreboardFull s c = false →
              completes p.1 s fun t => sameRegsBut [] s t ∧ sameLocal s t ∧ committed (s.g.pc + 8) s t
                ∧ (s.lockstep = false ∨ c.outstanding = [] → sameBytes s t ∧ (∀ j, j ≠ ch → t.g.channel j = s.g.channel j)
                    ∧ t.g.channel ch = { s.g.channel ch with
                        queue := (s.g.channel ch).queue ++ (if c.outstanding = [] then [] else [c]) })))
    ∧ (copiesDone s → completes (.drain f) s (onlyCommits (s.g.pc + 8) s))
    ∧ (s.lockstep = false → s.g.pl = false → (s.g.channel f.ch.toNat).queue ≠ [] → completes (.drain f) s (· = stall s))

/-- R41, R342, R346, R348, R353, R356 and R391: the steps of a channel. Its oldest copy that has not started does, once those before it have
issued their last request; an outstanding element lands, written whole from what was read, in the field or in local HBM, and no other byte
but tags changes; an element that faults stops the channel there. Which elements land together, those of
one aligned 8-byte unit and those that may not overtake one another, is the model's choice (assumption log 16: `landSet`), so the clause on
one element is for one that lands alone. The channels of a halted gang, and a stopped one, do not move. -/
def Obligations.CopyStepsStartLandAndStop : Prop :=
  ∀ (s : State) (k : BitVec 3),
    let ch := k.toNat
    let x := s.g.channel ch
    (s.g.copiesRun = false ∨ x.stopped = true →
      ∀ n, ∀ i ∈ [Instr.copyStart k, .copyElementLand k n, .copyFaultStop k, .gatherPiece k], occurs i s (· = s))
    ∧ (s.g.copiesRun = true → x.stopped = false →
      (∀ pre c post, x.queue = pre ++ c :: post → x.queue.Pairwise (fun a b => a.num ≠ b.num) → c.started = false →
          (∀ d ∈ pre, d.started = true ∧ d.outstanding ≠ []) →
          ((∀ d ∈ pre, d.issued = true) → c.outstanding ≠ [] → occurs (.copyStart k) s fun t => sameBytes s t ∧ sameRegsBut [] s t
            ∧ t.g.channel ch = { x with queue := pre ++ { c with started := true } :: post } ∧ ∀ j, j ≠ ch → t.g.channel j = s.g.channel j)
          ∧ ((∃ d ∈ pre, d.issued = false) → occurs (.copyStart k) s (· = s)))
      ∧ (∀ c r n ix u v c' bs l b, x.queue = c :: r → c.started = true → n ∈ c.outstanding → c.sent.contains n = false →
          mustFollow s c n = false → (∀ p ∈ s.g.clusters, p < 128) → copyIndex s c n = .ok (ix, false) →
          let e := c.elem n ix
          landSet s c n = some [n] → landedMates s c n = [] →
          copyRead s c c.srcF e.src e.len = (u, .ok (bs, false)) → copyLanding u c e.dst e.len = .ok l →
          copyElement s ch c n (unitWhole s c [n] n) = (v, c', .ok b) →
          (∀ ks, l = .field ks → (∀ y ∈ ks, y / 8 ∉ s.fieldBad) → ks.Nodup →
            occurs (.copyElementLand k n) s fun t => sameLocal s t ∧ sameRegsBut [] s t ∧ (c.sig = false → sameMem s t)
              ∧ (∀ p ∈ ks.zipIdx, rdByte t.field p.1 = bs.getD p.2 0) ∧ ∀ y, y ∉ ks → rdByte t.field y = rdByte s.field y)
          ∧ (∀ pa, l = .phys pa → region pa = 0 → pa % 2 ^ 50 + bs.length ≤ 2 ^ 50 → c.sig = false → healthy s →
            occurs (.copyElementLand k n) s fun t => sameLocal s t ∧ sameRegsBut [] s t ∧ sameField s t
              ∧ (pa + bs.length ≤ contractLimit → ∀ j < bs.length, memByte t (pa + j) = bs.getD j 0)
              ∧ (∀ y, y < pa ∨ pa + bs.length ≤ y → y < contractLimit ∨ 2 ^ 50 ≤ y → memByte t y = memByte s y)))
      ∧ (∀ c r n g u c' b a code, x.queue = c :: r → c.started = true → c.outstanding.head? = some n →
          landSet s c n = some g → g.head? = some n → (∀ k ∈ g, landedMates s c k = []) →
          copyElement s ch c n (unitWhole s c g n) = (u, c', .error (.fault b a code)) →
          occurs (.copyFaultStop k) s fun t => (t.g.channel ch).stopped = true ∧ (t.g.channel ch).taken = false
            ∧ (t.g.channel ch).queue.head? = some (c'.stopAt n)
            ∧ (t.g.channel ch).errors &&& BitVec.ofNat 7 (2 ^ b) = BitVec.ofNat 7 (2 ^ b)
            ∧ (t.g.channel ch).fault = some ⟨9, w64 (lowBits a 64), w64 (ch + code), 0, 0, 0⟩)
      ∧ (∀ c n, (x.queue.find? fun d => d.started && decide (2 ≤ d.kind) && !d.issued) = some c →
          (c.outstanding.filter fun j => !c.sent.contains j).head? = some n →
          occurs (.gatherPiece k) s (· = landElements ch c.num (c.outstanding.filter fun j => j / 256 == n / 256) s)))

/-- R92, R93, R116, R163, R194, R230, R233, R236, R239, R253, R272, R300, R301 and R315: the steps of a bank. BANK_BEGIN is held by an FP trap
that is due, by the skew limit and by the gate, which counts in GATED, of the gang and of the bank (how much is free: assumption log 8); a
bank finishes at once what it owns nothing of; STAGED_WRITE_PHASE waits for every bank's read phase, counts the wait of each bank that
waits, and then writes all of the staging store. The bank that performs the last unit of the eldest instruction writes that unit's bits at
their owner, and no other byte; the instruction retires: its flags join EFLAGS and the FX registers, its result reaches the read queue
and sets EV, and the tags of its frames are kept up. What a unit writes is the code of its element at the destination's address; TTAGR
writes the frame's tag, and TTAGW writes the tag with GEN counted; a bank reads its own bytes as they stand. -/
def Obligations.BanksBeginAndStagedWritesWait : Prop :=
  ∀ (s : State) (b : Nat) (e : Entry),
    let u := flow s
    let x := u.g.bankAt b
    let byte := fun (w : Wr) => (fieldAt u w.addr true).toOption
    (x.cause = none → b < u.g.banksInSpan → x.begun = false → u.g.bq.find? (fun e => e.seq == x.next) = some e →
      let due := u.g.fpDue ≠ none ∨ (ectrlTen u.g.ectrl ≠ 0 ∧ u.g.lowWater ≠ e.seq)
      let far := u.g.lowWater + 16 ≤ e.seq
      let gated := ∃ k, e.gate = some k ∧ u.g.lowWater ≤ k
      let y := mget ({} : Perf) u.g.perf b
      (due → occurs (.bankBegin b) s (· = u))
      ∧ (¬ due → ownsNone u b e = true → occurs (.bankBegin b) s fun t => t = finishBank u b e ∧ sameMem s t ∧ sameLocal s t ∧ sameRegsBut [] s t)
      ∧ (¬ due → ownsNone u b e = false →
        (far → occurs (.bankBegin b) s (· = u))
        ∧ (¬ far → gated → occurs (.bankBegin b) s fun t => ∃ n, t = { u with fresh := u.fresh + 1, g := { u.g with
            gated := satAdd64 u.g.gated n, perf := mput u.g.perf b { y with gated := satAdd64 y.gated n } } })
        ∧ (¬ far → ¬ gated → occurs (.bankBegin b) s fun t =>
            t = advanceBank b (units e) (setBank u b { x with begun := true }) e ∧ sameMem s t ∧ sameLocal s t ∧ sameRegsBut [] s t)))
    ∧ (∀ p own o, u.g.bq = [e] → x.next = e.seq → x.begun = true → x.ready = false → x.cause = none → b < u.g.banksInSpan →
        (∀ q ∈ u.g.pulls, q.requester = b → q.seq ≠ e.seq) → (∀ c < u.g.banksInSpan, c ≠ b → e.seq < (u.g.bankAt c).next) →
        u.g.fpDue = none → holdsWrites e = false → isSparse e.instr = false → unitsFrom e x.position = [p] → skips e b p = false →
        rowAbsent u e p = false → unitOwner u (rdOf (bankSrc u b e)) e p = .ok own → (own = b ∨ restartsWhole e.instr = true) →
        performUnit u b (minesOf u b) (b == 0) (bankSrc u b e) e p = .ok o → writesAwaited u e o = false → tokenAwaited u b e p = false →
        e.later = [] → (∀ w ∈ o.writes, ∀ k, byte w = some k → k / 8 ∉ u.fieldBad) → e.poison = [] → o.poison = [] → u.ftagBad = [] →
        let fl := e.flags.merge o.flags
        let fx := fun (i : Option Nat) => match i with | some i => w64 i | none => BitVec.allOnes 64
        occurs (.bankBegin b) s fun t => t.g.bq = [] ∧ sameMem s t ∧ sameLocal s t ∧ sameRegsBut [] s t
          ∧ (∀ k, rdByte t.field k = (o.writes.filter fun w => byte w == some k).foldl
              (fun v w => BitVec.ofNat 8 (v.toNat - (v.toNat &&& w.mask) + w.val)) (rdByte s.field k))
          ∧ t.g.eflags = s.g.eflags ||| w64 fl.bits ∧ t.g.fxnv = fx fl.nv ∧ t.g.fxdz = fx fl.dz ∧ t.g.fxof = fx fl.of ∧ t.g.fxuf = fx fl.uf
          ∧ t.g.fxnx = fx fl.nx
          ∧ (∀ v, o.rq.or e.delivered = some v → t.g.ev = true
              ∧ t.g.rq = s.g.rq.take s.g.rqAside ++ fillQueue v (s.g.rq.drop s.g.rqAside))
          ∧ (o.rq.or e.delivered = none → t.g.rq = s.g.rq)
          ∧ (keepsTags e.instr = false →
              (∀ f, (∀ q ∈ o.tags, ∀ k, fieldAt u q.1 true = .ok k → k / 8192 ≠ f) → mget rawTag t.ftags f = mget rawTag s.ftags f)
              ∧ ∀ q k, o.tags = [q] → fieldAt u q.1 true = .ok k → mget rawTag t.ftags (k / 8192) = q.2)
          ∧ (∀ f, bxFields e.instr = some f → keepsTags e.instr = true → o.tags = [] → ∀ n,
              let bytes := (coverage u e.written o.writes).filter fun q => q.1 / 8192 == n
              mget rawTag t.ftags n = if bytes = [] ∨ n ∈ e.kept then mget rawTag s.ftags n
                else upkeepTag e.instr f (bumpGen (mget rawTag s.ftags n)) ((bytes.filter fun q => q.2 == 255).length == 8192)))
    ∧ (∀ (own : Nat) (mine : Mine) (queue : Bool) (src : Src) (p : Nat), baseFault e own p = .ok () →
        let check := destCheck u (ectrlPp e.cap.ectrl) (keepsTags e.instr)
        let rd := rdAt (rdOf src) p
        (∀ (f : BX) (a v1 v2 v3 r : Nat) (fl : Fl), e.instr ∈ [Instr.vadd f, .vsub f, .vmul f, .vfma f, .vfms f, .vfnma f, .vdiv f, .vsqrt f, .vmin f,
            .vmax f, .vabs f, .vneg f, .vcpys f, .vfun f, .vmulh f, .vavg f, .vclass f, .vand f, .vor f, .vxor f, .vsll f, .vsrl f, .vsra f,
            .vclmul f, .vclmulh f, .vpopc f, .vclz f, .vcvtn f, .vcvtw f, .vcvti f, .vmov f, .viota f, .vrev f] →
          active rd e f.msk p = .ok (true, false) → destElementAddr rd check e f p = .ok ((a : Int), false) →
          readElement rd e 1 f.a f.am (efBits f.ef.toNat) (sourceIndex e f p) = .ok (v1, false) →
          (if usesB e.instr = true then readElement rd e 2 f.b f.bm (efBits f.ef.toNat) p else .ok (0, false)) = .ok (v2, false) →
          (if usesC e.instr = true then readElement rd e 3 f.c f.cm (efBits f.ef.toNat) p else .ok (0, false)) = .ok (v3, false) →
          elementResult e.instr f (elemCtx e f p) p v1 v2 v3 = some (r, fl) →
          let n := destBits e.instr f
          performUnit u own mine queue src e p = .ok
            { writes := if n < 8 then [⟨a, (2 ^ n - 1) * 2 ^ (p * n % 8), r % 2 ^ n * 2 ^ (p * n % 8)⟩]
                else (List.range (n / 8)).map fun j => ⟨a + j, 255, r / 2 ^ (8 * j) % 256⟩
              flags := flagsAt fl p })
        ∧ (∀ (f : TX) (bs : List Byte) (tag : Word), e.instr = .ttagr f → check p (((e.reg f.d).toNat + 8 * p : Nat) : Int) 8 = .ok false →
            let a := (e.reg f.a).toNat + 8192 * p
            frameWindowOk u a false = true → src 1 .base p (a : Nat) 0 true = .ok (bs, false, tag) →
            performUnit u own mine queue src e p = .ok
              { writes := (List.range 8).map fun j => ⟨(e.reg f.d).toNat + 8 * p + j, 255, tag.toNat / 2 ^ (8 * j) % 256⟩ })
        ∧ ∀ (f : TX) (bs vs : List Byte) (old : Word), e.instr = .ttagw f →
            let a := (e.reg f.d).toNat + 8192 * p
            frameWindowOk u a true = true → src 0 .base p (a : Nat) 0 true = .ok (bs, false, old) →
            rdOf src 1 .base p (((e.reg f.a).toNat + 8 * p : Nat) : Int) 8 = .ok (vs, false) →
            ∃ tag : Word, performUnit u own mine queue src e p = .ok { tags := [(a, tag)] } ∧ bitsOf tag.toNat 0 19 = leNat vs % 2 ^ 19
              ∧ bitsOf tag.toNat 19 13 = 0 ∧ bitsOf tag.toNat 32 16 = bitsOf (leNat vs) 32 16
              ∧ bitsOf tag.toNat 48 16 = (bitsOf old.toNat 48 16 + 1) % 2 ^ 16)
    ∧ (∀ (op idx len : Nat) (via : Via) (a : Int) (k : Nat) (ks : List Nat), elementKeys u false op via idx a (max 1 len) = .ok (k :: ks) →
        ownerOfAddr u a = some b → sparseBefore u.g e.seq = false → e.old = [] → e.oldTags = [] → u.g.channels = [] → u.ftagBad = [] →
        (∀ j ∈ k :: ks, j / 8 ∉ u.fieldBad) →
        bankSrc u b e op via idx a len true = .ok (((k :: ks).take len).map fun j => rdByte s.field j, false, mget rawTag s.ftags (k / 8192)))
    ∧ (∀ r, s.g.bq = e :: r → (∀ y ∈ r, e.seq < y.seq) → e.later = [] → e.staged = true → s.g.fpDue = none →
        let there := fun (b : Nat) => (s.g.bankAt b).next = e.seq ∧ (s.g.bankAt b).ready = true
        let ready := ∀ b < s.g.banksInSpan, there b ∨ e.seq < (s.g.bankAt b).next
        let awaited := ∃ b < s.g.banksInSpan, writesAwaited s e { writes := (s.g.bankAt b).stagedWrites } = true
        (awaited → occurs .stagedWritePhase s (· = s))
        ∧ (¬ awaited → ¬ ready → occurs .stagedWritePhase s fun t => t = (stagedWaiting s).foldl countGated s)
        ∧ (¬ awaited → ready → (∃ b < s.g.banksInSpan, there b) → occurs .stagedWritePhase s fun t =>
            t.field = (((List.range s.g.banksInSpan).flatMap fun b =>
                if (s.g.bankAt b).next = e.seq then (s.g.bankAt b).stagedWrites else []).foldl applyWrite s).field
              ∧ (∀ y ∈ t.g.bq, y ∈ r ∧ y.seq ≠ e.seq) ∧ sameMem s t ∧ sameLocal s t ∧ sameRegsBut [] s t))

/-- R104, R232 to R237 and R244: the life of a pull, whose place moves on through the buffers of R236 as far as there is room. It enters the
table of its owner while there is a slot, the last one kept for the eldest instruction; among the eligible pulls whose response has a slot
the earliest instruction's is served, with the owner's bytes as they stand, but for those that the instruction itself has overwritten,
which it reads as they stood before; its response reaches the requester, and is dropped where that no longer waits for it. -/
def Obligations.PullsArriveAreServedAndAnswered : Prop :=
  ∀ (s : State) (b : Nat) (pre post : List Pull) (q : Pull),
    let u := flow s
    let held := (u.g.pulls.filter fun r => r.place == .table && r.owner == b).length
    let enters := fun (r : Pull) => r.owner = b ∧ r.place = r.lastHop u.g ∧ (held < 63 ∨ (held < 64 ∧ r.seq = u.g.lowWater))
    let ready := fun (r : Pull) => r.owner = b ∧ r.place = .table ∧ pullEligible u r = true ∧ pullRoom u.g u.g.pulls r .responseQueue = true
    let arrived := fun (r : Pull) => r.requester = b ∧ r.place = .staging
    let becomes := fun (q' : Pull) (t : State) => t = flow { u with g := { u.g with pulls := pre ++ q' :: post } }
    ((∀ r ∈ u.g.pulls, ¬ enters r) → occurs (.pullArrival b) s (· = flow u))
    ∧ ((∀ r ∈ u.g.pulls, ¬ ready r) → occurs (.pullServe b) s (· = u))
    ∧ ((∀ r ∈ u.g.pulls, ¬ arrived r) → occurs (.pullResponse b) s (· = u))
    ∧ (u.g.pulls = pre ++ q :: post →
      (enters q → (∀ r ∈ pre, ¬ enters r) → occurs (.pullArrival b) s (becomes { q with place := .table }))
      ∧ (ready q → (∀ r ∈ pre, ready r → q.seq < r.seq) → (∀ r ∈ post, ready r → q.seq ≤ r.seq) →
          occurs (.pullServe b) s fun t => ∃ q', becomes q' t ∧ q'.place = .responseQueue ∧ q'.requester = q.requester ∧ q'.seq = q.seq
            ∧ q'.addr = q.addr ∧ q'.bytes.length = q.len ∧ ∀ j < q.len, ∀ k, fieldAt u (q.addr + j) false = .ok k →
                ((∀ e, u.g.pullEntry q = some e → mfind e.old k = none) → k / 8 ∉ u.fieldBad → q'.bytes.getD j 0 = rdByte u.field k)
                ∧ ∀ e v, u.g.pullEntry q = some e → mfind e.old k = some v → v < 256 → q'.bytes.getD j 0 = BitVec.ofNat 8 v)
      ∧ (arrived q → (∀ r ∈ pre, ¬ arrived r) → b ∉ u.g.linkBad →
          let v := flow { u with g := { u.g with pulls := u.g.pulls.erase q } }
          let x := v.g.bankAt b
          (x.next ≠ q.seq ∨ x.begun = false → occurs (.pullResponse b) s (· = v))
          ∧ (x.next = q.seq → x.begun = true → occurs (.pullResponse b) s fun t => sameMem s t ∧ sameLocal s t ∧ sameRegsBut [] s t
              ∧ ((∃ r ∈ v.g.pulls, r.requester = b ∧ r.seq = x.next) → ∃ y, t = setBank v b y ∧ y.next = x.next ∧ y.position = x.position
                  ∧ y.got = (q.bytes.zipIdx.map fun p => (q.addr + p.2, p.1)) ++ x.got))))

/-- R129, R132, R183, R185 and R343: the answers that a gang awaits. A load's response reaches its register; an acknowledged write is
performed, a counter add as a sum; a refused one, or one whose peer window has been retired or remapped since, is dropped, and its sender
learns of it. That the oldest write is the one acknowledged, and is performed then, is the model's choice (assumption log 24). -/
def Obligations.AnswersReachTheirGang : Prop :=
  ∀ (s : State) (d : Reg) (u : Unacked) (r : List Unacked) (l : Load),
    let nak := fun (n : Nat) (a : Word) => match s.g.stgNak with | some (m, v) => if n < m then some (n, a) else some (m, v) | none => some (n, a)
    (s.g.loads.find? (fun l => l.reg == d) = some l → occurs (.loadResponse d) s fun t => t.g.reg d = (if d = 0 then 0 else l.value)
      ∧ sameRegsBut [d] s t ∧ t.g.loads = s.g.loads.erase l ∧ sameBytes s t ∧ t.g.pc = s.g.pc)
    ∧ (s.g.loads.find? (fun l => l.reg == d) = none → occurs (.loadResponse d) s (· = s))
    ∧ (s.unacked = u :: r →
        let n := u.bytes.length
        let new := if u.add = true then leBytes n ((memNat s u.pa n + leNat u.bytes) % 2 ^ (8 * n)) else u.bytes
        (windowMoved s u = false → u.pa / 2 ^ 42 = (u.pa + n - 1) / 2 ^ 42 → occurs (.writeAcknowledgement true) s fun t => t.unacked = r
          ∧ t.g = s.g ∧ sameField s t ∧ (∀ j < n, memByte t (u.pa + j) = new.getD j 0) ∧ memKept u.pa n s t)
        ∧ (∀ ok, ok = false ∨ windowMoved s u = true → occurs (.writeAcknowledgement ok) s fun t => t.unacked = r ∧ sameBytes s t ∧ sameRegsBut [] s t
            ∧ (u.gang = s.g.id → u.origin = 0 → t.g.stgNak = nak u.seq (w64 u.va))
            ∧ (u.gang = s.g.id → 0 < u.origin → u.origin < 9 → (t.g.channel (u.origin - 1)).errors = (s.g.channel (u.origin - 1)).errors ||| 0x10)))
    ∧ (∀ a, s.unacked.find? (fun u => u.gang == s.g.id && u.origin == 0 && u.va == a) = some u →
        occurs (.stgNak s.g.id a) s fun t => t.unacked = s.unacked.erase u ∧ sameBytes s t ∧ sameRegsBut [] s t
          ∧ t.g.stgNak = nak u.seq (w64 u.va))

/-- R371 and R372: in a package without a lost stack or an error, an access at a parity home reads, writes or updates its bytes and no other
byte of HBM. -/
def Obligations.ParityHomesServeAccesses : Prop :=
  ∀ (s : State) (x : HomeAccess), x.eccError = false → x.parityError = false → healthy s → homeShape s x.pa x.size = true →
    let old := memNat s x.pa x.size
    let keeps := fun (t : State) => memKept x.pa x.size s t ∧ t.g = s.g ∧ sameField s t
    (x.kind = .read → occurs (.parityHomeAccess x) s fun t => t.homeData = some (w64 old) ∧ keeps t ∧ sameMem s t)
    ∧ (x.kind = .write → occurs (.parityHomeAccess x) s fun t => t.homeData = some 0 ∧ keeps t
        ∧ memNat t x.pa x.size = x.val.toNat % 2 ^ (8 * x.size))
    ∧ ∀ op, x.kind = .amo op → occurs (.parityHomeAccess x) s fun t => t.homeData = some (w64 old) ∧ keeps t
        ∧ BitVec.ofNat (8 * x.size) (memNat t x.pa x.size) =
            amoResult (min 9 op.toNat) (BitVec.ofNat (8 * x.size) old) (BitVec.ofNat (8 * x.size) x.val.toNat) (BitVec.ofNat (8 * x.size) x.cmp.toNat)

/-- R375, R378 to R380, R385, R387, R388 and R389: a stack that is lost, a spare row, an entry of the allocation tables, and a channel that
idles. -/
def Obligations.StacksRowsAndDomainsChange : Prop :=
  ∀ (s : State) (k : Nat) (why : BitVec 2) (row spare pc g : Nat) (d : BitVec 16),
    let stat := fun (t : State) (j : Nat) => mget ({} : StackStat) t.hbmStat j
    (k < 12 → (stat s k).lost = false → occurs (.stackLost k why) s fun t => stat t k = { stat s k with lost := true, why := why.toNat }
      ∧ (∀ j, j ≠ k → stat t j = stat s j) ∧ t.g = s.g ∧ sameMem s t ∧ sameField s t
      ∧ (s.parity.state = 0 → t.parity = { s.parity with state := 1, lost := k })
      ∧ (s.parity.state = 1 ∨ s.parity.state = 2 → t.parity = { s.parity with state := 5, lost2 := k })
      ∧ (s.parity.state = 3 → t.parity = { s.parity with state := 4, lost2 := k })
      ∧ (s.parity.state = 4 → t.parity = { s.parity with state := 5 }))
    ∧ (12 ≤ k ∨ (stat s k).lost = true → occurs (.stackLost k why) s (· = s))
    ∧ (k < 12 → (stat s k).lost = false → occurs (.rowRemapUpdate k row spare) s fun t => mget 0 t.remap (row * 12 + k) = spare
        ∧ (∀ n, n ≠ row * 12 + k → mget 0 t.remap n = mget 0 s.remap n)
        ∧ ((mirrorOf s k).isSome = true → mget 0 t.remapMirror (row * 12 + k) = spare) ∧ t.g = s.g ∧ sameMem s t)
    ∧ (allocationOk s true g (d.toNat % 4096) = true → occurs (.allocationTableUpdate true g d) s fun t =>
        mget 0xFFF t.domains2 g = BitVec.ofNat 16 (d.toNat % 4096) ∧ (∀ n, n ≠ g → mget 0xFFF t.domains2 n = mget 0xFFF s.domains2 n)
          ∧ t.domains = s.domains ∧ t.g = s.g ∧ sameMem s t)
    ∧ (allocationOk s false g (d.toNat % 4096) = true → occurs (.allocationTableUpdate false g d) s fun t =>
        mget 0xFFF t.domains g = BitVec.ofNat 16 (d.toNat % 4096) ∧ (∀ n, n ≠ g → mget 0xFFF t.domains n = mget 0xFFF s.domains n)
          ∧ t.domains2 = s.domains2 ∧ t.g = s.g ∧ sameMem s t)
    ∧ (∀ second, allocationOk s second g (d.toNat % 4096) = false → occurs (.allocationTableUpdate second g d) s (· = s))
    ∧ ∀ p ∈ [(Instr.powerDownEntry k pc, 0, 1), (Instr.selfRefreshEntry k pc, 16, 2)],
        k < 12 → pc < 64 → (stat s k).lost = false → bitsOf (pcpwrOf s k).toNat p.2.1 16 ≠ 0 → occurs p.1 s fun t =>
          mget 0 t.channelPower (k * 64 + pc) = max p.2.2 (mget 0 s.channelPower (k * 64 + pc))
            ∧ (∀ n, n ≠ k * 64 + pc → mget 0 t.channelPower n = mget 0 s.channelPower n) ∧ t.g = s.g ∧ sameMem s t

/-- R379, R381, R383 and R387: contraction starts only with one stack lost, every page below the limit and a second table that fits; each
move of a stripe lowers BOUNDARY by 5,120 and changes no data byte and no tag; the last one puts the 10+1 layout and the second table in force. -/
def Obligations.ContractionMovesStripeByStripe : Prop :=
  ∀ (s : State),
    let pages := mappedPages s
    let may := s.parity.state = 1 ∧ (∀ p ∈ pages, p.2.1 + p.2.2 ≤ contractLimit) ∧ secondTableOk s pages = true
    (may → s.parity.boundary = 0 → occurs .contractionStart s fun t =>
      t.parity = { s.parity with state := 2, boundary := 0x7800000000 } ∧ t.g = s.g ∧ sameMem s t)
    ∧ (¬ may → occurs .contractionStart s (· = s))
    ∧ (s.parity.state = 2 → 5120 < s.parity.boundary → occurs .contractionStripeMove s fun t =>
        t.parity = { s.parity with boundary := s.parity.boundary - 5120 } ∧ t.g = s.g ∧ t.hbmTags = s.hbmTags
          ∧ ∀ x, x < contractLimit ∨ 2 ^ 50 ≤ x → memByte t x = memByte s x)
    ∧ (s.parity.state = 2 → 0 < s.parity.boundary → s.parity.boundary ≤ 5120 → occurs .contractionStripeMove s fun t =>
        t.parity = { s.parity with state := 3, boundary := 0, tenPlusOne := true } ∧ t.domains = s.domains2 ∧ t.domains2 = [] ∧ t.g = s.g
          ∧ (∀ f < contractLimit / 8192, mget rawTag t.hbmTags f = mget rawTag s.hbmTags f)
          ∧ (∀ x, x < contractLimit ∨ 2 ^ 50 ≤ x → memByte t x = memByte s x)
          ∧ ∃ f ∈ t.eventFrames, f.type = 4)
    ∧ (s.parity.state ≠ 2 → occurs .contractionStripeMove s (· = s))

/-- R413 to R415: an access of a peer is performed under the grant for its window: in local HBM, or on to host memory or a further peer,
where a write waits for its acknowledgement; it is dropped with no byte changed where its generation, its offset or its shape does not
match, or its translation is refused. A remap of a window of its own advances GEN before the new contents are used. Translation by the
hub of die 0, and an AMO for host memory being dropped, are the model's choice (assumption log 25), as is a peer's memory (log 24). -/
def Obligations.PeerAccessesFollowTheirGrants : Prop :=
  ∀ (s : State) (x : PeerAccess) (w : BitVec 8) (w0 w1 w2 : Word),
    let m := mget ({} : Method) s.grants (grantKey x.peer.toNat x.win.toNat)
    let a := bitsOf m.w1.toNat 0 48 + x.off
    let tr := translateFull s 0 (bitsOf m.w2.toNat 0 20) a (if x.kind = .read then .read else .write)
    let granted := bitsOf m.w0.toNat 16 16 = x.gen.toNat ∧ x.off + x.size ≤ bitsOf m.w2.toNat 32 32 * 65536 ∧ accessShape x.size a = true
    (¬ granted ∨ tr = .notPresent ∨ tr = .permission ∨ tr = .shape → occurs (.peerInboundAccess x) s fun t => sameBytes s t ∧ t.g = s.g
        ∧ t.unacked = s.unacked ∧ t.homeData = none)
    ∧ (granted → tr = .migrating → occurs (.peerInboundAccess x) s (· = s))
    ∧ (∀ pa leaf, granted → tr = .ok pa leaf →
        let old := memNat s pa x.size
        let updated := fun (op : BitVec 4) (t : State) => t.homeData = some (w64 old)
          ∧ BitVec.ofNat (8 * x.size) (memNat t pa x.size) =
            amoResult (min 9 op.toNat) (BitVec.ofNat (8 * x.size) old) (BitVec.ofNat (8 * x.size) x.val.toNat) (BitVec.ofNat (8 * x.size) x.cmp.toNat)
        (healthy s → homeShape s pa x.size = true → occurs (.peerInboundAccess x) s fun t => t.g = s.g ∧ sameField s t ∧ memKept pa x.size s t
          ∧ (x.kind = .read → sameMem s t ∧ t.homeData = some (w64 old))
          ∧ (x.kind = .write → memNat t pa x.size = x.val.toNat % 2 ^ (8 * x.size))
          ∧ ∀ op, x.kind = .amo op → updated op t)
        ∧ (region pa ≠ 0 → occurs (.peerInboundAccess x) s fun t => t.g = s.g ∧ sameField s t ∧ memKept pa x.size s t
          ∧ (x.kind = .read → sameMem s t ∧ t.homeData = some (w64 old) ∧ t.unacked = s.unacked)
          ∧ (x.kind = .write → sameMem s t ∧ ∃ u, t.unacked = s.unacked ++ [u] ∧ u.pa = pa ∧ u.bytes.length = x.size
              ∧ leNat u.bytes = x.val.toNat % 2 ^ (8 * x.size) ∧ u.gen = sendGen s pa ∧ u.add = false)
          ∧ ∀ op, x.kind = .amo op → if region pa = 1 then updated op t else sameMem s t ∧ t.homeData = none))
    ∧ occurs (.peerWindowRemap w w0 w1 w2) s fun t =>
        let old := mget ({} : Method) s.peerWindows w.toNat
        let new := mget ({} : Method) t.peerWindows w.toNat
        bitsOf new.w0.toNat 16 16 = (bitsOf old.w0.toNat 16 16 + 1) % 2 ^ 16 ∧ bitsOf new.w0.toNat 0 2 = bitsOf w0.toNat 0 2
          ∧ bitsOf new.w0.toNat 32 32 = bitsOf w0.toNat 32 32 ∧ bitsOf new.w1.toNat 0 48 = bitsOf w1.toNat 0 48
          ∧ bitsOf new.w2.toNat 0 20 = bitsOf w2.toNat 0 20 ∧ bitsOf new.w2.toNat 32 32 = bitsOf w2.toNat 32 32
          ∧ (∀ j, j ≠ w.toNat → mget ({} : Method) t.peerWindows j = mget ({} : Method) s.peerWindows j)
          ∧ (∀ y, (region y = 1 → peerWindow y ≠ w.toNat) → memByte t y = memByte s y) ∧ t.peerMem = s.peerMem ∧ t.g = s.g

/-- R361 to R363 and R365: a shoot-down drops every matching entry of every hub at once and completes when no access uses one; a walk
register's prefetch only adds fills to its own hub; a teardown leaves no gang, no queue fetcher, no page tables and no translation of its
PASID, unless the command core is held in reset (R433). That the PASID has no page tables afterwards, and that its gangs stay retired with their
clusters cleared, is the model's choice (assumption log 53), as is the one generation of the hubs (log 5). -/
def Obligations.ShootDownsPrefetchesAndTeardowns : Prop :=
  ∀ (s : State) (pasid lo hi : Nat) (w : BitVec 4),
    let clean := fun (lo hi : Nat) (t : State) => ∀ p ∈ t.hubs, ∀ f ∈ p.2, f.pasid = pasid → f.va < hi → ¬ lo < f.va + f.size
    (occurs (.shootDown pasid lo hi) s fun t => clean lo hi t ∧ t.generation = s.generation + 1 ∧ t.shootDowns = s.shootDowns ++ [(pasid, lo, hi)]
      ∧ (∀ p ∈ s.hubs, ∀ f ∈ p.2, f.meets pasid lo hi = false → ∃ q ∈ t.hubs, q.1 = p.1 ∧ f ∈ q.2) ∧ t.g = s.g ∧ sameMem s t)
    ∧ (∀ r, s.shootDowns = (pasid, lo, hi) :: r →
        (writesInFlight s pasid lo hi = false → occurs .shootDownComplete s fun t => t = retryPorts { s with shootDowns := r })
        ∧ (writesInFlight s pasid lo hi = true → occurs .shootDownComplete s (· = s)))
    ∧ (occurs (.walkPrefetch w) s fun t => (∀ d, d ≠ s.g.lead → mget [] t.hubs d = mget [] s.hubs d)
        ∧ (∀ f ∈ mget [] s.hubs s.g.lead, f ∈ mget [] t.hubs s.g.lead)
        ∧ (sound s = true → ∀ f ∈ mget [] t.hubs s.g.lead, f ∈ mget [] s.hubs s.g.lead ∨ ∃ va, walkFill s s.g.pasid va = some f)
        ∧ t.g = s.g ∧ sameMem s t)
    ∧ (s.frozen = true → occurs (.pasidTeardown pasid) s (· = s))
    ∧ (s.others = [] → s.frozen = false → occurs (.pasidTeardown pasid) s fun t => clean 0 (2 ^ 48) t
        ∧ ((s.g.pasid = pasid → ∀ p ∈ s.g.channels, p.2.queue = []) → sameMem s t) ∧ mfind t.roots pasid = none
        ∧ (∀ j, j ≠ pasid → mfind t.roots j = mfind s.roots j)
        ∧ (∀ p ∈ t.queues, p.2.qpasid = pasid → p.2.en = false)
        ∧ (s.g.pasid = pasid → s.g.alive = true → t.g.phase = .retired ∧ t.g.clusters = [] ∧ ∀ c ∈ s.g.clusters, clusterClear c t)
        ∧ (s.g.pasid ≠ pasid → t.g = s.g ∧ sameField s t))

/-- R360, R366, R367, R373, R381, R399, R412 and R433: a page that may move takes its bytes, and the tags of its frames, to its new home and its leaf is
rewritten, with MV counted, but not where the move clears the page from where the 10+1 layout holds no data; one that may not stays as it
is, and so does every page while the command core is held in reset. An RMA write of the host stores its bytes in the page that maps them, and nothing where none may be written. That a migration is one
step is the model's reading (assumption log 39); RMA through the hub of die 0, and a refused piece being dropped, are its choice (log 26). -/
def Obligations.PageMovesAndHostWrites : Prop :=
  ∀ (s : State) (pasid va pa a : Nat) (bytes : List Byte),
    ((s.frozen = true ∨ leafAddress s pasid va = none ∨ ∃ at_ leaf size, leafAddress s pasid va = some (at_, leaf, size) ∧ migratable s pasid va pa leaf size = false) →
      occurs (.pageMigration pasid va pa) s (· = s))
    ∧ (∀ at_ leaf size, s.frozen = false → leafAddress s pasid va = some (at_, leaf, size) → migratable s pasid va pa leaf size = true → s.memoriesOk →
        (∀ j < 8, ∀ k < size, sameCell s (at_ + j) (pa + k) = false) →
        (∀ p ∈ [pa, entryPa leaf], region p = 1 → peerCell s p % 2 ^ 48 + size ≤ 2 ^ 48) →
        let old := mget ({} : Hot) s.hotness (hotKey s 0 pasid va)
        occurs (.pageMigration pasid va pa) s fun t => (∀ j < size, memByte t (pa + j) = memByte s (entryPa leaf + j))
          ∧ memNat t at_ 8 = (setBits (w64 leaf) 12 40 (pa / 4096)).toNat
          ∧ (∀ y, (∀ k < size, sameCell s y (pa + k) = false) → (∀ j < 8, sameCell s y (at_ + j) = false) → tagFrame s.parity y = none →
              memByte t y = memByte s y)
          ∧ mget ({} : Hot) t.hotness (hotKey s 0 pasid va) =
              (if clearsForContraction s (entryPa leaf) pa size = true then old else { old with mv := min 3 (old.mv + 1), pin := decide (2 ≤ old.mv) })
          ∧ t.generation = s.generation + 1 ∧ t.g = (if s.g.pasid = pasid then s.g.movePage (entryPa leaf) pa size else s.g) ∧ sameField s t)
    ∧ (∀ at_ leaf, bytes ≠ [] → a % 65536 + bytes.length ≤ 65536 → translateFull s 0 pasid a .write = .ok at_ leaf →
        (region at_ = 0 → healthy s) → occurs (.hostRmaWrite pasid a bytes) s fun t => (∀ j < bytes.length, memByte t (at_ + j) = bytes.getD j 0)
          ∧ memKept at_ bytes.length s t ∧ t.g = s.g ∧ sameField s t)
    ∧ (bytes ≠ [] → a % 65536 + bytes.length ≤ 65536 → (∀ at_ leaf, translateFull s 0 pasid a .write ≠ .ok at_ leaf) →
        occurs (.hostRmaWrite pasid a bytes) s fun t => sameBytes s t ∧ t.g = s.g)

/-- R216, R422, R425, R426, R431 and R433 to R436: what the host and the watchdog ask of the command core: a TAIL that is admitted makes its
queue pending, one that runs too far stops it with ERR 6; cleared error bits let a queue go on; a watch is heard by a queue that waits,
unless the command core is held in reset; a late heartbeat freezes scheduling, leaves the mailbox and is reported, and a release ends the
freeze; a reservation that has waited asks every lower gang in it to halt, and one that stands stopped for svk halts at once (the model's
choice: assumption log 77). -/
def Obligations.QueuesAndHangRecovery : Prop :=
  ∀ (s : State) (q die gang : Nat) (tail : BitVec 16) (m : BitVec 4),
    let x := queueOf s q
    let diff := (tail.toNat + 2 ^ 16 - x.head) % 2 ^ 16
    let others := fun (t : State) => (∀ j, j ≠ q → queueOf t j = queueOf s j) ∧ t.g = s.g ∧ sameBytes s t
    (q < 8192 → diff ≤ 2 ^ x.lgn → occurs (.queueTailWrite q tail) s fun t =>
        queueOf t q = { x with tail := tail.toNat, pending := diff != 0
                               st := if x.st = 3 then 3 else if diff = 0 then 0 else if x.st = 2 then 2 else 1 }
        ∧ others t ∧ Instr.schedulingPass ∈ t.agenda)
    ∧ (q < 8192 → 2 ^ x.lgn < diff → occurs (.queueTailWrite q tail) s fun t =>
        queueOf t q = { x with tail := tail.toNat, st := 3, err := 6, errix := x.head } ∧ others t ∧ ∃ f ∈ t.eventFrames, f.type = 1)
    ∧ (q < 8192 → occurs (.queueErrorClear q m) s fun t => (queueOf t q).err = Nat.land x.err (15 - m.toNat) ∧ (queueOf t q).head = x.head
        ∧ (queueOf t q).st = (if x.st = 3 ∧ Nat.land x.err (15 - m.toNat) = 0 then b2n x.pending else x.st) ∧ others t
        ∧ Instr.schedulingPass ∈ t.agenda)
    ∧ (x.st = 2 → s.frozen = false → occurs (.queueWatchFire q) s (· = requestPass (evalQueue s q).1))
    ∧ (x.st ≠ 2 ∨ s.frozen = true → occurs (.queueWatchFire q) s (· = s))
    ∧ (s.g.id = gang → occurs (.eventPost gang) s (· = { s with g := { s.g with ev := true } }))
    ∧ (s.frozen = false → occurs .heartbeatTimeout s fun t => t.frozen = true ∧ t.mailbox = some (mailboxOf s) ∧ t.g = s.g ∧ t.others = s.others
        ∧ sameBytes s t ∧ ∃ f ∈ t.eventFrames, f.type = 5)
    ∧ (s.frozen = true → occurs .schedulingPass s fun t => t = { s with agenda := t.agenda }
        ∧ (∀ i ∈ s.agenda, i ∈ t.agenda) ∧ ∀ i ∈ t.agenda, i ∈ s.agenda ∨ ∃ p, i = .directLaunch p)
    ∧ (occurs .commandCoreRelease s fun t => t.frozen = false ∧ t.g = s.g ∧ t.others = s.others ∧ sameBytes s t ∧ Instr.schedulingPass ∈ t.agenda)
    ∧ ∀ v, mfind s.reservations die = some v →
        (v.timedOut = true ∨ s.frozen = true ∨ 256 ≤ (resumeList s).length → occurs (.reservationTimeout die) s (· = s))
        ∧ (v.timedOut = false → s.frozen = false → (resumeList s).length < 256 →
          let lower := s.g.launch.prio < v.prio ∧ ∃ c ∈ s.g.clusters, c ∈ v.clusters
          occurs (.reservationTimeout die) s fun t =>
            ((∀ h ∈ s.g :: s.others, h.phase ≠ .svkStop) → sameBytes s t ∧ (s.g.phase = .running ∨ s.g.phase = .loading → lower → t.g.preempt = true))
            ∧ (s.others = [] → s.g.phase = .svkStop → lower → t.g.phase = .halted ∧ t.g.svkHeld = true ∧ t.g.pc = s.g.pc)
            ∧ (∀ p ∈ t.reservations, p.2.queue = v.queue → p.2.timedOut = true))

/-- R26, R34 to R36, R44, R45, R424, R427, R430 and R435: a scheduling pass counts a heartbeat (the model's choice: assumption log 6). A ready queue whose record can be placed
launches it: each member is created with its entry state, its span and the record's argument, and HEAD advances. A halted gang that has
kept its span resumes where it stopped, one that svk holds still stopped (log 77). GANG_START lets a gang that is loaded run. A direct launch reports what stands against it, or
creates its gangs, only while scheduling is frozen or for a start that its port still holds. Status 0x12 for a placement that is taken,
and 1 for a start that is held, are the model's choice (assumption log 35). -/
def Obligations.GangsAreLaunchedAndStarted : Prop :=
  ∀ (s : State) (p : BitVec 2),
    let x := mget ({} : DirectPort) s.directPorts p.toNat
    let r := recordOf x.record
    let status := fun (t : State) => (mget ({} : DirectPort) t.directPorts p.toNat).status
    let entered := fun (h : Gang) (r : Record) (im : Image) (queue : Nat) => h.phase = .loading ∧ h.pc = r.entry ∧ h.reg 2 = 0x8000000000010000
      ∧ h.reg 3 = r.arg ∧ h.reg 4 = w64 queue ∧ (∀ n, n ≠ 2 → n ≠ 3 → n ≠ 4 → h.reg n = 0) ∧ h.pl = false ∧ h.gtvec = im.handler ∧ h.pasid = r.pasid
    (s.g.phase = .loading → occurs (.gangStart s.g.id) s (· = { s with g := { s.g with phase := .running } }))
    ∧ (s.g.phase ≠ .loading → occurs (.gangStart s.g.id) s (· = s))
    ∧ (s.frozen = false → s.queues = [] → s.reservations = [] → resumeList s = [] →
        occurs .schedulingPass s (· = { s with heartbeats := s.heartbeats + 1 }))
    ∧ (s.frozen = false → resumeList s = [] → occurs .schedulingPass s fun t => t.heartbeats = s.heartbeats + 1 ∧ sameMem s t
        ∧ (s.g.phase ≠ .none → t.g = s.g) ∧ ∀ h ∈ s.others, h ∈ t.others)
    ∧ (∀ q y u rd ps, s.frozen = false → s.queues = [(q, y)] → s.reservations = [] → resumeList s = [] →
        evalQueue { s with heartbeats := s.heartbeats + 1 } q = (u, some rd) →
        placeMembers u (some q) rd.record.sz rd.record.members = some ps →
        occurs .schedulingPass s fun t => (queueOf t q).head = (y.head + 1) % 2 ^ 16 ∧ (queueOf t q).age = 0
          ∧ (queueOf t q).pending = ((y.head + 1) % 2 ^ 16 != y.tail) ∧ mget 0 t.startPtr rd.record.prio = q + 1
          ∧ ps.length = rd.record.members ∧ t.nextGang = s.nextGang + ps.length
          ∧ ∀ i pl, ps[i]? = some pl → ∃ h, (h = t.g ∨ h ∈ t.others) ∧ h.id = s.nextGang + i ∧ entered h rd.record rd.img q
              ∧ h.cohIx = i ∧ h.cohN = rd.record.members ∧ h.launch.index = y.head ∧ h.clusters = pl.clusters
              ∧ Instr.gangStart h.id ∈ t.agenda)
    ∧ (s.frozen = false → s.queues = [] → s.reservations = [] → s.others = [] → s.lockstep = false →
        s.g.phase = .halted → s.g.clusters ≠ [] → s.g.savedCause = none → s.g.launch.prio < 8 →
        occurs .schedulingPass s fun t => t.g.phase = (if s.g.svkHeld = true then .svkStop else .running) ∧ t.g.pc = s.g.pc ∧ sameRegsBut [] s t ∧ t.g.clusters = s.g.clusters ∧ t.g.perf = []
          ∧ t.g.bq.map Entry.instr = s.g.bq.map Entry.instr ++ s.g.haltFrame.map Entry.instr ∧ sameBytes s t)
    ∧ (s.frozen = false → status s ≠ 1 → occurs (.directLaunch p) s (· = s))
    ∧ (s.frozen = true ∨ status s = 1 →
        (recordErr s r none ≠ 0 → occurs (.directLaunch p) s fun t => status t = w64 (0x10 + recordErr s r none) ∧ t.g = s.g
          ∧ t.others = s.others ∧ sameBytes s t)
        ∧ (∀ u, recordErr s r none = 0 → readImage s r.pasid r.image.toNat r.sz = (u, .failed) →
          occurs (.directLaunch p) s fun t => status t = 0x14 ∧ t.g = s.g ∧ t.others = s.others ∧ sameBytes s t)
        ∧ (∀ u, recordErr s r none = 0 → readImage s r.pasid r.image.toNat r.sz = (u, .held) →
          occurs (.directLaunch p) s fun t => status t = 1 ∧ t.g = s.g ∧ t.others = s.others ∧ sameBytes s t)
        ∧ (∀ u im ps, recordErr s r none = 0 → readImage s r.pasid r.image.toNat r.sz = (u, .got im) →
          (directPlaces u r x.placement.toNat = none → occurs (.directLaunch p) s fun t => status t = 0x12 ∧ t.g = s.g ∧ t.others = s.others)
          ∧ (directPlaces u r x.placement.toNat = some ps → r.members = 1 → s.g.phase = .none →
              occurs (.directLaunch p) s fun t => status t = 2 ∧ entered t.g r im (8192 + p.toNat)
                ∧ Instr.gangStart t.g.id ∈ t.agenda ∧ sameMem s t)))

/-- R24, R375, R378, R379, R389, R411, R413, R421, R435, R447 and R448: ports, connections, device registers and clock steps: each write stores
what the register's layout admits, a stack whose ERRC has reached the limit is declared lost next, and a step of the clock changes nothing
a program sees. -/
def Obligations.DeviceRegistersPortsAndClock : Prop :=
  ∀ (s : State) (p k : Nat) (mode : DeliveryMode) (v : Word),
    let outside := fun (t : State) => t.g = s.g ∧ t.others = s.others ∧ sameBytes s t
    (p < 12 → occurs (.portDown p) s fun t => p ∈ t.portsDown ∧ (∀ q ∈ s.portsDown, q ∈ t.portsDown) ∧ outside t)
    ∧ (occurs (.portUp p) s fun t => t.portsDown = s.portsDown.erase p ∧ outside t)
    ∧ (occurs (.connectionSetup mode) s fun t => outside t
        ∧ t.connections = (if mode = .unreliable then s.connections else s.connections ++ [mode]))
    ∧ (occurs .powerLimitThrottle s fun t => t = { s with clockStep := t.clockStep } ∧ s.clockStep < t.clockStep)
    ∧ (occurs .clockRaise s fun t => t = { s with clockStep := t.clockStep } ∧ t.clockStep ≤ s.clockStep)
    ∧ (let limit := v.toNat / 2 ^ 16 % 2 ^ 16
       occurs (.registerWrite .parst v) s fun t => t = { s with parity := { s.parity with errlim := limit }, agenda := t.agenda }
        ∧ ∀ j < 12, (mget ({} : StackStat) s.hbmStat j).lost = false → limit ≠ 0 → limit ≤ (mget ({} : StackStat) s.hbmStat j).errc →
            Instr.stackLost j 2 ∈ t.agenda)
    ∧ (let st := { mget ({} : StackStat) s.hbmStat k with errc := v.toNat / 2 ^ 8 % 2 ^ 16 }
       k < 12 → occurs (.registerWrite (.stkstat k) v) s fun t => outside t ∧ mget ({} : StackStat) t.hbmStat k = st
        ∧ (st.lost = false → s.parity.errlim ≠ 0 → s.parity.errlim ≤ st.errc → Instr.stackLost k 2 ∈ t.agenda))
    ∧ (k < 12 → occurs (.registerWrite (.pcpwr k) v) s fun t => outside t
        ∧ (pcpwrOf t k).toNat = v.toNat % 2 ^ 32 + (pcpwrOf s k).toNat / 2 ^ 32 * 2 ^ 32)
    ∧ (k < 8192 → occurs (.registerWrite (.queueWord k 0) v) s fun t => outside t
        ∧ queueOf t k = { queueOf s k with
            en := v.toNat % 2 == 1 && decide (4 ≤ v.toNat / 2 % 16) && decide (v.toNat / 2 % 16 ≤ 13)
            lgn := v.toNat / 2 % 16, base := v.toNat / 2 ^ 12 % 2 ^ 36 * 4096 })
    ∧ (∀ (q : BitVec 2) (w : BitVec 3), occurs (.registerWrite (.portRecord q w) v) s fun t => outside t
        ∧ mget ({} : DirectPort) t.directPorts q.toNat =
            { mget ({} : DirectPort) s.directPorts q.toNat with record := (mget ({} : DirectPort) s.directPorts q.toNat).record.set w.toNat v })
    ∧ (∀ pasid page, occurs (.registerWrite (.hotnessClear pasid page) v) s fun t => outside t
        ∧ mget ({} : Hot) t.hotness (pasid * 2 ^ 32 + page) = {})

/-- R375, R437 to R440 and R447: each cause of a failed start with its reason, a start that succeeds, minimal mode after three failures,
the time limit, and the loss of power. Which of several causes is reported, and that local HBM reads 0 after a loss of power, are the
model's (assumption logs 37 and 3); which reason an image cut by a loss of power gives is a free value (log 2). -/
def Obligations.StartsSucceedFailOrEnterMinimalMode : Prop :=
  ∀ (s : State) (x : StartInputs),
    let failed := fun (why : Nat) (t : State) =>
      t.power = .failed ∧ t.boot.fails = s.boot.fails + 1 ∧ t.boot.reason = why ∧ t.boot.keyHeld = false
    let lost := (List.range 12).filter fun k => x.untrained.contains k
    (3 ≤ s.boot.fails → ∃ t, exec (.powerOnReset x) s = .next t ∧ t.power = .minimal ∧ t.boot.fails = s.boot.fails ∧ t.boot.flash = s.boot.flash
      ∧ ∀ p, p < 12 → (p ∈ t.portsDown ↔ p ≠ 0))
    ∧ (s.boot.fails < 3 → ∃ t, exec (.powerOnReset x) s = .next t ∧
        if x.flashRead = false then failed 2 t
        else match s.boot.flash with
        | none => failed 1 t ∨ failed 2 t
        | some img =>
          if Config.imageReadable img = false then failed 2 t
          else if Config.signatureValid img = false then failed 1 t
          else if x.selfTest = false then failed 6 t
          else if 2 ≤ lost.length then failed 5 t
          else if x.firmwareFault = true then failed 4 t
          else t.boot.measurement = sha512 img ∧ t.boot.version = Config.imageVersion img ∧ t.boot.keyHeld = true
            ∧ (lost = [] → t.parity.state = 0 ∧ t.hbmStat = [])
            ∧ (∀ k, lost = [k] → t.parity.state = 1 ∧ t.parity.lost = k ∧ mget ({} : StackStat) t.hbmStat k = { lost := true, why := 1 })
            ∧ if x.inTime = false then t.power = .starting
              else t.power = .ready ∧ t.boot.fails = 0 ∧ t.field = [] ∧ t.ftags = [] ∧ t.hbmTags = [])
    ∧ (s.power = .starting → ∃ t, exec .startTimeout s = .next t ∧ failed 3 t)
    ∧ (s.power ≠ .starting → exec .startTimeout s = .next s)
    ∧ ∀ mid, ∃ t, exec (.powerInputRemoved mid) s = .next t ∧ t.power = .off ∧ t.g = {} ∧ t.others = [] ∧ t.field = []
        ∧ t.boot.flash = (if mid = true then none else s.boot.flash) ∧ t.boot.fails = s.boot.fails
        ∧ t.peerMem = s.peerMem ∧ ∀ y, rdByte t.mem y = if region y = 0 then 0 else rdByte s.mem y

/-- R440 to R443: a recovery image replaces the flash only if it passes the check, clears the count and restarts the package; a hand-over
keeps the outgoing firmware's measurement until it releases the key; a report is the 640 bytes of R442 with their signature. That a push is
heard in minimal mode only, and that the restart after it passes every test, is the model's reading (assumption log 38). -/
def Obligations.RecoveryHandoverAndAttestation : Prop :=
  ∀ (s : State) (img nonce : List Byte),
    let field := fun (n : Nat) (bs : List Byte) => (bs ++ List.replicate n (0 : Byte)).take n
    (s.power = .minimal → exec (.recoveryImagePush img) s = .next
      (if Config.imageReadable img = false then { s with boot := { s.boot with answer := some 2 } }
       else if Config.signatureValid img = false then { s with boot := { s.boot with answer := some 1 } }
       else { s with boot := { s.boot with flash := some img, fails := 0, answer := some 0 }, agenda := .powerOnReset cleanStart :: s.agenda }))
    ∧ (s.power ≠ .minimal → exec (.recoveryImagePush img) s = .next s)
    ∧ (s.boot.pendingImage = none → occurs (.firmwareHandover (.offer img)) s fun t => t = { s with
        boot := if Config.imageReadable img = true ∧ Config.signatureValid img = true then { s.boot with flash := some img, pendingImage := some img } else s.boot })
    ∧ (s.boot.pendingImage = some img → occurs (.firmwareHandover .release) s fun t => t = { s with
        boot := { s.boot with pendingImage := none, measurement := sha512 img, version := Config.imageVersion img } })
    ∧ (s.boot.keyHeld = true → occurs (.attestationRequest nonce) s fun t => ∃ body,
        t = { s with boot := { s.boot with reports := s.boot.reports ++ [body ++ field 512 (Config.signReport (sha512 body))] } }
          ∧ body.length = 640 ∧ body.take 64 = field 64 nonce ∧ (body.drop 64).take 64 = field 64 Config.deviceId
          ∧ leNat ((body.drop 128).take 8) = s.boot.version.toNat ∧ (body.drop 136).take 64 = field 64 s.boot.measurement
          ∧ leNat ((body.drop 200).take 8) = (if s.boot.pendingImage.isSome = true then 1 else 0)
          ∧ (body.drop 208).take 64 = (match s.boot.pendingImage with | some im => field 64 (sha512 im) | none => List.replicate 64 0)
          ∧ leNat ((body.drop 272).take 8) = s.parity.word.toNat ∧ ∀ j, 280 ≤ j → j < 640 → body.getD j 1 = 0)
    ∧ (s.boot.keyHeld = false → occurs (.attestationRequest nonce) s (· = s))

/-- R139 and R142 to R160: the decoder reads every encoding back, whatever follows it: no bit of any field of any of the 168 encoded
instructions is dropped or moved. -/
def Obligations.DecodeReadsEveryEncoding : Prop :=
  ∀ (i : Instr) (rest : List Byte), i.isEvent = false → decode (encode i ++ rest) = .ok (i, i.bytes)

/-- R139 and R142 to R160, the other direction: what decodes is an instruction with an encoding, and its encoding is the bytes that were
decoded: no bit of an encoding is ignored. -/
def Obligations.DecodedBytesAreTheEncoding : Prop :=
  ∀ (bs : List Byte) (i : Instr) (n : Nat), decode bs = .ok (i, n) → i.isEvent = false ∧ n = i.bytes ∧ n ≤ bs.length ∧ encode i = bs.take n

/-- Words that the spec writes out, or that follow bit by bit from its encoding tables, decode to the instructions that it says they are
(R142 to R160, R175, R189, R195, R200); a word with a bit set that R172 wants zero, and one of a function that R145 reserves, decode to none. -/
def Obligations.WordsOfTheSpecDecode : Prop :=
  decodeTableWord 32 0x00100281 = some (.lih 5 0x00100)
  ∧ decodeTableWord 32 0xFFC06EE4 = some (.bne 0x1D 6 0 0x3FF)
  ∧ decodeTableWord 32 0x00200386 = some (.crd 7 0x010)
  ∧ decodeTableWord 32 0x20229006 = some (.cwr 0 9 0x011)
  ∧ decodeTableWord 32 0x04005302 = some (.setec 6 5)
  ∧ decodeTableWord 32 0x08000402 = some (.rqpop 8)
  ∧ decodeTableWord 32 0x0C4D3002 = some (.fenceb 19 6)
  ∧ decodeTableWord 32 0xFC400002 = some .eret
  ∧ decodeTableWord 32 0xFC800002 = some .brk
  ∧ decodeTableWord 32 0xFD400002 = some .halt
  ∧ decodeTableWord 32 0x0E020000 = none
  ∧ decodeTableWord 32 0x01800000 = none

/-- R48, R139 to R141, R221 and R361: a step of a gang at a boundary with nothing pending runs the instruction that the bytes at its PC decode
to, with the PC still at it and the hub holding what the fetch translated; bytes that decode to none take cause 1 with their value in
GEVAL, and a page that may not be fetched from takes cause 8. (That the gang keeps its turn until it has committed is the model's choice:
assumption log 64.) -/
def Obligations.StepRunsTheDecodedInstruction : Prop :=
  ∀ (s : State), s.agenda = [] → s.power = .ready → s.g.phase = .running → s.g.cohN = 1 → s.g.preempt = false → turnOver s = false →
      s.g.pendingReady = false →
    let at_ := fun (s : State) (a : Word) => translateFull s s.g.lead s.g.pasid a.toNat .fetch
    let u := useG s s.g.pc.toNat
    let v := useG u (s.g.pc + 4).toNat
    (∀ t n i, fetchWord s = (t, .word n) → decodeFetched n = .ok i → step s = exec i t)
    ∧ (healthy s → s.channelPower = [] →
        (∀ pa leaf i, at_ s s.g.pc = .ok pa leaf → decode (memBytes s pa 4) = .ok (i, 4) → step s = exec i u)
        ∧ (∀ pa leaf pb leaf', ∀ i, at_ s s.g.pc = .ok pa leaf → at_ u (s.g.pc + 4) = .ok pb leaf' →
            decode (memBytes s pa 4 ++ memBytes s pb 4) = .ok (i, 8) → step s = exec i v)
        ∧ (∀ pa leaf, at_ s s.g.pc = .ok pa leaf → memNat s pa 4 % 4 ≠ 3 → (∀ i, decode (memBytes s pa 4) ≠ .ok (i, 4)) → trapsNow s →
            step s = .next (afterTrap 1 (w64 (memNat s pa 4)) 0 s.g.pc u)))
    ∧ (at_ s s.g.pc = .permission → trapsNow s → step s = .next (afterTrap 8 s.g.pc 3 s.g.pc u))

/-- R437 and R447 (the reset values that the spec does not state are the model's: assumption log 1): after reset no instruction runs before
the start sequence, which is the very next step; no gang and no queue exists, and the memories are canonical. -/
def Obligations.ResetAwaitsTheStartSequence : Prop :=
  State.reset.memoriesOk ∧ step State.reset = exec (.powerOnReset cleanStart) { State.reset with agenda := [] }
    ∧ State.reset.power = .off ∧ State.reset.g.phase = .none ∧ State.reset.others = [] ∧ State.reset.queues = [] ∧ State.reset.mem = []
    ∧ (∀ a, rdByte State.reset.mem a = 0 ∧ rdByte State.reset.field a = 0 ∧ tagOfKey State.reset a = rawTag)
    ∧ ∀ r, State.reset.reg r = 0

/-- No step of the machine takes its memories out of their canonical form: a byte of HBM, of the host's or a peer's memory, or of the field is listed at most once and
never where it is zero, so that equal memories are equal data. -/
def Obligations.StepsKeepTheMemoriesCanonical : Prop :=
  ∀ (s t : State), s.memoriesOk → step s = .next t → t.memoriesOk

/-- R437 and R447: the only stop of the machine is a package without power and without an input; no instruction and no event is refused. -/
def Obligations.OnlyAPackageWithoutPowerStops : Prop :=
  (∀ (s : State), step s = .fault .poweredOff ↔ s.power = .off ∧ s.agenda = [])
  ∧ (∀ (s : State) (r : Refusal), step s ≠ .refused r)
  ∧ ∀ (i : Instr) (s : State), ∃ t, exec i s = .next t
end

