-- ==== Sys2Proof/Laws/Memory.lean ====
section
/-! SUPPORT. Sparse maps and byte memories: a read after a write, and the canonical form, which every operation keeps. -/
namespace Sys2Proof.Machine

variable {α : Type}

/-- Reading what was just listed. -/
@[simp] theorem mget_mput_same (d : α) (m : Map α) (k : Nat) (v : α) : mget d (mput m k v) k = v := by
  induction m with
  | nil => simp [mput, mget]
  | cons p r ih =>
    obtain ⟨k', v'⟩ := p
    simp only [mput]
    split
    · simp [mget]
    · split
      · simp [mget]
      · rename_i h1 h2; simp [mget, h2, ih]

/-- Listing one key leaves what every other key reads. -/
theorem mget_mput_other (d : α) (m : Map α) (k j : Nat) (v : α) (h : j ≠ k) : mget d (mput m k v) j = mget d m j := by
  induction m with
  | nil => simp [mput, mget, Ne.symm h]
  | cons p r ih =>
    obtain ⟨k', v'⟩ := p
    simp only [mput]
    split
    · simp [mget, Ne.symm h]
    · split
      · rename_i h2; subst h2; simp [mget, Ne.symm h]
      · simp [mget, ih]

/-- A key that was dropped reads as the default. -/
@[simp] theorem mget_mdel_same (d : α) (m : Map α) (k : Nat) : mget d (mdel m k) k = d := by
  induction m with
  | nil => rfl
  | cons p r ih =>
    obtain ⟨k', v'⟩ := p
    by_cases h : k' = k
    · simpa [mdel, h] using ih
    · have hb : (k' != k) = true := by simpa using h
      simp only [mdel, List.filter, hb] at ih ⊢
      simpa [mget, h] using ih

/-- Dropping one key leaves what every other key reads. -/
theorem mget_mdel_other (d : α) (m : Map α) (k j : Nat) (h : j ≠ k) : mget d (mdel m k) j = mget d m j := by
  induction m with
  | nil => rfl
  | cons p r ih =>
    obtain ⟨k', v'⟩ := p
    by_cases hk : k' = k
    · subst hk; simpa [mdel, mget, Ne.symm h] using ih
    · have hb : (k' != k) = true := by simpa using hk
      simp only [mdel, List.filter, hb] at ih ⊢
      simp only [mget, ih]

/-- A read after a write to the same key gives the value written. -/
@[simp] theorem mget_mset_same [DecidableEq α] (d : α) (m : Map α) (k : Nat) (v : α) : mget d (mset d m k v) k = v := by
  unfold mset; split
  · rename_i h; subst h; simp
  · simp

/-- A write leaves what every other key reads. -/
theorem mget_mset_other [DecidableEq α] (d : α) (m : Map α) (k j : Nat) (v : α) (h : j ≠ k) : mget d (mset d m k v) j = mget d m j := by
  unfold mset; split
  · exact mget_mdel_other d m k j h
  · exact mget_mput_other d m k j v h

/-- What a write leaves at any key. -/
theorem mget_mset [DecidableEq α] (d : α) (m : Map α) (k j : Nat) (v : α) : mget d (mset d m k v) j = if j = k then v else mget d m j := by
  split
  · rename_i h; subst h; simp
  · rename_i h; exact mget_mset_other d m k j v h

/-- A stored byte reads back. -/
@[simp] theorem rdByte_wrByte_same (m : List Host.Cell) (a : Nat) (b : Byte) : rdByte (wrByte m a b) a = b := mget_mset_same ..

/-- What a stored byte leaves at any address. -/
theorem rdByte_wrByte (m : List Host.Cell) (a x : Nat) (b : Byte) : rdByte (wrByte m a b) x = if x = a then b else rdByte m x := mget_mset ..

/-- Stored bytes leave every address outside them. -/
theorem rdByte_wrBytes_outside (bs : List Byte) : ∀ (m : List Host.Cell) (a x : Nat), x < a ∨ a + bs.length ≤ x → rdByte (wrBytes m a bs) x = rdByte m x := by
  induction bs with
  | nil => intros; rfl
  | cons b r ih =>
    intro m a x h
    simp only [List.length_cons] at h
    have h1 : x < a + 1 ∨ a + 1 + r.length ≤ x := by omega
    simp only [wrBytes, ih _ _ _ h1, rdByte_wrByte]
    have hx : x ≠ a := by omega
    simp [hx]

/-- A stored byte of a run reads back. -/
theorem rdByte_wrBytes_inside (bs : List Byte) : ∀ (m : List Host.Cell) (a i : Nat) (h : i < bs.length), rdByte (wrBytes m a bs) (a + i) = bs[i] := by
  induction bs with
  | nil => intro m a i h; simp at h
  | cons b r ih =>
    intro m a i h
    cases i with
    | zero => simp [wrBytes, rdByte_wrBytes_outside]
    | succ j =>
      have h' : j < r.length := by simpa using h
      have := ih (wrByte m a b) (a + 1) j h'
      simpa [wrBytes, Nat.add_assoc, Nat.add_comm 1 j] using this

/-- A run of stored bytes reads back. -/
@[simp] theorem rdBytes_wrBytes (bs : List Byte) : ∀ (m : List Host.Cell) (a : Nat), rdBytes (wrBytes m a bs) a bs.length = bs := by
  induction bs with
  | nil => intros; rfl
  | cons b r ih =>
    intro m a
    simp [rdBytes, wrBytes, rdByte_wrBytes_outside, ih]

/-- The canonical form from a lower bound: weakening the bound. -/
theorem mapWfFrom_mono [DecidableEq α] (d : α) (m : Map α) (lo : Option Nat) (h : mapWfFrom d lo m = true) : mapWfFrom d none m = true := by
  cases m with
  | nil => rfl
  | cons p r => obtain ⟨k, v⟩ := p; simp only [mapWfFrom, Bool.and_eq_true] at h ⊢; exact ⟨⟨trivial, h.1.2⟩, h.2⟩

/-- Every key of a canonical map lies above its bound. -/
theorem mapWfFrom_bound [DecidableEq α] (d : α) (lo : Nat) : ∀ (m : Map α) (k : Nat), lo ≤ k → mapWfFrom d (some k) m = true → mapWfFrom d (some lo) m = true := by
  intro m k hk h
  cases m with
  | nil => rfl
  | cons p r =>
    obtain ⟨k', v'⟩ := p
    simp [mapWfFrom] at h ⊢
    exact ⟨⟨by omega, h.1.2⟩, h.2⟩

/-- Listing a value other than the default keeps the canonical form. -/
theorem mapWfFrom_mput [DecidableEq α] (d : α) (k : Nat) (v : α) (hv : v ≠ d) : ∀ (m : Map α) (lo : Option Nat),
    (match lo with | some l => l < k | none => True) → mapWfFrom d lo m = true → mapWfFrom d lo (mput m k v) = true := by
  intro m
  induction m with
  | nil => intro lo hlo _; cases lo <;> simp_all [mput, mapWfFrom]
  | cons p r ih =>
    obtain ⟨k', v'⟩ := p
    intro lo hlo h
    simp only [mput]
    split
    · rename_i hk
      cases lo <;> simp_all [mapWfFrom]
    · split
      · rename_i _ hk; subst hk
        cases lo <;> simp_all [mapWfFrom]
      · rename_i h1 h2
        have h3 : k' < k := by omega
        cases lo with
        | none =>
          simp only [mapWfFrom, Bool.and_eq_true] at h ⊢
          exact ⟨h.1, ih (some k') h3 h.2⟩
        | some l =>
          simp only [mapWfFrom, Bool.and_eq_true] at h ⊢
          exact ⟨h.1, ih (some k') h3 h.2⟩

/-- Dropping entries keeps the canonical form. -/
theorem mapWfFrom_filter [DecidableEq α] (d : α) (p : Nat × α → Bool) : ∀ (m : Map α) (lo : Option Nat), mapWfFrom d lo m = true → mapWfFrom d lo (m.filter p) = true := by
  intro m
  induction m with
  | nil => intros; rfl
  | cons q r ih =>
    obtain ⟨k, v⟩ := q
    intro lo h
    simp only [mapWfFrom, Bool.and_eq_true] at h
    have hr := ih (some k) h.2
    simp only [List.filter]
    split
    · simp only [mapWfFrom, Bool.and_eq_true]; exact ⟨h.1, hr⟩
    · cases lo with
      | none => exact mapWfFrom_mono d _ _ hr
      | some l => exact mapWfFrom_bound d l _ k (by have := h.1.1; simp at this; omega) hr

/-- A write keeps the canonical form of a map. -/
theorem mapWf_mset [DecidableEq α] (d : α) (m : Map α) (k : Nat) (v : α) (h : mapWf d m = true) : mapWf d (mset d m k v) = true := by
  unfold mset; split
  · exact mapWfFrom_filter d _ m none h
  · rename_i hv; exact mapWfFrom_mput d k v hv m none trivial h

/-- Clearing a range keeps the canonical form of a map. -/
theorem mapWf_mclear [DecidableEq α] (d : α) (m : Map α) (lo hi : Nat) (h : mapWf d m = true) : mapWf d (mclear m lo hi) = true :=
  mapWfFrom_filter d _ m none h

/-- Storing a byte keeps the canonical form of a memory. -/
theorem Memory.wf_wrByte (m : List Host.Cell) (a : Nat) (b : Byte) (h : Memory.wf m = true) : Memory.wf (wrByte m a b) = true := mapWf_mset _ _ _ _ h

/-- Storing bytes keeps the canonical form of a memory. -/
theorem Memory.wf_wrBytes (bs : List Byte) : ∀ (m : List Host.Cell) (a : Nat), Memory.wf m = true → Memory.wf (wrBytes m a bs) = true := by
  induction bs with
  | nil => intro m a h; exact h
  | cons b r ih => intro m a h; exact ih _ _ (Memory.wf_wrByte m a b h)

/-- Storing a little-endian value keeps the canonical form of a memory. -/
theorem Memory.wf_wrNat (m : List Host.Cell) (a n v : Nat) (h : Memory.wf m = true) : Memory.wf (wrNat m a n v) = true := Memory.wf_wrBytes _ _ _ h

/-- Clearing a range keeps the canonical form of a memory. -/
theorem Memory.wf_mclear (m : List Host.Cell) (lo hi : Nat) (h : Memory.wf m = true) : Memory.wf (mclear m lo hi) = true := mapWf_mclear _ _ _ _ h

/-- Dropping bytes keeps the canonical form of a memory. -/
theorem Memory.wf_filter (m : List Host.Cell) (p : Host.Cell → Bool) (h : Memory.wf m = true) : Memory.wf (m.filter p) = true := mapWfFrom_filter _ p m none h

/-- Storing the bytes of a list one by one keeps the canonical form of a memory. -/
theorem Memory.wf_foldl {β : Type} (key : β → Nat) (val : β → Byte) (l : List β) : ∀ (m : List Host.Cell), Memory.wf m = true →
    Memory.wf (l.foldl (fun m x => wrByte m (key x) (val x)) m) = true := by
  induction l with
  | nil => intro m h; exact h
  | cons x r ih => intro m h; exact ih _ (Memory.wf_wrByte m _ _ h)

/-- After reset the memories are in canonical form. -/
theorem reset_memories_wf : Memory.wf State.reset.mem = true ∧ Memory.wf State.reset.field = true := ⟨rfl, rfl⟩

/-- A canonical map is determined by what it reads as. -/
theorem mget_of_lt [DecidableEq α] (d : α) : ∀ (m : Map α) (k j : Nat), mapWfFrom d (some k) m = true → j ≤ k → mget d m j = d := by
  intro m
  induction m with
  | nil => intros; rfl
  | cons p r ih =>
    obtain ⟨k', v'⟩ := p
    intro k j h hj
    simp [mapWfFrom] at h
    have : k' ≠ j := by omega
    simp only [mget, this, if_false]
    exact ih k' j h.2 (by omega)

/-- Two memories in canonical form that read the same at every address are the same list. -/
theorem Memory.eq_of_reads : ∀ (m n : List Host.Cell) (lo : Option Nat), mapWfFrom blank lo m = true → mapWfFrom blank lo n = true →
    (∀ a, rdByte m a = rdByte n a) → m = n := by
  intro m
  induction m with
  | nil =>
    intro n lo _ hn h
    cases n with
    | nil => rfl
    | cons q r =>
      obtain ⟨k, v⟩ := q
      have hk := h k
      simp [mapWfFrom] at hn
      simp [rdByte, mget] at hk
      exact absurd hk.symm hn.1.2
  | cons p r ih =>
    obtain ⟨k, v⟩ := p
    intro n lo hm hn h
    cases n with
    | nil =>
      have hk := h k
      simp [mapWfFrom] at hm
      simp [rdByte, mget] at hk
      exact absurd hk hm.1.2
    | cons q t =>
      obtain ⟨k', v'⟩ := q
      simp [mapWfFrom] at hm hn
      have hkk : k = k' := by
        rcases Nat.lt_trichotomy k k' with hlt | heq | hgt
        · have hk := h k
          have hne : k' ≠ k := by omega
          simp only [rdByte, mget, if_true, hne, if_false] at hk
          rw [mget_of_lt blank t k' k hn.2 (by omega)] at hk
          exact absurd hk hm.1.2
        · exact heq
        · have hk := h k'
          have hne : k ≠ k' := by omega
          simp only [rdByte, mget, if_true, hne, if_false] at hk
          rw [mget_of_lt blank r k k' hm.2 (by omega)] at hk
          exact absurd hk.symm hn.1.2
      subst hkk
      have hv : v = v' := by have := h k; simpa [rdByte, mget] using this
      subst hv
      congr 1
      refine ih t (some k) hm.2 hn.2 fun a => ?_
      by_cases ha : k = a
      · subst ha
        show mget blank r k = mget blank t k
        rw [mget_of_lt blank r k k hm.2 (by omega), mget_of_lt blank t k k hn.2 (by omega)]
      · have := h a; simpa [rdByte, mget, ha] using this

end Sys2Proof.Machine
end

