-- ==== Sys2Proof/Laws/Bank.lean ====
section
/-! SUPPORT. What the shared operations of the banks leave alone, and what a unit's writes make of a byte. -/
namespace Sys2Proof.Machine

/-- Buffers that move on change the places of pulls and tokens alone. -/
theorem flow_only (s : State) : ∃ ps ts, flow s = { s with g := { s.g with pulls := ps, tokens := ts } } := by
  have key : ∀ (l : List Nat) (s : State), ∃ ps ts, l.foldl (fun (s : State) (_ : Nat) =>
      { s with g := { s.g with pulls := flowPulls s.g [] s.g.pulls, tokens := flowTokens s.g [] s.g.tokens } }) s
        = { s with g := { s.g with pulls := ps, tokens := ts } } := by
    intro l
    induction l with
    | nil => exact fun s => ⟨_, _, rfl⟩
    | cons _ l ih => exact fun s => (ih _).imp fun _ h => h.imp fun _ h => h
  exact key _ s

/-- A byte's masked write changes the field SRAM and its error marks alone. -/
theorem applyWrite_only (s : State) (w : Wr) : applyWrite s w = { s with field := (applyWrite s w).field, fieldBad := (applyWrite s w).fieldBad } := by
  unfold applyWrite freshWord
  split
  · rfl
  · dsimp only; split <;> rfl

/-- A write at a byte whose word carries no error changes that byte, in the bits of its mask, and no other. -/
theorem applyWrite_byte (s : State) (w : Wr) (k : Nat) (h : fieldAt s w.addr true = .ok k) (hb : k / 8 ∉ s.fieldBad) (x : Nat) :
    rdByte (applyWrite s w).field x = if x = k then BitVec.ofNat 8 ((rdByte s.field k).toNat - Nat.land (rdByte s.field k).toNat w.mask + w.val)
      else rdByte s.field x := by
  have hc : s.fieldBad.contains (k / 8) = false := by simpa using hb
  simp only [applyWrite, h, freshWord, hc]
  exact rdByte_wrByte ..

/-- A write at an address without an owner changes nothing. -/
theorem applyWrite_none (s : State) (w : Wr) (r : NoOwner) (h : fieldAt s w.addr true = .error r) : applyWrite s w = s := by
  simp only [applyWrite, h]

/-- A tag's write changes the tags of the field and their error marks alone. -/
theorem applyTag_only (s : State) (p : Nat × Word) : applyTag s p = { s with ftags := (applyTag s p).ftags, ftagBad := (applyTag s p).ftagBad } := by
  unfold applyTag; split <;> rfl

/-- Tag upkeep changes the tags of the field and their error marks alone. -/
theorem upkeepFrame_only (e : Entry) (s : State) (f : Nat) :
    upkeepFrame e s f = { s with ftags := (upkeepFrame e s f).ftags, ftagBad := (upkeepFrame e s f).ftagBad } := by
  unfold upkeepFrame; extract_lets; split <;> rfl

/-- What earlier entries keep of a later one's writes changes the broadcast queue alone. -/
theorem noteLater_only (s : State) (e : Entry) (o : Out) : noteLater s e o = { s with g := { s.g with bq := (noteLater s e o).g.bq } } := rfl

end Sys2Proof.Machine
end

