-- ==== Sys2Proof/Laws/State.lean ====
section
/-! SUPPORT. What each update of a gang or of the machine leaves in each field. -/
namespace Sys2Proof.Machine

section Commit
variable (g : Gang) (pc : Word) (s : State) (d : Reg) (v : Word)

@[simp] theorem Gang.commit_id : (g.commit pc).id = g.id := rfl
@[simp] theorem Gang.commit_phase : (g.commit pc).phase = g.phase := rfl
@[simp] theorem Gang.commit_launch : (g.commit pc).launch = g.launch := rfl
@[simp] theorem Gang.commit_sz : (g.commit pc).sz = g.sz := rfl
@[simp] theorem Gang.commit_lead : (g.commit pc).lead = g.lead := rfl
@[simp] theorem Gang.commit_slot : (g.commit pc).slot = g.slot := rfl
@[simp] theorem Gang.commit_followers : (g.commit pc).followers = g.followers := rfl
@[simp] theorem Gang.commit_clusters : (g.commit pc).clusters = g.clusters := rfl
@[simp] theorem Gang.commit_cohIx : (g.commit pc).cohIx = g.cohIx := rfl
@[simp] theorem Gang.commit_cohN : (g.commit pc).cohN = g.cohN := rfl
@[simp] theorem Gang.commit_pasid : (g.commit pc).pasid = g.pasid := rfl
@[simp] theorem Gang.commit_pc : (g.commit pc).pc = pc := rfl
@[simp] theorem Gang.commit_regs : (g.commit pc).regs = g.regs := rfl
@[simp] theorem Gang.commit_retired : (g.commit pc).retired = g.retired + 1 := rfl
@[simp] theorem Gang.commit_pl : (g.commit pc).pl = g.pl := rfl
@[simp] theorem Gang.commit_fv : (g.commit pc).fv = g.fv := rfl
@[simp] theorem Gang.commit_db : (g.commit pc).db = g.db := rfl
@[simp] theorem Gang.commit_ss : (g.commit pc).ss = g.ss := rfl
@[simp] theorem Gang.commit_gcause : (g.commit pc).gcause = g.gcause := rfl
@[simp] theorem Gang.commit_gepc : (g.commit pc).gepc = g.gepc := rfl
@[simp] theorem Gang.commit_geval : (g.commit pc).geval = g.geval := rfl
@[simp] theorem Gang.commit_geval2 : (g.commit pc).geval2 = g.geval2 := rfl
@[simp] theorem Gang.commit_gqpos : (g.commit pc).gqpos = g.gqpos := rfl
@[simp] theorem Gang.commit_gtvec : (g.commit pc).gtvec = g.gtvec := rfl
@[simp] theorem Gang.commit_gscratch : (g.commit pc).gscratch = g.gscratch := rfl
@[simp] theorem Gang.commit_ecount : (g.commit pc).ecount = g.ecount := rfl
@[simp] theorem Gang.commit_estart : (g.commit pc).estart = g.estart := rfl
@[simp] theorem Gang.commit_emask : (g.commit pc).emask = g.emask := rfl
@[simp] theorem Gang.commit_ectrl : (g.commit pc).ectrl = g.ectrl := rfl
@[simp] theorem Gang.commit_tcount : (g.commit pc).tcount = g.tcount := rfl
@[simp] theorem Gang.commit_eflags : (g.commit pc).eflags = g.eflags := rfl
@[simp] theorem Gang.commit_fxnv : (g.commit pc).fxnv = g.fxnv := rfl
@[simp] theorem Gang.commit_fxdz : (g.commit pc).fxdz = g.fxdz := rfl
@[simp] theorem Gang.commit_fxof : (g.commit pc).fxof = g.fxof := rfl
@[simp] theorem Gang.commit_fxuf : (g.commit pc).fxuf = g.fxuf := rfl
@[simp] theorem Gang.commit_fxnx : (g.commit pc).fxnx = g.fxnx := rfl
@[simp] theorem Gang.commit_convres : (g.commit pc).convres = g.convres := rfl
@[simp] theorem Gang.commit_blktab : (g.commit pc).blktab = g.blktab := rfl
@[simp] theorem Gang.commit_ev : (g.commit pc).ev = g.ev := rfl
@[simp] theorem Gang.commit_nextSeq : (g.commit pc).nextSeq = g.nextSeq := rfl
@[simp] theorem Gang.commit_bq : (g.commit pc).bq = g.bq := rfl
@[simp] theorem Gang.commit_banks : (g.commit pc).banks = g.banks := rfl
@[simp] theorem Gang.commit_pulls : (g.commit pc).pulls = g.pulls := rfl
@[simp] theorem Gang.commit_frame : (g.commit pc).frame = g.frame := rfl
@[simp] theorem Gang.commit_resume : (g.commit pc).resume = g.resume := rfl
@[simp] theorem Gang.commit_rq : (g.commit pc).rq = g.rq := rfl
@[simp] theorem Gang.commit_rqAside : (g.commit pc).rqAside = g.rqAside := rfl
@[simp] theorem Gang.commit_ports : (g.commit pc).ports = g.ports := rfl
@[simp] theorem Gang.commit_channels : (g.commit pc).channels = g.channels := rfl
@[simp] theorem Gang.commit_walks : (g.commit pc).walks = g.walks := rfl
@[simp] theorem Gang.commit_windows : (g.commit pc).windows = g.windows := rfl
@[simp] theorem Gang.commit_methods : (g.commit pc).methods = g.methods := rfl
@[simp] theorem Gang.commit_store : (g.commit pc).store = g.store := rfl
@[simp] theorem Gang.commit_unawaited : (g.commit pc).unawaited = g.unawaited := rfl
@[simp] theorem Gang.commit_svkHeld : (g.commit pc).svkHeld = g.svkHeld := rfl
@[simp] theorem Gang.commit_lmem : (g.commit pc).lmem = g.lmem := rfl
@[simp] theorem Gang.commit_lmemBad : (g.commit pc).lmemBad = g.lmemBad := rfl
@[simp] theorem Gang.commit_storeBad : (g.commit pc).storeBad = g.storeBad := rfl
@[simp] theorem Gang.commit_regBad : (g.commit pc).regBad = g.regBad := rfl
@[simp] theorem Gang.commit_loads : (g.commit pc).loads = g.loads := rfl
@[simp] theorem Gang.commit_stgNak : (g.commit pc).stgNak = g.stgNak := rfl
@[simp] theorem Gang.commit_arrivals : (g.commit pc).arrivals = g.arrivals := rfl
@[simp] theorem Gang.commit_arriving : (g.commit pc).arriving = g.arriving := rfl
@[simp] theorem Gang.commit_revoked : (g.commit pc).revoked = g.revoked := rfl
@[simp] theorem Gang.commit_fpDue : (g.commit pc).fpDue = g.fpDue := rfl
@[simp] theorem Gang.commit_haltOrder : (g.commit pc).haltOrder = g.haltOrder := rfl
@[simp] theorem Gang.commit_savedCause : (g.commit pc).savedCause = g.savedCause := rfl
@[simp] theorem Gang.commit_haltFrame : (g.commit pc).haltFrame = g.haltFrame := rfl
@[simp] theorem Gang.commit_haltResume : (g.commit pc).haltResume = g.haltResume := rfl
@[simp] theorem Gang.commit_evicted : (g.commit pc).evicted = g.evicted := rfl
@[simp] theorem Gang.commit_context : (g.commit pc).context = g.context := rfl
@[simp] theorem Gang.commit_preempt : (g.commit pc).preempt = g.preempt := rfl
@[simp] theorem Gang.commit_gated : (g.commit pc).gated = g.gated := rfl
@[simp] theorem Gang.commit_confl : (g.commit pc).confl = g.confl := rfl
@[simp] theorem Gang.commit_merged : (g.commit pc).merged = g.merged := rfl
@[simp] theorem Gang.commit_perf : (g.commit pc).perf = g.perf := rfl
@[simp] theorem Gang.commit_tokens : (g.commit pc).tokens = g.tokens := rfl
@[simp] theorem Gang.commit_linkBad : (g.commit pc).linkBad = g.linkBad := rfl
@[simp] theorem Gang.commit_heldStart : (g.commit pc).heldStart = g.heldStart := rfl
@[simp] theorem Gang.commit_turnMark : (g.commit pc).turnMark = g.turnMark := rfl

@[simp] theorem State.commit4_power : s.commit4.power = s.power := rfl
@[simp] theorem State.commit4_boot : s.commit4.boot = s.boot := rfl
@[simp] theorem State.commit4_mem : s.commit4.mem = s.mem := rfl
@[simp] theorem State.commit4_memBad : s.commit4.memBad = s.memBad := rfl
@[simp] theorem State.commit4_hbmTags : s.commit4.hbmTags = s.hbmTags := rfl
@[simp] theorem State.commit4_field : s.commit4.field = s.field := rfl
@[simp] theorem State.commit4_fieldBad : s.commit4.fieldBad = s.fieldBad := rfl
@[simp] theorem State.commit4_ftags : s.commit4.ftags = s.ftags := rfl
@[simp] theorem State.commit4_ftagBad : s.commit4.ftagBad = s.ftagBad := rfl
@[simp] theorem State.commit4_parity : s.commit4.parity = s.parity := rfl
@[simp] theorem State.commit4_hbmStat : s.commit4.hbmStat = s.hbmStat := rfl
@[simp] theorem State.commit4_remap : s.commit4.remap = s.remap := rfl
@[simp] theorem State.commit4_remapMirror : s.commit4.remapMirror = s.remapMirror := rfl
@[simp] theorem State.commit4_remapBad : s.commit4.remapBad = s.remapBad := rfl
@[simp] theorem State.commit4_mirrorBad : s.commit4.mirrorBad = s.mirrorBad := rfl
@[simp] theorem State.commit4_peerMem : s.commit4.peerMem = s.peerMem := rfl
@[simp] theorem State.commit4_parityBad : s.commit4.parityBad = s.parityBad := rfl
@[simp] theorem State.commit4_replaced : s.commit4.replaced = s.replaced := rfl
@[simp] theorem State.commit4_engineBad : s.commit4.engineBad = s.engineBad := rfl
@[simp] theorem State.commit4_domains : s.commit4.domains = s.domains := rfl
@[simp] theorem State.commit4_domains2 : s.commit4.domains2 = s.domains2 := rfl
@[simp] theorem State.commit4_pcpwr : s.commit4.pcpwr = s.pcpwr := rfl
@[simp] theorem State.commit4_channelPower : s.commit4.channelPower = s.channelPower := rfl
@[simp] theorem State.commit4_pasidDomain : s.commit4.pasidDomain = s.pasidDomain := rfl
@[simp] theorem State.commit4_roots : s.commit4.roots = s.roots := rfl
@[simp] theorem State.commit4_hubs : s.commit4.hubs = s.hubs := rfl
@[simp] theorem State.commit4_generation : s.commit4.generation = s.generation := rfl
@[simp] theorem State.commit4_shootDowns : s.commit4.shootDowns = s.shootDowns := rfl
@[simp] theorem State.commit4_offline : s.commit4.offline = s.offline := rfl
@[simp] theorem State.commit4_barriers : s.commit4.barriers = s.barriers := rfl
@[simp] theorem State.commit4_queues : s.commit4.queues = s.queues := rfl
@[simp] theorem State.commit4_startPtr : s.commit4.startPtr = s.startPtr := rfl
@[simp] theorem State.commit4_reservations : s.commit4.reservations = s.reservations := rfl
@[simp] theorem State.commit4_frozen : s.commit4.frozen = s.frozen := rfl
@[simp] theorem State.commit4_heartbeats : s.commit4.heartbeats = s.heartbeats := rfl
@[simp] theorem State.commit4_mailbox : s.commit4.mailbox = s.mailbox := rfl
@[simp] theorem State.commit4_directPorts : s.commit4.directPorts = s.directPorts := rfl
@[simp] theorem State.commit4_eventFrames : s.commit4.eventFrames = s.eventFrames := rfl
@[simp] theorem State.commit4_peerWindows : s.commit4.peerWindows = s.peerWindows := rfl
@[simp] theorem State.commit4_grants : s.commit4.grants = s.grants := rfl
@[simp] theorem State.commit4_unacked : s.commit4.unacked = s.unacked := rfl
@[simp] theorem State.commit4_portsDown : s.commit4.portsDown = s.portsDown := rfl
@[simp] theorem State.commit4_connections : s.commit4.connections = s.connections := rfl
@[simp] theorem State.commit4_homeData : s.commit4.homeData = s.homeData := rfl
@[simp] theorem State.commit4_cycles : s.commit4.cycles = s.cycles := rfl
@[simp] theorem State.commit4_clockStep : s.commit4.clockStep = s.clockStep := rfl
@[simp] theorem State.commit4_hotness : s.commit4.hotness = s.hotness := rfl
@[simp] theorem State.commit4_haltCounter : s.commit4.haltCounter = s.haltCounter := rfl
@[simp] theorem State.commit4_nextGang : s.commit4.nextGang = s.nextGang := rfl
@[simp] theorem State.commit4_savedFrames : s.commit4.savedFrames = s.savedFrames := rfl
@[simp] theorem State.commit4_others : s.commit4.others = s.others := rfl
@[simp] theorem State.commit4_lockstep : s.commit4.lockstep = s.lockstep := rfl
@[simp] theorem State.commit4_fresh : s.commit4.fresh = s.fresh := rfl
@[simp] theorem State.commit4_agenda : s.commit4.agenda = s.agenda := rfl

@[simp] theorem State.commit8_power : s.commit8.power = s.power := rfl
@[simp] theorem State.commit8_boot : s.commit8.boot = s.boot := rfl
@[simp] theorem State.commit8_mem : s.commit8.mem = s.mem := rfl
@[simp] theorem State.commit8_memBad : s.commit8.memBad = s.memBad := rfl
@[simp] theorem State.commit8_hbmTags : s.commit8.hbmTags = s.hbmTags := rfl
@[simp] theorem State.commit8_field : s.commit8.field = s.field := rfl
@[simp] theorem State.commit8_fieldBad : s.commit8.fieldBad = s.fieldBad := rfl
@[simp] theorem State.commit8_ftags : s.commit8.ftags = s.ftags := rfl
@[simp] theorem State.commit8_ftagBad : s.commit8.ftagBad = s.ftagBad := rfl
@[simp] theorem State.commit8_parity : s.commit8.parity = s.parity := rfl
@[simp] theorem State.commit8_hbmStat : s.commit8.hbmStat = s.hbmStat := rfl
@[simp] theorem State.commit8_remap : s.commit8.remap = s.remap := rfl
@[simp] theorem State.commit8_remapMirror : s.commit8.remapMirror = s.remapMirror := rfl
@[simp] theorem State.commit8_remapBad : s.commit8.remapBad = s.remapBad := rfl
@[simp] theorem State.commit8_mirrorBad : s.commit8.mirrorBad = s.mirrorBad := rfl
@[simp] theorem State.commit8_peerMem : s.commit8.peerMem = s.peerMem := rfl
@[simp] theorem State.commit8_parityBad : s.commit8.parityBad = s.parityBad := rfl
@[simp] theorem State.commit8_replaced : s.commit8.replaced = s.replaced := rfl
@[simp] theorem State.commit8_engineBad : s.commit8.engineBad = s.engineBad := rfl
@[simp] theorem State.commit8_domains : s.commit8.domains = s.domains := rfl
@[simp] theorem State.commit8_domains2 : s.commit8.domains2 = s.domains2 := rfl
@[simp] theorem State.commit8_pcpwr : s.commit8.pcpwr = s.pcpwr := rfl
@[simp] theorem State.commit8_channelPower : s.commit8.channelPower = s.channelPower := rfl
@[simp] theorem State.commit8_pasidDomain : s.commit8.pasidDomain = s.pasidDomain := rfl
@[simp] theorem State.commit8_roots : s.commit8.roots = s.roots := rfl
@[simp] theorem State.commit8_hubs : s.commit8.hubs = s.hubs := rfl
@[simp] theorem State.commit8_generation : s.commit8.generation = s.generation := rfl
@[simp] theorem State.commit8_shootDowns : s.commit8.shootDowns = s.shootDowns := rfl
@[simp] theorem State.commit8_offline : s.commit8.offline = s.offline := rfl
@[simp] theorem State.commit8_barriers : s.commit8.barriers = s.barriers := rfl
@[simp] theorem State.commit8_queues : s.commit8.queues = s.queues := rfl
@[simp] theorem State.commit8_startPtr : s.commit8.startPtr = s.startPtr := rfl
@[simp] theorem State.commit8_reservations : s.commit8.reservations = s.reservations := rfl
@[simp] theorem State.commit8_frozen : s.commit8.frozen = s.frozen := rfl
@[simp] theorem State.commit8_heartbeats : s.commit8.heartbeats = s.heartbeats := rfl
@[simp] theorem State.commit8_mailbox : s.commit8.mailbox = s.mailbox := rfl
@[simp] theorem State.commit8_directPorts : s.commit8.directPorts = s.directPorts := rfl
@[simp] theorem State.commit8_eventFrames : s.commit8.eventFrames = s.eventFrames := rfl
@[simp] theorem State.commit8_peerWindows : s.commit8.peerWindows = s.peerWindows := rfl
@[simp] theorem State.commit8_grants : s.commit8.grants = s.grants := rfl
@[simp] theorem State.commit8_unacked : s.commit8.unacked = s.unacked := rfl
@[simp] theorem State.commit8_portsDown : s.commit8.portsDown = s.portsDown := rfl
@[simp] theorem State.commit8_connections : s.commit8.connections = s.connections := rfl
@[simp] theorem State.commit8_homeData : s.commit8.homeData = s.homeData := rfl
@[simp] theorem State.commit8_cycles : s.commit8.cycles = s.cycles := rfl
@[simp] theorem State.commit8_clockStep : s.commit8.clockStep = s.clockStep := rfl
@[simp] theorem State.commit8_hotness : s.commit8.hotness = s.hotness := rfl
@[simp] theorem State.commit8_haltCounter : s.commit8.haltCounter = s.haltCounter := rfl
@[simp] theorem State.commit8_nextGang : s.commit8.nextGang = s.nextGang := rfl
@[simp] theorem State.commit8_savedFrames : s.commit8.savedFrames = s.savedFrames := rfl
@[simp] theorem State.commit8_others : s.commit8.others = s.others := rfl
@[simp] theorem State.commit8_lockstep : s.commit8.lockstep = s.lockstep := rfl
@[simp] theorem State.commit8_fresh : s.commit8.fresh = s.fresh := rfl
@[simp] theorem State.commit8_agenda : s.commit8.agenda = s.agenda := rfl

@[simp] theorem State.commitAt_power : (s.commitAt pc).power = s.power := rfl
@[simp] theorem State.commitAt_boot : (s.commitAt pc).boot = s.boot := rfl
@[simp] theorem State.commitAt_mem : (s.commitAt pc).mem = s.mem := rfl
@[simp] theorem State.commitAt_memBad : (s.commitAt pc).memBad = s.memBad := rfl
@[simp] theorem State.commitAt_hbmTags : (s.commitAt pc).hbmTags = s.hbmTags := rfl
@[simp] theorem State.commitAt_field : (s.commitAt pc).field = s.field := rfl
@[simp] theorem State.commitAt_fieldBad : (s.commitAt pc).fieldBad = s.fieldBad := rfl
@[simp] theorem State.commitAt_ftags : (s.commitAt pc).ftags = s.ftags := rfl
@[simp] theorem State.commitAt_ftagBad : (s.commitAt pc).ftagBad = s.ftagBad := rfl
@[simp] theorem State.commitAt_parity : (s.commitAt pc).parity = s.parity := rfl
@[simp] theorem State.commitAt_hbmStat : (s.commitAt pc).hbmStat = s.hbmStat := rfl
@[simp] theorem State.commitAt_remap : (s.commitAt pc).remap = s.remap := rfl
@[simp] theorem State.commitAt_remapMirror : (s.commitAt pc).remapMirror = s.remapMirror := rfl
@[simp] theorem State.commitAt_remapBad : (s.commitAt pc).remapBad = s.remapBad := rfl
@[simp] theorem State.commitAt_mirrorBad : (s.commitAt pc).mirrorBad = s.mirrorBad := rfl
@[simp] theorem State.commitAt_peerMem : (s.commitAt pc).peerMem = s.peerMem := rfl
@[simp] theorem State.commitAt_parityBad : (s.commitAt pc).parityBad = s.parityBad := rfl
@[simp] theorem State.commitAt_replaced : (s.commitAt pc).replaced = s.replaced := rfl
@[simp] theorem State.commitAt_engineBad : (s.commitAt pc).engineBad = s.engineBad := rfl
@[simp] theorem State.commitAt_domains : (s.commitAt pc).domains = s.domains := rfl
@[simp] theorem State.commitAt_domains2 : (s.commitAt pc).domains2 = s.domains2 := rfl
@[simp] theorem State.commitAt_pcpwr : (s.commitAt pc).pcpwr = s.pcpwr := rfl
@[simp] theorem State.commitAt_channelPower : (s.commitAt pc).channelPower = s.channelPower := rfl
@[simp] theorem State.commitAt_pasidDomain : (s.commitAt pc).pasidDomain = s.pasidDomain := rfl
@[simp] theorem State.commitAt_roots : (s.commitAt pc).roots = s.roots := rfl
@[simp] theorem State.commitAt_hubs : (s.commitAt pc).hubs = s.hubs := rfl
@[simp] theorem State.commitAt_generation : (s.commitAt pc).generation = s.generation := rfl
@[simp] theorem State.commitAt_shootDowns : (s.commitAt pc).shootDowns = s.shootDowns := rfl
@[simp] theorem State.commitAt_offline : (s.commitAt pc).offline = s.offline := rfl
@[simp] theorem State.commitAt_barriers : (s.commitAt pc).barriers = s.barriers := rfl
@[simp] theorem State.commitAt_queues : (s.commitAt pc).queues = s.queues := rfl
@[simp] theorem State.commitAt_startPtr : (s.commitAt pc).startPtr = s.startPtr := rfl
@[simp] theorem State.commitAt_reservations : (s.commitAt pc).reservations = s.reservations := rfl
@[simp] theorem State.commitAt_frozen : (s.commitAt pc).frozen = s.frozen := rfl
@[simp] theorem State.commitAt_heartbeats : (s.commitAt pc).heartbeats = s.heartbeats := rfl
@[simp] theorem State.commitAt_mailbox : (s.commitAt pc).mailbox = s.mailbox := rfl
@[simp] theorem State.commitAt_directPorts : (s.commitAt pc).directPorts = s.directPorts := rfl
@[simp] theorem State.commitAt_eventFrames : (s.commitAt pc).eventFrames = s.eventFrames := rfl
@[simp] theorem State.commitAt_peerWindows : (s.commitAt pc).peerWindows = s.peerWindows := rfl
@[simp] theorem State.commitAt_grants : (s.commitAt pc).grants = s.grants := rfl
@[simp] theorem State.commitAt_unacked : (s.commitAt pc).unacked = s.unacked := rfl
@[simp] theorem State.commitAt_portsDown : (s.commitAt pc).portsDown = s.portsDown := rfl
@[simp] theorem State.commitAt_connections : (s.commitAt pc).connections = s.connections := rfl
@[simp] theorem State.commitAt_homeData : (s.commitAt pc).homeData = s.homeData := rfl
@[simp] theorem State.commitAt_cycles : (s.commitAt pc).cycles = s.cycles := rfl
@[simp] theorem State.commitAt_clockStep : (s.commitAt pc).clockStep = s.clockStep := rfl
@[simp] theorem State.commitAt_hotness : (s.commitAt pc).hotness = s.hotness := rfl
@[simp] theorem State.commitAt_haltCounter : (s.commitAt pc).haltCounter = s.haltCounter := rfl
@[simp] theorem State.commitAt_nextGang : (s.commitAt pc).nextGang = s.nextGang := rfl
@[simp] theorem State.commitAt_savedFrames : (s.commitAt pc).savedFrames = s.savedFrames := rfl
@[simp] theorem State.commitAt_others : (s.commitAt pc).others = s.others := rfl
@[simp] theorem State.commitAt_lockstep : (s.commitAt pc).lockstep = s.lockstep := rfl
@[simp] theorem State.commitAt_fresh : (s.commitAt pc).fresh = s.fresh := rfl
@[simp] theorem State.commitAt_agenda : (s.commitAt pc).agenda = s.agenda := rfl

@[simp] theorem State.setReg_power : (s.setReg d v).power = s.power := rfl
@[simp] theorem State.setReg_boot : (s.setReg d v).boot = s.boot := rfl
@[simp] theorem State.setReg_mem : (s.setReg d v).mem = s.mem := rfl
@[simp] theorem State.setReg_memBad : (s.setReg d v).memBad = s.memBad := rfl
@[simp] theorem State.setReg_hbmTags : (s.setReg d v).hbmTags = s.hbmTags := rfl
@[simp] theorem State.setReg_field : (s.setReg d v).field = s.field := rfl
@[simp] theorem State.setReg_fieldBad : (s.setReg d v).fieldBad = s.fieldBad := rfl
@[simp] theorem State.setReg_ftags : (s.setReg d v).ftags = s.ftags := rfl
@[simp] theorem State.setReg_ftagBad : (s.setReg d v).ftagBad = s.ftagBad := rfl
@[simp] theorem State.setReg_parity : (s.setReg d v).parity = s.parity := rfl
@[simp] theorem State.setReg_hbmStat : (s.setReg d v).hbmStat = s.hbmStat := rfl
@[simp] theorem State.setReg_remap : (s.setReg d v).remap = s.remap := rfl
@[simp] theorem State.setReg_remapMirror : (s.setReg d v).remapMirror = s.remapMirror := rfl
@[simp] theorem State.setReg_remapBad : (s.setReg d v).remapBad = s.remapBad := rfl
@[simp] theorem State.setReg_mirrorBad : (s.setReg d v).mirrorBad = s.mirrorBad := rfl
@[simp] theorem State.setReg_peerMem : (s.setReg d v).peerMem = s.peerMem := rfl
@[simp] theorem State.setReg_parityBad : (s.setReg d v).parityBad = s.parityBad := rfl
@[simp] theorem State.setReg_replaced : (s.setReg d v).replaced = s.replaced := rfl
@[simp] theorem State.setReg_engineBad : (s.setReg d v).engineBad = s.engineBad := rfl
@[simp] theorem State.setReg_domains : (s.setReg d v).domains = s.domains := rfl
@[simp] theorem State.setReg_domains2 : (s.setReg d v).domains2 = s.domains2 := rfl
@[simp] theorem State.setReg_pcpwr : (s.setReg d v).pcpwr = s.pcpwr := rfl
@[simp] theorem State.setReg_channelPower : (s.setReg d v).channelPower = s.channelPower := rfl
@[simp] theorem State.setReg_pasidDomain : (s.setReg d v).pasidDomain = s.pasidDomain := rfl
@[simp] theorem State.setReg_roots : (s.setReg d v).roots = s.roots := rfl
@[simp] theorem State.setReg_hubs : (s.setReg d v).hubs = s.hubs := rfl
@[simp] theorem State.setReg_generation : (s.setReg d v).generation = s.generation := rfl
@[simp] theorem State.setReg_shootDowns : (s.setReg d v).shootDowns = s.shootDowns := rfl
@[simp] theorem State.setReg_offline : (s.setReg d v).offline = s.offline := rfl
@[simp] theorem State.setReg_barriers : (s.setReg d v).barriers = s.barriers := rfl
@[simp] theorem State.setReg_queues : (s.setReg d v).queues = s.queues := rfl
@[simp] theorem State.setReg_startPtr : (s.setReg d v).startPtr = s.startPtr := rfl
@[simp] theorem State.setReg_reservations : (s.setReg d v).reservations = s.reservations := rfl
@[simp] theorem State.setReg_frozen : (s.setReg d v).frozen = s.frozen := rfl
@[simp] theorem State.setReg_heartbeats : (s.setReg d v).heartbeats = s.heartbeats := rfl
@[simp] theorem State.setReg_mailbox : (s.setReg d v).mailbox = s.mailbox := rfl
@[simp] theorem State.setReg_directPorts : (s.setReg d v).directPorts = s.directPorts := rfl
@[simp] theorem State.setReg_eventFrames : (s.setReg d v).eventFrames = s.eventFrames := rfl
@[simp] theorem State.setReg_peerWindows : (s.setReg d v).peerWindows = s.peerWindows := rfl
@[simp] theorem State.setReg_grants : (s.setReg d v).grants = s.grants := rfl
@[simp] theorem State.setReg_unacked : (s.setReg d v).unacked = s.unacked := rfl
@[simp] theorem State.setReg_portsDown : (s.setReg d v).portsDown = s.portsDown := rfl
@[simp] theorem State.setReg_connections : (s.setReg d v).connections = s.connections := rfl
@[simp] theorem State.setReg_homeData : (s.setReg d v).homeData = s.homeData := rfl
@[simp] theorem State.setReg_cycles : (s.setReg d v).cycles = s.cycles := rfl
@[simp] theorem State.setReg_clockStep : (s.setReg d v).clockStep = s.clockStep := rfl
@[simp] theorem State.setReg_hotness : (s.setReg d v).hotness = s.hotness := rfl
@[simp] theorem State.setReg_haltCounter : (s.setReg d v).haltCounter = s.haltCounter := rfl
@[simp] theorem State.setReg_nextGang : (s.setReg d v).nextGang = s.nextGang := rfl
@[simp] theorem State.setReg_savedFrames : (s.setReg d v).savedFrames = s.savedFrames := rfl
@[simp] theorem State.setReg_others : (s.setReg d v).others = s.others := rfl
@[simp] theorem State.setReg_lockstep : (s.setReg d v).lockstep = s.lockstep := rfl
@[simp] theorem State.setReg_fresh : (s.setReg d v).fresh = s.fresh := rfl
@[simp] theorem State.setReg_agenda : (s.setReg d v).agenda = s.agenda := rfl

@[simp] theorem State.commit4_g : s.commit4.g = s.g.commit (s.g.pc + 4) := rfl
@[simp] theorem State.commit8_g : s.commit8.g = s.g.commit (s.g.pc + 8) := rfl
@[simp] theorem State.commitAt_g : (s.commitAt pc).g = s.g.commit pc := rfl
@[simp] theorem State.setReg_g : (s.setReg d v).g = s.g.setReg d v := rfl

@[simp] theorem Gang.setReg_id : (g.setReg d v).id = g.id := by unfold Gang.setReg; split <;> rfl
@[simp] theorem Gang.setReg_phase : (g.setReg d v).phase = g.phase := by unfold Gang.setReg; split <;> rfl
@[simp] theorem Gang.setReg_launch : (g.setReg d v).launch = g.launch := by unfold Gang.setReg; split <;> rfl
@[simp] theorem Gang.setReg_sz : (g.setReg d v).sz = g.sz := by unfold Gang.setReg; split <;> rfl
@[simp] theorem Gang.setReg_lead : (g.setReg d v).lead = g.lead := by unfold Gang.setReg; split <;> rfl
@[simp] theorem Gang.setReg_slot : (g.setReg d v).slot = g.slot := by unfold Gang.setReg; split <;> rfl
@[simp] theorem Gang.setReg_followers : (g.setReg d v).followers = g.followers := by unfold Gang.setReg; split <;> rfl
@[simp] theorem Gang.setReg_clusters : (g.setReg d v).clusters = g.clusters := by unfold Gang.setReg; split <;> rfl
@[simp] theorem Gang.setReg_cohIx : (g.setReg d v).cohIx = g.cohIx := by unfold Gang.setReg; split <;> rfl
@[simp] theorem Gang.setReg_cohN : (g.setReg d v).cohN = g.cohN := by unfold Gang.setReg; split <;> rfl
@[simp] theorem Gang.setReg_pasid : (g.setReg d v).pasid = g.pasid := by unfold Gang.setReg; split <;> rfl
@[simp] theorem Gang.setReg_pc : (g.setReg d v).pc = g.pc := by unfold Gang.setReg; split <;> rfl
@[simp] theorem Gang.setReg_retired : (g.setReg d v).retired = g.retired := by unfold Gang.setReg; split <;> rfl
@[simp] theorem Gang.setReg_pl : (g.setReg d v).pl = g.pl := by unfold Gang.setReg; split <;> rfl
@[simp] theorem Gang.setReg_fv : (g.setReg d v).fv = g.fv := by unfold Gang.setReg; split <;> rfl
@[simp] theorem Gang.setReg_db : (g.setReg d v).db = g.db := by unfold Gang.setReg; split <;> rfl
@[simp] theorem Gang.setReg_ss : (g.setReg d v).ss = g.ss := by unfold Gang.setReg; split <;> rfl
@[simp] theorem Gang.setReg_stepping : (g.setReg d v).stepping = g.stepping := by unfold Gang.setReg; split <;> rfl
@[simp] theorem Gang.setReg_gcause : (g.setReg d v).gcause = g.gcause := by unfold Gang.setReg; split <;> rfl
@[simp] theorem Gang.setReg_gepc : (g.setReg d v).gepc = g.gepc := by unfold Gang.setReg; split <;> rfl
@[simp] theorem Gang.setReg_geval : (g.setReg d v).geval = g.geval := by unfold Gang.setReg; split <;> rfl
@[simp] theorem Gang.setReg_geval2 : (g.setReg d v).geval2 = g.geval2 := by unfold Gang.setReg; split <;> rfl
@[simp] theorem Gang.setReg_gqpos : (g.setReg d v).gqpos = g.gqpos := by unfold Gang.setReg; split <;> rfl
@[simp] theorem Gang.setReg_gtvec : (g.setReg d v).gtvec = g.gtvec := by unfold Gang.setReg; split <;> rfl
@[simp] theorem Gang.setReg_gscratch : (g.setReg d v).gscratch = g.gscratch := by unfold Gang.setReg; split <;> rfl
@[simp] theorem Gang.setReg_ecount : (g.setReg d v).ecount = g.ecount := by unfold Gang.setReg; split <;> rfl
@[simp] theorem Gang.setReg_estart : (g.setReg d v).estart = g.estart := by unfold Gang.setReg; split <;> rfl
@[simp] theorem Gang.setReg_emask : (g.setReg d v).emask = g.emask := by unfold Gang.setReg; split <;> rfl
@[simp] theorem Gang.setReg_ectrl : (g.setReg d v).ectrl = g.ectrl := by unfold Gang.setReg; split <;> rfl
@[simp] theorem Gang.setReg_tcount : (g.setReg d v).tcount = g.tcount := by unfold Gang.setReg; split <;> rfl
@[simp] theorem Gang.setReg_eflags : (g.setReg d v).eflags = g.eflags := by unfold Gang.setReg; split <;> rfl
@[simp] theorem Gang.setReg_fxnv : (g.setReg d v).fxnv = g.fxnv := by unfold Gang.setReg; split <;> rfl
@[simp] theorem Gang.setReg_fxdz : (g.setReg d v).fxdz = g.fxdz := by unfold Gang.setReg; split <;> rfl
@[simp] theorem Gang.setReg_fxof : (g.setReg d v).fxof = g.fxof := by unfold Gang.setReg; split <;> rfl
@[simp] theorem Gang.setReg_fxuf : (g.setReg d v).fxuf = g.fxuf := by unfold Gang.setReg; split <;> rfl
@[simp] theorem Gang.setReg_fxnx : (g.setReg d v).fxnx = g.fxnx := by unfold Gang.setReg; split <;> rfl
@[simp] theorem Gang.setReg_convres : (g.setReg d v).convres = g.convres := by unfold Gang.setReg; split <;> rfl
@[simp] theorem Gang.setReg_blktab : (g.setReg d v).blktab = g.blktab := by unfold Gang.setReg; split <;> rfl
@[simp] theorem Gang.setReg_ev : (g.setReg d v).ev = g.ev := by unfold Gang.setReg; split <;> rfl
@[simp] theorem Gang.setReg_nextSeq : (g.setReg d v).nextSeq = g.nextSeq := by unfold Gang.setReg; split <;> rfl
@[simp] theorem Gang.setReg_bq : (g.setReg d v).bq = g.bq := by unfold Gang.setReg; split <;> rfl
@[simp] theorem Gang.setReg_banks : (g.setReg d v).banks = g.banks := by unfold Gang.setReg; split <;> rfl
@[simp] theorem Gang.setReg_pulls : (g.setReg d v).pulls = g.pulls := by unfold Gang.setReg; split <;> rfl
@[simp] theorem Gang.setReg_frame : (g.setReg d v).frame = g.frame := by unfold Gang.setReg; split <;> rfl
@[simp] theorem Gang.setReg_resume : (g.setReg d v).resume = g.resume := by unfold Gang.setReg; split <;> rfl
@[simp] theorem Gang.setReg_rq : (g.setReg d v).rq = g.rq := by unfold Gang.setReg; split <;> rfl
@[simp] theorem Gang.setReg_rqAside : (g.setReg d v).rqAside = g.rqAside := by unfold Gang.setReg; split <;> rfl
@[simp] theorem Gang.setReg_ports : (g.setReg d v).ports = g.ports := by unfold Gang.setReg; split <;> rfl
@[simp] theorem Gang.setReg_channels : (g.setReg d v).channels = g.channels := by unfold Gang.setReg; split <;> rfl
@[simp] theorem Gang.setReg_walks : (g.setReg d v).walks = g.walks := by unfold Gang.setReg; split <;> rfl
@[simp] theorem Gang.setReg_windows : (g.setReg d v).windows = g.windows := by unfold Gang.setReg; split <;> rfl
@[simp] theorem Gang.setReg_methods : (g.setReg d v).methods = g.methods := by unfold Gang.setReg; split <;> rfl
@[simp] theorem Gang.setReg_store : (g.setReg d v).store = g.store := by unfold Gang.setReg; split <;> rfl
@[simp] theorem Gang.setReg_unawaited : (g.setReg d v).unawaited = g.unawaited := by unfold Gang.setReg; split <;> rfl
@[simp] theorem Gang.setReg_svkHeld : (g.setReg d v).svkHeld = g.svkHeld := by unfold Gang.setReg; split <;> rfl
@[simp] theorem Gang.setReg_lmem : (g.setReg d v).lmem = g.lmem := by unfold Gang.setReg; split <;> rfl
@[simp] theorem Gang.setReg_lmemBad : (g.setReg d v).lmemBad = g.lmemBad := by unfold Gang.setReg; split <;> rfl
@[simp] theorem Gang.setReg_storeBad : (g.setReg d v).storeBad = g.storeBad := by unfold Gang.setReg; split <;> rfl
@[simp] theorem Gang.setReg_loads : (g.setReg d v).loads = g.loads := by unfold Gang.setReg; split <;> rfl
@[simp] theorem Gang.setReg_stgNak : (g.setReg d v).stgNak = g.stgNak := by unfold Gang.setReg; split <;> rfl
@[simp] theorem Gang.setReg_arrivals : (g.setReg d v).arrivals = g.arrivals := by unfold Gang.setReg; split <;> rfl
@[simp] theorem Gang.setReg_arriving : (g.setReg d v).arriving = g.arriving := by unfold Gang.setReg; split <;> rfl
@[simp] theorem Gang.setReg_revoked : (g.setReg d v).revoked = g.revoked := by unfold Gang.setReg; split <;> rfl
@[simp] theorem Gang.setReg_fpDue : (g.setReg d v).fpDue = g.fpDue := by unfold Gang.setReg; split <;> rfl
@[simp] theorem Gang.setReg_held : (g.setReg d v).held = g.held := by unfold Gang.setReg; split <;> rfl
@[simp] theorem Gang.setReg_haltOrder : (g.setReg d v).haltOrder = g.haltOrder := by unfold Gang.setReg; split <;> rfl
@[simp] theorem Gang.setReg_savedCause : (g.setReg d v).savedCause = g.savedCause := by unfold Gang.setReg; split <;> rfl
@[simp] theorem Gang.setReg_haltFrame : (g.setReg d v).haltFrame = g.haltFrame := by unfold Gang.setReg; split <;> rfl
@[simp] theorem Gang.setReg_haltResume : (g.setReg d v).haltResume = g.haltResume := by unfold Gang.setReg; split <;> rfl
@[simp] theorem Gang.setReg_evicted : (g.setReg d v).evicted = g.evicted := by unfold Gang.setReg; split <;> rfl
@[simp] theorem Gang.setReg_context : (g.setReg d v).context = g.context := by unfold Gang.setReg; split <;> rfl
@[simp] theorem Gang.setReg_preempt : (g.setReg d v).preempt = g.preempt := by unfold Gang.setReg; split <;> rfl
@[simp] theorem Gang.setReg_gated : (g.setReg d v).gated = g.gated := by unfold Gang.setReg; split <;> rfl
@[simp] theorem Gang.setReg_confl : (g.setReg d v).confl = g.confl := by unfold Gang.setReg; split <;> rfl
@[simp] theorem Gang.setReg_merged : (g.setReg d v).merged = g.merged := by unfold Gang.setReg; split <;> rfl
@[simp] theorem Gang.setReg_perf : (g.setReg d v).perf = g.perf := by unfold Gang.setReg; split <;> rfl
@[simp] theorem Gang.setReg_tokens : (g.setReg d v).tokens = g.tokens := by unfold Gang.setReg; split <;> rfl
@[simp] theorem Gang.setReg_linkBad : (g.setReg d v).linkBad = g.linkBad := by unfold Gang.setReg; split <;> rfl
@[simp] theorem Gang.setReg_heldStart : (g.setReg d v).heldStart = g.heldStart := by unfold Gang.setReg; split <;> rfl
@[simp] theorem Gang.setReg_turnMark : (g.setReg d v).turnMark = g.turnMark := by unfold Gang.setReg; split <;> rfl

end Commit

end Sys2Proof.Machine
end

