-- ==== Sys2Proof/Laws/Commit.lean ====
section
/-! SUPPORT. The shared operations of an instruction boundary: what precedes an instruction's own effect, the write of one register, and
the commit. -/
namespace Sys2Proof.Machine

/-- Reading a register after a register was written: s0 reads as 0, and every other register keeps its value. -/
theorem Gang.reg_setReg (g : Gang) (d r : Reg) (v : Word) :
    (g.setReg d v).reg r = if r = d then (if d = 0 then 0 else v) else g.reg r := by
  by_cases hd : d = 0
  · have h1 : g.setReg d v = g := if_pos hd
    rw [h1]
    split
    · rename_i hr; rw [hr, hd]; rfl
    · rfl
  · have h1 : g.setReg d v = { g with regs := mset 0 g.regs d.toNat v, regBad := g.regBad.filter (· != d.toNat) } := if_neg hd
    rw [h1, if_neg hd]
    unfold Gang.reg
    by_cases hr : r = d
    · rw [if_pos hr, hr, if_neg hd]; exact mget_mset_same ..
    · have hn : r.toNat ≠ d.toNat := fun h => hr (BitVec.eq_of_toNat_eq h)
      rw [if_neg hr]
      split
      · rfl
      · exact mget_mset_other _ _ _ _ _ hn

/-- A commit leaves the general registers. -/
@[simp] theorem Gang.reg_commit (g : Gang) (pc : Word) (r : Reg) : (g.commit pc).reg r = g.reg r := rfl

/-- What a commit does to the single step (R226). -/
theorem Gang.commit_step (g : Gang) (pc : Word) :
    if g.stepping = true ∧ g.pl = false then (g.commit pc).held = some stepCause ∧ (g.commit pc).stepping = false
    else (g.commit pc).held = g.held ∧ (g.commit pc).stepping = g.stepping := by
  unfold Gang.commit
  by_cases h1 : g.stepping = true <;> by_cases h2 : g.pl = true <;> simp_all

/-- An instruction that issues goes on to its own effect. -/
theorem userOp_of_issues {i : Instr} {s : State} (h : issues i s) (k : State → State) : userOp i s k = .next (k s) := by
  obtain ⟨h1, h2, h3, h4⟩ := h
  by_cases hp : i.privileged = true
  · simp [userOp, h1, h3, h4, hp, h2 hp]
  · simp [userOp, h1, h3, h4, hp]

/-- Everything an instruction can do before its own effect (R141): an illegal encoding traps, a privileged instruction at gang level
traps, a hold waits, a register's parity error stops the gang, else the effect comes about. -/
theorem userOp_cases (i : Instr) (s t : State) (k : State → State) (h : userOp i s k = .next t) :
    (i.wf = false ∧ t = trapIllegal s i 0)
    ∨ (i.wf = true ∧ i.privileged = true ∧ s.g.pl = false ∧ t = trapS s 2 (w64 (encodeWord i)) 0)
    ∨ (i.wf = true ∧ waitsForLoad s.g i = true ∧ t = stall s)
    ∨ (i.wf = true ∧ readsBad s.g i = true ∧ t = registerParity s)
    ∨ (issues i s ∧ t = k s) := by
  simp only [userOp, Host.Outcome.next.injEq] at h
  cases hw : i.wf with
  | false => exact .inl ⟨rfl, by simpa [hw] using h.symm⟩
  | true =>
    simp only [hw, Bool.not_true, Bool.false_eq_true, if_false] at h
    by_cases hp : i.privileged = true ∧ s.g.pl = false
    · exact .inr (.inl ⟨rfl, hp.1, hp.2, by simpa [hp.1, hp.2] using h.symm⟩)
    · have hn : (i.privileged && !s.g.pl) = false := by
        cases h1 : i.privileged <;> cases h2 : s.g.pl <;> simp_all
      simp only [hn, Bool.false_eq_true, if_false] at h
      cases hl : waitsForLoad s.g i with
      | true => exact .inr (.inr (.inl ⟨rfl, rfl, by simpa [hl] using h.symm⟩))
      | false =>
        simp only [hl, Bool.false_eq_true, if_false] at h
        cases hb : readsBad s.g i with
        | true => exact .inr (.inr (.inr (.inl ⟨rfl, rfl, by simpa [hb] using h.symm⟩)))
        | false =>
          refine .inr (.inr (.inr (.inr ⟨⟨hw, ?_, hl, hb⟩, by simpa [hb] using h.symm⟩)))
          intro h1
          cases h2 : s.g.pl with
          | true => rfl
          | false => exact absurd ⟨h1, h2⟩ hp

/-- The step of another agent on a ready device. -/
theorem eventOp_ready {s : State} (h : s.power = .ready) (k : State → State) : eventOp s k = .next (k s) := by simp [eventOp, h]

/-- A commit alone. -/
theorem onlyCommits_commitAt (s : State) (pc : Word) : onlyCommits pc s (s.commitAt pc) :=
  ⟨fun _ _ => rfl, ⟨rfl, rfl, s.g.commit_step pc⟩, ⟨fun _ => rfl, fun _ => rfl, fun _ => rfl⟩, rfl⟩

/-- A register write and a commit. -/
theorem writesReg_commitAt (s : State) (d : Reg) (v pc : Word) : writesReg d v pc s ((s.setReg d v).commitAt pc) := by
  refine ⟨?_, ?_, ⟨rfl, ?_, ?_⟩, ⟨fun _ => rfl, fun _ => rfl, fun _ => ?_⟩, ?_⟩
  · simp [Gang.reg_setReg]
  · intro r hr
    have hr' : r ≠ d := by simpa using hr
    simp [Gang.reg_setReg, hr']
  · simp
  · have := (s.g.setReg d v).commit_step pc
    simpa using this
  · simp
  · unfold onlyRegs State.commitAt State.setReg Gang.commit Gang.setReg
    by_cases hd : d = 0 <;> simp only [hd, if_true, if_false]

/-- An instruction that writes one register, completed. -/
theorem writeReg_completes (i : Instr) (d : Reg) (v : State → Word) (s : State) (h : issues i s) :
    ∃ t, writeReg i d v s = .next t ∧ writesReg d (v s) (s.g.pc + 4) s t := by
  refine ⟨(s.setReg d (v s)).commit4, userOp_of_issues h _, ?_⟩
  have := writesReg_commitAt s d (v s) (s.g.pc + 4)
  simpa [State.commit4, State.commitAt] using this

end Sys2Proof.Machine
end

