-- ==== Sys2Proof/Laws/Parity.lean ====
section
/-! SUPPORT. Physical memory: a byte reads as it was last written, the tag plane included, a write leaves every other byte, and every
write keeps the canonical form of the memories. -/
namespace Sys2Proof.Machine

/-- The tag plane holds the byte of a frame's tag at the place of that tag. -/
theorem tagHome_of_tagFrame {q : Parity} {p f : Nat} (h : tagFrame q p = some f) : tagHome q f = p / 8 * 8 := by
  simp only [tagFrame, Option.ite_none_left_eq_some, Option.ite_none_right_eq_some, Option.some.injEq] at h
  obtain ⟨-, ⟨-, h1⟩, h2⟩ := h
  exact h2 ▸ h1

/-- Two bytes that the same frame's tag holds lie in the same word. -/
theorem tagFrame_word {q : Parity} {p x f : Nat} (hp : tagFrame q p = some f) (hx : tagFrame q x = some f) : p / 8 = x / 8 := by
  have h1 := tagHome_of_tagFrame hp
  have h2 := tagHome_of_tagFrame hx
  omega

/-- Byte j of a word whose byte i has been replaced. -/
theorem byte_setBits (x : Word) (i j : Nat) (b : Byte) (hi : i < 8) (hj : j < 8) :
    BitVec.ofNat 8 ((setBits x (8 * i) 8 b.toNat).toNat / 2 ^ (8 * j)) = if j = i then b else BitVec.ofNat 8 (x.toNat / 2 ^ (8 * j)) := by
  have hx := x.isLt
  have hb := b.isLt
  apply BitVec.eq_of_toNat_eq
  have h8 : ∀ k, k < 8 → k = 0 ∨ k = 1 ∨ k = 2 ∨ k = 3 ∨ k = 4 ∨ k = 5 ∨ k = 6 ∨ k = 7 := by omega
  rcases h8 i hi with h | h | h | h | h | h | h | h <;> rcases h8 j hj with h' | h' | h' | h' | h' | h' | h' | h' <;>
    (subst h; subst h'; simp [setBits, bitsOf]; try omega)

/-- A store of one byte leaves the windows of peers. -/
@[simp] theorem peerCell_setMemByte (s : State) (p x : Nat) (b : Byte) : peerCell (setMemByte s p b) x = peerCell s x := by
  unfold setMemByte; split
  · rfl
  · split <;> rfl

/-- A store of one byte moves no layout. -/
@[simp] theorem setMemByte_parity (s : State) (p : Nat) (b : Byte) : (setMemByte s p b).parity = s.parity := by
  unfold setMemByte; split
  · rfl
  · split <;> rfl

/-- A store of one byte changes no naming of bytes. -/
@[simp] theorem sameCell_setMemByte (s : State) (p x y : Nat) (b : Byte) : sameCell (setMemByte s p b) x y = sameCell s x y := by
  simp [sameCell]

/-- Outside the memory of peers an address names its own byte. -/
theorem sameCell_local {s : State} {x p : Nat} (h : region p ≠ 1) : sameCell s x p = true ↔ x = p := by simp [sameCell, h]

/-- A byte of physical memory after one byte was stored. -/
theorem memByte_setMemByte (s : State) (p x : Nat) (b : Byte) : memByte (setMemByte s p b) x = if sameCell s x p then b else memByte s x := by
  by_cases h1 : region p = 1
  · by_cases h2 : region x = 1
    · have hc : sameCell s x p = true ↔ peerCell s x = peerCell s p := by
        simp only [sameCell, h1, h2, Bool.or_eq_true, beq_iff_eq, Bool.and_eq_true, true_and]
        exact ⟨fun h => h.elim (fun h => by rw [h]) id, .inr⟩
      have h3 : memByte (setMemByte s p b) x = rdByte (wrByte s.peerMem (peerCell s p) b) (peerCell s x) := by
        simp [memByte, h2, setMemByte, h1, peerCell, windowOfPeer]
      rw [h3, rdByte_wrByte]
      simp only [hc, memByte, h2, if_true]
    · have hne : sameCell s x p = false := by
        simp only [sameCell, Bool.or_eq_false_iff, beq_eq_false_iff_ne, Bool.and_eq_false_iff]
        exact ⟨by rintro rfl; exact h2 h1, .inl (.inl h2)⟩
      simp [hne, memByte, h2, setMemByte, h1]
  · by_cases h2 : region x = 1
    · have hne : sameCell s x p = false := by
        simp only [sameCell, Bool.or_eq_false_iff, beq_eq_false_iff_ne, Bool.and_eq_false_iff]
        exact ⟨by rintro rfl; exact h1 h2, .inl (.inr h1)⟩
      have h3 : (setMemByte s p b).peerMem = s.peerMem := by unfold setMemByte; rw [if_neg h1]; split <;> rfl
      simp [hne, memByte, h2, h3]
    · simp only [memByte, h2, if_false, setMemByte_parity, sameCell_local h1]
      unfold setMemByte
      rw [if_neg h1]
      cases hp : tagFrame s.parity p with
      | none =>
        cases hx : tagFrame s.parity x with
        | none => simp [rdByte_wrByte]
        | some f =>
          have hne : x ≠ p := by rintro rfl; rw [hp] at hx; cases hx
          simp [hne]
      | some f =>
        cases hx : tagFrame s.parity x with
        | none =>
          have hne : x ≠ p := by rintro rfl; rw [hp] at hx; cases hx
          simp [hne]
        | some f' =>
          dsimp only
          rw [mget_mset]
          by_cases hf : f' = f
          · subst hf
            have hw := tagFrame_word hp hx
            rw [if_pos rfl, byte_setBits _ _ _ _ (Nat.mod_lt _ (by decide)) (Nat.mod_lt _ (by decide))]
            by_cases he : x = p
            · rw [if_pos he, if_pos (by rw [he])]
            · rw [if_neg he, if_neg (by omega)]
          · have hne : x ≠ p := by rintro rfl; rw [hp] at hx; injection hx with hx; exact hf hx.symm
            rw [if_neg hf, if_neg hne]

/-- In local HBM outside the tag plane a byte of physical memory is a byte of the memory's list. -/
theorem memByte_clear (s : State) (pa n i : Nat) (h0 : region pa = 0 ∧ pa % 2 ^ 50 + n ≤ 2 ^ 50) (h : clearOfTags pa n = true) (hi : i < n) :
    memByte s (pa + i) = rdByte s.mem (pa + i) := by
  have hr : region (pa + i) = 0 := by unfold region at h0 ⊢; omega
  have ht : tagFrame s.parity (pa + i) = none := by
    unfold tagFrame
    rw [if_pos]
    simp only [clearOfTags, Bool.or_eq_true, decide_eq_true_eq] at h
    rcases h with h | h
    · exact .inl (by omega)
    · exact .inr (by omega)
  simp [memByte, ht, hr]

/-- Bytes of physical memory, one by one. -/
theorem memBytes_eq (s : State) (pa n : Nat) : memBytes s pa n = (List.range n).map fun i => memByte s (pa + i) := by
  unfold memBytes
  split
  · rename_i h
    obtain ⟨h0, h1, h2⟩ := h
    have hr : ∀ k a, rdBytes s.mem a k = (List.range k).map fun i => rdByte s.mem (a + i) := by
      intro k
      induction k with
      | zero => intro a; rfl
      | succ k ih =>
        intro a
        rw [rdBytes, ih, List.range_succ_eq_map, List.map_cons, List.map_map, Nat.add_zero]
        congr 1
        exact List.map_congr_left fun i _ => by simp only [Function.comp]; congr 1; omega
    rw [hr]
    exact List.map_congr_left fun i hi => (memByte_clear s pa n i ⟨h0, h1⟩ h2 (by simpa using hi)).symm
  · rfl

/-- A byte that none of the stored ones is, stored one by one from the i-th on, stays. -/
theorem memByte_foldl_outside (pa x : Nat) : ∀ (bs : List Byte) (s : State) (i : Nat), (∀ j < bs.length, sameCell s x (pa + (i + j)) = false) →
    memByte ((bs.zipIdx i).foldl (fun s y => setMemByte s (pa + y.2) y.1) s) x = memByte s x := by
  intro bs
  induction bs with
  | nil => intro s i _; rfl
  | cons b r ih =>
    intro s i h
    rw [List.zipIdx_cons, List.foldl_cons, ih _ _ fun j hj => by
      rw [sameCell_setMemByte]; have := h (j + 1) (by simpa using hj); rwa [show i + 1 + j = i + (j + 1) by omega]]
    rw [memByte_setMemByte, if_neg (by simpa using h 0 (by simp))]

/-- Byte k of those stored one by one from the i-th on, where no later one is the same byte. -/
theorem memByte_foldl_inside (pa k : Nat) : ∀ (bs : List Byte) (s : State) (i : Nat) (hk : k < bs.length),
    (∀ j < bs.length, k < j → sameCell s (pa + (i + k)) (pa + (i + j)) = false) →
    memByte ((bs.zipIdx i).foldl (fun s y => setMemByte s (pa + y.2) y.1) s) (pa + (i + k)) = bs[k] := by
  intro bs
  induction bs generalizing k with
  | nil => intro s i hk; exact absurd hk (by simp)
  | cons b r ih =>
    intro s i hk h
    rw [List.zipIdx_cons, List.foldl_cons]
    cases k with
    | zero =>
      rw [memByte_foldl_outside _ _ _ _ _ fun j hj => by
        rw [sameCell_setMemByte]; have := h (j + 1) (by simpa using hj) (by omega); rwa [show i + 1 + j = i + (j + 1) by omega]]
      rw [memByte_setMemByte, if_pos (by simp [sameCell])]
      rfl
    | succ k =>
      have h1 := ih k (setMemByte s (pa + i) b) (i + 1) (by simpa using hk) fun j hj hlt => by
        rw [sameCell_setMemByte]
        have := h (j + 1) (by simpa using hj) (by omega)
        rwa [show i + 1 + j = i + (j + 1) by omega, show i + 1 + k = i + (k + 1) by omega]
      rw [show i + 1 + k = i + (k + 1) by omega] at h1
      simpa using h1

/-- A byte that none of the stored ones is stays. -/
theorem memByte_setMemBytes_outside (s : State) (pa x : Nat) (bs : List Byte) (h : ∀ j < bs.length, sameCell s x (pa + j) = false) :
    memByte (setMemBytes s pa bs) x = memByte s x := by
  unfold setMemBytes
  split
  · have hx : x < pa ∨ pa + bs.length ≤ x := by
      by_cases hx : x < pa ∨ pa + bs.length ≤ x
      · exact hx
      · have := h (x - pa) (by omega)
        rw [show pa + (x - pa) = x by omega] at this
        simp [sameCell] at this
    unfold memByte
    dsimp only [peerCell, windowOfPeer]
    split
    · rfl
    · split
      · rfl
      · exact rdByte_wrBytes_outside bs _ _ _ hx
  · exact memByte_foldl_outside pa x bs s 0 (by simpa using h)

/-- Byte k of those stored, where no later one is the same byte. -/
theorem memByte_setMemBytes_inside (s : State) (pa k : Nat) (bs : List Byte) (hk : k < bs.length)
    (h : ∀ j < bs.length, k < j → sameCell s (pa + k) (pa + j) = false) : memByte (setMemBytes s pa bs) (pa + k) = bs[k] := by
  unfold setMemBytes
  split
  · rename_i hc
    obtain ⟨h0, h1, h2⟩ := hc
    rw [memByte_clear { s with mem := wrBytes s.mem pa bs } pa bs.length k ⟨h0, h1⟩ h2 hk]
    exact rdByte_wrBytes_inside bs s.mem pa k hk
  · simpa using memByte_foldl_inside pa k bs s 0 hk (by simpa using h)

/-- Two addresses of one window's 2^42 bytes, or of one block of that size in the other regions, name different bytes. -/
theorem sameCell_block (s : State) (pa j k : Nat) (hne : j ≠ k) (hj : pa % 2 ^ 42 + j < 2 ^ 42) (hk : pa % 2 ^ 42 + k < 2 ^ 42) :
    sameCell s (pa + j) (pa + k) = false := by
  have hw : peerWindow (pa + j) = peerWindow (pa + k) := by unfold peerWindow bitsOf; omega
  have hc : peerCell s (pa + j) ≠ peerCell s (pa + k) := by
    unfold peerCell windowOfPeer
    rw [hw]
    unfold peerOffset
    generalize rbaseOf (mget {} s.peerWindows (peerWindow (pa + k))) = r
    dsimp only
    omega
  simp [sameCell, hc, hne]

/-- Storing a byte keeps the canonical form of the memories. -/
theorem setMemByte_wf (s : State) (p : Nat) (b : Byte) (h : s.memoriesOk) : (setMemByte s p b).memoriesOk := by
  obtain ⟨h1, h2, h3⟩ := h
  unfold setMemByte
  split
  · exact ⟨h1, Memory.wf_wrByte _ _ _ h2, h3⟩
  · split
    · exact ⟨h1, h2, h3⟩
    · exact ⟨Memory.wf_wrByte _ _ _ h1, h2, h3⟩

/-- Storing bytes keeps the canonical form of the memories. -/
theorem setMemBytes_wf (s : State) (pa : Nat) (bs : List Byte) (h : s.memoriesOk) : (setMemBytes s pa bs).memoriesOk := by
  unfold setMemBytes
  split
  · exact ⟨Memory.wf_wrBytes _ _ _ h.1, h.2⟩
  · generalize bs.zipIdx = l
    induction l generalizing s with
    | nil => exact h
    | cons y r ih => exact ih _ (setMemByte_wf s _ _ h)

/-- Storing bytes leaves the field SRAM. -/
@[simp] theorem setMemByte_field (s : State) (p : Nat) (b : Byte) : (setMemByte s p b).field = s.field := by
  unfold setMemByte; split
  · rfl
  · split <;> rfl

/-- Storing bytes leaves the field SRAM. -/
@[simp] theorem setMemBytes_field (s : State) (pa : Nat) (bs : List Byte) : (setMemBytes s pa bs).field = s.field := by
  unfold setMemBytes
  split
  · rfl
  · generalize bs.zipIdx = l
    induction l generalizing s with
    | nil => rfl
    | cons y r ih => rw [List.foldl_cons, ih, setMemByte_field]

/-- A sound package has no word, no parity and no row-remap table in error, and its stacks keep their layout. -/
theorem sound_iff (s : State) :
    sound s = true ↔ s.parity.state = 0 ∧ s.memBad = [] ∧ s.parityBad = [] ∧ s.remapBad = [] ∧ s.mirrorBad = [] := by
  simp [sound, and_assoc]

/-- In a sound package a read of physical memory answers the bytes that are there, and leaves pseudo-channels awake alone (R71, R374,
R389). -/
theorem physRead_sound (s : State) (pa n : Nat) (h : sound s = true) :
    physRead s pa n = ({ s with channelPower := wake s pa n }, some (memBytes s pa n)) := by
  simp [physRead, physTouch, physPeek, sound] at h ⊢
  simp [h]

end Sys2Proof.Machine
end

