-- ==== Sys2Proof/Laws/Ops.lean ====
section
/-! SUPPORT. Taking an exception: what the shared operations of a trap do. -/
namespace Sys2Proof.Machine

/-- A word is the sum of its bits outside and inside a mask. -/
theorem and_not_add_and (x m : Word) : (x &&& ~~~m) + (x &&& m) = x := by
  rw [BitVec.add_eq_or_of_and_eq_zero]
  · ext i hi; simp; cases x[i] <;> cases m[i] <;> simp
  · ext i hi; simp; cases x[i] <;> cases m[i] <;> simp

/-- Clearing the two low bits of a word. -/
theorem setBits_low2 (x : Word) : setBits x 0 2 0 = x &&& ~~~3 := by
  have h1 := congrArg BitVec.toNat (and_not_add_and x 3)
  have h2 : (x &&& (3 : Word)).toNat = x.toNat % 4 := by
    rw [BitVec.toNat_and]; exact Nat.and_two_pow_sub_one_eq_mod x.toNat 2
  rw [BitVec.toNat_add, h2] at h1
  have h4 : x.toNat < 2 ^ 64 := x.isLt
  have h5 : (x &&& ~~~(3 : Word)).toNat < 2 ^ 64 := BitVec.isLt _
  have h6 : (x &&& ~~~(3 : Word)).toNat ≤ x.toNat := by rw [BitVec.toNat_and]; exact Nat.and_le_left
  apply BitVec.eq_of_toNat_eq
  have h7 : (setBits x 0 2 0).toNat = x.toNat - x.toNat % 4 := by simp [setBits, bitsOf]; omega
  omega

/-- An empty broadcast queue stops with an empty frame: only reservations of the read queue are given up. -/
theorem stopBanks_empty (s : State) (h : s.g.bq = []) :
    stopBanks s = ({ s with g := { s.g with bq := [], banks := [], pulls := [], tokens := [], rq := s.g.rq.filter Option.isSome } }, [], []) := by
  have hw : resumeWords s = [] := by simp [resumeWords, h, bankResume]
  simp [stopBanks, hw, h, settleTags, dropReserved]

/-- A cause enters the handler at gang level with an empty broadcast queue. -/
theorem enterHandler_now (s : State) (c : Cause) (gepc : Word) (h : trapsNow s) :
    enterHandler s c false gepc none = afterTrap c.code c.val c.val2 gepc s := by
  obtain ⟨h1, -, -, h4, h5⟩ := h
  have h6 : ¬ (s.g.pl = true ∨ s.g.gtvec = 0) := by simp [h4]; exact h5
  unfold enterHandler
  rw [if_neg h6]
  simp [stopBanks_empty s h1, afterTrap, causeWord, b2n, setBits_low2]

/-- A cause that the command core does not handle first, where nothing comes before it and the queue is empty (R219, R220). -/
theorem afterWaits_now (s : State) (take : State → State) (h : trapsNow s) : afterWaits s take = take s := by
  obtain ⟨h1, h2, -, -, -⟩ := h
  simp [afterWaits, h1, h2]

/-- Taking such a cause enters the handler. -/
theorem takeCause_now (s : State) (c : Cause) (gepc : Word) (h : trapsNow s) (hc : coreFirst c = false) :
    takeCause s c false gepc none = afterTrap c.code c.val c.val2 gepc s := by
  simp [takeCause, hc, enterHandler_now s c gepc h]

/-- A synchronous cause that the command core does not handle first, taken at once (R219, R220). -/
theorem trapAt_now (s : State) (c : Cause) (gepc : Word) (h : trapsNow s) (hc : coreFirst c = false) :
    trapAt s c gepc = afterTrap c.code c.val c.val2 gepc s := by
  rw [trapAt, afterWaits_now s _ h, takeCause_now s c gepc h hc]

/-- A trap at the instruction at the PC, taken at once. -/
theorem trapS_now (s : State) (code : Nat) (val val2 : Word) (h : trapsNow s) (hc : coreFirst ⟨code, val, val2, 0, 0, 0⟩ = false) :
    trapS s code val val2 = afterTrap code val val2 s.g.pc s := trapAt_now s _ _ h hc

/-- A synchronous cause with instructions of the broadcast stream outstanding and no cause before it waits (R220). -/
theorem afterWaits_waits (s : State) (take : State → State) (h1 : s.g.bankFault = false) (h2 : s.g.copyFault = none) (h3 : s.g.bq ≠ []) :
    afterWaits s take = stall s := by
  simp [afterWaits, h1, h2, h3]

/-- A bank fault that comes before a synchronous cause is taken in its place (R221). -/
theorem afterWaits_replaced (s : State) (take : State → State) (h : s.g.bankFault = true) : afterWaits s take = takePending s := by
  simp [afterWaits, h]

/-- A copy fault replaces a synchronous cause that waits for the queue (R220). -/
theorem afterWaits_copyFault (s : State) (take : State → State) (h1 : s.g.bankFault = false) (h2 : s.g.pl = false)
    (h3 : s.g.copyFault.isSome = true) (h4 : s.g.bq ≠ []) : afterWaits s take = takeCopy s := by
  simp [afterWaits, h1, h2, h3, h4]

/-- At gang level no copy waits for a pending frame. -/
theorem frameHeld_gangLevel (s : State) (h : s.g.pl = false) : frameHeld s = [] := by simp [frameHeld, h]

/-- Nor does one where no frame is pending. -/
theorem frameHeld_noFrame (s : State) (h : s.g.frame = []) : frameHeld s = [] := by simp [frameHeld, h]

@[simp] theorem queueDone_nil (s : State) : queueDone s [] = true := rfl

/-- Where no copy waits for a pending frame, only an empty queue is done. -/
theorem queueDone_held (s : State) (q : List Copy) (h : frameHeld s = []) : queueDone s q = q.isEmpty := by cases q <;> simp [queueDone, h]

/-- Memory that lists nothing reads as zeros. -/
theorem rdBytes_empty (n : Nat) : ∀ a, rdBytes [] a n = List.replicate n 0 := by
  induction n with
  | zero => intro a; rfl
  | succ n ih => intro a; rw [rdBytes, ih]; rfl

end Sys2Proof.Machine
end

