-- ==== Sys2Proof/Laws/PerInstr.lean ====
section
/-! SUPPORT. The round trip of every encoding, instruction by instruction: one lemma for each word format says what the decoder reads in
its fields, and one per constructor of `Instr` that its word decodes to it. -/
namespace Sys2Proof.Laws.RoundTrip

-- One lemma after another: their elaborations would otherwise hold many threads with large stacks at once.
set_option Elab.async false

/-- The word of an encoded instruction fits its length, says its length in its lowest two bits (R139), and decodes to it. -/
def Statement (i : Instr) : Prop :=
  i.isEvent = false → encodeWord i < 2 ^ (8 * i.bytes) ∧
    ((i.bytes = 8 ∧ encodeWord i % 4 = 3 ∧ decode64 (encodeWord i) = .ok i)
      ∨ (i.bytes = 4 ∧ encodeWord i % 4 ≠ 3 ∧ decode32 (encodeWord i) = .ok i))

theorem short {i : Instr} {n m : Nat} (hn : encodeWord i = n) (hi : i.bytes = 4) (hl : n < 2 ^ 32) (h4 : n % 4 = m % 4) (hm : m % 4 ≠ 3)
    (hd : decode32 n = .ok i) : Statement i := by
  subst hn
  exact fun _ => ⟨by rw [hi]; exact hl, .inr ⟨hi, h4 ▸ hm, hd⟩⟩

theorem decode32_integer (n : Nat) (h : bitsOf n 0 7 = 0) : decode32 n = decodeInteger n := by simp [decode32, h]
theorem decode32_sys (n : Nat) (h : bitsOf n 0 7 = 2) : decode32 n = decodeSys n := by simp [decode32, h]
theorem decode32_crx (n : Nat) (h : bitsOf n 0 7 = 6) : decode32 n = decodeCrx n := by simp [decode32, h]

/-- What the decoder finds in a word of each format (R142, R180, R186, R195, R199), `m` being its fixed bits. -/
theorem sa_fields (m : Nat) (d a b : Reg) (hm : m % 2 ^ 22 < 2 ^ 7) (hb : m < 2 ^ 32) :
    saWord m d a b < 2 ^ 32 ∧ saWord m d a b % 4 = m % 4 ∧ bitsOf (saWord m d a b) 0 7 = m % 2 ^ 7
      ∧ bitsOf (saWord m d a b) 22 10 = m / 2 ^ 22 ∧ fld (saWord m d a b) 7 5 = d ∧ fld (saWord m d a b) 12 5 = a
      ∧ fld (saWord m d a b) 17 5 = b := by
  have := d.isLt; have := a.isLt; have := b.isLt
  simp only [fld, bitsOf, saWord]
  refine ⟨?_, ?_, ?_, ?_, ?_, ?_, ?_⟩ <;> first | omega | (apply BitVec.eq_of_toNat_eq; rw [BitVec.toNat_ofNat]; omega)
theorem sa2_fields (m : Nat) (d a : Reg) (hm : m % 2 ^ 17 < 2 ^ 7) (hb : m < 2 ^ 32) :
    sa2Word m d a < 2 ^ 32 ∧ sa2Word m d a % 4 = m % 4 ∧ bitsOf (sa2Word m d a) 0 7 = m % 2 ^ 7
      ∧ bitsOf (sa2Word m d a) 22 10 = m / 2 ^ 22 ∧ bitsOf (sa2Word m d a) 17 5 = m / 2 ^ 17 % 2 ^ 5
      ∧ fld (sa2Word m d a) 7 5 = d ∧ fld (sa2Word m d a) 12 5 = a := by
  have := d.isLt; have := a.isLt
  simp only [fld, bitsOf, sa2Word]
  refine ⟨?_, ?_, ?_, ?_, ?_, ?_, ?_⟩ <;> first | omega | (apply BitVec.eq_of_toNat_eq; rw [BitVec.toNat_ofNat]; omega)
theorem si_fields (m : Nat) (d a : Reg) (i : BitVec 15) (hm : m < 2 ^ 7) (_ : m < 2 ^ 32) :
    siWord m d a i < 2 ^ 32 ∧ siWord m d a i % 4 = m % 4 ∧ bitsOf (siWord m d a i) 0 7 = m
      ∧ fld (siWord m d a i) 7 5 = d ∧ fld (siWord m d a i) 12 5 = a ∧ fld (siWord m d a i) 17 15 = i := by
  have := d.isLt; have := a.isLt; have := i.isLt
  simp only [fld, bitsOf, siWord]
  refine ⟨?_, ?_, ?_, ?_, ?_, ?_⟩ <;> first | omega | (apply BitVec.eq_of_toNat_eq; rw [BitVec.toNat_ofNat]; omega)
theorem su_fields (m : Nat) (d : Reg) (i : BitVec 20) (hm : m < 2 ^ 7) (_ : m < 2 ^ 32) :
    suWord m d i < 2 ^ 32 ∧ suWord m d i % 4 = m % 4 ∧ bitsOf (suWord m d i) 0 7 = m
      ∧ fld (suWord m d i) 7 5 = d ∧ fld (suWord m d i) 12 20 = i := by
  have := d.isLt; have := i.isLt
  simp only [fld, bitsOf, suWord]
  refine ⟨?_, ?_, ?_, ?_, ?_⟩ <;> first | omega | (apply BitVec.eq_of_toNat_eq; rw [BitVec.toNat_ofNat]; omega)
theorem sb_fields (m : Nat) (l a b : Reg) (h : BitVec 10) (hm : m < 2 ^ 7) (_ : m < 2 ^ 32) :
    sbWord m l a b h < 2 ^ 32 ∧ sbWord m l a b h % 4 = m % 4 ∧ bitsOf (sbWord m l a b h) 0 7 = m
      ∧ fld (sbWord m l a b h) 7 5 = l ∧ fld (sbWord m l a b h) 12 5 = a ∧ fld (sbWord m l a b h) 17 5 = b
      ∧ fld (sbWord m l a b h) 22 10 = h := by
  have := l.isLt; have := a.isLt; have := b.isLt; have := h.isLt
  simp only [fld, bitsOf, sbWord]
  refine ⟨?_, ?_, ?_, ?_, ?_, ?_, ?_⟩ <;> first | omega | (apply BitVec.eq_of_toNat_eq; rw [BitVec.toNat_ofNat]; omega)
theorem cr2_fields (m : Nat) (d : Reg) (n : BitVec 12) (hm : m < 2 ^ 7) (_ : m < 2 ^ 32) :
    cr2Word m d n < 2 ^ 32 ∧ cr2Word m d n % 4 = m % 4 ∧ bitsOf (cr2Word m d n) 0 7 = m ∧ bitsOf (cr2Word m d n) 29 3 = 0
      ∧ bitsOf (cr2Word m d n) 12 5 = 0 ∧ fld (cr2Word m d n) 7 5 = d ∧ fld (cr2Word m d n) 17 12 = n := by
  have := d.isLt; have := n.isLt
  simp only [fld, bitsOf, cr2Word]
  refine ⟨?_, ?_, ?_, ?_, ?_, ?_, ?_⟩ <;> first | omega | (apply BitVec.eq_of_toNat_eq; rw [BitVec.toNat_ofNat]; omega)
theorem cr3_fields (m : Nat) (d a : Reg) (n : BitVec 12) (hm : m % 2 ^ 29 < 2 ^ 7) (hb : m < 2 ^ 32) :
    cr3Word m d a n < 2 ^ 32 ∧ cr3Word m d a n % 4 = m % 4 ∧ bitsOf (cr3Word m d a n) 0 7 = m % 2 ^ 7
      ∧ bitsOf (cr3Word m d a n) 29 3 = m / 2 ^ 29 ∧ fld (cr3Word m d a n) 7 5 = d ∧ fld (cr3Word m d a n) 12 5 = a
      ∧ fld (cr3Word m d a n) 17 12 = n := by
  have := d.isLt; have := a.isLt; have := n.isLt
  simp only [fld, bitsOf, cr3Word]
  refine ⟨?_, ?_, ?_, ?_, ?_, ?_, ?_⟩ <;> first | omega | (apply BitVec.eq_of_toNat_eq; rw [BitVec.toNat_ofNat]; omega)
theorem ab_fields (m : Nat) (a b : Reg) (hm : m % 2 ^ 22 < 2 ^ 12) (hb : m < 2 ^ 32) :
    abWord m a b < 2 ^ 32 ∧ abWord m a b % 4 = m % 4 ∧ bitsOf (abWord m a b) 0 7 = m % 2 ^ 7
      ∧ bitsOf (abWord m a b) 22 10 = m / 2 ^ 22 ∧ bitsOf (abWord m a b) 7 5 = m / 2 ^ 7 % 2 ^ 5
      ∧ fld (abWord m a b) 12 5 = a ∧ fld (abWord m a b) 17 5 = b := by
  have := a.isLt; have := b.isLt
  simp only [fld, bitsOf, abWord]
  refine ⟨?_, ?_, ?_, ?_, ?_, ?_, ?_⟩ <;> first | omega | (apply BitVec.eq_of_toNat_eq; rw [BitVec.toNat_ofNat]; omega)
theorem db_fields (m : Nat) (d b : Reg) (hm : m % 2 ^ 22 < 2 ^ 7) (hb : m < 2 ^ 32) :
    dbWord m d b < 2 ^ 32 ∧ dbWord m d b % 4 = m % 4 ∧ bitsOf (dbWord m d b) 0 7 = m % 2 ^ 7
      ∧ bitsOf (dbWord m d b) 22 10 = m / 2 ^ 22 ∧ bitsOf (dbWord m d b) 12 5 = 0
      ∧ fld (dbWord m d b) 7 5 = d ∧ fld (dbWord m d b) 17 5 = b := by
  have := d.isLt; have := b.isLt
  simp only [fld, bitsOf, dbWord]
  refine ⟨?_, ?_, ?_, ?_, ?_, ?_, ?_⟩ <;> first | omega | (apply BitVec.eq_of_toNat_eq; rw [BitVec.toNat_ofNat]; omega)
theorem d1_fields (m : Nat) (d : Reg) (hm : m % 2 ^ 22 < 2 ^ 7) (hb : m < 2 ^ 32) :
    d1Word m d < 2 ^ 32 ∧ d1Word m d % 4 = m % 4 ∧ bitsOf (d1Word m d) 0 7 = m % 2 ^ 7 ∧ bitsOf (d1Word m d) 22 10 = m / 2 ^ 22
      ∧ bitsOf (d1Word m d) 12 5 = 0 ∧ bitsOf (d1Word m d) 17 5 = 0 ∧ fld (d1Word m d) 7 5 = d := by
  have := d.isLt
  simp only [fld, bitsOf, d1Word]
  refine ⟨?_, ?_, ?_, ?_, ?_, ?_, ?_⟩ <;> first | omega | (apply BitVec.eq_of_toNat_eq; rw [BitVec.toNat_ofNat]; omega)
theorem a1_fields (m : Nat) (a : Reg) (hm : m % 2 ^ 22 < 2 ^ 7) (hb : m < 2 ^ 32) :
    a1Word m a < 2 ^ 32 ∧ a1Word m a % 4 = m % 4 ∧ bitsOf (a1Word m a) 0 7 = m % 2 ^ 7 ∧ bitsOf (a1Word m a) 22 10 = m / 2 ^ 22
      ∧ bitsOf (a1Word m a) 7 5 = 0 ∧ bitsOf (a1Word m a) 17 5 = 0 ∧ fld (a1Word m a) 12 5 = a := by
  have := a.isLt
  simp only [fld, bitsOf, a1Word]
  refine ⟨?_, ?_, ?_, ?_, ?_, ?_, ?_⟩ <;> first | omega | (apply BitVec.eq_of_toNat_eq; rw [BitVec.toNat_ofNat]; omega)
theorem ldg_fields (m : Nat) (d a b : Reg) (z : BitVec 3) (o c : BitVec 2) (hm : m < 2 ^ 7) (_ : m < 2 ^ 32) :
    ldgWord m d a b z o c < 2 ^ 32 ∧ ldgWord m d a b z o c % 4 = m % 4 ∧ bitsOf (ldgWord m d a b z o c) 0 7 = m
      ∧ bitsOf (ldgWord m d a b z o c) 25 2 = 0 ∧ bitsOf (ldgWord m d a b z o c) 31 1 = 0
      ∧ fld (ldgWord m d a b z o c) 7 5 = d ∧ fld (ldgWord m d a b z o c) 12 5 = a ∧ fld (ldgWord m d a b z o c) 17 5 = b
      ∧ fld (ldgWord m d a b z o c) 22 3 = z ∧ fld (ldgWord m d a b z o c) 27 2 = o ∧ fld (ldgWord m d a b z o c) 29 2 = c := by
  have := d.isLt; have := a.isLt; have := b.isLt; have := z.isLt; have := o.isLt; have := c.isLt
  simp only [fld, bitsOf, ldgWord]
  refine ⟨?_, ?_, ?_, ?_, ?_, ?_, ?_, ?_, ?_, ?_, ?_⟩ <;> first | omega | (apply BitVec.eq_of_toNat_eq; rw [BitVec.toNat_ofNat]; omega)
theorem stg_fields (m : Nat) (d a b : Reg) (z : BitVec 3) (o c : BitVec 2) (hm : m < 2 ^ 7) (hb : m < 2 ^ 32) :
    stgWord m d a b z o c < 2 ^ 32 ∧ stgWord m d a b z o c % 4 = m % 4 ∧ bitsOf (stgWord m d a b z o c) 0 7 = m
      ∧ bitsOf (stgWord m d a b z o c) 25 2 = 0 ∧ bitsOf (stgWord m d a b z o c) 31 1 = 0
      ∧ fld (stgWord m d a b z o c) 7 5 = d ∧ fld (stgWord m d a b z o c) 12 5 = a ∧ fld (stgWord m d a b z o c) 17 5 = b
      ∧ fld (stgWord m d a b z o c) 22 3 = z ∧ fld (stgWord m d a b z o c) 27 2 = o ∧ fld (stgWord m d a b z o c) 29 2 = c :=
  ldg_fields m d a b z o c hm hb
theorem amo_fields (m : Nat) (d a b : Reg) (n : BitVec 4) (z : BitVec 1) (o c : BitVec 2) (g : BitVec 1) (hm : m < 2 ^ 7) (_ : m < 2 ^ 32) :
    amoWord m d a b n z o c g < 2 ^ 32 ∧ amoWord m d a b n z o c g % 4 = m % 4 ∧ bitsOf (amoWord m d a b n z o c g) 0 7 = m
      ∧ fld (amoWord m d a b n z o c g) 7 5 = d ∧ fld (amoWord m d a b n z o c g) 12 5 = a ∧ fld (amoWord m d a b n z o c g) 17 5 = b
      ∧ fld (amoWord m d a b n z o c g) 22 4 = n ∧ fld (amoWord m d a b n z o c g) 26 1 = z ∧ fld (amoWord m d a b n z o c g) 27 2 = o
      ∧ fld (amoWord m d a b n z o c g) 29 2 = c ∧ fld (amoWord m d a b n z o c g) 31 1 = g := by
  have := d.isLt; have := a.isLt; have := b.isLt; have := n.isLt; have := z.isLt; have := o.isLt; have := c.isLt; have := g.isLt
  simp only [fld, bitsOf, amoWord]
  refine ⟨?_, ?_, ?_, ?_, ?_, ?_, ?_, ?_, ?_, ?_, ?_⟩ <;> first | omega | (apply BitVec.eq_of_toNat_eq; rw [BitVec.toNat_ofNat]; omega)

/-- A BX word reads back whole (R149). -/
theorem bx_fields (bop : Nat) (f : BX) (hb : bop < 256) :
    bxWord bop f < 2 ^ 64 ∧ bxWord bop f % 16 = 3 ∧ bitsOf (bxWord bop f) 4 8 = bop ∧ bxOf (bxWord bop f) = f := by
  obtain ⟨d, a, b, c, ef, dm, am, bm, cm, ca, cb, cc, o, x, t, msk, rnd, sat, fn⟩ := f
  have := d.isLt; have := a.isLt; have := b.isLt; have := c.isLt; have := ef.isLt; have := dm.isLt; have := am.isLt; have := bm.isLt
  have := cm.isLt; have := ca.isLt; have := cb.isLt; have := cc.isLt; have := o.isLt; have := x.isLt; have := t.isLt; have := msk.isLt
  have := rnd.isLt; have := sat.isLt; have := fn.isLt
  refine ⟨?_, ?_, ?_, ?_⟩
  · simp only [bxWord]; omega
  · simp only [bxWord]; omega
  · simp only [bxWord, bitsOf]; omega
  · simp only [bxOf, BX.mk.injEq]
    refine ⟨?_, ?_, ?_, ?_, ?_, ?_, ?_, ?_, ?_, ?_, ?_, ?_, ?_, ?_, ?_, ?_, ?_, ?_, ?_⟩ <;>
      (apply BitVec.eq_of_toNat_eq; simp only [fld, bxWord]; rw [BitVec.toNat_ofNat]; omega)
/-- A TX word reads back whole, but for an operation code above 255 (R156). -/
theorem tx_fields (top : Nat) (f : TX) (hb : top < 256) :
    txWord top f < 2 ^ 64 ∧ txWord top f % 16 = 7 ∧ bitsOf (txWord top f) 4 8 = top ∧ bitsOf (txWord top f) 48 16 = 0
      ∧ txOf (txWord top f) = f := by
  obtain ⟨d, a, b, c, repm1, ca, cb, cc, o, x, fn⟩ := f
  have := d.isLt; have := a.isLt; have := b.isLt; have := c.isLt; have := repm1.isLt
  have := ca.isLt; have := cb.isLt; have := cc.isLt; have := o.isLt; have := x.isLt; have := fn.isLt
  refine ⟨?_, ?_, ?_, ?_, ?_⟩
  · simp only [txWord]; omega
  · simp only [txWord]; omega
  · simp only [txWord, bitsOf]; omega
  · simp only [txWord, bitsOf]; omega
  · simp only [txOf, TX.mk.injEq]
    refine ⟨?_, ?_, ?_, ?_, ?_, ?_, ?_, ?_, ?_, ?_, ?_⟩ <;>
      (apply BitVec.eq_of_toNat_eq; simp only [fld, txWord]; rw [BitVec.toNat_ofNat]; omega)
/-- A CX word reads back whole (R158). -/
theorem cx_fields (cop : Nat) (f : CX) (hb : cop < 256) :
    cxWord cop f < 2 ^ 64 ∧ cxWord cop f % 16 = 11 ∧ bitsOf (cxWord cop f) 4 8 = cop ∧ bitsOf (cxWord cop f) 31 1 = 0
      ∧ cxOf (cxWord cop f) = f := by
  obtain ⟨d, a, b, ch, sig, dir, opx⟩ := f
  have := d.isLt; have := a.isLt; have := b.isLt; have := ch.isLt; have := sig.isLt; have := dir.isLt; have := opx.isLt
  refine ⟨?_, ?_, ?_, ?_, ?_⟩
  · simp only [cxWord]; omega
  · simp only [cxWord]; omega
  · simp only [cxWord, bitsOf]; omega
  · simp only [cxWord, bitsOf]; omega
  · simp only [cxOf, CX.mk.injEq]
    refine ⟨?_, ?_, ?_, ?_, ?_, ?_, ?_⟩ <;>
      (apply BitVec.eq_of_toNat_eq; simp only [fld, cxWord]; rw [BitVec.toNat_ofNat]; omega)

theorem long {i : Instr} {n k : Nat} (hn : encodeWord i = n) (hi : i.bytes = 8) (hl : n < 2 ^ 64) (h16 : n % 16 = k) (hk : k % 4 = 3)
    (hd : decode64 n = .ok i) : Statement i := by
  subst hn
  exact fun _ => ⟨by rw [hi]; exact hl, .inl ⟨hi, by omega, hd⟩⟩

theorem decode64_bx (n : Nat) (h : n % 16 = 3) : decode64 n = decodeBx n := by
  have h2 : bitsOf n 2 2 = 0 := by simp only [bitsOf]; omega
  simp [decode64, h2]
theorem decode64_tx (n : Nat) (h : n % 16 = 7) : decode64 n = decodeTx n := by
  have h2 : bitsOf n 2 2 = 1 := by simp only [bitsOf]; omega
  simp [decode64, h2]
theorem decode64_cx (n : Nat) (h : n % 16 = 11) : decode64 n = decodeCx n := by
  have h2 : bitsOf n 2 2 = 2 := by simp only [bitsOf]; omega
  simp [decode64, h2]
theorem lim (d : Reg) (imm : BitVec 47) : Statement (.lim d imm) := by
  have := d.isLt; have := imm.isLt
  have h2 : bitsOf (encodeWord (.lim d imm)) 2 2 = 3 := by simp only [bitsOf, encodeWord]; omega
  have h4 : bitsOf (encodeWord (.lim d imm)) 4 8 = 0 := by simp only [bitsOf, encodeWord]; omega
  have hd : fld (encodeWord (.lim d imm)) 12 5 = d := by
    apply BitVec.eq_of_toNat_eq; simp only [fld, encodeWord]; rw [BitVec.toNat_ofNat]; omega
  have hi : fld (encodeWord (.lim d imm)) 17 47 = imm := by
    apply BitVec.eq_of_toNat_eq; simp only [fld, encodeWord]; rw [BitVec.toNat_ofNat]; omega
  exact long (k := 15) rfl rfl (by simp only [encodeWord]; omega) (by simp only [encodeWord]; omega) (by decide)
    (by rw [decode64, h2]; simp [h4, hd, hi])

theorem add (d : BitVec 5) (a : BitVec 5) (b : BitVec 5) : Statement (.add d a b) := by
  have q := sa_fields 0x00000000 d a b (by decide) (by decide)
  exact short (n := saWord 0x00000000 d a b) rfl rfl q.1 q.2.1 (by decide) (by rw [decode32_integer _ q.2.2.1]; simp [decodeInteger, q])
theorem sub (d : BitVec 5) (a : BitVec 5) (b : BitVec 5) : Statement (.sub d a b) := by
  have q := sa_fields 0x00400000 d a b (by decide) (by decide)
  exact short (n := saWord 0x00400000 d a b) rfl rfl q.1 q.2.1 (by decide) (by rw [decode32_integer _ q.2.2.1]; simp [decodeInteger, q])
theorem and (d : BitVec 5) (a : BitVec 5) (b : BitVec 5) : Statement (.and d a b) := by
  have q := sa_fields 0x00800000 d a b (by decide) (by decide)
  exact short (n := saWord 0x00800000 d a b) rfl rfl q.1 q.2.1 (by decide) (by rw [decode32_integer _ q.2.2.1]; simp [decodeInteger, q])
theorem or (d : BitVec 5) (a : BitVec 5) (b : BitVec 5) : Statement (.or d a b) := by
  have q := sa_fields 0x00C00000 d a b (by decide) (by decide)
  exact short (n := saWord 0x00C00000 d a b) rfl rfl q.1 q.2.1 (by decide) (by rw [decode32_integer _ q.2.2.1]; simp [decodeInteger, q])
theorem xor (d : BitVec 5) (a : BitVec 5) (b : BitVec 5) : Statement (.xor d a b) := by
  have q := sa_fields 0x01000000 d a b (by decide) (by decide)
  exact short (n := saWord 0x01000000 d a b) rfl rfl q.1 q.2.1 (by decide) (by rw [decode32_integer _ q.2.2.1]; simp [decodeInteger, q])
theorem andn (d : BitVec 5) (a : BitVec 5) (b : BitVec 5) : Statement (.andn d a b) := by
  have q := sa_fields 0x01400000 d a b (by decide) (by decide)
  exact short (n := saWord 0x01400000 d a b) rfl rfl q.1 q.2.1 (by decide) (by rw [decode32_integer _ q.2.2.1]; simp [decodeInteger, q])
theorem sll (d : BitVec 5) (a : BitVec 5) (b : BitVec 5) : Statement (.sll d a b) := by
  have q := sa_fields 0x02000000 d a b (by decide) (by decide)
  exact short (n := saWord 0x02000000 d a b) rfl rfl q.1 q.2.1 (by decide) (by rw [decode32_integer _ q.2.2.1]; simp [decodeInteger, q])
theorem srl (d : BitVec 5) (a : BitVec 5) (b : BitVec 5) : Statement (.srl d a b) := by
  have q := sa_fields 0x02400000 d a b (by decide) (by decide)
  exact short (n := saWord 0x02400000 d a b) rfl rfl q.1 q.2.1 (by decide) (by rw [decode32_integer _ q.2.2.1]; simp [decodeInteger, q])
theorem sra (d : BitVec 5) (a : BitVec 5) (b : BitVec 5) : Statement (.sra d a b) := by
  have q := sa_fields 0x02800000 d a b (by decide) (by decide)
  exact short (n := saWord 0x02800000 d a b) rfl rfl q.1 q.2.1 (by decide) (by rw [decode32_integer _ q.2.2.1]; simp [decodeInteger, q])
theorem rol (d : BitVec 5) (a : BitVec 5) (b : BitVec 5) : Statement (.rol d a b) := by
  have q := sa_fields 0x02C00000 d a b (by decide) (by decide)
  exact short (n := saWord 0x02C00000 d a b) rfl rfl q.1 q.2.1 (by decide) (by rw [decode32_integer _ q.2.2.1]; simp [decodeInteger, q])
theorem ror (d : BitVec 5) (a : BitVec 5) (b : BitVec 5) : Statement (.ror d a b) := by
  have q := sa_fields 0x03000000 d a b (by decide) (by decide)
  exact short (n := saWord 0x03000000 d a b) rfl rfl q.1 q.2.1 (by decide) (by rw [decode32_integer _ q.2.2.1]; simp [decodeInteger, q])
theorem slt (d : BitVec 5) (a : BitVec 5) (b : BitVec 5) : Statement (.slt d a b) := by
  have q := sa_fields 0x04000000 d a b (by decide) (by decide)
  exact short (n := saWord 0x04000000 d a b) rfl rfl q.1 q.2.1 (by decide) (by rw [decode32_integer _ q.2.2.1]; simp [decodeInteger, q])
theorem sltu (d : BitVec 5) (a : BitVec 5) (b : BitVec 5) : Statement (.sltu d a b) := by
  have q := sa_fields 0x04400000 d a b (by decide) (by decide)
  exact short (n := saWord 0x04400000 d a b) rfl rfl q.1 q.2.1 (by decide) (by rw [decode32_integer _ q.2.2.1]; simp [decodeInteger, q])
theorem min (d : BitVec 5) (a : BitVec 5) (b : BitVec 5) : Statement (.min d a b) := by
  have q := sa_fields 0x04800000 d a b (by decide) (by decide)
  exact short (n := saWord 0x04800000 d a b) rfl rfl q.1 q.2.1 (by decide) (by rw [decode32_integer _ q.2.2.1]; simp [decodeInteger, q])
theorem max (d : BitVec 5) (a : BitVec 5) (b : BitVec 5) : Statement (.max d a b) := by
  have q := sa_fields 0x04C00000 d a b (by decide) (by decide)
  exact short (n := saWord 0x04C00000 d a b) rfl rfl q.1 q.2.1 (by decide) (by rw [decode32_integer _ q.2.2.1]; simp [decodeInteger, q])
theorem minu (d : BitVec 5) (a : BitVec 5) (b : BitVec 5) : Statement (.minu d a b) := by
  have q := sa_fields 0x05000000 d a b (by decide) (by decide)
  exact short (n := saWord 0x05000000 d a b) rfl rfl q.1 q.2.1 (by decide) (by rw [decode32_integer _ q.2.2.1]; simp [decodeInteger, q])
theorem maxu (d : BitVec 5) (a : BitVec 5) (b : BitVec 5) : Statement (.maxu d a b) := by
  have q := sa_fields 0x05400000 d a b (by decide) (by decide)
  exact short (n := saWord 0x05400000 d a b) rfl rfl q.1 q.2.1 (by decide) (by rw [decode32_integer _ q.2.2.1]; simp [decodeInteger, q])
theorem mul (d : BitVec 5) (a : BitVec 5) (b : BitVec 5) : Statement (.mul d a b) := by
  have q := sa_fields 0x08000000 d a b (by decide) (by decide)
  exact short (n := saWord 0x08000000 d a b) rfl rfl q.1 q.2.1 (by decide) (by rw [decode32_integer _ q.2.2.1]; simp [decodeInteger, q])
theorem mulh (d : BitVec 5) (a : BitVec 5) (b : BitVec 5) : Statement (.mulh d a b) := by
  have q := sa_fields 0x08400000 d a b (by decide) (by decide)
  exact short (n := saWord 0x08400000 d a b) rfl rfl q.1 q.2.1 (by decide) (by rw [decode32_integer _ q.2.2.1]; simp [decodeInteger, q])
theorem mulhu (d : BitVec 5) (a : BitVec 5) (b : BitVec 5) : Statement (.mulhu d a b) := by
  have q := sa_fields 0x08800000 d a b (by decide) (by decide)
  exact short (n := saWord 0x08800000 d a b) rfl rfl q.1 q.2.1 (by decide) (by rw [decode32_integer _ q.2.2.1]; simp [decodeInteger, q])
theorem div (d : BitVec 5) (a : BitVec 5) (b : BitVec 5) : Statement (.div d a b) := by
  have q := sa_fields 0x09000000 d a b (by decide) (by decide)
  exact short (n := saWord 0x09000000 d a b) rfl rfl q.1 q.2.1 (by decide) (by rw [decode32_integer _ q.2.2.1]; simp [decodeInteger, q])
theorem divu (d : BitVec 5) (a : BitVec 5) (b : BitVec 5) : Statement (.divu d a b) := by
  have q := sa_fields 0x09400000 d a b (by decide) (by decide)
  exact short (n := saWord 0x09400000 d a b) rfl rfl q.1 q.2.1 (by decide) (by rw [decode32_integer _ q.2.2.1]; simp [decodeInteger, q])
theorem rem (d : BitVec 5) (a : BitVec 5) (b : BitVec 5) : Statement (.rem d a b) := by
  have q := sa_fields 0x09800000 d a b (by decide) (by decide)
  exact short (n := saWord 0x09800000 d a b) rfl rfl q.1 q.2.1 (by decide) (by rw [decode32_integer _ q.2.2.1]; simp [decodeInteger, q])
theorem remu (d : BitVec 5) (a : BitVec 5) (b : BitVec 5) : Statement (.remu d a b) := by
  have q := sa_fields 0x09C00000 d a b (by decide) (by decide)
  exact short (n := saWord 0x09C00000 d a b) rfl rfl q.1 q.2.1 (by decide) (by rw [decode32_integer _ q.2.2.1]; simp [decodeInteger, q])
theorem clmul (d : BitVec 5) (a : BitVec 5) (b : BitVec 5) : Statement (.clmul d a b) := by
  have q := sa_fields 0x0C000000 d a b (by decide) (by decide)
  exact short (n := saWord 0x0C000000 d a b) rfl rfl q.1 q.2.1 (by decide) (by rw [decode32_integer _ q.2.2.1]; simp [decodeInteger, q])
theorem clmulh (d : BitVec 5) (a : BitVec 5) (b : BitVec 5) : Statement (.clmulh d a b) := by
  have q := sa_fields 0x0C400000 d a b (by decide) (by decide)
  exact short (n := saWord 0x0C400000 d a b) rfl rfl q.1 q.2.1 (by decide) (by rw [decode32_integer _ q.2.2.1]; simp [decodeInteger, q])
theorem clz (d : BitVec 5) (a : BitVec 5) : Statement (.clz d a) := by
  have q := sa2_fields 0x0E000000 d a (by decide) (by decide)
  exact short (n := sa2Word 0x0E000000 d a) rfl rfl q.1 q.2.1 (by decide) (by rw [decode32_integer _ q.2.2.1]; simp [decodeInteger, q])
theorem ctz (d : BitVec 5) (a : BitVec 5) : Statement (.ctz d a) := by
  have q := sa2_fields 0x0E400000 d a (by decide) (by decide)
  exact short (n := sa2Word 0x0E400000 d a) rfl rfl q.1 q.2.1 (by decide) (by rw [decode32_integer _ q.2.2.1]; simp [decodeInteger, q])
theorem popc (d : BitVec 5) (a : BitVec 5) : Statement (.popc d a) := by
  have q := sa2_fields 0x0E800000 d a (by decide) (by decide)
  exact short (n := sa2Word 0x0E800000 d a) rfl rfl q.1 q.2.1 (by decide) (by rw [decode32_integer _ q.2.2.1]; simp [decodeInteger, q])
theorem sext (d : BitVec 5) (a : BitVec 5) (w : BitVec 5) : Statement (.sext d a w) := by
  have q := sa_fields 0x0F000000 d a w (by decide) (by decide)
  exact short (n := saWord 0x0F000000 d a w) rfl rfl q.1 q.2.1 (by decide) (by rw [decode32_integer _ q.2.2.1]; simp [decodeInteger, q])
theorem zext (d : BitVec 5) (a : BitVec 5) (w : BitVec 5) : Statement (.zext d a w) := by
  have q := sa_fields 0x0F400000 d a w (by decide) (by decide)
  exact short (n := saWord 0x0F400000 d a w) rfl rfl q.1 q.2.1 (by decide) (by rw [decode32_integer _ q.2.2.1]; simp [decodeInteger, q])
theorem addi (d : BitVec 5) (a : BitVec 5) (i : BitVec 15) : Statement (.addi d a i) := by
  have q := si_fields 0x00000004 d a i (by decide) (by decide)
  exact short (n := siWord 0x00000004 d a i) rfl rfl q.1 q.2.1 (by decide) (by simp [decode32, q])
theorem andi (d : BitVec 5) (a : BitVec 5) (i : BitVec 15) : Statement (.andi d a i) := by
  have q := si_fields 0x00000008 d a i (by decide) (by decide)
  exact short (n := siWord 0x00000008 d a i) rfl rfl q.1 q.2.1 (by decide) (by simp [decode32, q])
theorem ori (d : BitVec 5) (a : BitVec 5) (i : BitVec 15) : Statement (.ori d a i) := by
  have q := si_fields 0x0000000C d a i (by decide) (by decide)
  exact short (n := siWord 0x0000000C d a i) rfl rfl q.1 q.2.1 (by decide) (by simp [decode32, q])
theorem xori (d : BitVec 5) (a : BitVec 5) (i : BitVec 15) : Statement (.xori d a i) := by
  have q := si_fields 0x00000010 d a i (by decide) (by decide)
  exact short (n := siWord 0x00000010 d a i) rfl rfl q.1 q.2.1 (by decide) (by simp [decode32, q])
theorem slli (d : BitVec 5) (a : BitVec 5) (i : BitVec 15) : Statement (.slli d a i) := by
  have q := si_fields 0x00000014 d a i (by decide) (by decide)
  exact short (n := siWord 0x00000014 d a i) rfl rfl q.1 q.2.1 (by decide) (by simp [decode32, q])
theorem srli (d : BitVec 5) (a : BitVec 5) (i : BitVec 15) : Statement (.srli d a i) := by
  have q := si_fields 0x00000018 d a i (by decide) (by decide)
  exact short (n := siWord 0x00000018 d a i) rfl rfl q.1 q.2.1 (by decide) (by simp [decode32, q])
theorem srai (d : BitVec 5) (a : BitVec 5) (i : BitVec 15) : Statement (.srai d a i) := by
  have q := si_fields 0x0000001C d a i (by decide) (by decide)
  exact short (n := siWord 0x0000001C d a i) rfl rfl q.1 q.2.1 (by decide) (by simp [decode32, q])
theorem slti (d : BitVec 5) (a : BitVec 5) (i : BitVec 15) : Statement (.slti d a i) := by
  have q := si_fields 0x00000020 d a i (by decide) (by decide)
  exact short (n := siWord 0x00000020 d a i) rfl rfl q.1 q.2.1 (by decide) (by simp [decode32, q])
theorem sltiu (d : BitVec 5) (a : BitVec 5) (i : BitVec 15) : Statement (.sltiu d a i) := by
  have q := si_fields 0x00000024 d a i (by decide) (by decide)
  exact short (n := siWord 0x00000024 d a i) rfl rfl q.1 q.2.1 (by decide) (by simp [decode32, q])
theorem lih (d : BitVec 5) (i : BitVec 20) : Statement (.lih d i) := by
  have q := su_fields 0x00000001 d i (by decide) (by decide)
  exact short (n := suWord 0x00000001 d i) rfl rfl q.1 q.2.1 (by decide) (by simp [decode32, q])
theorem lb (d : BitVec 5) (a : BitVec 5) (i : BitVec 15) : Statement (.lb d a i) := by
  have q := si_fields 0x00000028 d a i (by decide) (by decide)
  exact short (n := siWord 0x00000028 d a i) rfl rfl q.1 q.2.1 (by decide) (by simp [decode32, q])
theorem lbu (d : BitVec 5) (a : BitVec 5) (i : BitVec 15) : Statement (.lbu d a i) := by
  have q := si_fields 0x0000002C d a i (by decide) (by decide)
  exact short (n := siWord 0x0000002C d a i) rfl rfl q.1 q.2.1 (by decide) (by simp [decode32, q])
theorem lh (d : BitVec 5) (a : BitVec 5) (i : BitVec 15) : Statement (.lh d a i) := by
  have q := si_fields 0x00000030 d a i (by decide) (by decide)
  exact short (n := siWord 0x00000030 d a i) rfl rfl q.1 q.2.1 (by decide) (by simp [decode32, q])
theorem lhu (d : BitVec 5) (a : BitVec 5) (i : BitVec 15) : Statement (.lhu d a i) := by
  have q := si_fields 0x00000034 d a i (by decide) (by decide)
  exact short (n := siWord 0x00000034 d a i) rfl rfl q.1 q.2.1 (by decide) (by simp [decode32, q])
theorem lw (d : BitVec 5) (a : BitVec 5) (i : BitVec 15) : Statement (.lw d a i) := by
  have q := si_fields 0x00000038 d a i (by decide) (by decide)
  exact short (n := siWord 0x00000038 d a i) rfl rfl q.1 q.2.1 (by decide) (by simp [decode32, q])
theorem lwu (d : BitVec 5) (a : BitVec 5) (i : BitVec 15) : Statement (.lwu d a i) := by
  have q := si_fields 0x0000003C d a i (by decide) (by decide)
  exact short (n := siWord 0x0000003C d a i) rfl rfl q.1 q.2.1 (by decide) (by simp [decode32, q])
theorem ld (d : BitVec 5) (a : BitVec 5) (i : BitVec 15) : Statement (.ld d a i) := by
  have q := si_fields 0x00000040 d a i (by decide) (by decide)
  exact short (n := siWord 0x00000040 d a i) rfl rfl q.1 q.2.1 (by decide) (by simp [decode32, q])
theorem sb (d : BitVec 5) (a : BitVec 5) (i : BitVec 15) : Statement (.sb d a i) := by
  have q := si_fields 0x00000044 d a i (by decide) (by decide)
  exact short (n := siWord 0x00000044 d a i) rfl rfl q.1 q.2.1 (by decide) (by simp [decode32, q])
theorem sh (d : BitVec 5) (a : BitVec 5) (i : BitVec 15) : Statement (.sh d a i) := by
  have q := si_fields 0x00000048 d a i (by decide) (by decide)
  exact short (n := siWord 0x00000048 d a i) rfl rfl q.1 q.2.1 (by decide) (by simp [decode32, q])
theorem sw (d : BitVec 5) (a : BitVec 5) (i : BitVec 15) : Statement (.sw d a i) := by
  have q := si_fields 0x0000004C d a i (by decide) (by decide)
  exact short (n := siWord 0x0000004C d a i) rfl rfl q.1 q.2.1 (by decide) (by simp [decode32, q])
theorem sd (d : BitVec 5) (a : BitVec 5) (i : BitVec 15) : Statement (.sd d a i) := by
  have q := si_fields 0x00000050 d a i (by decide) (by decide)
  exact short (n := siWord 0x00000050 d a i) rfl rfl q.1 q.2.1 (by decide) (by simp [decode32, q])
theorem ldg (d : BitVec 5) (a : BitVec 5) (b : BitVec 5) (z : BitVec 3) (o : BitVec 2) (c : BitVec 2) : Statement (.ldg d a b z o c) := by
  have q := ldg_fields 0x00000054 d a b z o c (by decide) (by decide)
  exact short (n := ldgWord 0x00000054 d a b z o c) rfl rfl q.1 q.2.1 (by decide) (by simp [decode32, q])
theorem stg (d : BitVec 5) (a : BitVec 5) (b : BitVec 5) (z : BitVec 3) (o : BitVec 2) (c : BitVec 2) : Statement (.stg d a b z o c) := by
  have q := stg_fields 0x00000058 d a b z o c (by decide) (by decide)
  exact short (n := stgWord 0x00000058 d a b z o c) rfl rfl q.1 q.2.1 (by decide) (by simp [decode32, q])
theorem amo (d : BitVec 5) (a : BitVec 5) (b : BitVec 5) (n : BitVec 4) (z : BitVec 1) (o : BitVec 2) (c : BitVec 2) (g : BitVec 1) : Statement (.amo d a b n z o c g) := by
  have q := amo_fields 0x0000005C d a b n z o c g (by decide) (by decide)
  exact short (n := amoWord 0x0000005C d a b n z o c g) rfl rfl q.1 q.2.1 (by decide) (by simp [decode32, q])
theorem beq (l : BitVec 5) (a : BitVec 5) (b : BitVec 5) (h : BitVec 10) : Statement (.beq l a b h) := by
  have q := sb_fields 0x00000060 l a b h (by decide) (by decide)
  exact short (n := sbWord 0x00000060 l a b h) rfl rfl q.1 q.2.1 (by decide) (by simp [decode32, q])
theorem bne (l : BitVec 5) (a : BitVec 5) (b : BitVec 5) (h : BitVec 10) : Statement (.bne l a b h) := by
  have q := sb_fields 0x00000064 l a b h (by decide) (by decide)
  exact short (n := sbWord 0x00000064 l a b h) rfl rfl q.1 q.2.1 (by decide) (by simp [decode32, q])
theorem blt (l : BitVec 5) (a : BitVec 5) (b : BitVec 5) (h : BitVec 10) : Statement (.blt l a b h) := by
  have q := sb_fields 0x00000068 l a b h (by decide) (by decide)
  exact short (n := sbWord 0x00000068 l a b h) rfl rfl q.1 q.2.1 (by decide) (by simp [decode32, q])
theorem bge (l : BitVec 5) (a : BitVec 5) (b : BitVec 5) (h : BitVec 10) : Statement (.bge l a b h) := by
  have q := sb_fields 0x0000006C l a b h (by decide) (by decide)
  exact short (n := sbWord 0x0000006C l a b h) rfl rfl q.1 q.2.1 (by decide) (by simp [decode32, q])
theorem bltu (l : BitVec 5) (a : BitVec 5) (b : BitVec 5) (h : BitVec 10) : Statement (.bltu l a b h) := by
  have q := sb_fields 0x00000070 l a b h (by decide) (by decide)
  exact short (n := sbWord 0x00000070 l a b h) rfl rfl q.1 q.2.1 (by decide) (by simp [decode32, q])
theorem bgeu (l : BitVec 5) (a : BitVec 5) (b : BitVec 5) (h : BitVec 10) : Statement (.bgeu l a b h) := by
  have q := sb_fields 0x00000074 l a b h (by decide) (by decide)
  exact short (n := sbWord 0x00000074 l a b h) rfl rfl q.1 q.2.1 (by decide) (by simp [decode32, q])
theorem jal (d : BitVec 5) (o : BitVec 20) : Statement (.jal d o) := by
  have q := su_fields 0x00000078 d o (by decide) (by decide)
  exact short (n := suWord 0x00000078 d o) rfl rfl q.1 q.2.1 (by decide) (by simp [decode32, q])
theorem jalr (d : BitVec 5) (a : BitVec 5) (i : BitVec 15) : Statement (.jalr d a i) := by
  have q := si_fields 0x0000007C d a i (by decide) (by decide)
  exact short (n := siWord 0x0000007C d a i) rfl rfl q.1 q.2.1 (by decide) (by simp [decode32, q])
theorem crd (d : BitVec 5) (n : BitVec 12) : Statement (.crd d n) := by
  have q := cr2_fields 0x00000006 d n (by decide) (by decide)
  exact short (n := cr2Word 0x00000006 d n) rfl rfl q.1 q.2.1 (by decide) (by rw [decode32_crx _ q.2.2.1]; simp [decodeCrx, q])
theorem cwr (d : BitVec 5) (a : BitVec 5) (n : BitVec 12) : Statement (.cwr d a n) := by
  have q := cr3_fields 0x20000006 d a n (by decide) (by decide)
  exact short (n := cr3Word 0x20000006 d a n) rfl rfl q.1 q.2.1 (by decide) (by rw [decode32_crx _ q.2.2.1]; simp [decodeCrx, q])
theorem cset (d : BitVec 5) (a : BitVec 5) (n : BitVec 12) : Statement (.cset d a n) := by
  have q := cr3_fields 0x40000006 d a n (by decide) (by decide)
  exact short (n := cr3Word 0x40000006 d a n) rfl rfl q.1 q.2.1 (by decide) (by rw [decode32_crx _ q.2.2.1]; simp [decodeCrx, q])
theorem cclr (d : BitVec 5) (a : BitVec 5) (n : BitVec 12) : Statement (.cclr d a n) := by
  have q := cr3_fields 0x60000006 d a n (by decide) (by decide)
  exact short (n := cr3Word 0x60000006 d a n) rfl rfl q.1 q.2.1 (by decide) (by rw [decode32_crx _ q.2.2.1]; simp [decodeCrx, q])
theorem registerWrite (r : DevReg) (v : Word) : Statement (.registerWrite r v) := nofun
theorem chstatCancel (c : BitVec 3) : Statement (.chstatCancel c) := nofun
theorem chstatErrorClear (c : BitVec 3) (m : BitVec 7) : Statement (.chstatErrorClear c m) := nofun
theorem convresWrite (v : Word) : Statement (.convresWrite v) := nofun
theorem setec (d : BitVec 5) (a : BitVec 5) : Statement (.setec d a) := by
  have q := sa2_fields 0x04000002 d a (by decide) (by decide)
  exact short (n := sa2Word 0x04000002 d a) rfl rfl q.1 q.2.1 (by decide) (by rw [decode32_sys _ q.2.2.1]; simp [decodeSys, q])
theorem setecT (d : BitVec 5) (a : BitVec 5) : Statement (.setecT d a) := by
  have q := sa2_fields 0x04020002 d a (by decide) (by decide)
  exact short (n := sa2Word 0x04020002 d a) rfl rfl q.1 q.2.1 (by decide) (by rw [decode32_sys _ q.2.2.1]; simp [decodeSys, q])
theorem setspan (d : BitVec 5) (a : BitVec 5) : Statement (.setspan d a) := by
  have q := sa2_fields 0x04400002 d a (by decide) (by decide)
  exact short (n := sa2Word 0x04400002 d a) rfl rfl q.1 q.2.1 (by decide) (by rw [decode32_sys _ q.2.2.1]; simp [decodeSys, q])
theorem fwset (d : BitVec 5) (a : BitVec 5) (b : BitVec 5) : Statement (.fwset d a b) := by
  have q := sa_fields 0x04800002 d a b (by decide) (by decide)
  exact short (n := saWord 0x04800002 d a b) rfl rfl q.1 q.2.1 (by decide) (by rw [decode32_sys _ q.2.2.1]; simp [decodeSys, q])
theorem fwget (d : BitVec 5) (a : BitVec 5) (b : BitVec 5) : Statement (.fwget d a b) := by
  have q := sa_fields 0x04C00002 d a b (by decide) (by decide)
  exact short (n := saWord 0x04C00002 d a b) rfl rfl q.1 q.2.1 (by decide) (by rw [decode32_sys _ q.2.2.1]; simp [decodeSys, q])
theorem owner (d : BitVec 5) (a : BitVec 5) : Statement (.owner d a) := by
  have q := sa2_fields 0x05000002 d a (by decide) (by decide)
  exact short (n := sa2Word 0x05000002 d a) rfl rfl q.1 q.2.1 (by decide) (by rw [decode32_sys _ q.2.2.1]; simp [decodeSys, q])
theorem rqpop (d : BitVec 5) : Statement (.rqpop d) := by
  have q := d1_fields 0x08000002 d (by decide) (by decide)
  exact short (n := d1Word 0x08000002 d) rfl rfl q.1 q.2.1 (by decide) (by rw [decode32_sys _ q.2.2.1]; simp [decodeSys, q])
theorem rqstat (d : BitVec 5) : Statement (.rqstat d) := by
  have q := d1_fields 0x08400002 d (by decide) (by decide)
  exact short (n := d1Word 0x08400002 d) rfl rfl q.1 q.2.1 (by decide) (by rw [decode32_sys _ q.2.2.1]; simp [decodeSys, q])
theorem eqpush (a : BitVec 5) (p : BitVec 5) : Statement (.eqpush a p) := by
  have q := ab_fields 0x09000002 a p (by decide) (by decide)
  exact short (n := abWord 0x09000002 a p) rfl rfl q.1 q.2.1 (by decide) (by rw [decode32_sys _ q.2.2.1]; simp [decodeSys, q])
theorem eqpushLast (a : BitVec 5) (p : BitVec 5) : Statement (.eqpushLast a p) := by
  have q := ab_fields 0x09000082 a p (by decide) (by decide)
  exact short (n := abWord 0x09000082 a p) rfl rfl q.1 q.2.1 (by decide) (by rw [decode32_sys _ q.2.2.1]; simp [decodeSys, q])
theorem eqpop (d : BitVec 5) (p : BitVec 5) : Statement (.eqpop d p) := by
  have q := db_fields 0x09400002 d p (by decide) (by decide)
  exact short (n := dbWord 0x09400002 d p) rfl rfl q.1 q.2.1 (by decide) (by rw [decode32_sys _ q.2.2.1]; simp [decodeSys, q])
theorem eqstat (d : BitVec 5) (p : BitVec 5) : Statement (.eqstat d p) := by
  have q := db_fields 0x09800002 d p (by decide) (by decide)
  exact short (n := dbWord 0x09800002 d p) rfl rfl q.1 q.2.1 (by decide) (by rw [decode32_sys _ q.2.2.1]; simp [decodeSys, q])
theorem fence (s : BitVec 5) (k : BitVec 5) : Statement (.fence s k) := by
  have q := ab_fields 0x0C000002 s k (by decide) (by decide)
  exact short (n := abWord 0x0C000002 s k) rfl rfl q.1 q.2.1 (by decide) (by rw [decode32_sys _ q.2.2.1]; simp [decodeSys, q])
theorem fenceb (b : BitVec 5) (c : BitVec 5) : Statement (.fenceb b c) := by
  have q := ab_fields 0x0C400002 b c (by decide) (by decide)
  exact short (n := abWord 0x0C400002 b c) rfl rfl q.1 q.2.1 (by decide) (by rw [decode32_sys _ q.2.2.1]; simp [decodeSys, q])
theorem barrierArrival (gang : Nat) (bar : BitVec 5) : Statement (.barrierArrival gang bar) := nofun
theorem waitb (b : BitVec 5) : Statement (.waitb b) := by
  have q := a1_fields 0x0C800002 b (by decide) (by decide)
  exact short (n := a1Word 0x0C800002 b) rfl rfl q.1 q.2.1 (by decide) (by rw [decode32_sys _ q.2.2.1]; simp [decodeSys, q])
theorem barcfg (d : BitVec 5) (b : BitVec 5) (n : BitVec 5) : Statement (.barcfg d b n) := by
  have q := sa_fields 0x0CC00002 d b n (by decide) (by decide)
  exact short (n := saWord 0x0CC00002 d b n) rfl rfl q.1 q.2.1 (by decide) (by rw [decode32_sys _ q.2.2.1]; simp [decodeSys, q])
theorem bqwait : Statement (.bqwait) := fun _ => ⟨by decide, .inr ⟨rfl, by decide, by rfl⟩⟩
theorem sigwait (c : BitVec 5) (a : BitVec 5) (b : BitVec 5) : Statement (.sigwait c a b) := by
  have q := sa_fields 0x0E000002 c a b (by decide) (by decide)
  exact short (n := saWord 0x0E000002 c a b) rfl rfl q.1 q.2.1 (by decide) (by rw [decode32_sys _ q.2.2.1]; simp [decodeSys, q])
theorem sigpost (c : BitVec 5) (a : BitVec 5) (b : BitVec 5) : Statement (.sigpost c a b) := by
  have q := sa_fields 0x0E400002 c a b (by decide) (by decide)
  exact short (n := saWord 0x0E400002 c a b) rfl rfl q.1 q.2.1 (by decide) (by rw [decode32_sys _ q.2.2.1]; simp [decodeSys, q])
theorem awset (w : BitVec 5) (a : BitVec 5) (b : BitVec 5) : Statement (.awset w a b) := by
  have q := sa_fields 0x10000002 w a b (by decide) (by decide)
  exact short (n := saWord 0x10000002 w a b) rfl rfl q.1 q.2.1 (by decide) (by rw [decode32_sys _ q.2.2.1]; simp [decodeSys, q])
theorem trap (l : BitVec 5) (h : BitVec 5) : Statement (.trap l h) := by
  have q := ab_fields 0xFC000002 l h (by decide) (by decide)
  exact short (n := abWord 0xFC000002 l h) rfl rfl q.1 q.2.1 (by decide) (by rw [decode32_sys _ q.2.2.1]; simp [decodeSys, q])
theorem eret : Statement (.eret) := fun _ => ⟨by decide, .inr ⟨rfl, by decide, by rfl⟩⟩
theorem eretSkip : Statement (.eretSkip) := fun _ => ⟨by decide, .inr ⟨rfl, by decide, by rfl⟩⟩
theorem eretDrop : Statement (.eretDrop) := fun _ => ⟨by decide, .inr ⟨rfl, by decide, by rfl⟩⟩
theorem brk : Statement (.brk) := fun _ => ⟨by decide, .inr ⟨rfl, by decide, by rfl⟩⟩
theorem wfe : Statement (.wfe) := fun _ => ⟨by decide, .inr ⟨rfl, by decide, by rfl⟩⟩
theorem yield : Statement (.yield) := fun _ => ⟨by decide, .inr ⟨rfl, by decide, by rfl⟩⟩
theorem halt : Statement (.halt) := fun _ => ⟨by decide, .inr ⟨rfl, by decide, by rfl⟩⟩
theorem qsave (a : BitVec 5) : Statement (.qsave a) := by
  have q := a1_fields 0xFE000002 a (by decide) (by decide)
  exact short (n := a1Word 0xFE000002 a) rfl rfl q.1 q.2.1 (by decide) (by rw [decode32_sys _ q.2.2.1]; simp [decodeSys, q])
theorem qload (a : BitVec 5) : Statement (.qload a) := by
  have q := a1_fields 0xFE400002 a (by decide) (by decide)
  exact short (n := a1Word 0xFE400002 a) rfl rfl q.1 q.2.1 (by decide) (by rw [decode32_sys _ q.2.2.1]; simp [decodeSys, q])
theorem vadd (f : BX) : Statement (.vadd f) := by
  have q := bx_fields 0x00 f (by decide)
  exact long (n := bxWord 0x00 f) rfl rfl q.1 q.2.1 (by decide) (by rw [decode64_bx _ q.2.1]; simp [decodeBx, q])
theorem vsub (f : BX) : Statement (.vsub f) := by
  have q := bx_fields 0x01 f (by decide)
  exact long (n := bxWord 0x01 f) rfl rfl q.1 q.2.1 (by decide) (by rw [decode64_bx _ q.2.1]; simp [decodeBx, q])
theorem vmul (f : BX) : Statement (.vmul f) := by
  have q := bx_fields 0x02 f (by decide)
  exact long (n := bxWord 0x02 f) rfl rfl q.1 q.2.1 (by decide) (by rw [decode64_bx _ q.2.1]; simp [decodeBx, q])
theorem vfma (f : BX) : Statement (.vfma f) := by
  have q := bx_fields 0x03 f (by decide)
  exact long (n := bxWord 0x03 f) rfl rfl q.1 q.2.1 (by decide) (by rw [decode64_bx _ q.2.1]; simp [decodeBx, q])
theorem vfms (f : BX) : Statement (.vfms f) := by
  have q := bx_fields 0x04 f (by decide)
  exact long (n := bxWord 0x04 f) rfl rfl q.1 q.2.1 (by decide) (by rw [decode64_bx _ q.2.1]; simp [decodeBx, q])
theorem vfnma (f : BX) : Statement (.vfnma f) := by
  have q := bx_fields 0x05 f (by decide)
  exact long (n := bxWord 0x05 f) rfl rfl q.1 q.2.1 (by decide) (by rw [decode64_bx _ q.2.1]; simp [decodeBx, q])
theorem vdiv (f : BX) : Statement (.vdiv f) := by
  have q := bx_fields 0x06 f (by decide)
  exact long (n := bxWord 0x06 f) rfl rfl q.1 q.2.1 (by decide) (by rw [decode64_bx _ q.2.1]; simp [decodeBx, q])
theorem vsqrt (f : BX) : Statement (.vsqrt f) := by
  have q := bx_fields 0x07 f (by decide)
  exact long (n := bxWord 0x07 f) rfl rfl q.1 q.2.1 (by decide) (by rw [decode64_bx _ q.2.1]; simp [decodeBx, q])
theorem vmin (f : BX) : Statement (.vmin f) := by
  have q := bx_fields 0x08 f (by decide)
  exact long (n := bxWord 0x08 f) rfl rfl q.1 q.2.1 (by decide) (by rw [decode64_bx _ q.2.1]; simp [decodeBx, q])
theorem vmax (f : BX) : Statement (.vmax f) := by
  have q := bx_fields 0x09 f (by decide)
  exact long (n := bxWord 0x09 f) rfl rfl q.1 q.2.1 (by decide) (by rw [decode64_bx _ q.2.1]; simp [decodeBx, q])
theorem vabs (f : BX) : Statement (.vabs f) := by
  have q := bx_fields 0x0A f (by decide)
  exact long (n := bxWord 0x0A f) rfl rfl q.1 q.2.1 (by decide) (by rw [decode64_bx _ q.2.1]; simp [decodeBx, q])
theorem vneg (f : BX) : Statement (.vneg f) := by
  have q := bx_fields 0x0B f (by decide)
  exact long (n := bxWord 0x0B f) rfl rfl q.1 q.2.1 (by decide) (by rw [decode64_bx _ q.2.1]; simp [decodeBx, q])
theorem vcpys (f : BX) : Statement (.vcpys f) := by
  have q := bx_fields 0x0C f (by decide)
  exact long (n := bxWord 0x0C f) rfl rfl q.1 q.2.1 (by decide) (by rw [decode64_bx _ q.2.1]; simp [decodeBx, q])
theorem vfun (f : BX) : Statement (.vfun f) := by
  have q := bx_fields 0x0D f (by decide)
  exact long (n := bxWord 0x0D f) rfl rfl q.1 q.2.1 (by decide) (by rw [decode64_bx _ q.2.1]; simp [decodeBx, q])
theorem vmulh (f : BX) : Statement (.vmulh f) := by
  have q := bx_fields 0x0E f (by decide)
  exact long (n := bxWord 0x0E f) rfl rfl q.1 q.2.1 (by decide) (by rw [decode64_bx _ q.2.1]; simp [decodeBx, q])
theorem vavg (f : BX) : Statement (.vavg f) := by
  have q := bx_fields 0x0F f (by decide)
  exact long (n := bxWord 0x0F f) rfl rfl q.1 q.2.1 (by decide) (by rw [decode64_bx _ q.2.1]; simp [decodeBx, q])
theorem vclass (f : BX) : Statement (.vclass f) := by
  have q := bx_fields 0x10 f (by decide)
  exact long (n := bxWord 0x10 f) rfl rfl q.1 q.2.1 (by decide) (by rw [decode64_bx _ q.2.1]; simp [decodeBx, q])
theorem vand (f : BX) : Statement (.vand f) := by
  have q := bx_fields 0x20 f (by decide)
  exact long (n := bxWord 0x20 f) rfl rfl q.1 q.2.1 (by decide) (by rw [decode64_bx _ q.2.1]; simp [decodeBx, q])
theorem vor (f : BX) : Statement (.vor f) := by
  have q := bx_fields 0x21 f (by decide)
  exact long (n := bxWord 0x21 f) rfl rfl q.1 q.2.1 (by decide) (by rw [decode64_bx _ q.2.1]; simp [decodeBx, q])
theorem vxor (f : BX) : Statement (.vxor f) := by
  have q := bx_fields 0x22 f (by decide)
  exact long (n := bxWord 0x22 f) rfl rfl q.1 q.2.1 (by decide) (by rw [decode64_bx _ q.2.1]; simp [decodeBx, q])
theorem vsll (f : BX) : Statement (.vsll f) := by
  have q := bx_fields 0x23 f (by decide)
  exact long (n := bxWord 0x23 f) rfl rfl q.1 q.2.1 (by decide) (by rw [decode64_bx _ q.2.1]; simp [decodeBx, q])
theorem vsrl (f : BX) : Statement (.vsrl f) := by
  have q := bx_fields 0x24 f (by decide)
  exact long (n := bxWord 0x24 f) rfl rfl q.1 q.2.1 (by decide) (by rw [decode64_bx _ q.2.1]; simp [decodeBx, q])
theorem vsra (f : BX) : Statement (.vsra f) := by
  have q := bx_fields 0x25 f (by decide)
  exact long (n := bxWord 0x25 f) rfl rfl q.1 q.2.1 (by decide) (by rw [decode64_bx _ q.2.1]; simp [decodeBx, q])
theorem vclmul (f : BX) : Statement (.vclmul f) := by
  have q := bx_fields 0x26 f (by decide)
  exact long (n := bxWord 0x26 f) rfl rfl q.1 q.2.1 (by decide) (by rw [decode64_bx _ q.2.1]; simp [decodeBx, q])
theorem vclmulh (f : BX) : Statement (.vclmulh f) := by
  have q := bx_fields 0x27 f (by decide)
  exact long (n := bxWord 0x27 f) rfl rfl q.1 q.2.1 (by decide) (by rw [decode64_bx _ q.2.1]; simp [decodeBx, q])
theorem vpopc (f : BX) : Statement (.vpopc f) := by
  have q := bx_fields 0x28 f (by decide)
  exact long (n := bxWord 0x28 f) rfl rfl q.1 q.2.1 (by decide) (by rw [decode64_bx _ q.2.1]; simp [decodeBx, q])
theorem vclz (f : BX) : Statement (.vclz f) := by
  have q := bx_fields 0x29 f (by decide)
  exact long (n := bxWord 0x29 f) rfl rfl q.1 q.2.1 (by decide) (by rw [decode64_bx _ q.2.1]; simp [decodeBx, q])
theorem vcmp (f : BX) : Statement (.vcmp f) := by
  have q := bx_fields 0x30 f (by decide)
  exact long (n := bxWord 0x30 f) rfl rfl q.1 q.2.1 (by decide) (by rw [decode64_bx _ q.2.1]; simp [decodeBx, q])
theorem vselm (f : BX) : Statement (.vselm f) := by
  have q := bx_fields 0x31 f (by decide)
  exact long (n := bxWord 0x31 f) rfl rfl q.1 q.2.1 (by decide) (by rw [decode64_bx _ q.2.1]; simp [decodeBx, q])
theorem vcvtn (f : BX) : Statement (.vcvtn f) := by
  have q := bx_fields 0x38 f (by decide)
  exact long (n := bxWord 0x38 f) rfl rfl q.1 q.2.1 (by decide) (by rw [decode64_bx _ q.2.1]; simp [decodeBx, q])
theorem vcvtw (f : BX) : Statement (.vcvtw f) := by
  have q := bx_fields 0x39 f (by decide)
  exact long (n := bxWord 0x39 f) rfl rfl q.1 q.2.1 (by decide) (by rw [decode64_bx _ q.2.1]; simp [decodeBx, q])
theorem vcvti (f : BX) : Statement (.vcvti f) := by
  have q := bx_fields 0x3A f (by decide)
  exact long (n := bxWord 0x3A f) rfl rfl q.1 q.2.1 (by decide) (by rw [decode64_bx _ q.2.1]; simp [decodeBx, q])
theorem vcvtf4 (f : BX) : Statement (.vcvtf4 f) := by
  have q := bx_fields 0x3B f (by decide)
  exact long (n := bxWord 0x3B f) rfl rfl q.1 q.2.1 (by decide) (by rw [decode64_bx _ q.2.1]; simp [decodeBx, q])
theorem vmov (f : BX) : Statement (.vmov f) := by
  have q := bx_fields 0x40 f (by decide)
  exact long (n := bxWord 0x40 f) rfl rfl q.1 q.2.1 (by decide) (by rw [decode64_bx _ q.2.1]; simp [decodeBx, q])
theorem viota (f : BX) : Statement (.viota f) := by
  have q := bx_fields 0x41 f (by decide)
  exact long (n := bxWord 0x41 f) rfl rfl q.1 q.2.1 (by decide) (by rw [decode64_bx _ q.2.1]; simp [decodeBx, q])
theorem vrev (f : BX) : Statement (.vrev f) := by
  have q := bx_fields 0x42 f (by decide)
  exact long (n := bxWord 0x42 f) rfl rfl q.1 q.2.1 (by decide) (by rw [decode64_bx _ q.2.1]; simp [decodeBx, q])
theorem vreshape (f : BX) : Statement (.vreshape f) := by
  have q := bx_fields 0x43 f (by decide)
  exact long (n := bxWord 0x43 f) rfl rfl q.1 q.2.1 (by decide) (by rw [decode64_bx _ q.2.1]; simp [decodeBx, q])
theorem vcompress (f : BX) : Statement (.vcompress f) := by
  have q := bx_fields 0x44 f (by decide)
  exact long (n := bxWord 0x44 f) rfl rfl q.1 q.2.1 (by decide) (by rw [decode64_bx _ q.2.1]; simp [decodeBx, q])
theorem vexpand (f : BX) : Statement (.vexpand f) := by
  have q := bx_fields 0x45 f (by decide)
  exact long (n := bxWord 0x45 f) rfl rfl q.1 q.2.1 (by decide) (by rw [decode64_bx _ q.2.1]; simp [decodeBx, q])
theorem vredsum (f : BX) : Statement (.vredsum f) := by
  have q := bx_fields 0x50 f (by decide)
  exact long (n := bxWord 0x50 f) rfl rfl q.1 q.2.1 (by decide) (by rw [decode64_bx _ q.2.1]; simp [decodeBx, q])
theorem vredmax (f : BX) : Statement (.vredmax f) := by
  have q := bx_fields 0x51 f (by decide)
  exact long (n := bxWord 0x51 f) rfl rfl q.1 q.2.1 (by decide) (by rw [decode64_bx _ q.2.1]; simp [decodeBx, q])
theorem vredmin (f : BX) : Statement (.vredmin f) := by
  have q := bx_fields 0x52 f (by decide)
  exact long (n := bxWord 0x52 f) rfl rfl q.1 q.2.1 (by decide) (by rw [decode64_bx _ q.2.1]; simp [decodeBx, q])
theorem vredbit (f : BX) : Statement (.vredbit f) := by
  have q := bx_fields 0x53 f (by decide)
  exact long (n := bxWord 0x53 f) rfl rfl q.1 q.2.1 (by decide) (by rw [decode64_bx _ q.2.1]; simp [decodeBx, q])
theorem vscan (f : BX) : Statement (.vscan f) := by
  have q := bx_fields 0x54 f (by decide)
  exact long (n := bxWord 0x54 f) rfl rfl q.1 q.2.1 (by decide) (by rw [decode64_bx _ q.2.1]; simp [decodeBx, q])
theorem vfirst (f : BX) : Statement (.vfirst f) := by
  have q := bx_fields 0x55 f (by decide)
  exact long (n := bxWord 0x55 f) rfl rfl q.1 q.2.1 (by decide) (by rw [decode64_bx _ q.2.1]; simp [decodeBx, q])
theorem vcount (f : BX) : Statement (.vcount f) := by
  have q := bx_fields 0x56 f (by decide)
  exact long (n := bxWord 0x56 f) rfl rfl q.1 q.2.1 (by decide) (by rw [decode64_bx _ q.2.1]; simp [decodeBx, q])
theorem vscatadd (f : BX) : Statement (.vscatadd f) := by
  have q := bx_fields 0x60 f (by decide)
  exact long (n := bxWord 0x60 f) rfl rfl q.1 q.2.1 (by decide) (by rw [decode64_bx _ q.2.1]; simp [decodeBx, q])
theorem vscatmax (f : BX) : Statement (.vscatmax f) := by
  have q := bx_fields 0x61 f (by decide)
  exact long (n := bxWord 0x61 f) rfl rfl q.1 q.2.1 (by decide) (by rw [decode64_bx _ q.2.1]; simp [decodeBx, q])
theorem vscatmin (f : BX) : Statement (.vscatmin f) := by
  have q := bx_fields 0x62 f (by decide)
  exact long (n := bxWord 0x62 f) rfl rfl q.1 q.2.1 (by decide) (by rw [decode64_bx _ q.2.1]; simp [decodeBx, q])
theorem vconfl (f : BX) : Statement (.vconfl f) := by
  have q := bx_fields 0x63 f (by decide)
  exact long (n := bxWord 0x63 f) rfl rfl q.1 q.2.1 (by decide) (by rw [decode64_bx _ q.2.1]; simp [decodeBx, q])
theorem vspadd (f : BX) : Statement (.vspadd f) := by
  have q := bx_fields 0x64 f (by decide)
  exact long (n := bxWord 0x64 f) rfl rfl q.1 q.2.1 (by decide) (by rw [decode64_bx _ q.2.1]; simp [decodeBx, q])
theorem vspmul (f : BX) : Statement (.vspmul f) := by
  have q := bx_fields 0x65 f (by decide)
  exact long (n := bxWord 0x65 f) rfl rfl q.1 q.2.1 (by decide) (by rw [decode64_bx _ q.2.1]; simp [decodeBx, q])
theorem vrunb (f : BX) : Statement (.vrunb f) := by
  have q := bx_fields 0x70 f (by decide)
  exact long (n := bxWord 0x70 f) rfl rfl q.1 q.2.1 (by decide) (by rw [decode64_bx _ q.2.1]; simp [decodeBx, q])
theorem bload (f : CX) : Statement (.bload f) := by
  have q := cx_fields 0x18 f (by decide)
  exact long (n := cxWord 0x18 f) rfl rfl q.1 q.2.1 (by decide) (by rw [decode64_cx _ q.2.1]; simp [decodeCx, q])
theorem tmma (f : TX) : Statement (.tmma f) := by
  have q := tx_fields 0x00 f (by decide)
  exact long (n := txWord 0x00 f) rfl rfl q.1 q.2.1 (by decide) (by rw [decode64_tx _ q.2.1]; simp [decodeTx, q])
theorem tew (f : TX) : Statement (.tew f) := by
  have q := tx_fields 0x01 f (by decide)
  exact long (n := txWord 0x01 f) rfl rfl q.1 q.2.1 (by decide) (by rw [decode64_tx _ q.2.1]; simp [decodeTx, q])
theorem tact (f : TX) : Statement (.tact f) := by
  have q := tx_fields 0x02 f (by decide)
  exact long (n := txWord 0x02 f) rfl rfl q.1 q.2.1 (by decide) (by rw [decode64_tx _ q.2.1]; simp [decodeTx, q])
theorem trowr (f : TX) : Statement (.trowr f) := by
  have q := tx_fields 0x03 f (by decide)
  exact long (n := txWord 0x03 f) rfl rfl q.1 q.2.1 (by decide) (by rw [decode64_tx _ q.2.1]; simp [decodeTx, q])
theorem tsoft (f : TX) : Statement (.tsoft f) := by
  have q := tx_fields 0x04 f (by decide)
  exact long (n := txWord 0x04 f) rfl rfl q.1 q.2.1 (by decide) (by rw [decode64_tx _ q.2.1]; simp [decodeTx, q])
theorem ttrn (f : TX) : Statement (.ttrn f) := by
  have q := tx_fields 0x05 f (by decide)
  exact long (n := txWord 0x05 f) rfl rfl q.1 q.2.1 (by decide) (by rw [decode64_tx _ q.2.1]; simp [decodeTx, q])
theorem tcvt (f : TX) : Statement (.tcvt f) := by
  have q := tx_fields 0x06 f (by decide)
  exact long (n := txWord 0x06 f) rfl rfl q.1 q.2.1 (by decide) (by rw [decode64_tx _ q.2.1]; simp [decodeTx, q])
theorem tcpy (f : TX) : Statement (.tcpy f) := by
  have q := tx_fields 0x07 f (by decide)
  exact long (n := txWord 0x07 f) rfl rfl q.1 q.2.1 (by decide) (by rw [decode64_tx _ q.2.1]; simp [decodeTx, q])
theorem tfill (f : TX) : Statement (.tfill f) := by
  have q := tx_fields 0x08 f (by decide)
  exact long (n := txWord 0x08 f) rfl rfl q.1 q.2.1 (by decide) (by rw [decode64_tx _ q.2.1]; simp [decodeTx, q])
theorem ttagr (f : TX) : Statement (.ttagr f) := by
  have q := tx_fields 0x10 f (by decide)
  exact long (n := txWord 0x10 f) rfl rfl q.1 q.2.1 (by decide) (by rw [decode64_tx _ q.2.1]; simp [decodeTx, q])
theorem ttagw (f : TX) : Statement (.ttagw f) := by
  have q := tx_fields 0x11 f (by decide)
  exact long (n := txWord 0x11 f) rfl rfl q.1 q.2.1 (by decide) (by rw [decode64_tx _ q.2.1]; simp [decodeTx, q])
theorem mtload (f : CX) : Statement (.mtload f) := by
  have q := cx_fields 0x10 f (by decide)
  exact long (n := cxWord 0x10 f) rfl rfl q.1 q.2.1 (by decide) (by rw [decode64_cx _ q.2.1]; simp [decodeCx, q])
theorem mtinv (f : CX) : Statement (.mtinv f) := by
  have q := cx_fields 0x11 f (by decide)
  exact long (n := cxWord 0x11 f) rfl rfl q.1 q.2.1 (by decide) (by rw [decode64_cx _ q.2.1]; simp [decodeCx, q])
theorem mtquery (f : CX) : Statement (.mtquery f) := by
  have q := cx_fields 0x12 f (by decide)
  exact long (n := cxWord 0x12 f) rfl rfl q.1 q.2.1 (by decide) (by rw [decode64_cx _ q.2.1]; simp [decodeCx, q])
theorem copy (f : CX) : Statement (.copy f) := by
  have q := cx_fields 0x00 f (by decide)
  exact long (n := cxWord 0x00 f) rfl rfl q.1 q.2.1 (by decide) (by rw [decode64_cx _ q.2.1]; simp [decodeCx, q])
theorem copynd (f : CX) : Statement (.copynd f) := by
  have q := cx_fields 0x01 f (by decide)
  exact long (n := cxWord 0x01 f) rfl rfl q.1 q.2.1 (by decide) (by rw [decode64_cx _ q.2.1]; simp [decodeCx, q])
theorem gather (f : CX) : Statement (.gather f) := by
  have q := cx_fields 0x02 f (by decide)
  exact long (n := cxWord 0x02 f) rfl rfl q.1 q.2.1 (by decide) (by rw [decode64_cx _ q.2.1]; simp [decodeCx, q])
theorem scatter (f : CX) : Statement (.scatter f) := by
  have q := cx_fields 0x03 f (by decide)
  exact long (n := cxWord 0x03 f) rfl rfl q.1 q.2.1 (by decide) (by rw [decode64_cx _ q.2.1]; simp [decodeCx, q])
theorem drain (f : CX) : Statement (.drain f) := by
  have q := cx_fields 0x04 f (by decide)
  exact long (n := cxWord 0x04 f) rfl rfl q.1 q.2.1 (by decide) (by rw [decode64_cx _ q.2.1]; simp [decodeCx, q])
theorem bankBegin (b : Nat) : Statement (.bankBegin b) := nofun
theorem pullArrival (b : Nat) : Statement (.pullArrival b) := nofun
theorem pullServe (b : Nat) : Statement (.pullServe b) := nofun
theorem pullResponse (b : Nat) : Statement (.pullResponse b) := nofun
theorem stagedWritePhase : Statement (.stagedWritePhase) := nofun
theorem loadResponse (d : Reg) : Statement (.loadResponse d) := nofun
theorem stgNak (gang : Nat) (a : Nat) : Statement (.stgNak gang a) := nofun
theorem trapEntry : Statement (.trapEntry) := nofun
theorem pageReply (gang : Nat) (present : Bool) : Statement (.pageReply gang present) := nofun
theorem preemptionHalt (gang : Nat) : Statement (.preemptionHalt gang) := nofun
theorem fieldEviction (gang : Nat) : Statement (.fieldEviction gang) := nofun
theorem clusterOffline (c : Nat) : Statement (.clusterOffline c) := nofun
theorem copyStart (c : BitVec 3) : Statement (.copyStart c) := nofun
theorem copyElementLand (c : BitVec 3) (n : Nat) : Statement (.copyElementLand c n) := nofun
theorem copyFaultStop (c : BitVec 3) : Statement (.copyFaultStop c) := nofun
theorem gatherPiece (c : BitVec 3) : Statement (.gatherPiece c) := nofun
theorem parityHomeAccess (x : HomeAccess) : Statement (.parityHomeAccess x) := nofun
theorem stackLost (k : Nat) (why : BitVec 2) : Statement (.stackLost k why) := nofun
theorem contractionStart : Statement (.contractionStart) := nofun
theorem contractionStripeMove : Statement (.contractionStripeMove) := nofun
theorem rowRemapUpdate (k : Nat) (row : Nat) (spare : Nat) : Statement (.rowRemapUpdate k row spare) := nofun
theorem allocationTableUpdate (second : Bool) (grp : Nat) (dom : BitVec 16) : Statement (.allocationTableUpdate second grp dom) := nofun
theorem powerDownEntry (k : Nat) (pc : Nat) : Statement (.powerDownEntry k pc) := nofun
theorem selfRefreshEntry (k : Nat) (pc : Nat) : Statement (.selfRefreshEntry k pc) := nofun
theorem reductionCommand (gang : Nat) (p : BitVec 4) : Statement (.reductionCommand gang p) := nofun
theorem reductionComplete (gang : Nat) (p : BitVec 4) : Statement (.reductionComplete gang p) := nofun
theorem mergeCountPass (gang : Nat) (p : BitVec 4) : Statement (.mergeCountPass gang p) := nofun
theorem mergeWritePass (gang : Nat) (p : BitVec 4) : Statement (.mergeWritePass gang p) := nofun
theorem mergeComplete (gang : Nat) (p : BitVec 4) : Statement (.mergeComplete gang p) := nofun
theorem allGather (gang : Nat) (p : BitVec 4) : Statement (.allGather gang p) := nofun
theorem reduceScatter (gang : Nat) (p : BitVec 4) : Statement (.reduceScatter gang p) := nofun
theorem collectiveWaitComplete (gang : Nat) (p : BitVec 4) : Statement (.collectiveWaitComplete gang p) := nofun
theorem peerInboundAccess (x : PeerAccess) : Statement (.peerInboundAccess x) := nofun
theorem peerWindowRemap (w : BitVec 8) (w0 : Word) (w1 : Word) (w2 : Word) : Statement (.peerWindowRemap w w0 w1 w2) := nofun
theorem shootDown (pasid : Nat) (lo : Nat) (hi : Nat) : Statement (.shootDown pasid lo hi) := nofun
theorem shootDownComplete : Statement (.shootDownComplete) := nofun
theorem walkPrefetch (w : BitVec 4) : Statement (.walkPrefetch w) := nofun
theorem pageMigration (pasid : Nat) (va : Nat) (pa : Nat) : Statement (.pageMigration pasid va pa) := nofun
theorem pasidTeardown (pasid : Nat) : Statement (.pasidTeardown pasid) := nofun
theorem hostRmaWrite (pasid : Nat) (a : Nat) (bytes : List Byte) : Statement (.hostRmaWrite pasid a bytes) := nofun
theorem queueTailWrite (q : Nat) (tail : BitVec 16) : Statement (.queueTailWrite q tail) := nofun
theorem queueErrorClear (q : Nat) (m : BitVec 4) : Statement (.queueErrorClear q m) := nofun
theorem queueWatchFire (q : Nat) : Statement (.queueWatchFire q) := nofun
theorem schedulingPass : Statement (.schedulingPass) := nofun
theorem gangStart (gang : Nat) : Statement (.gangStart gang) := nofun
theorem reservationTimeout (die : Nat) : Statement (.reservationTimeout die) := nofun
theorem eventPost (gang : Nat) : Statement (.eventPost gang) := nofun
theorem heartbeatTimeout : Statement (.heartbeatTimeout) := nofun
theorem commandCoreRelease : Statement (.commandCoreRelease) := nofun
theorem directLaunch (p : BitVec 2) : Statement (.directLaunch p) := nofun
theorem portDown (p : Nat) : Statement (.portDown p) := nofun
theorem connectionSetup (mode : DeliveryMode) : Statement (.connectionSetup mode) := nofun
theorem powerOnReset (x : StartInputs) : Statement (.powerOnReset x) := nofun
theorem startTimeout : Statement (.startTimeout) := nofun
theorem recoveryImagePush (img : List Byte) : Statement (.recoveryImagePush img) := nofun
theorem firmwareHandover (x : Handover) : Statement (.firmwareHandover x) := nofun
theorem attestationRequest (nonce : List Byte) : Statement (.attestationRequest nonce) := nofun
theorem powerLimitThrottle : Statement (.powerLimitThrottle) := nofun
theorem clockRaise : Statement (.clockRaise) := nofun
theorem writeAcknowledgement (ok : Bool) : Statement (.writeAcknowledgement ok) := nofun
theorem powerInputRemoved (midFlash : Bool) : Statement (.powerInputRemoved midFlash) := nofun
theorem portUp (p : Nat) : Statement (.portUp p) := nofun
theorem svkAttach (gang : Nat) (on : Bool) : Statement (.svkAttach gang on) := nofun
theorem svkContinue (gang : Nat) : Statement (.svkContinue gang) := nofun

end Sys2Proof.Laws.RoundTrip
end

