-- ==== Sys2Proof/Laws/Translate.lean ====
section
/-! SUPPORT. What an access of memory and the use of a translation leave besides their data, and the trap of an access whose address
has been translated. -/
namespace Sys2Proof.Machine

/-- Nothing but what the stacks count and repair, the waking of pseudo-channels and the hubs has changed (R361, R374, R377, R385, R389). -/
def onlyServed (s t : State) : Prop :=
  t = { s with
    memBad := t.memBad, parityBad := t.parityBad, hbmStat := t.hbmStat, remapBad := t.remapBad, mirrorBad := t.mirrorBad, channelPower := t.channelPower
    hubs := t.hubs, agenda := t.agenda }

theorem onlyServed.refl (s : State) : onlyServed s s := rfl

theorem onlyServed.trans {s t u : State} (h1 : onlyServed s t) (h2 : onlyServed t u) : onlyServed s u := by
  unfold onlyServed at h1 h2 ⊢
  rw [h1] at h2
  exact h2

/-- A fold of steps that each leave the rest alone leaves it alone. -/
theorem onlyServed.foldl {β : Type} (f : State → β → State) (h : ∀ s x, onlyServed s (f s x)) : ∀ (l : List β) (s : State), onlyServed s (l.foldl f s) := by
  intro l
  induction l with
  | nil => intro s; exact onlyServed.refl s
  | cons x r ih => intro s; exact (h s x).trans (ih _)

/-- What a look-up of a row-remap table changes (R385). -/
theorem remapLookup_only (s : State) (k : Nat) : onlyServed s (remapLookup s k) := by
  unfold remapLookup onlyServed
  dsimp only
  repeat' split
  all_goals rfl

/-- What an error that a stack counts changes (R375, R378). -/
theorem countError_only (s : State) (k : Nat) : onlyServed s (countError s k) := by
  unfold countError errorLimit onlyServed
  dsimp only
  split <;> rfl

/-- What a write's read of the old parity changes (R372, R374). -/
theorem homeParity_only (s : State) (x : Nat × Nat) : onlyServed s (homeParity s x) := by
  unfold homeParity
  dsimp only
  split
  · exact onlyServed.refl s
  · refine onlyServed.trans ?_ (countError_only _ _)
    rfl

/-- What an access of one unit changes besides its data (R372, R374, R377, R385). -/
theorem homeUnit_only (write : Bool) (s : State) (x : Nat × Nat) : onlyServed s (homeUnit write s x) := by
  unfold homeUnit
  dsimp only
  have h1 := onlyServed.foldl remapLookup remapLookup_only (accessed s write x) s
  generalize (accessed s write x).foldl remapLookup s = u at h1 ⊢
  have h2 : onlyServed s (if write = true then homeParity u x else u) := by
    split
    · exact h1.trans (homeParity_only u x)
    · exact h1
  generalize (if write = true then homeParity u x else u) = v at h2 ⊢
  split
  · exact h2
  · split
    · exact h2.trans rfl
    · exact h2.trans (onlyServed.trans (by rfl) (countError_only _ _))

/-- What an access of physical memory changes besides its data (R372, R374, R377, R385, R389). -/
theorem physTouch_only (s : State) (pa n : Nat) (write : Bool) : onlyServed s (physTouch s pa n write) := by
  unfold physTouch
  dsimp only
  split
  · rfl
  · exact onlyServed.trans (t := { s with channelPower := wake s pa n write }) rfl (onlyServed.foldl (homeUnit write) (homeUnit_only write) _ _)

/-- What the use of a translation changes (R361, R377, R389). -/
theorem hubUse_only (s : State) (die pasid va : Nat) : onlyServed s (hubUse s die pasid va) := by
  unfold hubUse
  split
  · rfl
  · dsimp only
    have h := onlyServed.foldl (fun s a => physTouch s a 8) (fun s a => physTouch_only s a 8 false) (walkEntries s pasid va) s
    split
    · exact h.trans rfl
    · exact h

/-- The use of a translation leaves the gang. -/
@[simp] theorem useG_g (s : State) (va : Nat) : (useG s va).g = s.g := by rw [useG, hubUse_only s s.g.lead s.g.pasid va]

/-- A precise trap at an access that has been translated, taken at once (R219, R220, R361). -/
theorem trapG_now (s : State) (ea : Word) (code val2 : Nat) (h : trapsNow s) (hc : coreFirst ⟨code, ea, w64 val2, 0, 0, 0⟩ = false) :
    trapG s ea code val2 = afterTrap code ea (w64 val2) s.g.pc (useG s ea.toNat) := by
  rw [trapG, afterWaits_now s _ h]
  exact takeCause_now (useG s ea.toNat) _ _ (by simpa [trapsNow] using h) hc

end Sys2Proof.Machine
end

