-- ==== Sys2Proof/Tests/Slice0.lean ====
section
/-! SUPPORT. Tests of one step or one decoding each, with expected results worked out from the spec, and a witness for the hypotheses of every
obligation. -/
open Sys2Proof Sys2Proof.Machine
namespace Sys2Proof.Tests

-- One test after another: their kernel evaluations would otherwise hold many threads with large stacks at once.
set_option Elab.async false

/-- Whether a step answers a next state that the test accepts. -/
def after (o : Host.Outcome State Fault Refusal) (p : State → Bool) : Bool :=
  match o with
  | .next t => p t
  | _ => false

/-- A gang on clusters 0 to 3, at gang level with a handler at 0x20000, with two registers set. -/
def gang (a b : Word) : Gang :=
  { id := 1, phase := .running, clusters := [0, 1, 2, 3], pc := 0x10000, gtvec := 0x20000, regs := [(5, a), (6, b)]
    windows := [(0, ⟨0x100000, 0x10000, 0, 64, 6, false, false, true, 0⟩)] }

/-- A ready package with that gang; its hub maps 0x10000 to HBM for every access, 0x30000 to HBM for reads only, and 0x40000 to host memory. -/
def ready (a b : Word) : State :=
  { power := .ready
    hubs := [(0, [⟨0, 0x10000, 0x10000, 0x17⟩, ⟨0, 0x30000, 0x10000, 0x20003⟩, ⟨0, 0x40000, 0x10000, w64 (2 ^ 51 + 0x17)⟩])]
    g := gang a b }


/-! ### The checks of WellFormed refuse. -/

/-- F32 operands s1 := s2, s3, s4, all by address in mode 0b00, as an element instruction with three sources has them. -/
def bx3 : BX := ⟨1, 2, 3, 4, 14, 0, 0, 0, 0, 0, 0, 0, 0, 0, 0, 0, 0, 0, 0⟩
/-- The same with two sources, and with one. -/
def bx2 : BX := { bx3 with c := 0 }
def bx1 : BX := { bx2 with b := 0 }
def tx3 : TX := ⟨10, 11, 12, 0, 0, 0, 0, 0, 0, 0, 0⟩
def cx3 : CX := ⟨10, 11, 12, 2, 0, 0, 0⟩

theorem test_wf_admits : (∀ i ∈ [Instr.slli 1 2 63, .ldg 1 2 3 6 1 3, .stg 1 2 3 3 2 1, .amo 1 2 3 9 1 3 2 1, .crd 1 0x041, .cwr 1 2 0x057,
    .eqpush 1 15, .fence 3 7, .fenceb 31 7, .sigwait 2 1 2, .sigpost 1 1 2, .awset 15 1 2, .vadd bx2, .vfma bx3, .vsqrt bx1, .vfun { bx1 with fn := 9 },
    .vand { bx2 with ef := 8 }, .vcmp { bx2 with ef := 15, fn := 7 }, .vselm { bx2 with msk := 1 }, .vcvtn { bx1 with b := 12 },
    .vcvtw { bx1 with ef := 12, b := 14 }, .vcvti { bx1 with fn := 4 }, .vcvtf4 { bx1 with b := 0, fn := 2 }, .viota { bx1 with ef := 6, am := 2 },
    .vreshape { bx2 with bm := 2 }, .vcompress { bx1 with msk := 2 }, .vredsum { bx1 with d := 0, dm := 2 }, .vredbit { bx1 with ef := 0, fn := 2 },
    .vscan { bx1 with fn := 6 }, .vscatadd { bx1 with dm := 3 }, .vconfl { bx1 with ef := 5 }, .vspadd bx2, .vrunb { bx1 with ef := 5 },
    .tmma { tx3 with repm1 := 15 }, .tew { tx3 with fn := 4 }, .tact { tx3 with b := 0, fn := 9 }, .tcvt { tx3 with b := 0, fn := 33 },
    .tfill { tx3 with a := 3, b := 0, fn := 18 }, .copy { cx3 with dir := 1, sig := 1, opx := 0x1F }, .gather { cx3 with opx := 0x60 },
    .scatter { cx3 with dir := 1 }, .drain ⟨0, 0, 0, 7, 0, 0, 0⟩, .bload ⟨0, 5, 6, 0, 0, 2, 0⟩, .mtload ⟨0, 5, 6, 0, 0, 2, 255⟩,
    .mtinv ⟨0, 5, 6, 0, 0, 0, 0⟩, .mtquery ⟨4, 5, 30, 0, 0, 0, 0⟩], i.wf = true) := by decide

/-- R143, R180, R186, R161, R199, R207 to R216: an illegal value in each checked field of the 32-bit instructions. -/
theorem test_wf_refuses_short : (∀ i ∈ [Instr.slli 1 2 64, .srli 1 2 64, .srai 1 2 0x7FFF, .ldg 1 2 3 7 0 0, .ldg 1 2 3 0 2 0, .ldg 1 2 3 0 0 1,
    .stg 1 2 3 4 0 0, .stg 1 2 3 0 1 0, .stg 1 2 3 0 0 3, .amo 1 2 3 10 0 0 0 0, .amo 1 2 3 0 0 0 1 0, .crd 1 0x008, .cwr 1 2 0x041,
    .cset 1 2 0x020, .cclr 1 2 0x058, .eqpush 1 16, .eqpushLast 1 16, .eqpop 1 31, .eqstat 1 16, .fence 4 1, .fence 0 0, .fence 0 8,
    .fenceb 0 8, .sigwait 3 1 2, .sigpost 2 1 2, .awset 16 1 2], i.wf = false) := by decide

/-- R74, R84, R150 to R153 and R249: each check of an element instruction's fields. -/
theorem test_wf_refuses_fields : (∀ f ∈ [{ bx2 with ef := 15 }, { bx2 with ef := 19 }, { bx2 with rnd := 7 }, { bx2 with ef := 5, rnd := 1 },
    { bx2 with fn := 1 }, { bx2 with msk := 3 }, { bx2 with dm := 2 }, { bx2 with d := 31, dm := 1 }, { bx2 with ef := 8, am := 3 },
    { bx2 with a := 31, am := 1 }, { bx2 with am := 2, ca := 1 }, { bx2 with b := 31, bm := 3 }, { bx2 with bm := 2, cb := 1 },
    { bx2 with c := 1 }, { bx2 with cm := 1 }, { bx2 with cc := 1 }], (Instr.vadd f).wf = false) := by decide

/-- R255 to R290: each check that one instruction adds. -/
theorem test_wf_refuses_bx : (∀ i ∈ [Instr.vsub bx3, .vmul bx3, .vfma { bx3 with ef := 15 }, .vfms { bx3 with fn := 1 }, .vfnma { bx3 with rnd := 7 },
    .vdiv { bx2 with ef := 10 }, .vsqrt { bx1 with ef := 4 }, .vmin { bx2 with sat := 1 }, .vmax { bx2 with rnd := 1 }, .vabs { bx1 with ef := 5 },
    .vneg { bx1 with sat := 1 }, .vcpys { bx2 with ef := 4 }, .vfun { bx1 with fn := 10 }, .vmulh bx2, .vavg { bx2 with sat := 1 },
    .vclass { bx1 with ef := 4 }, .vand bx2, .vor bx2, .vxor bx2, .vsll bx2, .vsrl bx2, .vsra bx2, .vclmul { bx2 with ef := 8 },
    .vclmulh { bx2 with ef := 9 }, .vpopc { bx1 with ef := 9 }, .vclz { bx1 with ef := 9 }, .vcmp { bx2 with fn := 8 },
    .vcmp { bx2 with ef := 4, fn := 6 }, .vcmp { bx2 with t := 1 }, .vcmp { bx2 with dm := 1 }, .vselm bx2, .vcvtn { bx1 with b := 15 },
    .vcvtw { bx1 with b := 12 }, .vcvti { bx1 with fn := 14 }, .vcvti { bx1 with fn := 12 }, .vcvtf4 { bx1 with fn := 3 },
    .vcvtf4 { bx1 with ef := 12 }, .vmov { bx1 with sat := 1 }, .viota { bx1 with ef := 6 }, .vrev { bx1 with am := 2 }, .vreshape bx2,
    .vcompress bx1, .vexpand { bx1 with msk := 1, am := 2 }, .vredsum { bx1 with dm := 1 }, .vredsum { bx1 with d := 1, dm := 2 },
    .vredmax { bx1 with rnd := 1 }, .vredmin { bx1 with ef := 15 }, .vredbit { bx1 with ef := 0, fn := 3 }, .vscan { bx1 with fn := 3 },
    .vscan { bx1 with fn := 8 }, .vfirst bx1, .vcount bx1, .vscatadd bx1, .vscatmax { bx1 with dm := 3, rnd := 1 },
    .vscatmin { bx1 with dm := 3, ef := 8 }, .vconfl { bx1 with ef := 4 }, .vspadd { bx2 with am := 1 }, .vspmul { bx2 with msk := 1 },
    .vrunb { bx1 with ef := 4 }, .vrunb { bx1 with ef := 5, t := 1 }], i.wf = false) := by decide

/-- R156, R289, R312, R313, R326, R341 and R344: each check of the tile, table and copy instructions. -/
theorem test_wf_refuses_tx_cx : (∀ i ∈ [Instr.tmma { tx3 with fn := 1 }, .tmma { tx3 with c := 1 }, .tmma { tx3 with cc := 1 }, .tew { tx3 with fn := 5 },
    .tew { tx3 with repm1 := 1 }, .tact tx3, .tact { tx3 with b := 0, fn := 10 }, .trowr { tx3 with b := 0, fn := 3 }, .tsoft { tx3 with b := 0, fn := 1 },
    .ttrn { tx3 with b := 0, cb := 1 }, .tcvt { tx3 with b := 0, fn := 19 }, .tcpy { tx3 with b := 0, repm1 := 1 }, .tfill { tx3 with b := 0, ca := 1 },
    .tfill { tx3 with b := 0, fn := 19 }, .ttagr tx3, .ttagw { tx3 with b := 0, fn := 1 }, .bload cx3, .bload ⟨0, 5, 6, 0, 0, 1, 0⟩,
    .bload ⟨0, 5, 6, 0, 0, 0, 1⟩, .mtload ⟨0, 5, 6, 0, 0, 0, 256⟩, .mtload ⟨0, 5, 6, 1, 0, 0, 0⟩, .mtinv ⟨0, 5, 6, 0, 1, 0, 0⟩,
    .mtinv ⟨0, 5, 6, 0, 0, 2, 0⟩, .mtquery ⟨4, 5, 31, 0, 0, 0, 0⟩, .copy { cx3 with opx := 0x20 }, .copy { cx3 with opx := 1 },
    .copynd { cx3 with opx := 0x40 }, .gather { cx3 with dir := 1 }, .gather { cx3 with opx := 0x80 }, .scatter cx3, .drain cx3], i.wf = false) := by
  decide

/-! ### Words written out from the encodings of 30_encoding.md and their decodings. -/

/-- Two parcels as the bits of a 64-bit instruction (R139). -/
def parcels (first second : Nat) : Option Instr := decodeTableWord 64 (first + second * 2 ^ 32)
/-- A BX instruction with every field zero but these. -/
def bx0 : BX := ⟨0, 0, 0, 0, 0, 0, 0, 0, 0, 0, 0, 0, 0, 0, 0, 0, 0, 0, 0⟩

/-- The immediate group, LIH and LIM as the spec writes their parcels out (spec/07, 08, 13, 20, 22). -/
theorem test_decode_immediates : decodeTableWord 32 0xFFF06284 = some (.addi 5 6 (-8)) ∧ decodeTableWord 32 0x24003604 = some (.addi 12 3 0x1200)
    ∧ decodeTableWord 32 0x01FF5B08 = some (.andi 22 21 0xFF) ∧ decodeTableWord 32 0x00100281 = some (.lih 5 0x00100)
    ∧ parcels 0x00E2500F 0x0003901A = some (.lim 5 0x1C80D0071) ∧ parcels 0x0005100F 0x0001C81A = some (.lim 17 0xE40D0002)
    ∧ parcels 0xFFFFFFFF 0 = none := by decide

/-- R142 and R145: fn, b, a, d and MAJ written out bit by bit: SUB s1, s2, s3; ROR; MULHU; REMU; CLMULH; CTZ; ZEXT s9, s5, 48; and two
reserved functions. -/
theorem test_decode_integer : decodeTableWord 32 0b0000000001_00011_00010_00001_0000000 = some (.sub 1 2 3)
    ∧ decodeTableWord 32 0b0000001100_00011_00010_00001_0000000 = some (.ror 1 2 3)
    ∧ decodeTableWord 32 0b0000100010_00011_00010_00001_0000000 = some (.mulhu 1 2 3)
    ∧ decodeTableWord 32 0b0000100111_00011_00010_00001_0000000 = some (.remu 1 2 3)
    ∧ decodeTableWord 32 0b0000110001_00011_00010_00001_0000000 = some (.clmulh 1 2 3)
    ∧ decodeTableWord 32 0b0000111001_00000_00010_00001_0000000 = some (.ctz 1 2)
    ∧ decodeTableWord 32 0b0000111101_10111_00101_01001_0000000 = some (.zext 9 5 23)
    ∧ decodeTableWord 32 0b0000100011_00011_00010_00001_0000000 = none ∧ decodeTableWord 32 0 = some (.add 0 0 0) := by decide

/-- Loads, stores and atomics as the spec writes them out (spec/08, 13, 22, 26). -/
theorem test_decode_memory : decodeTableWord 32 0x001853B8 = some (.lw 7 5 12) ∧ decodeTableWord 32 0x0001ADBC = some (.lwu 27 26 0)
    ∧ decodeTableWord 32 0x001708C4 = some (.sb 17 16 11) ∧ decodeTableWord 32 0x488053D4 = some (.ldg 7 5 0 2 1 2)
    ∧ decodeTableWord 32 0x00C0D754 = some (.ldg 14 13 0 3 0 0) ∧ decodeTableWord 32 0b0_01_10_00_011_00000_00101_00111_1011000 = some (.stg 7 5 0 3 2 1)
    ∧ decodeTableWord 32 0xDC4C53DC = some (.amo 7 5 6 1 1 3 2 1) ∧ decodeTableWord 32 0xDE4C53DC = some (.amo 7 5 6 9 1 3 2 1)
    ∧ decodeTableWord 32 0x020053D4 = none ∧ decodeTableWord 32 0xC88053D4 = none := by decide

/-- Branches and jumps (spec/08, 17, 20, 22). -/
theorem test_decode_branches : decodeTableWord 32 0xFFC06EE4 = some (.bne 0x1D 6 0 0x3FF) ∧ decodeTableWord 32 0xFFC07FE0 = some (.beq 0x1F 7 0 0x3FF)
    ∧ decodeTableWord 32 0x00016F64 = some (.bne 0x1E 22 0 0) ∧ decodeTableWord 32 0x000127F8 = some (.jal 15 18)
    ∧ decodeTableWord 32 0b0000000001_00011_00010_00001_1110100 = some (.bgeu 1 2 3 1)
    ∧ decodeTableWord 32 0b000000000000100_00010_00001_1111100 = some (.jalr 1 2 4) := by decide

/-- CRX and the SYS group (spec/09, 13, 17, 18, 20, 22). -/
theorem test_decode_system : decodeTableWord 32 0x00200386 = some (.crd 7 0x010) ∧ decodeTableWord 32 0x20229006 = some (.cwr 0 9 0x011)
    ∧ decodeTableWord 32 0x00080C06 = some (.crd 24 0x004) ∧ decodeTableWord 32 0x04005302 = some (.setec 6 5)
    ∧ decodeTableWord 32 0x05007C02 = some (.owner 24 7) ∧ decodeTableWord 32 0x04C10882 = some (.fwget 17 16 0)
    ∧ decodeTableWord 32 0x04810882 = some (.fwset 17 16 0) ∧ decodeTableWord 32 0x08000402 = some (.rqpop 8)
    ∧ decodeTableWord 32 0x09065002 = some (.eqpush 5 3) ∧ decodeTableWord 32 0x09069082 = some (.eqpushLast 9 3)
    ∧ decodeTableWord 32 0x09460402 = some (.eqpop 8 3) ∧ decodeTableWord 32 0x0C4D3002 = some (.fenceb 19 6)
    ∧ decodeTableWord 32 0x100C5182 = some (.awset 3 5 6) ∧ decodeTableWord 32 0xFC001002 = some (.trap 1 0)
    ∧ decodeTableWord 32 0xFC400002 = some .eret ∧ decodeTableWord 32 0xFC800002 = some .brk ∧ decodeTableWord 32 0xFD400002 = some .halt
    ∧ decodeTableWord 32 0xFC403002 = none := by decide

/-- Broadcast instructions (spec/07, 11, 12, 13, 22); BEND is illegal in the broadcast stream (R154). -/
theorem test_decode_broadcast :
    parcels 0x398AE033 0x00002408 = some (.vfma { bx0 with ef := 14, d := 5, a := 6, ca := 1, b := 7, bm := 2, c := 8 })
    ∧ parcels 0x394C4003 0 = some (.vadd { bx0 with ef := 4, d := 6, a := 5, b := 7 })
    ∧ parcels 0x2952E303 0x0C000000 = some (.vcmp { bx0 with ef := 14, d := 9, a := 5, b := 5, fn := 6 })
    ∧ parcels 0x280AE313 0x00080100 = some (.vselm { bx0 with ef := 14, d := 5, am := 2, b := 5, msk := 1 })
    ∧ parcels 0x02D4E3B3 0x02040000 = some (.vcvtf4 { bx0 with ef := 14, d := 10, a := 11, t := 1, fn := 1 })
    ∧ parcels 0x0340E503 0x00000040 = some (.vredsum { bx0 with ef := 14, dm := 2, a := 13 })
    ∧ parcels 0x02D85543 0x08000000 = some (.vscan { bx0 with ef := 5, d := 12, a := 11, fn := 4 })
    ∧ parcels 0x05A84603 0x00000060 = some (.vscatadd { bx0 with ef := 4, d := 20, dm := 3, a := 22 })
    ∧ parcels 0x00000713 0 = none := by decide

/-- Tile, table and copy instructions (spec/12, 15 to 18). -/
theorem test_decode_tile_copy : parcels 0x0316A007 1 = some (.tmma ⟨10, 11, 12, 0, 1, 0, 0, 0, 0, 0, 0⟩)
    ∧ parcels 0x000A7107 0 = some (.ttagr ⟨7, 5, 0, 0, 0, 0, 0, 0, 0, 0, 0⟩) ∧ parcels 0x000E5117 0 = some (.ttagw ⟨5, 7, 0, 0, 0, 0, 0, 0, 0, 0, 0⟩)
    ∧ parcels 0x018A018B 0 = some (.bload ⟨0, 5, 6, 0, 0, 0, 0⟩) ∧ parcels 0x06F4010B 8 = some (.mtload ⟨0, 26, 27, 0, 0, 0, 2⟩)
    ∧ parcels 0x018A011B 0 = some (.mtinv ⟨0, 5, 6, 0, 0, 0, 0⟩) ∧ parcels 0x0290712B 0 = some (.mtquery ⟨7, 8, 10, 0, 0, 0, 0⟩)
    ∧ parcels 0x5316A00B 0x34 = some (.copy ⟨10, 11, 12, 2, 1, 0, 13⟩) ∧ parcels 0x0B16A01B 0 = some (.copynd ⟨10, 11, 12, 1, 0, 0, 0⟩)
    ∧ parcels 0x1000004B 0 = some (.drain ⟨0, 0, 0, 2, 0, 0, 0⟩) ∧ parcels 0x9000004B 0 = none ∧ parcels 0x0316A007 0x10000 = none := by decide

/-! ### Scalar and system instructions, one step each. -/

/-- The value that an instruction leaves in s7. -/
def gives (i : Instr) (s : State) (v : Word) : Bool := after (exec i s) fun t => t.g.reg 7 == v

/-- R170 and R171: the corners of division. -/
theorem test_division : (gives (.div 7 5 6) (ready (w64 (2 ^ 63)) (-1)) (w64 (2 ^ 63)) && gives (.rem 7 5 6) (ready (w64 (2 ^ 63)) (-1)) 0
    && gives (.div 7 5 6) (ready 9 0) (-1) && gives (.rem 7 5 6) (ready 9 0) 9 && gives (.divu 7 5 6) (ready 9 0) (-1)
    && gives (.remu 7 5 6) (ready 9 0) 9 && gives (.div 7 5 6) (ready (-7) 2) (-3) && gives (.rem 7 5 6) (ready (-7) 2) (-1)) = true := by decide
/-- R170: products and shifts at their edges. -/
theorem test_products : (gives (.mulh 7 5 6) (ready (-1) (-1)) 0 && gives (.mulhu 7 5 6) (ready (-1) (-1)) (-2) && gives (.mul 7 5 6) (ready (-1) 2) (-2)
    && gives (.clmul 7 5 6) (ready 3 3) 5 && gives (.clmulh 7 5 6) (ready (w64 (2 ^ 63)) 2) 1) = true := by decide
theorem test_shifts : (gives (.sll 7 5 6) (ready 1 65) 2 && gives (.sra 7 5 6) (ready (-4) 1) (-2) && gives (.srl 7 5 6) (ready (-1) 63) 1
    && gives (.rol 7 5 6) (ready (w64 (2 ^ 63)) 1) 1 && gives (.ror 7 5 6) (ready 1 1) (w64 (2 ^ 63))) = true := by decide
/-- R172: `SEXT s9, s9, 4` and `ZEXT s9, s5, 48`, the spec's own lines; counts of zero. -/
theorem test_extensions : (gives (.sext 7 5 1) (ready 0xF8 0) (-8) && gives (.zext 7 5 23) (ready (-1) 0) 0xFFFFFFFFFFFF && gives (.clz 7 5) (ready 0 0) 64
    && gives (.ctz 7 5) (ready 0 0) 64 && gives (.clz 7 5) (ready 1 0) 63 && gives (.popc 7 5) (ready (-1) 0) 64) = true := by decide
/-- R173: a write to s0 is discarded; SLTIU with −1 compares with 2^64 − 1; a shift by 64 traps. -/
theorem test_immediates : (gives (.sltiu 7 5 (-1)) (ready (-1) 0) 0 && gives (.sltiu 7 5 (-1)) (ready 5 0) 1 && gives (.addi 7 5 1) (ready (-1) 0) 0
    && after (exec (.addi 0 5 1) (ready 5 0)) (fun t => t.g.reg 0 == 0 && t.g.pc == 0x10004 && t.g.retired == 1)
    && after (exec (.slli 7 5 64) (ready 5 0)) (fun t => t.g.gcause == 1 && t.g.pc == 0x20000 && t.g.reg 7 == 0 && t.g.retired == 0)) = true := by
  decide
theorem test_long_immediates : (gives (.lih 7 0xFFFFF) (ready 0 0) 0xFFFFF000 && gives (.lim 7 (-1)) (ready 0 0) (-1)
    && after (exec (.lim 7 1) (ready 0 0)) (fun t => t.g.pc == 0x10008)) = true := by decide
/-- R189: the spec's `BNE s6, s0, loop` of −3 words; R190 and R191: links, a misaligned target, and s[a] read before s[d] is written. -/
theorem test_branches : (after (exec (.bne 0x1D 6 0 0x3FF) (ready 0 1)) (fun t => t.g.pc == 0xFFF4)
    && after (exec (.bne 0x1D 6 0 0x3FF) (ready 0 0)) (fun t => t.g.pc == 0x10004)
    && after (exec (.blt 2 5 6 0) (ready (-1) 1)) (fun t => t.g.pc == 0x10008) && after (exec (.bltu 2 5 6 0) (ready (-1) 1)) (fun t => t.g.pc == 0x10004))
    = true := by decide
theorem test_jumps : (after (exec (.jal 7 (-1)) (ready 0 0)) (fun t => t.g.pc == 0xFFFC && t.g.reg 7 == 0x10004)
    && after (exec (.jalr 5 5 4) (ready 0x400 0)) (fun t => t.g.pc == 0x404 && t.g.reg 5 == 0x10004)
    && after (exec (.jalr 7 5 2) (ready 0x400 0)) (fun t => t.g.gcause == 3 && t.g.geval == 0x402 && t.g.reg 7 == 0)) = true := by decide
/-- R176 to R179: sequencer-local memory is little-endian; LB sign-extends and LBU does not; an odd LH traps. -/
theorem test_local : (let s := { ready (w64 (2 ^ 63 + 8)) 0 with g := { gang (w64 (2 ^ 63 + 8)) 0 with lmem := [(8, 0x80), (9, 0x01)] } }
    gives (.lb 7 5 0) s (-128) && gives (.lbu 7 5 0) s 0x80 && gives (.lhu 7 5 0) s 0x180
      && after (exec (.lh 7 5 1) s) (fun t => t.g.gcause == 3 && t.g.geval == w64 (2 ^ 63 + 9))
      && after (exec (.sh 6 5 0) { s with g := { s.g with regs := [(5, w64 (2 ^ 63 + 8)), (6, 0xABCD)] } }) (fun t => t.g.lmem == [(8, 0xCD), (9, 0xAB)]))
    = true := by decide
/-- R54 and R57: byte 0x40 of window 0 lies in bank 1 at local offset 0; an F-address without a window faults. -/
theorem test_field : (after (exec (.sb 6 5 0) (ready 0x100040 0xAB)) (fun t => t.field == [(2 ^ 19, 0xAB)])
    && after (exec (.lb 7 5 0) (ready 0x90000000 0)) (fun t => t.g.gcause == 4 && t.g.geval == 0x90000000)
    && gives (.owner 7 5) (ready 0x100040 0) (w64 (2 ^ 63 + 2 ^ 32)) && gives (.owner 7 5) (ready 0x90000000 0) 1) = true := by decide
/-- R180 to R185: LDG of a word of HBM; a read-only page refuses a store; a store to host memory is sent and awaits its acknowledgement. -/
theorem test_global : (gives (.ldg 7 5 0 2 0 0) { ready 0x10004 0 with mem := [(4, 0xFE), (5, 0xFF), (6, 0xFF), (7, 0xFF)] } (-2)
    && after (exec (.stg 6 5 0 0 0 0) (ready 0x10004 0xAB)) (fun t => t.mem == [(4, 0xAB)] && t.unacked == [])
    && after (exec (.stg 6 5 0 0 0 0) (ready 0x30000 0xAB)) (fun t => t.g.gcause == 8 && t.g.geval2 == 1 && t.mem == [])
    && after (exec (.stg 6 5 0 0 0 0) (ready 0x40001 0xAB)) (fun t => t.mem == [] && t.unacked.map (fun u => (u.pa, u.bytes)) == [(2 ^ 51 + 1, [0xAB])]))
    = true := by decide
/-- R186 and R187: AMO.add and AMO.cas in HBM; the old word comes back sign-extended. -/
theorem test_atomics : (after (exec (.amo 7 5 6 1 0 0 0 1) { ready 0x10000 2 with mem := [(0, 0xFF), (1, 0xFF), (2, 0xFF), (3, 0xFF)] })
      (fun t => t.g.reg 7 == -1 && t.mem == [(0, 1)])
    && after (exec (.amo 7 5 6 9 0 0 0 1) { ready 0x10000 2 with mem := [(0, 7)] }) (fun t => t.g.reg 7 == 7 && t.mem == [(0, 7)])) = true := by decide
/-- R195 to R197 and R201: CWR answers the old value, CSET and CCLR work on bits, and SETEC limits its count. -/
theorem test_control : (after (exec (.cwr 7 5 0x011) { ready 5 0 with g := { gang 5 0 with estart := 9 } }) (fun t => t.g.reg 7 == 9 && t.g.estart == 5)
    && after (exec (.cclr 7 5 0x007) { ready 5 0 with g := { gang 5 0 with gscratch := 7, pl := true } }) (fun t => t.g.reg 7 == 7 && t.g.gscratch == 2)
    && after (exec (.cwr 7 5 0x007) (ready 5 0)) (fun t => t.g.gcause == 2 && t.g.gscratch == 0)
    && after (exec (.setec 7 5) (ready (-1) 0)) (fun t => t.g.reg 7 == w64 (2 ^ 34) && t.g.ecount == w64 (2 ^ 34))) = true := by decide
/-- R25, R28, R30: SETSPAN to a count that is no size answers 0; growing appends clusters, shrinking clears the ones given up. -/
theorem test_setspan : (gives (.setspan 7 5) (ready 5 0) 0
    && after (exec (.setspan 7 5) (ready 8 0)) (fun t => t.g.reg 7 == 8 && t.g.clusters.length == 8 && t.g.clusters.take 4 == [0, 1, 2, 3])
    && after (exec (.setspan 7 5) { ready 4 0 with field := [(0, 1), (7 * 2 ^ 23, 1)], g := { gang 4 0 with clusters := [0, 1, 2, 3, 4, 5, 6, 7] } })
      (fun t => t.g.reg 7 == 4 && t.g.clusters == [0, 1, 2, 3] && t.field == [(0, 1)])) = true := by decide
/-- R205: the oldest value leaves the read queue; with no entry reserved RQPOP traps with reason 2; RQSTAT counts both. -/
theorem test_read_queue : (after (exec (.rqpop 7) { ready 0 0 with g := { gang 0 0 with rq := [some 5, some 6] } }) (fun t => t.g.reg 7 == 5 && t.g.rq == [some 6])
    && after (exec (.rqpop 7) (ready 0 0)) (fun t => t.g.gcause == 1 && t.g.geval2 == 2)
    && gives (.rqstat 7) { ready 0 0 with g := { gang 0 0 with rq := [some 5, none] } } 0x201) = true := by decide
/-- R207 to R209: words open a command; EQPOP on an idle port traps with reason 4. -/
theorem test_ports : (after (exec (.eqpush 5 3) (ready 9 0)) (fun t => (t.g.port 3).openWords == [9])
    && after (exec (.eqpop 7 3) (ready 9 0)) (fun t => t.g.gcause == 1 && t.g.geval2 == 4)) = true := by decide
/-- R126 and R213: a gang barrier of one member completes at the gang's own arrival; WAITB without an arrival traps. -/
theorem test_barriers : (after (exec (.barcfg 7 3 5) (ready 1 0)) (fun t => t.g.reg 7 == 1 && (barrierOf t (barrierKey t.g 3)).count == 1)
    && after (exec (.waitb 3) (ready 1 0)) (fun t => t.g.gcause == 1)
    && after (exec (.fenceb 3 2) { ready 1 0 with barriers := [(barrierKey (gang 1 0) 3, { count := 1, phase := 4 })] })
      (fun t => (barrierOf t (barrierKey t.g 3)).phase == 5 && (barrierOf t (barrierKey t.g 3)).arrived == [] && t.g.pc == 0x10004)) = true := by decide
/-- R215 and R216: SIGPOST adds to a word of HBM and sets EV; SIGWAIT.ge goes on at the value and waits below it; WFE. -/
theorem test_signals : (after (exec (.sigpost 0 5 6) { ready 0x10000 3 with mem := [(0, 4)] }) (fun t => t.mem == [(0, 7)] && t.g.ev == true)
    && after (exec (.sigwait 0 5 6) { ready 0x10000 7 with mem := [(0, 7)] }) (fun t => t.g.pc == 0x10004)
    && after (exec (.sigwait 0 5 6) { ready 0x10000 8 with mem := [(0, 7)] }) (fun t => t.g.pc == 0x10000 && t.g.retired == 0)
    && after (exec .wfe { ready 0 0 with g := { gang 0 0 with ev := true } }) (fun t => t.g.ev == false && t.g.pc == 0x10004)
    && after (exec .wfe (ready 0 0)) (fun t => t.g.pc == 0x10000)) = true := by decide
theorem test_fences : (after (exec (.fence 3 7) (ready 0 0)) (fun t => t.g.pc == 0x10004) && after (exec .bqwait (ready 0 0)) (fun t => t.g.pc == 0x10004)
    && after (exec (.fence 0 1) { ready 0 0 with lockstep := false, g := { gang 0 0 with loads := [⟨7, 5, false⟩] } }) (fun t => t.g.pc == 0x10000)
    && after (exec (.awset 3 5 6) (ready 0x1234 (-1))) (fun t => mget {} t.g.walks 3 == ⟨0x1234, 0xFFFFFFFFFFFF, 0x1234⟩)
    && after (exec .yield (ready 0 0)) (fun t => t.g.pc == 0x10004 && t.g.preempt == false)) = true := by decide
/-- R219, R220, R225 and R226: TRAP enters the handler, which reads its cause and returns. -/
theorem test_traps : (after (exec (.trap 1 0) (ready 0 0)) (fun t => t.g.gcause == 11 && t.g.geval == 1 && t.g.gepc == 0x10004 && t.g.pc == 0x20000 && t.g.pl)
    && after (exec .brk (ready 0 0)) (fun t => t.g.gcause == 12 && t.g.gepc == 0x10000)
    && after (exec .brk { ready 0 0 with g := { gang 0 0 with db := true } }) (fun t => t.g.phase == .svkStop)
    && after (exec .eret { ready 0 0 with g := { gang 0 0 with pl := true, gepc := 0x10008 } }) (fun t => t.g.pc == 0x10008 && !t.g.pl)
    && after (exec .eretDrop { ready 0 0 with g := { gang 0 0 with pl := true, gepc := 0x10008 } }) (fun t => t.g.pc == 0x10008 && t.g.frame == [])
    && after (exec .eret (ready 0 0)) (fun t => t.g.gcause == 2)) = true := by decide
/-- R223 and R217: a cause at handler level fails the gang; HALT retires it. -/
theorem test_ends : (after (exec (.trap 1 0) { ready 0 0 with g := { gang 0 0 with pl := true } }) (fun t => (findGang t 1).map (·.phase) == some .failed)
    && after (exec .halt (ready 0 0)) (fun t => (findGang t 1).map (·.phase) == some .retired)) = true := by decide
/-- The digest of "abc" that FIPS 180-4 publishes. -/
theorem test_sha512_abc : sha512 [0x61, 0x62, 0x63] = [0xDD, 0xAF, 0x35, 0xA1, 0x93, 0x61, 0x7A, 0xBA, 0xCC, 0x41, 0x73, 0x49, 0xAE, 0x20, 0x41, 0x31, 0x12, 0xE6, 0xFA, 0x4E, 0x89, 0xA9, 0x7E, 0xA2, 0x0A, 0x9E, 0xEE, 0xE6, 0x4B, 0x55, 0xD3, 0x9A, 0x21, 0x92, 0x99, 0x2A, 0x27, 0x4F, 0xC1, 0xA8, 0x36, 0xBA, 0x3C, 0x23, 0xA3, 0xFE, 0xEB, 0xBD, 0x45, 0x4D, 0x44, 0x23, 0x64, 0x3C, 0xE8, 0x0E, 0x2A, 0x9A, 0xC9, 0x4F, 0xA5, 0x4C, 0xA4, 0x9F] := by decide +kernel

/-! ### Element, tile, copy and table instructions, one step each. -/

/-- Bytes at the start of bank 0, which window 0 shows at 0x100000 on. -/
def fieldOf (bs : List Byte) : List Host.Cell := wrBytes [] 0 bs
/-- A machine for element instructions on bank 0: s5 = 0x100000 holds the given bytes, s6 = 0x100008, and the counts are set. -/
def elems (n : Nat) (bs : List Byte) : State :=
  { ready 0x100000 0x100008 with field := fieldOf bs, g := { gang 0x100000 0x100008 with ecount := w64 n, tcount := 1, emask := 0x100010 } }
def bxe (ef : BitVec 5) : BX := { bx0 with ef := ef, d := 5, a := 5, b := 6 }
def unary (ef : BitVec 5) : BX := { bxe ef with b := 0 }
/-- Bytes 0 on of bank 0 after an instruction. -/
def leaves (i : Instr) (s : State) (bs : List Byte) : Bool := after (exec i s) fun t => rdBytes t.field 0 bs.length == bs && t.g.pc == 0x10008

/-- R78 and R255: 1.0 + 2.0, 1.0 × 2.0 and 1.0 / 2.0 in F32; R90: a saturating sum of I8, and the same sum without SAT. -/
theorem test_float_elements : (let s := elems 1 [0, 0, 0x80, 0x3F, 0, 0, 0, 0, 0, 0, 0, 0x40]
    leaves (.vadd (bxe 14)) s [0, 0, 0x40, 0x40] && leaves (.vmul (bxe 14)) s [0, 0, 0, 0x40] && leaves (.vdiv (bxe 14)) s [0, 0, 0, 0x3F]
      && leaves (.vsub (bxe 14)) s [0, 0, 0x80, 0xBF] && leaves (.vmin (bxe 14)) s [0, 0, 0x80, 0x3F] && leaves (.vneg (unary 14)) s [0, 0, 0x80, 0xBF])
    = true := by decide +kernel
theorem test_integer_elements : (let s := elems 2 [100, 0x9C, 0, 0, 0, 0, 0, 0, 100, 0x9C]
    leaves (.vadd { bxe 0 with sat := 1 }) s [127, 0x80] && leaves (.vadd (bxe 0)) s [200, 0x38] && leaves (.vsub (bxe 0)) s [0, 0]
      && leaves (.vxor (bxe 0)) s [0, 0] && leaves (.vavg { bxe 0 with rnd := 0 }) s [100, 0x9C] && leaves (.vabs (unary 0)) s [100, 100])
    = true := by decide +kernel
/-- R262, R261 and R151: the mask byte of a compare; a masked element keeps its value. -/
theorem test_compare_and_mask : (let s := elems 2 [1, 2, 0, 0, 0, 0, 0, 0, 2, 2, 0, 0, 0, 0, 0, 0, 0b01]
    leaves (.vcmp { bxe 1 with fn := 2 }) s [0x01] && leaves (.vadd { bxe 1 with msk := 1 }) s [3, 2] && leaves (.vadd { bxe 1 with msk := 2 }) s [1, 4])
    = true := by decide +kernel
/-- R265 and R266: 1.0 and its neighbours in conversion; VCVTI truncates as RND 1 asks. -/
theorem test_conversions : (leaves (.vcvtn { unary 14 with b := 13 }) (elems 1 [0, 0, 0x80, 0x3F]) [0x80, 0x3F]
    && leaves (.vcvtw { unary 12 with b := 14 }) (elems 1 [0, 0x3C]) [0, 0, 0x80, 0x3F]
    && leaves (.vcvti { unary 14 with fn := 4, rnd := 1 }) (elems 1 [0, 0, 0x20, 0xC0]) [0xFE, 0xFF, 0xFF, 0xFF]) = true := by decide +kernel
/-- R274: a splat, counting up, reversing; R280: an exclusive scan. -/
theorem test_movement : (leaves (.vmov { unary 1 with am := 2, a := 6 }) (elems 2 []) [8, 8] && leaves (.viota { unary 1 with am := 2, a := 0 }) (elems 3 []) [0, 1, 2]
    && leaves (.vrev { unary 1 with a := 6 }) (elems 2 [0, 0, 0, 0, 0, 0, 0, 0, 7, 9]) [9, 7]
    && leaves (.vscan { unary 1 with fn := 4 }) (elems 3 [5, 6, 7]) [0, 5, 11]) = true := by decide +kernel
/-- R277 to R279: a sum, a maximum and a count reach the read queue; VFIRST finds the first element that is not zero. -/
theorem test_reductions : (let q := { unary 1 with d := 0, dm := 2 }
    let s := elems 3 [0, 6, 7]
    let rq := fun (i : Instr) (v : Word) => after (exec i s) fun t => t.g.rq == [some v]
    rq (.vredsum q) 13 && rq (.vredmax q) 7 && rq (.vcount q) 2 && rq (.vfirst q) 1 && rq (.vredbit { q with fn := 2 }) 1) = true := by decide +kernel
/-- R281: two elements that scatter to one target both add. -/
theorem test_scatter : after (exec (.vscatadd { bx0 with ef := 1, d := 5, dm := 3, a := 8 })
    { elems 2 [10, 0, 0, 0, 0, 0, 0, 0, 0, 0, 0, 0, 0, 0, 0, 0, 3, 4] with g := { (elems 2 []).g with regs := [(5, 0x100000), (6, 0x100008), (8, 0x100010)] } })
    (fun t => rdByte t.field 0 == 17) = true := by decide +kernel
/-- R315: TTAGR copies the tag of a frame out; TTAGW stores one, with the frame's own GEN advanced. -/
theorem test_tags : (let s := { ready 0x200000 0x100040 with
      ftags := [(0, 0x00050000000000AB)], field := wrBytes [] (2 ^ 19) (leBytes 8 0x777700000000003E)
      g := { gang 0x200000 0x100040 with tcount := 1, windows := [(0, ⟨0x100000, 0x10000, 0, 64, 6, false, false, true, 0⟩), (1, ⟨0x200000, 0x20000, 0, 64, 13, false, true, true, 0⟩)] } }
    after (exec (.ttagr ⟨6, 5, 0, 0, 0, 0, 0, 0, 0, 0, 0⟩) s) (fun t => rdNat t.field (2 ^ 19) 8 == 0x00050000000000AB)
      && after (exec (.ttagw ⟨5, 6, 0, 0, 0, 0, 0, 0, 0, 0, 0⟩) s) (fun t => tagOfKey t 0 == 0x000600000000003E)) = true := by decide +kernel
/-- R346: four bytes from HBM to the field, by channel 2; R349 and R358. -/
theorem test_copy : (after (exec (.copy ⟨5, 6, 7, 2, 0, 0, 0⟩)
      { ready 0 0 with mem := [(0, 1), (1, 2), (2, 3), (3, 4), (4, 5)], g := { gang 0 0 with regs := [(5, 0x100002), (6, 0x10000), (7, 4)] } })
      (fun t => t.field == [(2, 1), (3, 2), (4, 3), (5, 4)] && (t.g.channel 2).queue == [] && t.g.pc == 0x10008)
    && after (exec (.drain ⟨0, 0, 0, 2, 0, 0, 0⟩) (ready 0 0)) (fun t => t.g.pc == 0x10008)) = true := by decide +kernel
/-- R314 and R289: no entry of an empty method table matches; a block table of no entries is refused with reason 11. -/
theorem test_tables : (after (exec (.mtquery ⟨7, 5, 6, 0, 0, 0, 0⟩) (ready 0 0)) (fun t => t.g.reg 7 == 0 && t.g.pc == 0x10008)
    && after (exec (.bload ⟨0, 5, 6, 0, 0, 0, 0⟩) (ready 0x10000 0)) (fun t => t.g.gcause == 1 && t.g.geval2 == 11)
    && after (exec (.mtload ⟨0, 5, 6, 0, 0, 0, 255⟩) (ready 0x10000 2)) (fun t => t.g.gcause == 1 && t.g.geval2 == 12)
    && after (exec (.mtinv ⟨0, 5, 6, 0, 0, 0, 0⟩) { ready 3 1 with g := { gang 3 1 with methods := [(3, ⟨1, 1, 1, 1⟩), (4, ⟨1, 1, 1, 1⟩)] } })
      (fun t => t.g.methods == [(4, ⟨1, 1, 1, 1⟩)])) = true := by decide +kernel

/-! ### Witnesses. -/

theorem healthy_ready (a b : Word) : healthy (ready a b) := ⟨rfl, fun _ => rfl⟩
theorem witness_trapsNow : trapsNow (ready 0 0) := by unfold trapsNow; decide

/-- `issues` holds of a legal form of every instruction that gang level may run, and of the handler's instructions at its level. -/
theorem witness_issues_short : ∀ i ∈ [Instr.add 7 5 6, .sub 7 5 6, .and 7 5 6, .or 7 5 6, .xor 7 5 6, .andn 7 5 6, .sll 7 5 6, .srl 7 5 6, .sra 7 5 6,
    .rol 7 5 6, .ror 7 5 6, .slt 7 5 6, .sltu 7 5 6, .min 7 5 6, .max 7 5 6, .minu 7 5 6, .maxu 7 5 6, .mul 7 5 6, .mulh 7 5 6, .mulhu 7 5 6,
    .div 7 5 6, .divu 7 5 6, .rem 7 5 6, .remu 7 5 6, .clmul 7 5 6, .clmulh 7 5 6, .clz 7 5, .ctz 7 5, .popc 7 5, .sext 7 5 31, .zext 7 5 0,
    .addi 7 5 1, .andi 7 5 1, .ori 7 5 1, .xori 7 5 1, .slli 7 5 63, .srli 7 5 63, .srai 7 5 63, .slti 7 5 1, .sltiu 7 5 1, .lih 7 1, .lim 7 1,
    .beq 1 5 6 0, .bne 1 5 6 0, .blt 1 5 6 0, .bge 1 5 6 0, .bltu 1 5 6 0, .bgeu 1 5 6 0, .jal 7 1, .jalr 7 5 4], issues i (ready 0 0) := by
  simp only [issues]; decide
theorem witness_issues_memory : ∀ i ∈ [Instr.lb 7 5 0, .lbu 7 5 0, .lh 7 5 0, .lhu 7 5 0, .lw 7 5 0, .lwu 7 5 0, .ld 7 5 0, .sb 6 5 0, .sh 6 5 0, .sw 6 5 0,
    .sd 6 5 0, .ldg 7 5 0 6 1 3, .stg 6 5 0 3 2 3, .amo 7 5 6 9 1 3 3 1, .crd 7 0x041, .cwr 7 5 0x057, .cset 7 5 0x030, .cclr 7 5 0x011, .setec 7 5,
    .setecT 7 5, .setspan 7 5, .fwset 7 5 6, .fwget 7 5 6, .owner 7 5, .rqpop 7, .rqstat 7, .eqpush 5 15, .eqpushLast 5 0, .eqpop 7 15, .eqstat 7 0,
    .fence 3 7, .fenceb 31 7, .waitb 31, .barcfg 7 3 5, .bqwait, .sigwait 2 5 6, .sigpost 1 5 6, .awset 15 5 6, .trap 31 31, .brk, .wfe, .yield, .halt],
    issues i (ready 0 0) := by
  simp only [issues]; decide
/-- The machine at handler level. -/
def inHandler (a b : Word) : State := { ready a b with g := { gang a b with pl := true } }
theorem witness_issues_handler : ∀ i ∈ [Instr.eret, .eretSkip, .eretDrop, .qsave 5, .qload 5, .crd 7 0x001, .cwr 7 5 0x007, .cset 7 5 0x002, .cclr 7 5 0x005],
    issues i (inHandler 0 0) := by
  simp only [issues]; decide
theorem witness_issues_long : ∀ i ∈ [Instr.vadd bx2, .vsub bx2, .vmul bx2, .vfma bx3, .vfms bx3, .vfnma bx3, .vdiv bx2, .vsqrt bx1, .vmin bx2, .vmax bx2,
    .vabs bx1, .vneg bx1, .vcpys bx2, .vfun bx1, .vmulh { bx2 with ef := 4 }, .vavg bx2, .vclass bx1, .vand { bx2 with ef := 4 }, .vor { bx2 with ef := 4 },
    .vxor { bx2 with ef := 4 }, .vsll { bx2 with ef := 4 }, .vsrl { bx2 with ef := 4 }, .vsra { bx2 with ef := 4 }, .vclmul { bx2 with ef := 5 },
    .vclmulh { bx2 with ef := 5 }, .vpopc { bx1 with ef := 5 }, .vclz { bx1 with ef := 5 }, .vcmp bx2, .vselm { bx2 with msk := 1 },
    .vcvtn { bx1 with b := 12 }, .vcvtw { bx1 with ef := 12, b := 14 }, .vcvti { bx1 with fn := 4 }, .vcvtf4 bx1, .vmov bx1,
    .viota { bx1 with ef := 5, am := 2 }, .vrev bx1, .vreshape { bx2 with bm := 2 }, .vcompress { bx1 with msk := 1 }, .vexpand { bx1 with msk := 1 },
    .vredsum bx1, .vredmax bx1, .vredmin bx1, .vredbit { bx1 with ef := 5 }, .vscan bx1, .vfirst { bx1 with ef := 5 }, .vcount { bx1 with ef := 5 },
    .vscatadd { bx1 with dm := 3 }, .vscatmax { bx1 with dm := 3 }, .vscatmin { bx1 with dm := 3 }, .vconfl { bx1 with ef := 5 }, .vspadd bx2, .vspmul bx2,
    .vrunb { bx1 with ef := 5 }, .bload ⟨0, 5, 6, 0, 0, 0, 0⟩, .mtload ⟨0, 5, 6, 0, 0, 0, 0⟩, .mtinv ⟨0, 5, 6, 0, 0, 0, 0⟩, .mtquery ⟨7, 5, 6, 0, 0, 0, 0⟩,
    .copy cx3, .copynd cx3, .gather cx3, .scatter { cx3 with dir := 1 }, .drain ⟨0, 0, 0, 2, 0, 0, 0⟩, .tmma tx3, .tew tx3, .tact { tx3 with b := 0 },
    .trowr { tx3 with b := 0 }, .tsoft { tx3 with b := 0 }, .ttrn { tx3 with b := 0 }, .tcvt { tx3 with b := 0 }, .tcpy { tx3 with b := 0 },
    .tfill { tx3 with b := 0 }, .ttagr { tx3 with b := 0 }, .ttagw { tx3 with b := 0 }], issues i (ready 0 0) := by
  simp only [issues]; decide

/-- The registers' values that the premises of the integer and immediate groups name, and a shift immediate above 63. -/
theorem witness_IntegerGroupWritesItsResult : (ready 1 2).reg 5 = 1 ∧ (ready 1 2).reg 6 = 2 := by decide
theorem witness_ImmediateGroupWritesItsResult : (ready 1 2).reg 5 = 1 ∧ 63 < (64 : BitVec 15).toNat := by decide
theorem witness_ConditionalBranchesMoveThePc : (ready 1 2).reg 5 = 1 ∧ (ready 1 2).reg 6 = 2 := by decide
theorem witness_JumpsLinkAndMoveThePc : (let x := fun (i : BitVec 15) => (ready 0x400 0).reg 5 + BitVec.ofInt 64 i.toInt
    (x 4).toNat % 4 = 0 ∧ (x (-2)).toNat % 4 ≠ 0) := by decide

/-- A machine whose sequencer-local word 0 and field word 0 are damaged. -/
def damaged : State := { ready 0 0 with fieldBad := [0], g := { gang 0 0 with lmemBad := [0] } }
/-- Sequencer-local and field addresses for a load or store of 8 bytes: the last aligned one, a misaligned one, one beyond 64 KiB, one
below it, one in no window, and damaged words. -/
theorem witness_ScalarLoadsWriteTheExtendedValue :
    (2 ^ 63 + 65528) % 8 = 0 ∧ 65528 / 8 ∉ (ready 0 0).g.lmemBad
    ∧ fieldHeld (ready 0 0) 0x100040 8 = false ∧ fieldKeys (ready 0 0) false 0x100040 8 = some [524288, 524289, 524290, 524291, 524292, 524293, 524294, 524295]
    ∧ fieldKeys (ready 0 0) false 0xFFFFFFF8 8 = none ∧ fieldHeld (ready 0 0) 0xFFFFFFF8 8 = false
    ∧ 0 / 8 ∈ damaged.g.lmemBad ∧ fieldKeys damaged false 0x100000 1 = some [0] ∧ fieldHeld damaged 0x100000 1 = false ∧ 0 / 8 ∈ damaged.fieldBad := by decide
theorem witness_ScalarStoresWriteTheirBytes :
    storeHeld (ready 0 0) 0x100040 1 = false ∧ storeHeld (ready 0 0) 0xFFFFFFF8 8 = false ∧ storeHeld damaged 0x100000 1 = false
    ∧ fieldKeys (ready 0 0) true 0x100040 1 = some [524288] ∧ keysPart (ready 0 0) [524288] = false
    ∧ fieldKeys (ready 0 0) true 0xFFFFFFF8 8 = none ∧ fieldKeys damaged true 0x100000 1 = some [0] ∧ keysPart damaged [0] = true := by decide

/-- Pages of HBM, host memory and reads alone: what the G-space clauses ask. -/
theorem witness_GlobalLoadsReturnTheirBytes :
    globalPa (ready 0 0) 0x1FFFE 2 .read 0 = .ok 0xFFFE ∧ pendingWrite (ready 0 0) 0xFFFE 2 = false
    ∧ (physRead (globalTouch (ready 0 0) 0x1FFFE) 0xFFFE 2).2 = some [0, 0] ∧ 2 ^ 48 ≤ (w64 (2 ^ 48)).toNat
    ∧ targetRefuses (ready 0 0) 0xFFFE = false ∧ storesSeen (ready 0 0) ∧ sound (ready 0 0) = true := by
  refine ⟨?_, ?_, ?_, ?_, ?_, ?_, ?_⟩ <;> first | rfl | (unfold storesSeen; decide) | decide
theorem witness_permission : translateFull (ready 0 0) 0 0 0x30000 .write = .permission
    ∧ translateFull { ready 0 0 with hubs := [(0, [⟨0, 0x10000, 0x10000, 0x17⟩, ⟨0, 0x20000, 0x10000, 0x7⟩])] } 0 0 0x20000 .fetch = .permission := by decide
theorem witness_GlobalStoresWriteOrSendTheirBytes :
    globalPa (ready 0 0) 0x1FFF8 8 .write 1 = .ok 0xFFF8 ∧ storeLost (ready 0 0) 0xFFF8 8 = false ∧ released (ready 0 0)
    ∧ globalPa (ready 0 0) 0x40000 8 .write 1 = .ok (2 ^ 51) ∧ region (2 ^ 51) = 2 := by
  refine ⟨?_, ?_, ?_, ?_, ?_⟩ <;> first | rfl | (simp only [released, storesSeen]; decide) | decide
theorem witness_AtomicsUpdateMemoryAndReturnTheOldValue :
    crossesGranule (gang 0 0) 0x100038 8 = false ∧ fieldKeys (ready 0 0) true 0x100038 8 = some [56, 57, 58, 59, 60, 61, 62, 63] ∧ storeHeld (ready 0 0) 0x100038 8 = false
    ∧ [56, 57, 58, 59, 60, 61, 62, 63].Nodup ∧ globalPa (ready 0 0) 0x1FFF8 8 .write 2 = .ok 0xFFF8 ∧ region 0xFFF8 < 2
    ∧ pendingWrite (ready 0 0) 0xFFF8 8 = false ∧ (physRead (atomicTouch (ready 0 0) 0x1FFF8) 0xFFF8 8).2 = some [0, 0, 0, 0, 0, 0, 0, 0]
    ∧ globalPa (ready 0 0) 0x40000 8 .write 2 = .ok (2 ^ 51) ∧ 2 ≤ region (2 ^ 51) ∧ targetRefuses (ready 0 0) 0xFFF8 = false
    ∧ behindStg (ready 0 0) 0xFFF8 = false ∧ released (ready 0 0) ∧ storesSeen (ready 0 0) ∧ sound (ready 0 0) = true := by
  refine ⟨?_, ?_, ?_, ?_, ?_, ?_, ?_, ?_, ?_, ?_, ?_, ?_, ?_, ?_, ?_⟩ <;> first | rfl | (simp only [released, storesSeen]; decide) | decide
/-- Tables of PASID 0 that map 0x10000 to device registers. -/
def deviceMapped : State := { ready 0 0 with
  hubs := [], roots := [(0, 0x8000)]
  mem := wrBytes (wrBytes (wrBytes [] 0x4000 (leBytes 8 0xC001)) 0x8000 (leBytes 8 0x4001)) 0xC008 (leBytes 8 (3 * 2 ^ 50 + 0x17)) }
set_option maxRecDepth 65536 in
theorem witness_atomic_device : globalPa deviceMapped 0x10000 8 .write 2 = .error (.trap 8 6) ∧ mapsDevice deviceMapped deviceMapped.g.pasid 0x10000 = true := by
  refine ⟨?_, ?_⟩ <;> first | rfl | decide +kernel
/-- A word of HBM at 0 in error on a lost stack, with another stack lost beside it. -/
def unreadable : State := { ready 0 0 with
  memBad := [0], parity := { state := 5, lost := 0, lost2 := 1 }
  hbmStat := (List.range 12).map fun k => (k, { lost := true, why := 1 }) }
theorem witness_unreadable : (physRead (globalTouch unreadable 0x10000) 0 8).2 = none ∧ (physRead (atomicTouch unreadable 0x10000) 0 8).2 = none
    ∧ storeLost unreadable 0 4 = true ∧ globalPa unreadable 0x10000 8 .read 0 = .ok 0 := by
  refine ⟨?_, ?_, ?_, ?_⟩ <;> first | rfl | decide +kernel
/-- The machine with an element instruction in its broadcast queue, and with its lockstep timing off. -/
def queued : State := let s := ready 0 0; { s with lockstep := false, g := { s.g with bq := [stagedEntry s.g (.vmov bx1)] } }
theorem witness_ControlRegisterReadsReturnTheRegister : queued.g.bq ≠ [] ∧ (ready 0 0).g.bq = [] ∧ (0x01A : BitVec 12).toNat ≤ 0x1A
    ∧ (0x041, (ready 0 0).g.retired).1 = (0x041 : BitVec 12).toNat ∧ 8 ≤ (0x058 : BitVec 12).toNat ∧ 0x57 < (0x058 : BitVec 12).toNat := by decide
theorem witness_ControlRegisterWritesStoreWhatTheLayoutAdmits : (0x015 : BitVec 12).toNat ≠ 0x030 ∧ (0x015 : BitVec 12).toNat < 0x50
    ∧ (ready 3 0).g.bq = [] ∧ (0x015, w64 (3 % 32)).1 = (0x015 : BitVec 12).toNat := by decide
/-- A channel that a fault has stopped. -/
def stopped : State := { ready 0 0 with g := { gang 0 0 with channels := [(2, { stopped := true, errors := 1, fault := some ⟨9, 0x5000, 2, 0, 0, 0⟩ })] } }
theorem witness_ChannelStatusWritesClearAndCancel : bit (ready 0x100 0 |>.reg 5) 16 = false ∧ bit (ready 0x10000 0 |>.reg 5) 16 = true ∧ (stopped.g.channel 2).stopped = true ∧ stopped.g.bq = [] := by decide
theorem witness_SetCountWritesTheCount : (ready (-1) 0).reg 5 = -1 := by decide
/-- The sizes of R25, counts that are none, and clusters that another gang holds. -/
theorem witness_SetSpanGrantsOrRefuses : (ready 4 0).g.bq = [] ∧ (∀ p ∈ (ready 4 0).g.channels, p.2.queue = [] ∧ p.2.stopped = false)
    ∧ (∀ p ∈ (ready 4 0).g.ports, p.2.commands = []) ∧ 5 ∉ [4, 8, 16, 32, 64, 128] ∧ 4 ≤ (ready 4 0).g.clusters.length
    ∧ spanGrant (ready 8 0) 8 = some [4, 5, 6, 7] ∧ spanGrant { ready 8 0 with offline := [7] } 8 = none := by decide
theorem witness_ConversionReservationClearsTheFramesThatMove : (ready 5 0).g.bq = [] ∧ (∀ p ∈ (ready 5 0).g.channels, p.2.queue = [])
    ∧ (5 : Word) = (ready 5 0).reg 5 := by decide
/-- A descriptor at sequencer-local address 0: a window of 64 KiB over all banks, for window 1; a base off its alignment makes
it illegal. -/
def descriptor : State := { ready (w64 (2 ^ 63)) 1 with g := { gang (w64 (2 ^ 63)) 1 with
  lmem := wrBytes [] 0 (leBytes 8 (0x200000 + 0x10000 * 2 ^ 32) ++ leBytes 8 (64 * 2 ^ 12 + 6 * 2 ^ 24 + 2 ^ 31) ++ leBytes 8 0x10000) } }
theorem witness_WindowInstructionsInstallAndReadDescriptors : (descriptor.reg 5).toNat = 2 ^ 63 + 0 ∧ 0 + 32 ≤ 65536 ∧ 65504 + 32 ≤ 65536
    ∧ (∀ j < 4, 0 / 8 + j ∉ descriptor.g.lmemBad)
    ∧ (let w := fun (j : Nat) => w64 (rdNat descriptor.g.lmem (8 * j) 8)
       bit (w 1) 31 = true ∧ windowValid descriptor.g.windows descriptor.g.banksInSpan 1 (w 0) (w 1) (w 2) (w 3) = true
        ∧ windowValid descriptor.g.windows descriptor.g.banksInSpan 1 (w 0 + 1) (w 1) (w 2) (w 3) = false) ∧ 63 < 64 := by decide +kernel
theorem witness_OwnerReportsTheResolution :
    resolve (gang 0 0) [] 0x10FFFF false = .ok ⟨0, 63, 1023⟩ ∧ resolve (gang 0 0) [] 0x110000 false = .error .noWindow
    ∧ resolve { gang 0 0 with clusters := [0] } [] 0x10FFFF false = .error .outsideSpan ∧ resolve (gang 0 0) [3] 0x10FFFF false = .error .offlineOwner
    ∧ resolve { gang 0 0 with windows := [(0, ⟨0x100000, 0x10000, 0, 64, 6, false, false, true, 0x80000⟩)] } [] 0x100000 false = .error .beyondSlice := by
  refine ⟨?_, ?_, ?_, ?_, ?_⟩ <;> rfl
theorem witness_ReadQueueInstructionsPopAndCount : ([some 5, none] : List (Option Word)).drop 0 = some 5 :: [none]
    ∧ ([some 5, none] : List (Option Word)).drop 1 = none :: [] ∧ ((ready 0 0).g.rq.drop (ready 0 0).g.rqAside) = [] := by decide

theorem witness_FencesWaitForWhatTheyName : released (ready 0 0) ∧ copiesDone (ready 0 0) ∧ (ready 0 0).g.loads = [] ∧ storesSeen (ready 0 0)
    ∧ ¬ released queued ∧ queued.g.bq ≠ [] := by
  simp only [released, storesSeen, copiesDone]; decide
/-- A package barrier of two members in phase 4, owned by PASID 0. -/
def barriered (arrived : List Nat) (mine : Nat) : State :=
  { ready 2 0 with barriers := [(67, { count := 2, phase := 4, arrived := arrived })], g := { gang 2 0 with arrivals := [(67, mine)] } }
theorem witness_BarriersCountTheirMembers : (let s := barriered [9] 0
    barrierKey s.g 19 = 67 ∧ (barrierOf s 67).count ≠ 0 ∧ (barrierOf s 67).owner = s.g.pasid ∧ s.g.arriving = none
      ∧ mget 0 (barriered [] 4).g.arrivals 67 = 3 + 1 ∧ 3 < (barrierOf s 67).phase ∧ mget 0 (barriered [1] 5).g.arrivals 67 = 4 + 1
      ∧ (barrierOf s 67).phase ≤ 4 ∧ mget 0 s.g.arrivals 67 = 0 ∧ (barrierOf s 68).count = 0
      ∧ (barrierOf { s with barriers := [(67, { count := 2, owner := 7 })] } 67).owner ≠ s.g.pasid
      ∧ { s.g with arriving := some (67, false) }.arriving = some (67, false) ∧ 2 ≤ 32 ∧ ¬ (33 ≤ 32)) := by decide
theorem witness_SignalsAreAwaitedAndPosted : globalPa (ready 0x10000 3) 0x10000 8 .read 0 = .ok 0 ∧ globalPa (ready 0x10000 3) 0x10000 8 .write 2 = .ok 0
    ∧ region 0 = 0 ∧ (physRead (useG (ready 0x10000 3) 0x10000) 0 8).2 = some [0, 0, 0, 0, 0, 0, 0, 0] ∧ ¬ (3 : Word).toNat ≤ (w64 0).toNat ∧ (0 : Word).toNat ≤ (w64 0).toNat
    ∧ globalPa (ready 0 0) 0x40000 8 .write 2 = .ok (2 ^ 51) ∧ region (2 ^ 51) ≠ 0 ∧ 0x10004 % 8 ≠ 0 := by
  refine ⟨?_, ?_, ?_, ?_, ?_, ?_, ?_, ?_, ?_⟩ <;> first | rfl | decide
theorem witness_signal_scopes : copiesDone (ready 0 0) ∧ released (ready 0 0) ∧ storesSeen (ready 0 0) := by simp only [released, storesSeen, copiesDone]; decide
theorem witness_HintsWaitsAndYields : copiesDone (ready 0 0) ∧ enginesDone (ready 0 0) ∧ (ready 0 0).g.ev = false ∧ spanWanted (ready 0 0) = false := by
  simp only [copiesDone, enginesDone]; decide
theorem witness_IllegalAndPrivilegedInstructionsTrap : (Instr.slli 7 5 64).isEvent = false ∧ (Instr.slli 7 5 64).wf = false ∧ Instr.eret.wf = true
    ∧ Instr.eret.privileged = true := by decide
theorem witness_CausesWithoutAHandlerFailTheGang : ownId (inHandler 0 0) ∧ (inHandler 0 0).g.bq = [] ∧ (inHandler 0 0).g.bankFault = false
    ∧ (inHandler 0 0).g.pl = true ∧ (inHandler 0 0).g.launch.queue < 8192
    ∧ { gang 0 0 with gtvec := 0 }.gtvec = 0 ∧ { gang 0 0 with gtvec := 0 }.copyFault = none := by simp only [ownId]; decide
theorem witness_TrapsAndBreakpoints : (ready 0 0).g.db = false ∧ { gang 0 0 with db := true }.db = true ∧ (ready 0 0).g.copyFault = none
    ∧ { gang 0 0 with phase := .svkStop }.phase = .svkStop ∧ (gang 0 0).savedCause = none
    ∧ { gang 0 0 with phase := .svkStop, savedCause := some (stepCause, true, 0) }.savedCause ≠ none ∧ (ready 0 0).g.id = 1 ∧ (ready 0 0).g.id ≠ 2 := by decide
/-- A handler with the frame of one instruction, in the timing of separate steps. -/
def framed : State := { inHandler 0 0 with lockstep := false, g := { (inHandler 0 0).g with frame := queued.g.bq, fv := true, gqpos := 0x80 } }
theorem witness_ReturnsReissueTheFrame : framed.g.bq = [] ∧ framed.g.fpDue = none ∧ framed.g.held = none ∧ framed.g.stgNak = none ∧ framed.g.revoked = none
    ∧ framed.g.copyFault = none ∧ framed.lockstep = false ∧ framed.g.frame ≠ [] ∧ bit framed.g.gqpos 7 = true
    ∧ (inHandler 0 0).g.frame = [] ∧ copiesDone (inHandler 0 0) := by simp only [copiesDone]; decide
/-- Each of the causes that can be pending. -/
theorem witness_PendingCausesEnterTheHandlerInOrder : (gang 0 0).phase = .running ∧ (gang 0 0).pl = false ∧ (gang 0 0).gtvec ≠ 0
    ∧ { gang 0 0 with banks := [(3, { next := 0, cause := some ⟨5, 0x100, 0, 3, 0, 0⟩ })] }.lowestBankFault = some (0, ⟨5, 0x100, 0, 3, 0, 0⟩)
    ∧ coreFirst ⟨5, 0x100, 0, 3, 0, 0⟩ = false ∧ (gang 0 0).bankFault = false ∧ { gang 0 0 with fpDue := some 1 }.fpDue = some 1
    ∧ { gang 0 0 with held := some stepCause }.held = some stepCause ∧ { gang 0 0 with stgNak := some (1, 0x40000) }.stgNak = some (1, 0x40000)
    ∧ stopped.g.copyFault = some (2, ⟨9, 0x5000, 2, 0, 0, 0⟩) ∧ coreFirst ⟨9, 0x5000, 2, 0, 0, 0⟩ = false ∧ { gang 0 0 with revoked := some 3 }.revoked = some 3
    ∧ (let g := { gang 0 0 with banks := (List.range 64).map fun b => (b, { next := 0, cause := some ⟨5, 0x100, 0, 3, 0, 0⟩ }) }
       g.bankFaultReady = true)
    ∧ (let g := { gang 0 0 with banks := [(3, { next := 2, cause := some ⟨5, 0x100, 0, 3, 0, 0⟩ })] }
       g.lowestBankFault = some (2, ⟨5, 0x100, 0, 3, 0, 0⟩) ∧ g.bankFaultReady = false)
    ∧ (gang 0 0).db = false ∧ queued.g.bq ≠ [] ∧ queued.g.copyFault = none ∧ { stopped.g with bq := queued.g.bq, held := some stepCause }.bq ≠ [] := by
  decide +kernel
/-- A gang that is halted, and one that waits for a page with its cause kept. -/
def halted : State := { ready 0 0 with g := { gang 0 0 with phase := .halted } }
def awaiting : State := { ready 0 0 with g := { gang 0 0 with phase := .pageWait, savedCause := some (⟨8, 0x50000, 4, 0, 0, 0⟩, false, 0x10000) } }
theorem witness_HaltsEvictionsAndPageReplies : ownId (ready 0 0) ∧ (gang 0 0).cohN = 1 ∧ { gang 0 0 with preempt := true }.preempt = true
    ∧ halted.frozen = false ∧ halted.g ∈ (resumeList halted).take 256 ∧ halted.g.clusters ≠ [] ∧ mergeOutstanding halted.g = false
    ∧ awaiting.g.phase = .pageWait ∧ awaiting.g.bq = [] ∧ awaiting.g.haltFrame = [] ∧ copiesDone awaiting
    ∧ awaiting.g.savedCause = some (⟨8, 0x50000, 4, 0, 0, 0⟩, false, 0x10000) ∧ 3 ∈ (gang 0 0).clusters ∧ 3 ∉ (ready 0 0).offline := by
  simp only [ownId, copiesDone]; decide
/-- A record of 512 zero words that QSAVE has stored at 0x10000. -/
def saved : State := { inHandler 0x10000 0 with savedFrames := [⟨List.replicate 512 0, [], [], 1, 0, 4⟩] }
theorem witness_QueueFramesAreSavedAndLoaded : globalPa saved (saved.reg 5) 4096 .write 1 = .ok 0 ∧ globalPa saved (saved.reg 5) 4096 .read 0 = .ok 0
    ∧ region (0 + 4095) = 0 ∧ storeLost saved 0 4096 = false ∧ pendingWrite saved 0 4096 = false
    ∧ targetRefuses saved 0 = false ∧ (physRead (globalTouch saved (saved.reg 5).toNat) 0 4096).2 = some (List.replicate 4096 0)
    ∧ acceptedFrame saved (wordsOf 512 (List.replicate 4096 0)) = some ⟨List.replicate 512 0, [], [], 1, 0, 4⟩
    ∧ acceptedFrame (inHandler 0x10000 0) (wordsOf 512 (List.replicate 4096 0)) = none := by
  refine ⟨rfl, rfl, by decide, by decide +kernel, by decide +kernel, rfl, ?_, by decide +kernel, by decide +kernel⟩
  have hm : (globalTouch saved (saved.reg 5).toNat).mem = [] := rfl
  rw [physRead_sound _ 0 4096 rfl, memBytes, if_pos (by decide), hm, rdBytes_empty]
/-- A gang whose record has a post-signal, to HBM, to a page that migrates, and to no page. -/
def posting (a : Word) : State := { ready 0 0 with
  hubs := [(0, [⟨0, 0x10000, 0x10000, 0x17⟩, ⟨0, 0x20000, 0x10000, 0x37⟩])], g := { gang 0 0 with launch := { pv := true, paddr := a, pval := 1 } } }
theorem witness_HaltRetiresTheGang : ownId (posting 0) ∧ (posting 0).g.bq = [] ∧ (posting 0).g.loads = [] ∧ enginesDone (posting 0) ∧ copiesDone (posting 0)
    ∧ (∀ u ∈ (posting 0).unacked, u.gang ≠ (posting 0).g.id) ∧ (gang 0 0).launch.pv = false ∧ postTarget (posting 0x10008) = .at 8
    ∧ postTarget (posting 0x20008) = .held ∧ postTarget (posting 0x90000) = .dropped ∧ (posting 0).g.launch.queue < 8192 := by
  simp only [ownId, enginesDone, copiesDone]; decide
/-- A machine with a port 0 that holds the given words of an open command and the given commands. -/
def ported (o : List Word) (cs : List Command) (rs : List Word) (mem : List Host.Cell) : State :=
  { ready 0 0 with mem := mem, lockstep := false, g := { gang 0 0 with ports := [(0, { openWords := o, commands := cs, results := rs })] } }
theorem witness_EnginePortsQueueCommandsAndResults :
    (let x := (ported [] [] [] []).g.port 0
     x.openWords.length ≠ 64 ∧ x.words < 64 ∧ x.held < 4 ∧ x.commands = [] ∧ x.results = [])
    ∧ (let x := (ported (List.replicate 64 1) [] [] []).g.port 0
       x.openWords.length = 64 ∧ x.held < 4)
    ∧ 64 ≤ ((ported (List.replicate 60 1) [⟨[1, 1, 1, 1], 0, 0, false, []⟩] [] []).g.port 0).words
    ∧ 4 ≤ ((ported [] [] [1, 2, 3, 4] []).g.port 0).held ∧ released (ported [] [] [] [])
    ∧ commandOk (gang 0 0) [0x20001, 5] = true ∧ commandOk (gang 0 0) [0x20001] = false
    ∧ (let u := runEngines 0 (ported [] [] [7] [])
       (u.g.port 0).results = 7 :: [] ∧ storesSeen u ∧ ¬ storesSeen { u with unacked := [⟨1, 0, 3, 0x40000, 2 ^ 51, [0xAB], 0, false⟩] }) := by
  simp only [released, storesSeen]; decide +kernel

/-- A reduction of one I32 buffer of one element at 0x10010 to 0x10000 with a flag at 0x10100, and the same with too many elements. -/
def sumWords (n : Word) : List Word := [0x81060001, n, 0x10000, 0x10100, 7, 0x10010]
def waiting (ws : List Word) (stage : Nat) (ok : Bool) : Command := ⟨ws, stage, 0, ok, []⟩
/-- A count pass over no rows. -/
def mergeWords (op : Word) : List Word :=
  [0xE00D0002 + op * 2 ^ 24, 0, 0x100000, 0x100000, 0x100000, 0x100000, 0x100000, 0x100000, 0x100100, 0, 0, 0, 0]
/-- An all-gather of one I32 element between this device and the peer behind window 0. -/
def gatherWords (n target flag : Word) : List Word := [0x40090003, 2, n, 0x10000, 0x10100, 0x10200, flag, 7, target]
def table : List Host.Cell := wrBytes [] 0x200 ([0x10100, 0x10300, 0x40000, 0x40008].flatMap (leBytes 8))
def collective (c : Command) : State := { ported [] [c] [] table with
  hubs := [(0, [⟨0, 0x10000, 0x10000, 0x17⟩, ⟨0, 0x40000, 0x10000, w64 (2 ^ 50 + 0x17)⟩])], peerWindows := [(0, ⟨1, 0, 2 ^ 32, 0⟩)] }

/-- A machine whose port 0 holds one command. -/
def holding (c : Command) : State := ported [] [c] [] []
/-- Of one command at an engine there is no choice. -/
theorem findCommand_holding (s : State) (p eng stage : Nat) (c : Command) (h : commandsAt (s.g.port p) eng stage = [c]) :
    findCommand s p eng stage = some c := by simp [findCommand, h, Nat.mod_one]
/-- DONE in HBM, in the field, at no page, and none. -/
def doneAt (a : Word) : List Word := (mergeWords 0).set 12 a
theorem engOf_sumWords (n : Word) : engOf (sumWords n) = 1 := by simp only [engOf, sumWords, List.headD_cons]; decide
theorem engOf_doneAt (a : Word) : engOf (doneAt a) = 2 := by simp only [engOf, doneAt, mergeWords, List.set_cons_succ, List.headD_cons]; decide
theorem witness_engines_reduce : (∀ n ok, findCommand (holding (waiting (sumWords n) 0 ok)) 0 1 0 = some (waiting (sumWords n) 0 ok))
    ∧ (∀ n ok, findCommand (holding (waiting (sumWords n) 1 ok)) 0 1 1 = some (waiting (sumWords n) 1 ok))
    ∧ reduceCheck (sumWords (w64 (2 ^ 35))) ≠ 0 ∧ reduceCheck (sumWords 1) = 0 ∧ (reduceOf (sumWords 1)).flag ≠ 0
    ∧ (waiting (sumWords 1) 1 true).doneOk = true ∧ (waiting (sumWords 1) 1 false).doneOk = false :=
  ⟨fun _ _ => findCommand_holding _ _ _ _ _ (by simp [commandsAt, holding, ported, Gang.port, mget, waiting, engOf_sumWords]),
   fun _ _ => findCommand_holding _ _ _ _ _ (by simp [commandsAt, holding, ported, Gang.port, mget, waiting, engOf_sumWords]), by decide, by decide, by decide, rfl, rfl⟩
set_option maxRecDepth 65536 in
theorem witness_engines_reduce_run : (∃ u word ok, reduceRun (holding (waiting (sumWords 1) 0 false)).used (sumWords 1) = some (u, word, ok))
    ∧ engTranslate (ready 0 0).used 0x10100 true true = .ok 0x100 ∧ storeLost (ready 0 0).used 0x100 8 = false
    ∧ writeFlag (ready 0 0).used 0x30000 7 = .error (.status 3) := ⟨⟨_, _, _, rfl⟩, rfl, by decide, rfl⟩
theorem witness_engines_merge :
    (∃ u f, mergePass (holding (waiting (mergeWords 0) 0 false)).used (mergeWords 0) = .ended u 0 f 0 0)
    ∧ (∃ u f, mergePass (holding (waiting (mergeWords 2) 0 false)).used (mergeWords 2) = .ended u 1 f 0 0) ∧ (mergeCheck (mergeWords 2)).1 ≠ 0
    ∧ (∀ op, findCommand (holding (waiting (mergeWords op) 0 false)) 0 2 0 = some (waiting (mergeWords op) 0 false) ∨ engOf (mergeWords op) ≠ 2)
    ∧ unitBusy (holding (waiting (mergeWords 0) 0 false)).g (bitsOf (cmdWord (mergeWords 0) 0) 4 12) < 4
    ∧ (∀ a ok, findCommand (holding (waiting (doneAt a) 1 ok)) 0 2 1 = some (waiting (doneAt a) 1 ok))
    ∧ cmdWord (mergeWords 0) 12 = 0 ∧ cmdWord (doneAt 0x8000000000010008) 12 = 2 ^ 63 + 0x10008 ∧ cmdWord (doneAt 0x100040) 12 = 0x100040 := by
  refine ⟨⟨_, _, rfl⟩, ⟨_, _, rfl⟩, by decide, fun op => ?_, by decide, fun a _ => findCommand_holding _ _ _ _ _ ?_, by decide, by decide, by decide⟩
  by_cases h : engOf (mergeWords op) = 2
  · exact .inl (findCommand_holding _ _ _ _ _ (by simp [commandsAt, holding, ported, waiting, Gang.port, mget, h]))
  · exact .inr h
  · simp [commandsAt, holding, ported, Gang.port, mget, waiting, engOf_doneAt]
set_option maxRecDepth 65536 in
theorem witness_merge_done : (let s := (holding (waiting (doneAt 0) 1 true)).used
    engTranslate s (cmdWord (doneAt 0x8000000000010008) 12 % 2 ^ 48) false true = .ok 8 ∧ engTranslate s (cmdWord (doneAt 0x8000000000010008) 12 % 2 ^ 48) true true = .ok 8
      ∧ (let ks := [524288, 524289, 524290, 524291, 524292, 524293, 524294, 524295]
         fieldKeys s false (0x100040 % 2 ^ 32) 8 = some ks ∧ fieldKeys s true (0x100040 % 2 ^ 32) 8 = some ks ∧ ks.Nodup ∧ keysBad s ks = false)
      ∧ mergeDone s (2 ^ 63 + 0x30000) = .error (.status 3) ∧ mergeDone s 0x200000 = .error (.status 3)) := by
  refine ⟨rfl, rfl, ⟨rfl, rfl, by decide, by decide⟩, rfl, rfl⟩
theorem witness_EnginesAnswerEveryCommandOnce :
    (let c := waiting (gatherWords 0 1 0) 0 false
     (commandsAt ((collective c).g.port 0) 3 0).head? = some c ∧ collBegun ((collective c).g.port 0) = none ∧ collWords c.words ≠ 0)
    ∧ (let c := waiting (gatherWords 1 1 0) 0 false
       (commandsAt ((collective c).g.port 0) 3 0).head? = some c ∧ collWords c.words = 0 ∧ bufferBad (collective c) c.words = false
        ∧ groupTable (collective c) (collOf c.words) = .ok [(0x10100, 0x10300), (0x40000, 0x40008)]
        ∧ collTable (collOf c.words) [(0x10100, 0x10300), (0x40000, 0x40008)] = 0
        ∧ ∃ u, collSend 0 (collOf c.words) [(0x10100, 0x10300), (0x40000, 0x40008)] (touchTable (collective c) (collOf c.words)) = .ok u)
    ∧ (let c := waiting (gatherWords 1 1 0) 2 false
       collBegun ((collective c).g.port 0) = some c ∧ c.stage = 2 ∧ collUnacked (collective c) 0 = false
        ∧ collUnacked { collective c with unacked := [⟨1, 32, 0, 0x40000, 2 ^ 50, [1], 0, false⟩] } 0 = true)
    ∧ (∀ target flag, (target, flag) ∈ [((1 : Word), (0 : Word)), (0, 0), (0, 0x10108)] →
       let c := waiting (gatherWords 1 target flag) 1 true
       collBegun ((collective c).g.port 0) = some c ∧ c.stage ≠ 2 ∧ collUnacked (collective c) 0 = false ∧ c.doneOk = true
        ∧ (collOf c.words).scatter = false ∧ c.nak = [] ∧ { c with nak := [1] }.nak = 1 :: []
        ∧ collBegun { (collective c).g.port 0 with commands := ((collective c).g.port 0).commands.erase c } = none) := by
  refine ⟨by decide, ⟨by decide, by decide, by decide, rfl, by decide, ⟨_, rfl⟩⟩, by decide, ?_⟩
  intro target flag h
  simp only [List.mem_cons, List.not_mem_nil, or_false, Prod.mk.injEq] at h
  obtain ⟨rfl, rfl⟩ | ⟨rfl, rfl⟩ | ⟨rfl, rfl⟩ := h <;> decide
set_option maxRecDepth 65536 in
theorem witness_engines_arrived : (let s := collective (waiting (gatherWords 1 1 0) 1 true)
    groupTable s (collOf (gatherWords 1 1 0)) = .ok [(0x10100, 0x10300), (0x40000, 0x40008)]
      ∧ collArrived s (collOf (gatherWords 1 1 0)) [(0x10100, 0x10300), (0x40000, 0x40008)] = .ok false
      ∧ collArrived s (collOf (gatherWords 1 0 0x10108)) [(0x10100, 0x10300), (0x40000, 0x40008)] = .ok true
      ∧ engTranslate (engTouch s (([(0x10100, 0x10300), (0x40000, 0x40008)][(collOf (gatherWords 1 0 0x10108)).rank]?).getD (0, 0)).2 8) 0x10108 true true = .ok 0x108
      ∧ ∃ u, collCounts 0 (collOf (gatherWords 1 1 0)) (waiting (gatherWords 1 1 0) 1 false) [(0x10100, 0x10300), (0x40000, 0x40008)]
          (collective (waiting (gatherWords 1 1 0) 1 false)) = .ok u ∧ collUnacked u 0 = true) :=
  ⟨rfl, rfl, rfl, rfl, ⟨_, rfl, rfl⟩⟩
/-- A broadcast queue of 64 entries, and a read queue of 32. -/
def fullQueue : Gang := { gang 0 0 with bq := List.replicate 64 (stagedEntry (gang 0 0) (.vmov bx1)), rq := List.replicate 32 (some 0) }
set_option maxRecDepth 65536 in
theorem witness_BroadcastAndTileInstructionsJoinTheQueue :
    commitRefusal (gang 0 0) (stagedEntry (gang 0 0) (.vadd bx2)) = none ∧ queueFull (gang 0 0) (stagedEntry (gang 0 0) (.vadd bx2)) = false
    ∧ commitRefusal (gang 0 0) (stagedEntry (gang 0 0) (.vreshape { bx2 with bm := 2 })) = some 0
    ∧ commitRefusal fullQueue (stagedEntry fullQueue (.vredsum { bx1 with d := 0, dm := 2 })) = some 1
    ∧ commitRefusal fullQueue (stagedEntry fullQueue (.vmov bx1)) = none ∧ queueFull fullQueue (stagedEntry fullQueue (.vmov bx1)) = true
    ∧ commitRefusal (gang 0 0) (stagedEntry (gang 0 0) (.tmma tx3)) = none ∧ queueFull (gang 0 0) (stagedEntry (gang 0 0) (.tmma tx3)) = false
    ∧ (ready 0 0).lockstep = true ∧ queued.lockstep = false := by decide +kernel
theorem witness_IntegerElementsFollowTheirOperations : (let x : ElemCtx := ⟨5, modeOf 0 0, false, 0⟩
    efBits x.ef = 32 ∧ efInt x.ef = true ∧ x.sat = false ∧ { x with sat := true }.sat = true) ∧ efBits 0 = 8 ∧ efSigned 0 = true ∧ efBits 7 = 64
    ∧ efInt 7 = true := by decide
/-- 1.0, 0 and -2.0 in F32; its canonical NaN and its infinities. -/
theorem witness_float_elements : scaledCode 14 0x3F800000 = some (2 ^ 320) ∧ scaledCode 14 0 = some 0 ∧ scaledCode 14 0xC0000000 = some (-(2 ^ 321))
    ∧ ((14, 0x7FC00000) : Nat × Nat) ∈ [(12, 0x7E00), (13, 0x7FC0), (14, 0x7FC00000), (15, 0x7F), (16, 0x7E), (18, 0xFF)] ∧ valueOf 14 0x7FC00000 = .nan
    ∧ valueOf 14 0x7F800000 = .inf false ∧ valueOf 14 0xFF800000 = .inf true := by decide +kernel
/-- A value within the range of the format I8 (code 0), and one beyond it on each side. -/
theorem witness_delivered : 0 ≤ 18 ∧ (0 : Nat) ≠ 10 ∧ (∃ z w, (scaledCode 0 z).map (· * 2 ^ 320) = some w ∧ 3 * 2 ^ 640 ≤ w)
    ∧ (∀ z < 256, ((scaledCode 0 z).map (· * 2 ^ 320)).all (fun w => decide (w < 200 * 2 ^ 640)) = true) :=
  ⟨by decide, by decide, ⟨5, 5 * 2 ^ 640, by decide +kernel, by decide +kernel⟩, by decide +kernel⟩
theorem witness_reductions_and_merges : (let ts : List (Nat × Nat) := [(0, 5), (1, 0), (7, 250)]
    efInt 1 = true ∧ (∀ t ∈ ts, t.2 < 2 ^ efBits 1) ∧ ts ≠ [] ∧ 2 ^ 1 < ts.length ∧ ts.length ≤ 2 ^ (1 + 1)
      ∧ (ts.map fun p => p.1).Pairwise (· < ·) ∧ ([(1, 9)].map fun p : Nat × Nat => p.1).Pairwise (· < ·)) := by decide
/-- An operand of F32 in a frame of 16 by 16 elements, all 1.0, and a dispatch over it. -/
def ones : FrameOperand := ⟨0, 14, 14, fun k => if k % 4 = 3 then 0x3F else if k % 4 = 2 then 0x80 else 0, true, false, 0⟩
def dispatched : Dispatched := ⟨0, {}, ⟨14, 14, 14, 0⟩, 14, some ones, some ones, 0, 0⟩
theorem witness_tile_rows : keyFmt dispatched.keys.d = 14 ∧ keySpc dispatched.keys.a = 0 ∧ keyValid dispatched.result = true ∧ keySpc dispatched.result = 0
    ∧ isScaled (keyFmt dispatched.result) = false ∧ 15 < keyRows dispatched.result ∧ 15 < keyCols dispatched.result
    ∧ scaledNum (tileValue dispatched.keys.a ones.data 15 15) = some (2 ^ 320)
    ∧ [valueOf 14 0x3F800000].map scaledNum = [(2 ^ 320 : Int)].map some := by decide +kernel
/-- 32 bytes of HBM at 0x10000 that are an empty method entry, and 32 that break R303; a block table of one block of a BEND. -/
def tabled (n : Word) (mem : List Host.Cell) : State := { ready 0x10000 n with mem := mem }
set_option maxRecDepth 65536 in
theorem witness_MethodTableInstructions : (∃ us, sourceUnits (tabled 1 []) 0 8 0x10000 (4 * 1) = .ok us ∧ (∀ k < 1, methodOk (methodOf ((us.drop (4 * k)).take 4).flatten) = true))
    ∧ (∃ us, sourceUnits (tabled 1 [(15, 0x80)]) 0 8 0x10000 (4 * 1) = .ok us ∧ ∃ k < 1, methodOk (methodOf ((us.drop (4 * k)).take 4).flatten) = false)
    ∧ 255 + 1 ≤ 256 ∧ 256 < 255 + 2 ∧ 0x10000 % 32 = 0 ∧ (0x10008 : Nat) % 32 ≠ 0 ∧ queued.g.bq ≠ [] :=
  ⟨⟨_, rfl, by decide⟩, ⟨_, rfl, by decide⟩, by decide, by decide, by decide, by decide, by decide⟩
theorem witness_method_query : methodMatches ({} : Method) 0 0 ⟨0, 0, 0, 0⟩ = false ∧ 2 ^ 15 ≤ (0x8000 : Word).toNat
    ∧ methodMatches ⟨0x8000, 0, 0, 0⟩ 0 0 ⟨0, 0, 0, 0⟩ = true := by decide
set_option maxRecDepth 65536 in
theorem witness_BlockLoadReplacesTheStore :
    (∃ t, sourceUnits (tabled 1 []) 0 8 0x10000 1 = .ok t ∧ ∃ e ∈ t.map offLen, blockOk 1 e.1 e.2 = false)
    ∧ (∃ t bs, sourceUnits (tabled 1 [(0, 8), (2, 8), (8, 0x13), (9, 7)]) 0 8 0x10000 1 = .ok t ∧ (∀ e ∈ t.map offLen, blockOk 1 e.1 e.2 = true)
        ∧ readBlocks (tabled 1 [(0, 8), (2, 8), (8, 0x13), (9, 7)]) 0 0x10000 (t.map offLen) = .ok bs)
    ∧ 4096 < 4097 ∧ (0x10004 : Nat) % 8 ≠ 0 := ⟨⟨_, rfl, by decide⟩, ⟨_, _, rfl, by decide, rfl⟩, by decide, by decide⟩

/-- Copies of four bytes from HBM at 0x10000 to the field at 0x100002 on channel 2: at commit, queued, and started. -/
def copying : State := { ready 0 0 with lockstep := false, mem := [(0, 1)], g := { gang 0 0 with regs := [(5, 0x100002), (6, 0x10000), (7, 4)] } }
def fourBytes : CX := ⟨5, 6, 7, 2, 0, 0, 0⟩
def plainCopy : Copy := { copyBase copying.g (.copy fourBytes) fourBytes 0 3 with count := 4 }
theorem witness_CopiesQueueOnTheirChannel : captureCopy copying fourBytes = .ok plainCopy ∧ tooManyRuns copying plainCopy = false
    ∧ scoreboardFull copying plainCopy = false ∧ (copying.g.channel 2).queue.length < 16 ∧ plainCopy.outstanding ≠ [] ∧ copying.lockstep = false := by
  refine ⟨rfl, ?_, ?_, ?_, ?_, ?_⟩ <;> decide
theorem witness_copies_refused : (let s := fun (n : Word) => { copying with g := { copying.g with regs := [(5, 0x100002), (6, 0x10000), (7, n)] } }
    captureCopy (s (w64 (2 ^ 36))) fourBytes = .error (.trap 1 (w64 (encodeWord (.copy fourBytes))) 13)
      ∧ coreFirst ⟨1, w64 (encodeWord (.copy fourBytes)), 13, 0, 0, 0⟩ = false
      ∧ captureIndexed (s 0x10002) (.gather fourBytes) fourBytes 2 = .error (.trap 3 0x10002 0)
      ∧ captureCopynd (s 4) fourBytes = .error (.trap 3 4 0)) := by
  refine ⟨rfl, ?_, rfl, rfl⟩; decide
/-- A channel of 16 copies; a copy whose runs at one bank are too many. -/
def crowded : State := { copying with g := { copying.g with channels := [(2, { queue := List.replicate 16 plainCopy })] } }
theorem witness_copies_wait : 16 ≤ (crowded.g.channel 2).queue.length ∧ tooManyRuns crowded plainCopy = false ∧ copiesDone (ready 0 0)
    ∧ (crowded.g.channel 2).queue ≠ [] ∧ crowded.g.pl = false := by simp only [copiesDone]; decide
/-- The copy at the head of its channel, not started and started. -/
def copyHead (c : Copy) : State := { copying with g := { copying.g with channels := [(2, { queue := [c] })] } }
def started : Copy := { plainCopy with started := true }
/-- What a copy's read leaves. -/
def afterRead (s : State) (c : Copy) : State := let e := c.elem 0 0; (copyRead s c c.srcF e.src e.len).1
set_option maxRecDepth 65536 in
theorem witness_CopyStepsStartLandAndStop :
    (let s := copyHead plainCopy
     (s.g.channel 2).queue = [] ++ plainCopy :: [] ∧ plainCopy.started = false ∧ (s.g.channel 2).stopped = false ∧ s.g.copiesRun = true
      ∧ plainCopy.outstanding ≠ [] ∧ { s.g with phase := .halted }.copiesRun = false ∧ started.issued = false
      ∧ [started, { plainCopy with num := 1 }].Pairwise (fun a b => a.num ≠ b.num))
    ∧ (let s := copyHead started
       let e := started.elem 0 0
       (s.g.channel 2).queue = started :: [] ∧ 0 ∈ started.outstanding ∧ started.sent.contains 0 = false ∧ mustFollow s started 0 = false
        ∧ (∀ x ∈ s.g.clusters, x < 128) ∧ copyIndex s started 0 = .ok (0, false)
        ∧ landSet s started 0 = some [0] ∧ landedMates s started 0 = []
        ∧ copyRead s started started.srcF e.src e.len = (afterRead s started, .ok ([1, 0, 0, 0], false))
        ∧ copyLanding (afterRead s started) started e.dst e.len = .ok (.field [2, 3, 4, 5])
        ∧ (∃ v c' b, copyElement s 2 started 0 (unitWhole s started [0] 0) = (v, c', .ok b))
        ∧ (∀ x ∈ [2, 3, 4, 5], x / 8 ∉ s.fieldBad) ∧ [2, 3, 4, 5].Nodup) := by
  refine ⟨⟨rfl, rfl, ?_, ?_, ?_, ?_, ?_, ?_⟩, rfl, ?_, ?_, ?_, ?_, rfl, ?_, rfl, rfl, rfl, ⟨_, _, _, rfl⟩, ?_, ?_⟩ <;> decide
/-- A copy out of the field to HBM, one whose source page is not there, and a gather. -/
def outward : Copy := { started with dir := 1, src := 0x100002, dst := 0x10000 }
def missing : Copy := { started with src := 0x90000 }
def indexed : Copy := { started with kind := 2, third := 0x100040, esz := 0 }
set_option maxRecDepth 65536 in
theorem witness_copy_out_and_fault :
    (let s := copyHead outward
     let e := outward.elem 0 0
     outward.sig = false ∧ landSet s outward 0 = some [0] ∧ landedMates s outward 0 = [] ∧ mustFollow s outward 0 = false ∧ (∃ bs, copyRead s outward outward.srcF e.src e.len = (afterRead s outward, .ok (bs, false)) ∧ bs.length = 4)
      ∧ copyLanding (afterRead s outward) outward e.dst e.len = .ok (.phys 0) ∧ region 0 = 0
      ∧ (∃ v c' b, copyElement s 2 outward 0 (unitWhole s outward [0] 0) = (v, c', .ok b)) ∧ 0 % 2 ^ 50 + 4 ≤ 2 ^ 50 ∧ 0 + 4 ≤ contractLimit)
    ∧ (∃ u b a code, copyElement (copyHead missing) 2 missing 0 (unitWhole (copyHead missing) missing [0] 0) = (u, missing, .error (.fault b a code))
        ∧ landSet (copyHead missing) missing 0 = some [0] ∧ landedMates (copyHead missing) missing 0 = [] ∧ missing.outstanding.head? = some 0)
    ∧ (((copyHead indexed).g.channel 2).queue.find? fun d => d.started && decide (2 ≤ d.kind) && !d.issued) = some indexed
    ∧ (indexed.outstanding.filter fun j => !indexed.sent.contains j).head? = some 0 :=
  ⟨⟨rfl, by decide, rfl, by decide, ⟨_, rfl, rfl⟩, rfl, rfl, ⟨_, _, _, rfl⟩, by decide, by decide⟩, ⟨_, _, _, _, rfl, by decide, rfl, rfl⟩, by decide, by decide⟩
/-- One instruction at a bank; one too far ahead; one behind its gate; and a staged one, in and out of its read phase. -/
def entryAt (n : Nat) : Entry := { stagedEntry (gang 0 0) (.vmov bx1) with seq := n, ord := n }
def streamed (es : List Entry) (banks : List (Nat × Bank)) : State :=
  { ready 0 0 with lockstep := false, g := { gang 0 0 with bq := es, banks := banks, nextSeq := 17 } }
theorem witness_BanksBeginAndStagedWritesWait :
    (let s := streamed [entryAt 0] []
     (s.g.bankAt 0).cause = none ∧ 0 < s.g.banksInSpan ∧ (s.g.bankAt 0).begun = false
      ∧ s.g.bq.find? (fun e => e.seq == (s.g.bankAt 0).next) = some (entryAt 0) ∧ ownsNone s 63 (entryAt 0) = true
      ∧ s.g.bq.find? (fun e => e.seq == (s.g.bankAt 63).next) = some (entryAt 0))
    ∧ (let e := { entryAt 0 with cap := { (entryAt 0).cap with ecount := 1 }, regs := [(1, 0x100000), (2, 0x100000)] }
       let s := streamed [e] []
       ownsNone s 0 e = false ∧ s.g.fpDue = none ∧ ¬ (s.g.lowWater + 16 ≤ e.seq) ∧ ectrlTen s.g.ectrl = 0 ∧ e.gate = none
        ∧ { s.g with fpDue := some 1 }.fpDue ≠ none)
    ∧ (let e := { entryAt 16 with cap := { (entryAt 0).cap with ecount := 1 }, regs := [(1, 0x100000), (2, 0x100000)] }
       let s := streamed [entryAt 0, e] [(0, { next := 16 })]
       s.g.bq.find? (fun e => e.seq == (s.g.bankAt 0).next) = some e ∧ ownsNone s 0 e = false ∧ s.g.lowWater + 16 ≤ 16)
    ∧ (let e := { entryAt 1 with gate := some 0, cap := { (entryAt 0).cap with ecount := 1 }, regs := [(1, 0x100000), (2, 0x100000)] }
       let s := streamed [entryAt 0, e] [(0, { next := 1 })]
       s.g.bq.find? (fun e => e.seq == (s.g.bankAt 0).next) = some e ∧ ownsNone s 0 e = false ∧ s.g.lowWater ≤ 0 ∧ ¬ (s.g.lowWater + 16 ≤ 1)
        ∧ s.g.fpDue = none ∧ ectrlTen s.g.ectrl = 0)
    ∧ (let e := { entryAt 0 with staged := true }
       (streamed [e] []).g.bq = e :: [] ∧ e.staged = true ∧ (streamed [e] []).g.clusters ≠ []
        ∧ ¬ (∀ b < (streamed [e] []).g.banksInSpan, (((streamed [e] []).g.bankAt b).next = e.seq ∧ ((streamed [e] []).g.bankAt b).ready = true)
          ∨ e.seq < ((streamed [e] []).g.bankAt b).next)
        ∧ (let s := streamed [e] ((List.range 64).map fun b => (b, { ready := true, begun := true }))
           (∀ b < s.g.banksInSpan, ((s.g.bankAt b).next = e.seq ∧ (s.g.bankAt b).ready = true) ∨ e.seq < (s.g.bankAt b).next)
            ∧ ¬ (∃ b < s.g.banksInSpan, writesAwaited s e { writes := (s.g.bankAt b).stagedWrites } = true))) := by decide +kernel
/-- A staged write into bytes that an earlier copy has still to land in. -/
def awaitedWrite : State :=
  let s := streamed [{ entryAt 0 with staged := true }] [(0, { ready := true, begun := true, stagedWrites := [⟨0x100002, 0xFF, 1⟩] })]
  { s with g := { s.g with channels := [(2, { queue := [plainCopy] })] } }
theorem witness_staged_write_awaited : ∃ b < awaitedWrite.g.banksInSpan,
    writesAwaited awaitedWrite { entryAt 0 with staged := true } { writes := (awaitedWrite.g.bankAt b).stagedWrites } = true := by decide +kernel
/-- No pull and no token moves of itself in the machine before. -/
theorem flow_streamed (es : List Entry) (banks : List (Nat × Bank)) : flow (streamed es banks) = streamed es banks := rfl
/-- A pull of bank 1 from bank 0 at a place, alone, and with another behind it in the owner's table. -/
def pullAt (place : PullPlace) : Pull := ⟨1, 0, 0, none, false, 0, false, 0, 0, 0x100000, 4, place, [0, 0, 0, 0], [], none, false⟩
def pulling (ps : List PullPlace) (begun : Bool) : State :=
  { streamed [entryAt 0] [(1, { begun := begun })] with g := { (streamed [entryAt 0] [(1, { begun := begun })]).g with pulls := ps.map pullAt } }
theorem witness_PullsArriveAreServedAndAnswered :
    (let s := pulling [.request 0] true
     flow s = s ∧ s.g.pulls = [] ++ pullAt (.request 0) :: [] ∧ (pullAt (.request 0)).owner = 0 ∧ (pullAt (.request 0)).place = (pullAt (.request 0)).lastHop s.g
      ∧ (s.g.pulls.filter fun r => r.place == .table && r.owner == 0).length < 63)
    ∧ (let s := pulling [.table] true
       flow s = s ∧ (pullAt .table).owner = 0 ∧ pullEligible s (pullAt .table) = true ∧ pullRoom s.g s.g.pulls (pullAt .table) .responseQueue = true
        ∧ fieldAt s (0x100000 + 0) false = .ok 0 ∧ s.fieldBad = []
        ∧ (let e := { entryAt 0 with old := [(0, 7)] }
           { s.g with bq := [e] }.pullEntry (pullAt .table) = some e ∧ mfind e.old 0 = some 7 ∧ s.g.pullEntry (pullAt .table) = some (entryAt 0)
            ∧ mfind (entryAt 0).old 0 = none)
        ∧ (∀ r ∈ s.g.pulls, ¬ (r.owner = 0 ∧ r.place = r.lastHop s.g)) ∧ ∀ r ∈ s.g.pulls, ¬ (r.requester = 1 ∧ r.place = .staging))
    ∧ (∀ begun, let s := pulling [.staging, .table] begun
       flow s = s ∧ s.g.pulls = [] ++ pullAt .staging :: [pullAt .table] ∧ (pullAt .staging).requester = 1 ∧ s.g.linkBad = []
        ∧ (let v := flow { s with g := { s.g with pulls := s.g.pulls.erase (pullAt .staging) } }
           (v.g.bankAt 1).next = (pullAt .staging).seq ∧ (v.g.bankAt 1).begun = begun
            ∧ ∃ r ∈ v.g.pulls, r.requester = 1 ∧ r.seq = (v.g.bankAt 1).next)) := by
  refine ⟨⟨rfl, ?_, ?_, ?_, ?_⟩, ⟨rfl, ?_, ?_, ?_, rfl, ?_, ?_, ?_, ?_⟩, fun begun => ⟨rfl, rfl, ?_, ?_, rfl, rfl, pullAt .table, ?_, ?_, ?_⟩⟩
  case refine_7 => simp [pullRoom, slotFor, Pull.buffer, Buffer.slots, pulling, pullAt]
  all_goals first | decide +kernel | (cases begun <;> decide +kernel)
/-- A load of s7 and a store to host memory that are outstanding. -/
def outstanding : State := { ready 0 0 with lockstep := false, unacked := [⟨1, 0, 3, 0x40000, 2 ^ 51, [0xAB], 0, false⟩], g := { gang 0 0 with loads := [⟨7, 5, false⟩] } }
theorem witness_AnswersReachTheirGang : outstanding.g.loads.find? (fun l => l.reg == 7) = some ⟨7, 5, false⟩ ∧ outstanding.g.loads.find? (fun l => l.reg == 8) = none
    ∧ outstanding.unacked = ⟨1, 0, 3, 0x40000, 2 ^ 51, [0xAB], 0, false⟩ :: []
    ∧ outstanding.unacked.find? (fun u => u.gang == outstanding.g.id && u.origin == 0 && u.va == 0x40000) = some ⟨1, 0, 3, 0x40000, 2 ^ 51, [0xAB], 0, false⟩
    ∧ windowMoved outstanding ⟨1, 0, 3, 0x40000, 2 ^ 51, [0xAB], 0, false⟩ = false
    ∧ windowMoved outstanding ⟨1, 0, 3, 0x40000, 2 ^ 50, [0xAB], 7, false⟩ = true ∧ 0 < 8 ∧ 8 < 9
    ∧ 2 ^ 51 / 2 ^ 42 = (2 ^ 51 + 1 - 1) / 2 ^ 42 ∧ { (⟨1, 16, 3, 0x40000, 2 ^ 51, [0xAB], 0, false⟩ : Unacked) with add := true }.add = true := by decide
theorem witness_ParityHomesServeAccesses : healthy (ready 0 0) ∧ homeShape (ready 0 0) 0 8 = true ∧ homeShape (ready 0 0) 0x8 1 = true
    ∧ (⟨.read, 0, 8, 0, 0, false, false⟩ : HomeAccess).eccError = false := ⟨healthy_ready 0 0, by decide, by decide, rfl⟩
/-- One stack lost, and its channel of idle registers set. -/
def lossy (n : Nat) : State := { ready 0 0 with parity := { state := n, lost := 4, boundary := if n = 2 then 10240 else 0 }, hbmStat := [(4, { lost := true, why := 1 })] }
theorem witness_StacksRowsAndDomainsChange : (mget ({} : StackStat) (ready 0 0).hbmStat 11).lost = false ∧ (ready 0 0).parity.state = 0 ∧ (lossy 1).parity.state = 1
    ∧ (lossy 3).parity.state = 3 ∧ (mget ({} : StackStat) (lossy 1).hbmStat 4).lost = true ∧ (mget ({} : StackStat) (lossy 1).hbmStat 11).lost = false
    ∧ allocationOk (ready 0 0) true 0 5 = true ∧ allocationOk (ready 0 0) false 24550 5 = true ∧ allocationOk (ready 0 0) false 24552 5 = false
    ∧ bitsOf (pcpwrOf (ready 0 0) 11).toNat 0 16 ≠ 0 ∧ bitsOf (pcpwrOf (ready 0 0) 11).toNat 16 16 ≠ 0 := by decide +kernel
theorem domainIn_unlisted (g : Nat) : domainIn [] g = if 24552 ≤ g ∧ g ≤ 24575 then 0 else 0xFFF := by
  simp only [domainIn, mget]; split <;> simp
theorem secondTable_lossy : secondTableOk (lossy 1) (mappedPages (lossy 1)) = true := by
  have hp : mappedPages (lossy 1) = [] := rfl
  have hd : (lossy 1).domains2 = [] := rfl
  simp only [secondTableOk, neighboursOk, hp, hd, List.filter_nil, Bool.and_eq_true, List.all_eq_true, List.mem_range, domainIn_unlisted]
  refine ⟨fun g hg => ?_, fun g hg => ?_⟩
  · by_cases h : 24552 ≤ g
    · have : (24552 ≤ g ∧ g ≤ 24575) ∧ (24552 ≤ g + 1 ∧ g + 1 ≤ 24575) := by omega
      simp [this]
    · simp [h]
  · simp [show ¬ 24552 ≤ g by omega]
theorem witness_ContractionMovesStripeByStripe : (lossy 1).parity.state = 1 ∧ (lossy 1).parity.boundary = 0 ∧ (∀ p ∈ mappedPages (lossy 1), p.2.1 + p.2.2 ≤ contractLimit)
    ∧ secondTableOk (lossy 1) (mappedPages (lossy 1)) = true ∧ (ready 0 0).parity.state ≠ 1 ∧ (lossy 2).parity.state = 2 ∧ 5120 < (lossy 2).parity.boundary
    ∧ 0 < { (lossy 2).parity with boundary := 5120 }.boundary ∧ { (lossy 2).parity with boundary := 5120 }.boundary ≤ 5120 :=
  ⟨rfl, rfl, by decide, secondTable_lossy, by decide, rfl, by decide, by decide, by decide⟩
/-- Grants to PASID 0 for windows 3 to 5 of the device at endpoint 9, with generation 1: of the page at 0x10000, of the one at 0x40000 in
host memory, and of one that a peer window of this device shows. -/
def granting : State := { ready 0 0 with
  hubs := [(0, (mget [] (ready 0 0).hubs 0) ++ [⟨0, 0x50000, 0x10000, w64 (2 ^ 50 + 0x17)⟩])]
  peerWindows := [(0, ⟨1, 0, 2 ^ 32, 0⟩)]
  grants := [(grantKey 9 3, ⟨0x10001, 0x10000, 2 ^ 32, 0⟩), (grantKey 9 4, ⟨0x10001, 0x40000, 2 ^ 32, 0⟩), (grantKey 9 5, ⟨0x10001, 0x50000, 2 ^ 32, 0⟩)] }
set_option maxRecDepth 65536 in
theorem witness_PeerAccessesFollowTheirGrants : (∀ p ∈ [(3, 65528, 0x17), (4, 2 ^ 51 + 65528, w64 (2 ^ 51 + 0x17)), (5, 2 ^ 50 + 65528, w64 (2 ^ 50 + 0x17))],
    let x : PeerAccess := ⟨9, BitVec.ofNat 8 p.1, 1, 65528, .read, 8, 0, 0⟩
    let m := mget ({} : Method) granting.grants (grantKey x.peer.toNat x.win.toNat)
    bitsOf m.w0.toNat 16 16 = x.gen.toNat ∧ x.off + x.size ≤ bitsOf m.w2.toNat 32 32 * 65536 ∧ accessShape x.size (bitsOf m.w1.toNat 0 48 + x.off) = true
      ∧ bitsOf m.w0.toNat 16 16 ≠ 2 ∧ translateFull granting 0 (bitsOf m.w2.toNat 0 20) (bitsOf m.w1.toNat 0 48 + x.off) .read = .ok p.2.1 p.2.2)
    ∧ homeShape granting 65528 8 = true ∧ region (2 ^ 51 + 65528) ≠ 0 ∧ region (2 ^ 50 + 65528) = 1
    ∧ translateFull granting 0 0 0x90000 .read = .notPresent ∧ translateFull granting 0 0 0x30000 .write = .permission
    ∧ translateFull granting 0 0 (2 ^ 48) .read = .shape ∧ healthy granting := by
  refine ⟨?_, ?_, ?_, ?_, rfl, rfl, rfl, rfl, fun _ => rfl⟩ <;> decide +kernel
/-- A shoot-down under way, and a write in flight to its range. -/
theorem witness_ShootDownsPrefetchesAndTeardowns :
    (let s := { outstanding with shootDowns := [(0, 0x40000, 0x50000)] }
     s.shootDowns = (0, 0x40000, 0x50000) :: [] ∧ writesInFlight s 0 0x40000 0x50000 = true ∧ writesInFlight s 0 0x10000 0x20000 = false)
    ∧ (ready 0 0).others = [] ∧ (ready 0 0).g.pasid = 0 ∧ (ready 0 0).g.alive = true ∧ (ready 0 0).g.pasid ≠ 5 := by decide
/-- Tables of PASID 0 in HBM that map 0x10000, as a 64 KiB page, to PA 0x100000: levels 1, 2 and 3 at 0x8000, 0x4000 and 0xC000. -/
def walked : State := { ready 0 0 with
  hubs := [], roots := [(0, 0x8000)], domains := [(0, 0)]
  mem := wrBytes (wrBytes (wrBytes [] 0x4000 (leBytes 8 0xC001)) 0x8000 (leBytes 8 0x4001)) 0xC008 (leBytes 8 0x100017) }
theorem witness_PageMovesAndHostWrites : leafAddress walked 0 0x10008 = some (0xC008, 0x100017, 65536)
    ∧ migratable walked 0 0x10008 0x200000 0x100017 65536 = true ∧ Memory.wf walked.mem = true ∧ 0xC008 + 8 ≤ 0x200000 ∧ region 0x200000 = 0
    ∧ entryPa 0x100017 = 0x100000 ∧ clearsForContraction walked 0x100000 0x200000 65536 = false
    ∧ leafAddress walked 0 0x90000 = none ∧ migratable walked 0 0x10008 0x200004 0x100017 65536 = false
    ∧ translateFull walked 0 0 0x1FFFF .write = .ok 0x10FFFF 0x100017 ∧ 0x1FFFF % 65536 + 1 ≤ 65536
    ∧ translateFull walked 0 0 0x90000 .write = .notPresent := by decide +kernel
theorem witness_page_move : (∀ j < 8, ∀ k < 65536, sameCell walked (0xC008 + j) (0x200000 + k) = false) ∧ walked.memoriesOk
    ∧ (∀ p ∈ [0x200000, entryPa 0x100017], region p ≠ 1) := by
  refine ⟨fun j hj k hk => ?_, ⟨?_, rfl, rfl⟩, ?_⟩
  · have h : region (0xC008 + j) = 0 := by unfold region; omega
    simp [sameCell, h]; omega
  all_goals decide +kernel
theorem witness_QueuesAndHangRecovery : (let s := { ready 0 0 with queues := [(8191, { en := true, lgn := 4, st := 2 })] }
    8191 < 8192 ∧ ((16 : BitVec 16).toNat + 2 ^ 16 - (queueOf s 8191).head) % 2 ^ 16 ≤ 2 ^ (queueOf s 8191).lgn
      ∧ 2 ^ (queueOf s 8191).lgn < ((17 : BitVec 16).toNat + 2 ^ 16 - (queueOf s 8191).head) % 2 ^ 16 ∧ (queueOf s 8191).st = 2 ∧ (queueOf s 0).st ≠ 2)
    ∧ (ready 0 0).g.id = 1 ∧ (ready 0 0).frozen = false ∧ { ready 0 0 with frozen := true }.frozen = true
    ∧ (let s := { ready 0 0 with reservations := [(0, ⟨5, 7, [0, 1, 2, 3], false⟩)] }
       mfind s.reservations 0 = some ⟨5, 7, [0, 1, 2, 3], false⟩ ∧ (resumeList s).length < 256 ∧ s.g.launch.prio < 7 ∧ ∃ c ∈ s.g.clusters, c ∈ [0, 1, 2, 3])
    ∧ (⟨5, 7, [0, 1, 2, 3], true⟩ : Reservation).timedOut = true := by
  decide
/-- A record that asks for PASID 0 and 4 clusters, on a frozen scheduler without a gang; PASID 9 has no tables. -/
def launchable (pasid : Word) : State := { walked with frozen := true, g := {}, directPorts := [(0, { record := [0x10000, 0x20000, 7, pasid, 0, 0, 0, 0] })] }
theorem witness_GangsAreLaunchedAndStarted : { gang 0 0 with phase := .loading }.phase = .loading ∧ (gang 0 0).phase ≠ .loading
    ∧ (ready 0 0).queues = [] ∧ (ready 0 0).reservations = [] ∧ resumeList (ready 0 0) = []
    ∧ (let s := { halted with lockstep := false }
       s.queues = [] ∧ s.reservations = [] ∧ s.others = [] ∧ s.g.phase = .halted ∧ s.g.clusters ≠ [] ∧ s.g.savedCause = none ∧ s.g.launch.prio < 8)
    ∧ (let s := { launchable 0 with frozen := false, directPorts := [(0, { status := 1 })] }
       (mget ({} : DirectPort) s.directPorts 0).status = 1 ∧ (mget ({} : DirectPort) (launchable 0).directPorts 0).status ≠ 1)
    ∧ (let s := launchable 9
       recordErr s (recordOf (mget ({} : DirectPort) s.directPorts 0).record) none ≠ 0)
    ∧ (let s := launchable 0
       let r := recordOf (mget ({} : DirectPort) s.directPorts 0).record
       recordErr s r none = 0 ∧ r.members = 1 ∧ s.g.phase = .none ∧ (directPlaces s r 0).isSome = true ∧ directPlaces s r 0x300 = none) := by decide +kernel
theorem witness_DeviceRegistersPortsAndClock : 11 < 12 ∧ 8191 < 8192 ∧ (ready 0 0).power = .ready := by decide
theorem witness_StartsSucceedFailOrEnterMinimalMode : (let s := { State.reset with boot := { fails := 3 } }
    3 ≤ s.boot.fails) ∧ State.reset.boot.fails < 3 ∧ ({ State.reset with power := .starting } : State).power = .starting ∧ State.reset.power ≠ .starting := by decide
theorem witness_RecoveryHandoverAndAttestation : (let s := { State.reset with power := .minimal }
    s.power = .minimal) ∧ State.reset.power ≠ .minimal ∧ (ready 0 0).boot.pendingImage = none
    ∧ ({ pendingImage := some [1] } : Boot).pendingImage = some [1] ∧ ({ keyHeld := true } : Boot).keyHeld = true ∧ (ready 0 0).boot.keyHeld = false := by decide

/-- ADDI s5, s6, −8 and the two parcels of a LIM at 0x10000; a reserved parcel; a page that may not be fetched from. -/
def fetching (w : Nat) : State := { ready 0 0 with mem := wrBytes [] 0 (leBytes 8 w) }
set_option maxRecDepth 65536 in
theorem witness_StepRunsTheDecodedInstruction :
    (fetching 0xFFF06284).agenda = [] ∧ (fetching 0).power = .ready ∧ (fetching 0).g.phase = .running ∧ (fetching 0).g.cohN = 1 ∧ (fetching 0).g.preempt = false
    ∧ turnOver (fetching 0) = false ∧ (fetching 0).g.pendingReady = false ∧ (fetching 0).channelPower = [] ∧ healthy (fetching 0)
    ∧ translateFull (fetching 0xFFF06284) 0 0 0x10000 .fetch = .ok 0 0x17
    ∧ translateFull (useG (fetching 0x0003901A00E2500F) 0x10000) 0 0 (0x10000 + 4) .fetch = .ok 4 0x17
    ∧ decode (memBytes (fetching 0xFFF06284) 0 4) = .ok (.addi 5 6 (-8), 4)
    ∧ decode (memBytes (fetching 0x0003901A00E2500F) 0 4 ++ memBytes (fetching 0x0003901A00E2500F) 4 4) = .ok (.lim 5 0x1C80D0071, 8)
    ∧ (∃ u, fetchWord (fetching 0xFFF06284) = (u, .word 0xFFF06284)) ∧ decodeFetched 0xFFF06284 = .ok (.addi 5 6 (-8))
    ∧ memNat (fetching 0x01800000) 0 4 % 4 ≠ 3 ∧ decode (memBytes (fetching 0x01800000) 0 4) = .error (.reservedFunction 0 6)
    ∧ translateFull { ready 0 0 with g := { gang 0 0 with pc := 0x30000 } } 0 0 0x30000 .fetch = .permission :=
  ⟨rfl, rfl, rfl, rfl, rfl, rfl, rfl, rfl, ⟨rfl, fun _ => rfl⟩, rfl, rfl, rfl, rfl, ⟨_, rfl⟩, rfl, by decide, rfl, rfl⟩
theorem witness_DecodeReadsEveryEncoding : (Instr.lim 5 0x1C80D0071).isEvent = false := by decide
theorem witness_DecodedBytesAreTheEncoding : decode [0x84, 0x62, 0xF0, 0xFF] = .ok (.addi 5 6 (-8), 4) := by rfl
theorem witness_StepsKeepTheMemoriesCanonical : (fetching 0xFFF06284).memoriesOk ∧ ∃ t, step (fetching 0xFFF06284) = .next t := by
  refine ⟨⟨by decide, by decide⟩, ?_⟩
  have h : after (step (fetching 0xFFF06284)) (fun _ => true) = true := by decide
  cases hs : step (fetching 0xFFF06284) with
  | next t => exact ⟨t, rfl⟩
  | fault r => rw [hs] at h; cases h
  | refused r => rw [hs] at h; cases h
theorem witness_OnlyAPackageWithoutPowerStops : (let s := { State.reset with agenda := [] }
    s.power = .off ∧ s.agenda = []) := by decide

/-! ### A launch image that the loader accepts. -/

theorem rdBytes_add (m : List Host.Cell) (k : Nat) : ∀ (n a : Nat), rdBytes m a (n + k) = rdBytes m a n ++ rdBytes m (a + n) k := by
  intro n
  induction n with
  | zero => intro a; simp [rdBytes]
  | succ n ih => intro a; rw [show n + 1 + k = (n + k) + 1 by omega, rdBytes, rdBytes, ih, List.cons_append]; congr 3; omega
theorem rdBytes_wrBytes_outside (bs : List Byte) (m : List Host.Cell) (a : Nat) : ∀ (n x : Nat), x + n ≤ a → rdBytes (wrBytes m a bs) x n = rdBytes m x n := by
  intro n
  induction n with
  | zero => intros; rfl
  | succ n ih => intro x h; rw [rdBytes, rdBytes, ih (x + 1) (by omega), rdByte_wrBytes_outside bs m a x (by omega)]
/-- A digest has 64 bytes. -/
theorem sha512_length (bs : List Byte) : (sha512 bs).length = 64 := by
  have hb : ∀ (n : Nat) (h ws : List Word), h.length = 8 → (shaBlocks n h ws).length = 8 := by
    intro n
    induction n with
    | zero => intro h ws hh; exact hh
    | succ n ih => intro h ws hh; exact ih _ _ (by simp [shaBlock, hh])
  have hl : ∀ (l : List Word), (l.flatMap fun w => (List.range 8).map fun i => BitVec.ofNat 8 (w.toNat / 256 ^ (7 - i))).length = 8 * l.length := by
    intro l
    induction l with
    | nil => rfl
    | cons w r ih => rw [List.flatMap_cons, List.length_append, ih]; simp; omega
  simp only [sha512]
  rw [hl, hb _ _ _ rfl]
/-- The least launch image: VER 1, IMAGE_LEN 16384, everything else zero, and its digest. -/
def imageHead : List Byte := leBytes 8 1 ++ leBytes 8 0 ++ leBytes 8 16384 ++ List.replicate 104 0
def imageTail : List Byte := List.replicate 16192 0
def imageBytes : List Byte := imageHead ++ (sha512 (imageHead ++ imageTail) ++ imageTail)
def leastImage : Image := ⟨0, 0, 0, [], [], [], [], []⟩
theorem imageHead_length : imageHead.length = 128 := by decide +kernel
theorem imgNat_head (X : List Byte) (o n : Nat) (h : o + n ≤ 128) : imgNat (imageHead ++ X) o n = imgNat imageHead o n := by
  have := imageHead_length
  rw [imgNat, imgNat, List.drop_append_of_le_length (by omega), List.take_append_of_le_length (by rw [List.length_drop]; omega)]
theorem imgZero_head (X : List Byte) (o n : Nat) (h : n ≤ 128) : imgZero (imageHead ++ X) o n = imgZero imageHead o n := by
  have := imageHead_length
  by_cases ho : o ≤ n
  · rw [imgZero, imgZero, List.drop_append_of_le_length (by omega), List.take_append_of_le_length (by rw [List.length_drop]; omega)]
  · rw [imgZero, imgZero, show n - o = 0 by omega, List.take_zero, List.take_zero]
theorem leNat_zeros (j : Nat) : leNat (List.replicate j 0) = 0 := by
  induction j with
  | zero => rfl
  | succ j ih => rw [List.replicate_succ, leNat, ih]; rfl
/-- The least image passes the check of R458. -/
theorem imageCheck_least (D Z : List Byte) (hD : D.length = 64) (hZ : Z = List.replicate 16192 0) (hd : D = sha512 (imageHead ++ Z)) :
    imageCheck (imageHead ++ (D ++ Z)) 0 = some leastImage := by
  have hH := imageHead_length
  have hdrop : ∀ n, 192 ≤ n → (imageHead ++ (D ++ Z)).drop n = Z.drop (n - 192) := by
    intro n h
    rw [List.drop_append, List.drop_append, hD, hH, List.drop_of_length_le (by omega), List.drop_of_length_le (by omega), List.nil_append, List.nil_append,
      show n - 128 - 64 = n - 192 by omega]
  have hlen : (imageHead ++ (D ++ Z)).length = 16384 := by rw [List.length_append, List.length_append, hD, hH, hZ, List.length_replicate]
  have hg : ((imageHead ++ (D ++ Z)).drop 128).take 64 = sha512 ((imageHead ++ (D ++ Z)).take 128 ++ (imageHead ++ (D ++ Z)).drop 192) := by
    rw [hdrop 192 (by omega), List.drop_left' hH, List.take_left' hD, List.take_left' hH, Nat.sub_self, List.drop_zero]
    exact hd
  have hz : ∀ n k, 192 ≤ n → ((imageHead ++ (D ++ Z)).drop n).take k = List.replicate (min k (16192 - (n - 192))) 0 := by
    intro n k h; rw [hdrop n h, hZ, List.drop_replicate, List.take_replicate]
  clear hdrop hd hZ
  have e := fun o n h => imgNat_head (D ++ Z) o n h
  have f := fun o n h => imgZero_head (D ++ Z) o n h
  generalize imageHead ++ (D ++ Z) = X at *
  have hn : ∀ n, 192 ≤ n → imgWord X n = 0 := by
    intro n h
    rw [imgWord, imgNat, hz n 8 h, leNat_zeros]; rfl
  have ha : ∀ n k, 192 ≤ n → imgZero X n k = true := by
    intro n k h
    rw [imgZero, hz n _ h, List.all_eq_true]
    intro x hx
    rw [List.eq_of_mem_replicate hx]; rfl
  have hw : imgWindows X 0 = some [] := by
    simp only [imgWindows]
    simp (disch := omega) only [hn]
    decide +kernel
  have hm : imgMethods X = some [] := by
    have : ((List.range 256).map fun k => methodOf ((X.drop (8192 + 32 * k)).take 32)) = (List.range 256).map fun _ => methodOf (List.replicate 32 0) := by
      apply List.map_congr_left
      intro k hk
      rw [hz _ _ (by omega), Nat.min_eq_left (by have := List.mem_range.mp hk; omega)]
    simp only [imgMethods, this]
    decide +kernel
  have hr : imgRegions X = true := by
    simp only [imgRegions, hlen, e 8 8 (by omega), e 24 4 (by omega), e 28 4 (by omega), e 32 8 (by omega), e 40 4 (by omega), e 48 8 (by omega), e 64 8 (by omega)]
    decide +kernel
  have hzs : imgZeros X = true := by
    simp only [imgZeros, ha _ _ (show 192 ≤ 192 by omega), ha _ _ (show 192 ≤ 6144 by omega), Bool.and_true, e 4 1 (by omega),
      f _ _ (show 8 ≤ 128 by omega), f _ _ (show 48 ≤ 128 by omega), f _ _ (show 64 ≤ 128 by omega), f _ _ (show 128 ≤ 128 by omega)]
    decide +kernel
  have c : ∀ o n v, o + n ≤ 128 → imgNat imageHead o n = v → imgNat X o n = v := fun o n v h hv => (e o n h).trans hv
  unfold imageCheck
  rw [if_neg (by
    rw [hzs, hr, c 0 4 1 (by omega) (by decide +kernel), c 4 1 0 (by omega) (by decide +kernel)]
    rintro (h | h | h | h | h)
    · exact h rfl
    · cases h
    · exact h rfl
    · cases h
    · exact h hg)]
  rw [c 56 4 0 (by omega) (by decide +kernel), c 28 4 0 (by omega) (by decide +kernel), c 24 4 0 (by omega) (by decide +kernel), c 40 4 0 (by omega) (by decide +kernel),
    c 8 8 0 (by omega) (by decide +kernel), hw, hm]
  simp [imgSegments, imgBlocksOk, leastImage, w64]
/-- A frozen package whose memory is M, mapped at 0x10000 for PASID 0, with a record that asks for one gang of 4 clusters and its image there. -/
def offering (M : List Host.Cell) : State :=
  { ready 0 0 with frozen := true, g := {}, roots := [(0, 0x400000)], mem := M, directPorts := [(0, { record := [0x10000, 0x10000, 7, 0, 0, 0, 0, 0] })] }
/-- The record's bytes. -/
def launchBytes : List Byte := leBytes 8 0x10000 ++ leBytes 8 0x10000 ++ leBytes 8 7 ++ List.replicate 40 0
/-- The image at 0, and the record in a queue's ring at 0x8000. -/
def imageMemory : List Host.Cell := wrBytes (wrBytes [] 0 imageBytes) 0x8000 launchBytes
/-- A memory that holds the least image at 0 and the record at 0x8000. -/
structure ImageIn (M : List Host.Cell) : Prop where
  len : imgNat (rdBytes M 0 4096) 16 8 = 16384
  ok : imageCheck (rdBytes M 0 4096 ++ (rdBytes M 4096 4096 ++ (rdBytes M 8192 4096 ++ rdBytes M 12288 4096))) 0 = some leastImage
  ring : rdBytes M 0x8000 64 = launchBytes
theorem rdBytes_length (M : List Host.Cell) : ∀ n a, (rdBytes M a n).length = n := by
  intro n; induction n with
  | zero => intro a; rfl
  | succ n ih => intro a; rw [rdBytes, List.length_cons, ih]
theorem imageIn_of_reads (M : List Host.Cell) (Z : List Byte) (hZ : Z = List.replicate 16192 0) (h : rdBytes M 0 16384 = imageHead ++ (sha512 (imageHead ++ Z) ++ Z))
    (hr : rdBytes M 0x8000 64 = launchBytes) : ImageIn M := by
  have hs : rdBytes M 0 16384 = rdBytes M 0 4096 ++ (rdBytes M 4096 4096 ++ (rdBytes M 8192 4096 ++ rdBytes M 12288 4096)) := by
    rw [show (16384 : Nat) = 4096 + (4096 + (4096 + 4096)) by omega, rdBytes_add, rdBytes_add, rdBytes_add]
  refine ⟨?_, ?_, hr⟩
  · have ht := congrArg (List.take 4096) (hs.symm.trans h)
    rw [List.take_left' (rdBytes_length M 4096 0), List.take_append, imageHead_length, List.take_of_length_le (by rw [imageHead_length]; omega)] at ht
    rw [ht, imgNat_head _ _ _ (by omega)]
    decide +kernel
  · rw [← hs, h]
    exact imageCheck_least _ Z (sha512_length _) hZ rfl
theorem imageMemory_in : ImageIn imageMemory := by
  have h : imageBytes.length = 16384 := by
    rw [imageBytes, List.length_append, List.length_append, sha512_length, imageHead_length, imageTail, List.length_replicate]
  refine imageIn_of_reads _ imageTail (by rw [imageTail]) ?_ (rdBytes_wrBytes _ _ _)
  rw [imageMemory, rdBytes_wrBytes_outside _ _ _ _ _ (by omega), ← h, rdBytes_wrBytes, imageBytes]
theorem physRead_offering (s : State) (h : s.channelPower = []) (hs : sound s = true) (pa n : Nat)
    (hc : region pa = 0 ∧ pa % 2 ^ 50 + n ≤ 2 ^ 50 ∧ clearOfTags pa n = true) :
    physRead s pa n = (s, some (rdBytes s.mem pa n)) := by
  have hw : { s with channelPower := wake s pa n } = s := by
    have hw : wake s pa n = [] := by simp [wake, h]
    rw [hw, ← h]
  rw [physRead_sound s pa n hs, hw, memBytes, if_pos hc]
theorem readImage_offering (M : List Host.Cell) (hM : ImageIn M) (s : State) (hm : s.mem = M) (h : s.channelPower = []) (hs : sound s = true)
    (u0 : hubUse s 0 0 0x10000 = s) (u1 : hubUse s 0 0 0x11000 = s) (u2 : hubUse s 0 0 0x12000 = s) (u3 : hubUse s 0 0 0x13000 = s)
    (t0 : translateFull s 0 0 0x10000 .read = .ok 0 0x17) (t1 : translateFull s 0 0 0x11000 .read = .ok 4096 0x17) (t2 : translateFull s 0 0 0x12000 .read = .ok 8192 0x17)
    (t3 : translateFull s 0 0 0x13000 .read = .ok 12288 0x17) : readImage s 0 0x10000 0 = (s, .got leastImage) := by
  have p := physRead_offering s h hs
  have c1 : coreRead s 0 1 0x10000 = (s, .got (rdBytes M 0 4096)) := by
    simp only [coreRead, t0, u0, p 0 4096 (by decide), hm, List.append_nil]
  have c4 : coreRead s 0 4 0x10000 = (s, .got (rdBytes M 0 4096 ++ (rdBytes M 4096 4096 ++ (rdBytes M 8192 4096 ++ rdBytes M 12288 4096)))) := by
    simp only [coreRead, t0, t1, t2, t3, u0, u1, u2, u3, p 0 4096 (by decide), p 4096 4096 (by decide), p 8192 4096 (by decide),
      p 12288 4096 (by decide), hm, List.append_nil, Nat.reduceAdd]
  rw [readImage, c1]
  dsimp only
  rw [hM.len, if_neg (by omega), show 16384 / 4096 = 4 by omega, c4]
  dsimp only
  rw [hM.ok]
def waitingQueue : Queue := { en := true, lgn := 4, base := 0x18000, tail := 1, pending := true }
/-- A ready queue of the gang's priority, the listed clusters offline, and the heartbeats counted. -/
def asking (M : List Host.Cell) (off : List Nat) (n : Nat) : State :=
  { offering M with frozen := false, g := gang 0 0, offline := off, queues := [(0, waitingQueue)], heartbeats := n }
def launchRecord : Record := ⟨0x10000, 0x10000, 7, 0, 0, 0, 0, 0, 0, 0, 0, 0⟩
set_option maxRecDepth 65536 in
theorem offering_facts (M : List Host.Cell) : translateFull (offering M) 0 0 0x10000 .read = .ok 0 0x17 ∧ translateFull (offering M) 0 0 0x11000 .read = .ok 4096 0x17
    ∧ translateFull (offering M) 0 0 0x12000 .read = .ok 8192 0x17 ∧ translateFull (offering M) 0 0 0x13000 .read = .ok 12288 0x17
    ∧ recordErr (offering M) launchRecord none = 0 ∧ directPlaces (offering M) launchRecord 0 = some [⟨[0, 1, 2, 3], [(0, 0)]⟩]
    ∧ directPlaces { offering M with offline := [3] } launchRecord 0 = none := ⟨rfl, rfl, rfl, rfl, rfl, rfl, rfl⟩
theorem image_read (M : List Host.Cell) (hM : ImageIn M) : readImage (offering M) 0 0x10000 0 = (offering M, .got leastImage) := by
  obtain ⟨t0, t1, t2, t3, -⟩ := offering_facts M
  exact readImage_offering M hM (offering M) rfl rfl rfl rfl rfl rfl rfl t0 t1 t2 t3
theorem offered_record : recordOf [0x10000, 0x10000, 7, 0, 0, 0, 0, 0] = launchRecord ∧ launchRecord.pasid = 0 ∧ launchRecord.image.toNat = 0x10000 ∧ launchRecord.sz = 0
    ∧ launchRecord.members = 1 ∧ launchRecord.prio = 0 := by decide +kernel
theorem witness_GangsAreLaunchedAndStarted_image : ∃ M, let s := offering M
    let x := mget ({} : DirectPort) s.directPorts 0
    recordOf x.record = launchRecord
      ∧ s.frozen = true ∧ recordErr s launchRecord none = 0 ∧ readImage s launchRecord.pasid launchRecord.image.toNat launchRecord.sz = (s, .got leastImage)
      ∧ launchRecord.members = 1 ∧ s.g.phase = .none
      ∧ directPlaces s launchRecord x.placement.toNat = some [⟨[0, 1, 2, 3], [(0, 0)]⟩] ∧ directPlaces { s with offline := [3] } launchRecord x.placement.toNat = none := by
  refine ⟨imageMemory, ?_⟩
  have hI := image_read imageMemory imageMemory_in
  generalize imageMemory = M at hI ⊢
  obtain ⟨-, -, -, -, h1, h2, h3⟩ := offering_facts M
  obtain ⟨r0, r1, r2, r3, r4, -⟩ := offered_record
  refine ⟨r0, rfl, h1, ?_, r4, rfl, h2, h3⟩
  rw [r1, r2, r3]
  exact hI
set_option maxRecDepth 65536 in
theorem crowded_facts (M : List Host.Cell) (off : List Nat) (n : Nat) : translateFull (asking M off n) 0 0 0x10000 .read = .ok 0 0x17 ∧ translateFull (asking M off n) 0 0 0x11000 .read = .ok 4096 0x17
    ∧ translateFull (asking M off n) 0 0 0x12000 .read = .ok 8192 0x17 ∧ translateFull (asking M off n) 0 0 0x13000 .read = .ok 12288 0x17
    ∧ translateFull (asking M off n) 0 0 0x18000 .read = .ok 0x8000 0x17 := ⟨rfl, rfl, rfl, rfl, rfl⟩
set_option maxRecDepth 65536 in
theorem crowded_record (M : List Host.Cell) (off : List Nat) (n : Nat) : recordErr (asking M off n) launchRecord (some 0) = 0 ∧ waitMet (asking M off n) launchRecord = true := ⟨rfl, rfl⟩
theorem headRecord_crowded (M : List Host.Cell) (hM : ImageIn M) (off : List Nat) (n : Nat) : headRecord (asking M off n) 0 = ((asking M off n), .got launchRecord) := by
  have p := physRead_offering (asking M off n) rfl rfl 0x8000 64 (by decide)
  have u : hubUse (asking M off n) 0 0 0x18000 = (asking M off n) := rfl
  obtain ⟨-, -, -, -, t⟩ := crowded_facts M off n
  have q : queueOf (asking M off n) 0 = waitingQueue := rfl
  have a : waitingQueue.base + 64 * (waitingQueue.head % 2 ^ waitingQueue.lgn) = 0x18000 := by decide +kernel
  have l : recordOf ((List.range 8).map fun k => w64 (leNat ((launchBytes.drop (8 * k)).take 8))) = launchRecord := by decide +kernel
  simp only [headRecord, q, a, show waitingQueue.qpasid = 0 from rfl, t, u, p, show (asking M off n).mem = M from rfl, hM.ring, l]
theorem evalQueue_asking (M : List Host.Cell) (hM : ImageIn M) (off : List Nat) (n : Nat) :
    evalQueue (asking M off n) 0 = (setQueue (asking M off n) 0 { waitingQueue with st := 1 }, some ⟨0, launchRecord, leastImage⟩) := by
  obtain ⟨t0, t1, t2, t3, -⟩ := crowded_facts M off n
  obtain ⟨he, hw⟩ := crowded_record M off n
  obtain ⟨-, r1, r2, r3, -⟩ := offered_record
  have hi := readImage_offering M hM (asking M off n) rfl rfl rfl rfl rfl rfl rfl t0 t1 t2 t3
  have hr := headRecord_crowded M hM off n
  have q : queueOf (asking M off n) 0 = waitingQueue := rfl
  have ht : touchSignals (asking M off n) launchRecord = asking M off n := rfl
  simp only [evalQueue, q, show waitingQueue.scanned = true from rfl, hr, show waitingQueue.qpasid = 0 from rfl, he, r1, r2, r3, hi, hw, ht, Bool.not_true, Bool.false_eq_true, if_false, if_true]
theorem spanWanted_crowded (M : List Host.Cell) (hM : ImageIn M) : spanWanted (asking M (List.range 128) 0) = true := by
  obtain ⟨-, -, -, r3, r4, r5⟩ := offered_record
  have hs : evalQueues (asking M (List.range 128) 0) = (setQueue (asking M (List.range 128) 0) 0 { waitingQueue with st := 1 }, [⟨0, launchRecord, leastImage⟩]) := by
    rw [evalQueues, show (asking M (List.range 128) 0).queues = [(0, waitingQueue)] from rfl, List.foldl_cons, List.foldl_nil, evalQueue_asking M hM]; rfl
  have hl : resumeList (asking M (List.range 128) 0) = [] := rfl
  simp only [spanWanted, hs, hl, List.any_cons, List.any_nil, r3, r4, r5, show (asking M (List.range 128) 0).g.launch.prio = 0 from rfl,
    show (asking M (List.range 128) 0).frozen = false from rfl, show (asking M (List.range 128) 0).power = .ready from rfl]
  rfl
theorem witness_HintsWaitsAndYields_span : ∃ M, spanWanted (asking M (List.range 128) 0) = true := ⟨imageMemory, spanWanted_crowded _ imageMemory_in⟩
/-- A pass with a ready queue for which clusters 4 to 7 are free. -/
theorem witness_pass_places : ∃ M, let s := asking M [] 0
    s.frozen = false ∧ s.queues = [(0, waitingQueue)] ∧ s.reservations = [] ∧ resumeList s = []
      ∧ ∃ u, evalQueue { s with heartbeats := s.heartbeats + 1 } 0 = (u, some ⟨0, launchRecord, leastImage⟩)
          ∧ placeMembers u (some 0) launchRecord.sz launchRecord.members = some [⟨[4, 5, 6, 7], [(0, 1)]⟩] := by
  have h := evalQueue_asking imageMemory imageMemory_in [] 1
  generalize imageMemory = M at h ⊢
  obtain ⟨-, -, -, r3, r4, -⟩ := offered_record
  refine ⟨M, rfl, rfl, rfl, rfl, _, h, ?_⟩
  rw [r3, r4]; rfl
/-- A page that is not present, asked for by a gang whose queue is empty; stores, atomics and posts that wait for what they release. -/
theorem witness_pages_are_asked_for : translateFull (ready 0x90000 0) 0 0 0x90000 .read = .notPresent ∧ translateFull (ready 0x90000 0) 0 0 0x90000 .write = .notPresent
    ∧ mapsDevice (ready 0x90000 0) 0 0x90000 = false ∧ (ready 0x90000 0).g.cohN = 1 ∧ ownId (ready 0x90000 0) ∧ (ready 0x90000 0).g.bq = []
    ∧ (ready 0x90000 0).g.bankFault = false ∧ (ready 0x90000 0).g.copyFault = none := by
  refine ⟨?_, ?_, ?_, ?_, ?_, ?_, ?_, ?_⟩ <;> first | rfl | (simp only [ownId]; decide) | decide
theorem witness_releases_wait : globalPa queued 0x10000 8 .write 1 = .ok 0 ∧ globalPa queued 0x10000 8 .write 2 = .ok 0 ∧ ¬ released queued ∧ region 0 = 0
    ∧ ¬ storesSeen outstanding ∧ pendingWrite outstanding (2 ^ 51) 1 = true ∧ globalPa outstanding 0x40000 1 .read 0 = .ok (2 ^ 51) := by
  refine ⟨rfl, rfl, ?_, rfl, ?_, ?_, rfl⟩ <;> first | (simp only [released, storesSeen]; decide) | decide
/-- A fence of copies, and a fence-barrier that orders them, with a copy left to drain. -/
theorem witness_copies_are_left : (let s := copyHead plainCopy
    copiesLeft s ∧ released s ∧ storesSeen s ∧ s.lockstep = false ∧ s.g.pl = false)
    ∧ 4 / 4 % 2 = 1 ∧ (4 : BitVec 5).toNat / 4 = 1 := by
  simp only [copiesLeft, released, storesSeen]; decide
/-- A copy that stands in a frame, and one that has ended the frame it was in. -/
theorem witness_copies_settled : (∀ f ∈ { plainCopy with touched := [128], posted := [128] }.touched, f ∈ { plainCopy with touched := [128], posted := [128] }.posted)
    ∧ ¬ ∀ f ∈ { plainCopy with touched := [128] }.touched, f ∈ { plainCopy with touched := [128] }.posted := by decide
theorem witness_span_grows : (ready 8 0).g.clusters.length < 8 ∧ spanGrant (ready 8 0) 8 = some [4, 5, 6, 7] ∧ (ready 8 0).g.clusters.Nodup
    ∧ (ready 8 0).g.clusters.length ∈ [4, 8, 16, 32, 64, 128] ∧ ∀ c ∈ (ready 8 0).g.clusters, (ready 8 0).g.clusters.length < 32 → c / 32 = (ready 8 0).g.lead := by decide
/-- A page's arrival for a gang in a reservation's clusters, and for one that is in none. -/
theorem witness_reserved_away : reservedAway awaiting awaiting.g = false
    ∧ (let s := { awaiting with reservations := [(0, ⟨5, 7, [0, 1, 2, 3], true⟩)] }
       s.g.phase = .pageWait ∧ reservedAway s s.g = true) := by decide
/-- Bank 0 at the last unit of the eldest instruction, which every other bank has finished: VMOV of an I8 element without and with tag
upkeep, and a TTAGW. -/
def lastUnit (i : Instr) : Entry := { stagedEntry (gang 0 0) i with seq := 0, cap := { (stagedEntry (gang 0 0) i).cap with ecount := 1, tcount := 1 }, regs := [(1, 0x200000), (2, 0x200040)] }
def closing (i : Instr) : State :=
  let s := streamed [lastUnit i] ((0, { begun := true }) :: (List.range 63).map fun b => (b + 1, { next := 1 }))
  { s with field := [(64, 7)], g := { s.g with windows := [(0, ⟨0x200000, 0x20000, 0, 64, 13, false, true, true, 0⟩)] } }
def closes (i : Instr) (o : Out) : Bool :=
  let s := closing i
  let e := lastUnit i
  s.g.bq == [e] && (s.g.bankAt 0).next == e.seq && (s.g.bankAt 0).begun && !(s.g.bankAt 0).ready && (s.g.bankAt 0).cause.isNone
    && ((List.range s.g.banksInSpan).all fun c => c == 0 || decide (e.seq < (s.g.bankAt c).next)) && s.g.fpDue.isNone && !holdsWrites e && !isSparse e.instr
    && unitsFrom e (s.g.bankAt 0).position == [0] && !skips e 0 0 && !rowAbsent s e 0
    && (match unitOwner s (rdOf (bankSrc s 0 e)) e 0 with | .ok c => c == 0 | .error _ => false)
    && (match performUnit s 0 (minesOf s 0) true (bankSrc s 0 e) e 0 with | .ok x => x == o | .error _ => false)
    && !writesAwaited s e o && !tokenAwaited s 0 e 0 && e.later == [] && s.fieldBad == [] && s.ftagBad == [] && o.poison == [] && s.g.pulls == []
theorem witness_units_retire : closes (.vmov { bx1 with ef := 0 }) { writes := [⟨0x200000, 255, 7⟩] } = true
    ∧ closes (.vmov { bx1 with ef := 0, t := 1 }) { writes := [⟨0x200000, 255, 7⟩] } = true
    ∧ closes (.ttagw ⟨1, 2, 0, 0, 0, 0, 0, 0, 0, 0, 0⟩) { tags := [(0x200000, 0x0001000000000007)] } = true
    ∧ flow (closing (.ttagw ⟨1, 2, 0, 0, 0, 0, 0, 0, 0, 0, 0⟩)) = closing (.ttagw ⟨1, 2, 0, 0, 0, 0, 0, 0, 0, 0, 0⟩)
    ∧ keepsTags (.vmov { bx1 with ef := 0, t := 1 }) = true ∧ keepsTags (.vmov { bx1 with ef := 0 }) = false := by
  refine ⟨?_, ?_, ?_, rfl, rfl, rfl⟩ <;> decide +kernel
set_option maxRecDepth 65536 in
theorem test_units_retire : after (exec (.bankBegin 0) (closing (.vmov { bx1 with ef := 0, t := 1 })))
    (fun t => rdByte t.field 0 == 7 && rdByte t.field 64 == 7 && t.g.bq == [] && tagOfKey t 0 == 0x000100000000003F) = true
    ∧ after (exec (.bankBegin 0) (closing (.ttagw ⟨1, 2, 0, 0, 0, 0, 0, 0, 0, 0, 0⟩)))
    (fun t => tagOfKey t 0 == 0x0001000000000007 && rdByte t.field 64 == 7 && t.g.bq == []) = true := by
  refine ⟨?_, ?_⟩ <;> decide +kernel
/-- The element, the frame and the bytes that a unit of bank 0 reads there. -/
theorem witness_units_read : (let s := closing (.vmov { bx1 with ef := 0 })
    let e := lastUnit (.vmov { bx1 with ef := 0 })
    let rd := rdAt (rdOf (bankSrc s 0 e)) 0
    let f : BX := { bx1 with ef := 0 }
    baseFault e 0 0 = .ok () ∧ active rd e f.msk 0 = .ok (true, false)
      ∧ (match destElementAddr rd (destCheck s (ectrlPp e.cap.ectrl) (keepsTags e.instr)) e f 0 with | .ok x => x == (0x200000, false) | .error _ => false) = true
      ∧ (match readElement rd e 1 f.a f.am 8 (sourceIndex e f 0) with | .ok x => x == (7, false) | .error _ => false) = true
      ∧ elementResult e.instr f (elemCtx e f 0) 0 7 0 0 = some (7, 0)
      ∧ (match elementKeys s false 1 .base 0 0x200040 (max 1 2) with | .ok ks => ks == [64, 65] | .error _ => false) = true
      ∧ ownerOfAddr s 0x200040 = some 0 ∧ sparseBefore s.g e.seq = false ∧ s.g.channels = [] ∧ e.old = [] ∧ e.oldTags = [])
    ∧ (let s := closing (.ttagr ⟨2, 1, 0, 0, 0, 0, 0, 0, 0, 0, 0⟩)
       let e := lastUnit (.ttagr ⟨2, 1, 0, 0, 0, 0, 0, 0, 0, 0, 0⟩)
       frameWindowOk s 0x200000 false = true ∧ frameWindowOk s 0x200000 true = true ∧ baseFault e 0 0 = .ok ()
        ∧ (match bankSrc s 0 e 1 .base 0 0x200000 0 true with | .ok x => x == ([], false, rawTag) | .error _ => false) = true
        ∧ (match rdOf (bankSrc s 0 e) 1 .base 0 0x200040 8 with | .ok x => x == ([7, 0, 0, 0, 0, 0, 0, 0], false) | .error _ => false) = true
        ∧ (match destCheck s false false 0 0x200040 8 with | .ok x => x == false | .error _ => false) = true) := by
  refine ⟨⟨rfl, rfl, ?_, ?_, ?_, ?_, ?_, ?_, ?_, ?_, ?_⟩, ?_, ?_, rfl, ?_, ?_, ?_⟩ <;> decide +kernel
/-- Staged writes of the last entry of a queue, and of one with another behind it. -/
theorem witness_staged_order : (∀ y ∈ [entryAt 1], (entryAt 0).seq < y.seq) ∧ (entryAt 0).later = [] := by decide
/-- A command core in reset; a gang stopped for svk in a reservation's clusters, and one halted there that svk holds still. -/
theorem witness_core_in_reset : { ready 0 0 with frozen := true }.frozen = true ∧ walked.frozen = false ∧ (ready 0 0).frozen = false
    ∧ (∀ p ∈ (ready 0 0).g.channels, p.2.queue = []) ∧ healthy walked
    ∧ (let s := { ready 0 0 with reservations := [(0, ⟨5, 7, [0, 1, 2, 3], false⟩)], g := { gang 0 0 with phase := .svkStop } }
       s.others = [] ∧ s.g.phase = .svkStop ∧ s.g.launch.prio < 7 ∧ (∃ c ∈ s.g.clusters, c ∈ [0, 1, 2, 3]) ∧ (resumeList s).length < 256)
    ∧ (∀ h ∈ (ready 0 0).g :: (ready 0 0).others, h.phase ≠ .svkStop)
    ∧ { halted.g with svkHeld := true }.svkHeld = true ∧ halted.g.svkHeld = false :=
  ⟨rfl, rfl, rfl, by decide, ⟨rfl, fun _ => rfl⟩, by decide, by decide, rfl, rfl⟩
/-- R108 and R220: at handler level a copy that reads what an instruction of the pending frame writes waits for it, and what waits for copies
does not wait for that one. -/
def handlerCopy (level : Bool) (src : Nat) : State :=
  let c := { plainCopy with dir := 1, src := src, dst := 0x10000, isn := 1 }
  { copying with g := { copying.g with pl := level, frame := [lastUnit (.vmov bx1)], channels := [(2, { queue := [c] })] } }
theorem test_handler_waits_for_no_framed_copy : frameHeld (handlerCopy true 0x200000) = [plainCopy.num] ∧ copiesFenced (handlerCopy true 0x200000) = true
    ∧ copiesFenced (handlerCopy false 0x200000) = false ∧ copiesFenced (handlerCopy true 0x200400) = false := by decide

end Sys2Proof.Tests
end

section
/-! The integer group and the long immediates (R170 to R175): the value that each operation of the register unit computes, in
the terms of the rules, and the completion of the instructions that write it. -/
namespace Sys2Proof.Machine

/-! ### Sums, differences, products and shifts as arithmetic modulo 2^64 -/

theorem shiftLeft_eq_w64 (x : Word) (k : Nat) : x <<< k = w64 (x.toNat * 2 ^ k) :=
  BitVec.eq_of_toNat_eq (by simp [Nat.shiftLeft_eq])

theorem ushiftRight_eq_w64 (x : Word) (k : Nat) : x >>> k = w64 (x.toNat / 2 ^ k) := by
  apply BitVec.eq_of_toNat_eq
  have h : x.toNat / 2 ^ k < 2 ^ 64 := Nat.lt_of_le_of_lt (Nat.div_le_self ..) x.isLt
  rw [BitVec.toNat_ushiftRight, Nat.shiftRight_eq_div_pow, BitVec.toNat_ofNat, Nat.mod_eq_of_lt h]

theorem aluAdd_eq (x y : Word) : aluAdd x y = w64 (x.toNat + y.toNat) := by
  rw [aluAdd, w64, BitVec.ofNat_add, BitVec.ofNat_toNat, BitVec.ofNat_toNat, BitVec.setWidth_eq, BitVec.setWidth_eq]

theorem aluSub_eq (x y : Word) : aluSub x y = BitVec.ofInt 64 (x.toInt - y.toInt) := by
  rw [aluSub, Int.sub_eq_add_neg, BitVec.ofInt_add, BitVec.ofInt_neg, BitVec.ofInt_toInt, BitVec.ofInt_toInt, BitVec.sub_eq_add_neg]

theorem aluMul_eq (x y : Word) : aluMul x y = w64 (x.toNat * y.toNat) := by
  rw [aluMul, w64, BitVec.ofNat_mul, BitVec.ofNat_toNat, BitVec.ofNat_toNat, BitVec.setWidth_eq, BitVec.setWidth_eq]

theorem aluSll_eq (x y : Word) : aluSll x y = w64 (x.toNat * 2 ^ (y.toNat % 64)) := shiftLeft_eq_w64 ..

theorem aluSrl_eq (x y : Word) : aluSrl x y = w64 (x.toNat / 2 ^ (y.toNat % 64)) := ushiftRight_eq_w64 ..

theorem aluSra_eq (x y : Word) : aluSra x y = BitVec.ofInt 64 (x.toInt / (2 ^ (y.toNat % 64) : Nat)) := by
  rw [← Int.shiftRight_eq_div_pow, ← BitVec.toInt_sshiftRight, BitVec.ofInt_toInt, aluSra]

/-- The two parts of a word that a rotation by k joins have no bit in common. -/
theorem shiftLeft_and_ushiftRight (x : Word) {k m : Nat} (h : k + m = 64) : (x <<< k) &&& (x >>> m) = 0#64 := by
  ext i hi
  by_cases hk : i < k
  · simp [hk]
  · have hx : x.getLsbD (m + i) = false := BitVec.getLsbD_of_ge _ _ (by omega)
    simp [hx]

theorem aluRol_eq (x y : Word) :
    aluRol x y = w64 (x.toNat * 2 ^ (y.toNat % 64) + x.toNat / 2 ^ (64 - y.toNat % 64)) := by
  have hk : y.toNat % 64 < 64 := Nat.mod_lt _ (by decide)
  rw [aluRol, BitVec.rotateLeft_def, Nat.mod_mod, ← BitVec.add_eq_or_of_and_eq_zero _ _ (shiftLeft_and_ushiftRight x (by omega)),
    shiftLeft_eq_w64, ushiftRight_eq_w64, ← BitVec.ofNat_add]

theorem aluRor_eq (x y : Word) :
    aluRor x y = w64 (x.toNat / 2 ^ (y.toNat % 64) + x.toNat * 2 ^ (64 - y.toNat % 64)) := by
  have hk : y.toNat % 64 < 64 := Nat.mod_lt _ (by decide)
  rw [aluRor, BitVec.rotateRight_def, Nat.mod_mod, BitVec.or_comm,
    ← BitVec.add_eq_or_of_and_eq_zero _ _ (shiftLeft_and_ushiftRight x (by omega)),
    shiftLeft_eq_w64, ushiftRight_eq_w64, BitVec.add_comm, ← BitVec.ofNat_add]

/-! ### Comparisons -/

theorem aluSlt_eq (x y : Word) : aluSlt x y = if x.toInt < y.toInt then 1 else 0 := by
  simp only [aluSlt, BitVec.slt_iff_toInt_lt]

theorem aluSltu_eq (x y : Word) : aluSltu x y = if x.toNat < y.toNat then 1 else 0 := by
  simp only [aluSltu, BitVec.ult_iff_toNat_lt]

theorem aluMin_eq (x y : Word) : aluMin x y = if x.toInt ≤ y.toInt then x else y := by
  simp only [aluMin, BitVec.slt_iff_toInt_lt, ← Int.not_le, ite_not]

theorem aluMinu_eq (x y : Word) : aluMinu x y = if x.toNat ≤ y.toNat then x else y := by
  simp only [aluMinu, BitVec.ult_iff_toNat_lt, ← Nat.not_le, ite_not]

/-- The two tests differ where x = y as numbers; there the words are equal, and either may be taken. -/
theorem aluMax_eq (x y : Word) : aluMax x y = if x.toInt ≤ y.toInt then y else x := by
  simp only [aluMax, BitVec.slt_iff_toInt_lt]
  rcases Int.lt_trichotomy x.toInt y.toInt with h | h | h
  · rw [if_pos h, if_pos (Int.le_of_lt h)]
  · rw [BitVec.eq_of_toInt_eq h, ite_self, ite_self]
  · rw [if_neg (Int.lt_asymm h), if_neg (Int.not_le.mpr h)]

theorem aluMaxu_eq (x y : Word) : aluMaxu x y = if x.toNat ≤ y.toNat then y else x := by
  simp only [aluMaxu, BitVec.ult_iff_toNat_lt]
  rcases Nat.lt_trichotomy x.toNat y.toNat with h | h | h
  · rw [if_pos h, if_pos (Nat.le_of_lt h)]
  · rw [BitVec.eq_of_toNat_eq h, ite_self, ite_self]
  · rw [if_neg (Nat.lt_asymm h), if_neg (Nat.not_le.mpr h)]

/-! ### Division (R171) -/

theorem aluDiv_eq (x y : Word) : aluDiv x y = if y = 0 then -1 else BitVec.ofInt 64 (x.toInt.tdiv y.toInt) := by
  rw [aluDiv, ← BitVec.neg_one_eq_allOnes]; rfl

theorem aluDivu_eq (x y : Word) : aluDivu x y = if y = 0 then -1 else w64 (x.toNat / y.toNat) := by
  rw [aluDivu, ← BitVec.neg_one_eq_allOnes]; rfl

theorem aluRem_eq (x y : Word) :
    aluRem x y = if y = 0 then x else BitVec.ofInt 64 (x.toInt - x.toInt.tdiv y.toInt * y.toInt) := by
  rw [aluRem, Int.tmod_def, Int.mul_comm]

theorem aluRemu_eq (x y : Word) :
    aluRemu x y = if y = 0 then x else w64 (x.toNat - x.toNat / y.toNat * y.toNat) := by
  rw [aluRemu, Nat.mod_eq_sub_div_mul]

/-! ### The halves of a 128-bit product -/

theorem extractLsb'_low_ofNat (n : Nat) : (BitVec.ofNat 128 n).extractLsb' 0 64 = w64 n :=
  BitVec.eq_of_toNat_eq (by simp only [BitVec.extractLsb'_toNat, BitVec.toNat_ofNat, Nat.shiftRight_zero]; omega)

theorem extractLsb'_high_ofNat (n : Nat) : (BitVec.ofNat 128 n).extractLsb' 64 64 = w64 (n / 2 ^ 64) :=
  BitVec.eq_of_toNat_eq (by simp only [BitVec.extractLsb'_toNat, BitVec.toNat_ofNat, Nat.shiftRight_eq_div_pow]; omega)

theorem extractLsb'_high_ofInt (i : Int) : (BitVec.ofInt 128 i).extractLsb' 64 64 = BitVec.ofInt 64 (i / 2 ^ 64) :=
  BitVec.eq_of_toNat_eq (by simp only [BitVec.extractLsb'_toNat, BitVec.toNat_ofInt, Nat.shiftRight_eq_div_pow]; omega)

theorem aluMulh_eq (x y : Word) : aluMulh x y = (x.signExtend 128 * y.signExtend 128).extractLsb' 64 64 := by
  rw [aluMulh, BitVec.signExtend, BitVec.signExtend, ← BitVec.ofInt_mul, extractLsb'_high_ofInt]

theorem aluMulhu_eq (x y : Word) : aluMulhu x y = (x.zeroExtend 128 * y.zeroExtend 128).extractLsb' 64 64 := by
  have h (z : Word) : z.zeroExtend 128 = BitVec.ofNat 128 z.toNat := (BitVec.ofNat_toNat ..).symm
  rw [aluMulhu, h, h, ← BitVec.ofNat_mul, extractLsb'_high_ofNat]

/-! ### Carry-less products -/

theorem foldUp_eq_foldl {β : Type} (n : Nat) (f : Nat → β → β) (b : β) :
    foldUp n f b = (List.range n).foldl (fun acc i => f i acc) b := by
  induction n with
  | zero => rfl
  | succ n ih => rw [foldUp, ih, List.range_succ, List.foldl_append, List.foldl_cons, List.foldl_nil]

theorem getLsbD_iff_div_mod (x : Word) (i : Nat) : x.getLsbD i = true ↔ x.toNat / 2 ^ i % 2 = 1 := by
  rw [BitVec.getLsbD, Nat.testBit_eq_decide_div_mod_eq, decide_eq_true_eq]

/-- The model's product, of natural numbers, is the 128-bit product of R170. -/
theorem clProduct_eq_ofNat (x y : Word) : clProduct x y = BitVec.ofNat 128 (clmulNat 64 x.toNat y.toNat) := by
  rw [clProduct, clmulNat, foldUp_eq_foldl]
  refine List.foldl_hom (BitVec.ofNat 128) (init := 0) fun acc i => ?_
  have hshift : x.zeroExtend 128 <<< i = BitVec.ofNat 128 (x.toNat * 2 ^ i) :=
    BitVec.eq_of_toNat_eq (by simp [Nat.shiftLeft_eq])
  simp only [getLsbD_iff_div_mod, hshift]
  split
  · exact BitVec.eq_of_toNat_eq (by simp)
  · rfl

theorem aluClmul_eq (x y : Word) : aluClmul x y = (clProduct x y).extractLsb' 0 64 := by
  rw [clProduct_eq_ofNat, extractLsb'_low_ofNat, aluClmul]

theorem aluClmulh_eq (x y : Word) : aluClmulh x y = (clProduct x y).extractLsb' 64 64 := by
  rw [clProduct_eq_ofNat, extractLsb'_high_ofNat, aluClmulh]

/-! ### Counts of bits -/

theorem leadingZeros_le (w a : Nat) : leadingZeros w a ≤ w := by
  unfold leadingZeros
  split <;> omega

/-- Above its leading zeros a value has no bit, and below them it has one, unless it is zero. -/
theorem leadingZeros_bounds {w a : Nat} (h : a < 2 ^ w) :
    a < 2 ^ (w - leadingZeros w a) ∧ (leadingZeros w a < w → 2 ^ (w - 1 - leadingZeros w a) ≤ a) := by
  unfold leadingZeros
  rw [Nat.mod_eq_of_lt h]
  split
  next ha => simp [ha]
  next ha =>
    have hlog : a.log2 < w := (Nat.log2_lt ha).mpr h
    have hsub : w - (w - 1 - a.log2) = a.log2 + 1 := by omega
    have hsub' : w - 1 - (w - 1 - a.log2) = a.log2 := by omega
    rw [hsub, hsub']
    exact ⟨Nat.lt_log2_self, fun _ => Nat.log2_self_le ha⟩

/-- What a search upward finds: the first hit, or that there is none. -/
theorem findUp_getD_spec (p : Nat → Bool) (i n : Nat) :
    let c := (findUp p i n).getD (i + n)
    c ≤ i + n ∧ (∀ j, i ≤ j → j < c → p j = false) ∧ (c < i + n → p c = true) := by
  induction n generalizing i with
  | zero => exact ⟨Nat.le_refl _, fun j hij hj => absurd hj (Nat.not_lt.mpr hij), fun h => absurd h (Nat.lt_irrefl _)⟩
  | succ n ih =>
    rw [findUp]
    by_cases hp : p i = true
    · rw [if_pos hp]
      exact ⟨Nat.le_add_right .., fun j hij hj => absurd hj (Nat.not_lt.mpr hij), fun _ => hp⟩
    · rw [if_neg hp, show i + (n + 1) = i + 1 + n by omega]
      obtain ⟨hle, hbelow, hhit⟩ := ih (i + 1)
      refine ⟨hle, fun j hij hj => ?_, hhit⟩
      rcases Nat.eq_or_lt_of_le hij with rfl | hlt
      · exact Bool.eq_false_iff.mpr hp
      · exact hbelow j hlt hj

theorem trailingZeros_le (w a : Nat) : trailingZeros w a ≤ w := by
  obtain ⟨hle, -, -⟩ := findUp_getD_spec (fun j => a / 2 ^ j % 2 == 1) 0 w
  rw [Nat.zero_add] at hle
  exact hle

theorem mod_two_pow_trailingZeros (w a : Nat) : a % 2 ^ trailingZeros w a = 0 := by
  obtain ⟨-, hbelow, -⟩ := findUp_getD_spec (fun j => a / 2 ^ j % 2 == 1) 0 w
  rw [Nat.zero_add] at hbelow
  refine Nat.eq_of_testBit_eq fun j => ?_
  rw [Nat.testBit_mod_two_pow, Nat.zero_testBit]
  by_cases hj : j < trailingZeros w a
  · have hbit := hbelow j (Nat.zero_le j) hj
    rw [Nat.testBit_eq_decide_div_mod_eq, decide_eq_false (ne_of_beq_false hbit), Bool.and_false]
  · rw [decide_eq_false hj, Bool.false_and]

theorem getLsbD_trailingZeros {x : Word} (h : trailingZeros 64 x.toNat < 64) :
    x.getLsbD (trailingZeros 64 x.toNat) = true := by
  obtain ⟨-, -, hhit⟩ := findUp_getD_spec (fun j => x.toNat / 2 ^ j % 2 == 1) 0 64
  exact (getLsbD_iff_div_mod ..).mpr (beq_iff_eq.mp (hhit h))

theorem popcount_eq_length_filter (w : Nat) (x : Word) :
    popcount w x.toNat = ((List.range w).filter fun i => x.getLsbD i).length := by
  induction w with
  | zero => rfl
  | succ w ih =>
    rw [List.range_succ, List.filter_append, List.length_append, ← ih]
    change popcount w x.toNat + x.toNat / 2 ^ w % 2 = _
    congr 1
    cases hb : x.getLsbD w with
    | true => rw [List.filter_cons_of_pos hb, (getLsbD_iff_div_mod x w).mp hb]; rfl
    | false =>
      have hn : ¬ x.getLsbD w = true := Bool.eq_false_iff.mp hb
      rw [List.filter_cons_of_neg hn, List.filter_nil, List.length_nil]
      rw [getLsbD_iff_div_mod] at hn
      omega

theorem aluPopc_eq (x : Word) : aluPopc x = w64 ((List.range 64).filter fun i => x.getLsbD i).length := by
  rw [aluPopc, popcount_eq_length_filter]

/-! ### Extension (R172) -/

/-- sext(x, n) of spec/00 is the sign extension of the n low bits. -/
theorem sextNat_eq_signExtend {x n : Nat} (h0 : 0 < n) (h : n ≤ 64) : sextNat x n = (BitVec.ofNat n x).signExtend 64 := by
  have hpow : 2 ^ n ≤ 2 ^ 64 := Nat.pow_le_pow_right (by decide) h
  have hlt : x % 2 ^ n < 2 ^ n := Nat.mod_lt _ (Nat.two_pow_pos n)
  apply BitVec.eq_of_toNat_eq
  rw [BitVec.toNat_signExtend, BitVec.msb_eq_decide, BitVec.toNat_setWidth, BitVec.toNat_ofNat, sextNat, if_neg (Nat.ne_of_gt h0)]
  simp only [decide_eq_true_eq]
  by_cases hs : x % 2 ^ n < 2 ^ (n - 1)
  · rw [if_pos hs, if_neg (Nat.not_le.mpr hs), BitVec.toNat_ofNat, Nat.add_zero]
  · rw [if_neg hs, if_pos (Nat.not_lt.mp hs), BitVec.toNat_ofNat]
    omega

theorem aluSext_eq (w : Reg) (x : Word) : aluSext w x = (BitVec.ofNat (2 * (w.toNat + 1)) x.toNat).signExtend 64 :=
  have hw : w.toNat < 32 := w.isLt
  sextNat_eq_signExtend (n := 2 * (w.toNat + 1)) (by omega) (by omega)

/-! ### Completion -/

theorem completes_mono {i : Instr} {s : State} {P Q : State → Prop} (h : completes i s P) (hPQ : ∀ t, P t → Q t) :
    completes i s Q := fun hi => by
  obtain ⟨t, ht, hP⟩ := h hi
  exact ⟨t, ht, hPQ t hP⟩

/-- The effect of an instruction that computes from registers alone, read off the table `pureResult`: its result is written, and the
PC moves past the instruction (R167). -/
def writeResult (i : Instr) (s : State) : State :=
  match pureResult i s.reg with
  | some (d, v) => (s.setReg d v).commitAt ((s.setReg d v).g.pc + w64 i.bytes)
  | none => s

/-- That is the sequencer's meaning of every instruction in the table. -/
theorem exec_eq_writeResult {i : Instr} {s : State} {p : Reg × Word} (h : pureResult i s.reg = some p) :
    exec i s = userOp i s (writeResult i) := by
  unfold pureResult at h
  split at h
  case h_43 => exact nomatch h -- an instruction that the table does not list
  all_goals rfl

/-- Such an instruction completes, and writes only its result. -/
theorem completes_of_pureResult {i : Instr} {s : State} {d : Reg} {v x : Word} (h : pureResult i s.reg = some (d, v)) (hv : v = x) :
    completes i s (writesReg d x (s.g.pc + w64 i.bytes) s) := by
  subst hv
  intro hi
  refine ⟨writeResult i s, (exec_eq_writeResult h).trans (userOp_of_issues hi _), ?_⟩
  rw [writeResult, h]
  simpa only [State.setReg_g, Gang.setReg_pc] using writesReg_commitAt s d v (s.g.pc + w64 i.bytes)

/-! ### The counts that the rules state as bounds -/

theorem completes_clz (s : State) (d a : Reg) :
    completes (.clz d a) s (fun t => ∃ c : Nat, writesReg d (w64 c) (s.g.pc + 4) s t ∧ c ≤ 64 ∧ (s.reg a).toNat < 2 ^ (64 - c)
      ∧ (c < 64 → 2 ^ (63 - c) ≤ (s.reg a).toNat)) := by
  obtain ⟨habove, hbit⟩ := leadingZeros_bounds (s.reg a).isLt
  exact completes_mono (completes_of_pureResult rfl rfl) fun _ ht =>
    ⟨leadingZeros 64 (s.reg a).toNat, ht, leadingZeros_le .., habove, hbit⟩

theorem completes_ctz (s : State) (d a : Reg) :
    completes (.ctz d a) s (fun t => ∃ c : Nat, writesReg d (w64 c) (s.g.pc + 4) s t ∧ c ≤ 64 ∧ (s.reg a).toNat % 2 ^ c = 0
      ∧ (c < 64 → (s.reg a).getLsbD c = true)) :=
  completes_mono (completes_of_pureResult rfl rfl) fun _ ht =>
    ⟨trailingZeros 64 (s.reg a).toNat, ht, trailingZeros_le .., mod_two_pow_trailingZeros .., getLsbD_trailingZeros⟩

/-! ### The obligations -/

/-- Settles O1: each instruction of the group is one register write, of the value that its operation's lemma gives. -/
theorem integerGroupWritesItsResult : Obligations.IntegerGroupWritesItsResult := by
  unfold Obligations.IntegerGroupWritesItsResult
  rintro s d a b _ _ rfl rfl
  exact ⟨
    completes_of_pureResult rfl (aluAdd_eq ..),
    completes_of_pureResult rfl (aluSub_eq ..),
    completes_of_pureResult rfl rfl,
    completes_of_pureResult rfl rfl,
    completes_of_pureResult rfl rfl,
    completes_of_pureResult rfl rfl,
    completes_of_pureResult rfl (aluSll_eq ..),
    completes_of_pureResult rfl (aluSrl_eq ..),
    completes_of_pureResult rfl (aluSra_eq ..),
    completes_of_pureResult rfl (aluRol_eq ..),
    completes_of_pureResult rfl (aluRor_eq ..),
    completes_of_pureResult rfl (aluSlt_eq ..),
    completes_of_pureResult rfl (aluSltu_eq ..),
    completes_of_pureResult rfl (aluMin_eq ..),
    completes_of_pureResult rfl (aluMax_eq ..),
    completes_of_pureResult rfl (aluMinu_eq ..),
    completes_of_pureResult rfl (aluMaxu_eq ..),
    completes_of_pureResult rfl (aluMul_eq ..),
    completes_of_pureResult rfl (aluMulh_eq ..),
    completes_of_pureResult rfl (aluMulhu_eq ..),
    completes_of_pureResult rfl (aluDiv_eq ..),
    completes_of_pureResult rfl (aluDivu_eq ..),
    completes_of_pureResult rfl (aluRem_eq ..),
    completes_of_pureResult rfl (aluRemu_eq ..),
    completes_of_pureResult rfl (aluClmul_eq ..),
    completes_of_pureResult rfl (aluClmulh_eq ..),
    completes_clz s d a,
    completes_ctz s d a,
    completes_of_pureResult rfl (aluPopc_eq ..),
    completes_of_pureResult rfl (aluSext_eq ..),
    completes_of_pureResult rfl rfl⟩

/-- Settles O3: two register writes, and the layouts that the encoder gives. -/
theorem longImmediatesWriteTheirValue : Obligations.LongImmediatesWriteTheirValue := by
  unfold Obligations.LongImmediatesWriteTheirValue
  exact fun s d i m => ⟨completes_of_pureResult rfl rfl, completes_of_pureResult rfl rfl, rfl, rfl⟩

end Sys2Proof.Machine
end

section
/-! SETEC and SETEC.t (R201): what a write of the counts, a write of a register and a commit leave of the control registers, and the
completion of the two instructions. -/
namespace Sys2Proof.Machine

/-! ### The write of the counts -/

/-- The machine with ECOUNT and TCOUNT set and ESTART cleared: SETEC keeps TCOUNT, and SETEC.t keeps ECOUNT (R201). -/
def State.setCounts (s : State) (ecount tcount : Word) : State :=
  { s with g := { s.g with ecount := ecount, tcount := tcount, estart := 0 } }

section SetCounts
variable (s : State) (e c : Word)

@[simp] theorem State.setCounts_ecount : (s.setCounts e c).g.ecount = e := rfl
@[simp] theorem State.setCounts_tcount : (s.setCounts e c).g.tcount = c := rfl
@[simp] theorem State.setCounts_estart : (s.setCounts e c).g.estart = 0 := rfl
@[simp] theorem State.setCounts_bq : (s.setCounts e c).g.bq = s.g.bq := rfl

/-- Of the control registers only ESTART and a count that gets another value change. -/
theorem State.setCounts_control {n : Nat} (he : n = 0x010 → e = s.g.ecount) (hc : n = 0x014 → c = s.g.tcount) (hstart : n ≠ 0x011) :
    (s.setCounts e c).g.control n = s.g.control n := by
  unfold Gang.control
  split
  case h_9 => exact he rfl
  case h_10 => exact absurd rfl hstart
  case h_13 => exact hc rfl
  all_goals rfl

end SetCounts

/-! ### Control registers across a register write and a commit -/

/-- No control register shows a general register. -/
@[simp] theorem Gang.control_setReg (g : Gang) (d : Reg) (v : Word) (n : Nat) : (g.setReg d v).control n = g.control n := by
  unfold Gang.setReg
  split <;> rfl

/-- Of the control registers a commit changes RETIRED alone (R198). -/
theorem Gang.control_commit (g : Gang) (pc : Word) {n : Nat} (h : n ≠ 0x041) : (g.commit pc).control n = g.control n := by
  unfold Gang.control
  split
  case h_25 => exact absurd rfl h
  all_goals rfl

/-! ### Completion -/

/-- An instruction that is one `userOp` completes in its own effect. -/
theorem completes_of_userOp {i : Instr} {s : State} {k : State → State} {P : State → Prop} (h : exec i s = userOp i s k) (hP : P (k s)) :
    completes i s P := fun hi => ⟨k s, h.trans (userOp_of_issues hi k), hP⟩

/-- `writesReg_commitAt` at the next 32-bit instruction. -/
theorem writesReg_commit4 (s : State) (d : Reg) (v : Word) : writesReg d v (s.g.pc + 4) s (s.setReg d v).commit4 := by
  simpa [State.commit4, State.commitAt] using writesReg_commitAt s d v (s.g.pc + 4)

/-- What both instructions do: the counts are set, s[d] is written, and the instruction commits. -/
def State.writeCounts (s : State) (d : Reg) (v ecount tcount : Word) : State := ((s.setCounts ecount tcount).setReg d v).commit4

theorem exec_setec (d a : Reg) (s : State) : exec (.setec d a) s = userOp (.setec d a) s fun s =>
    let v := w64 (min (2 ^ 34) (s.reg a).toNat)
    s.writeCounts d v v s.g.tcount := rfl

theorem exec_setecT (d a : Reg) (s : State) : exec (.setecT d a) s = userOp (.setecT d a) s fun s =>
    let v := w64 (min 131072 (s.reg a).toNat)
    s.writeCounts d v s.g.ecount v := rfl

section WriteCounts
variable (s : State) (d : Reg) (v e c : Word)

/-- The register, the commit and the bytes are those of the register write: the write of the counts touches none of them. -/
theorem State.writeCounts_effect :
    let t := s.writeCounts d v e c
    t.g.reg d = (if d = 0 then 0 else v) ∧ sameRegsBut [d] s t ∧ committed (s.g.pc + 4) s t ∧ sameBytes s t := by
  obtain ⟨hreg, hregs, hcommit, hbytes, -⟩ := writesReg_commit4 (s.setCounts e c) d v
  exact ⟨hreg, hregs, hcommit, hbytes⟩

@[simp] theorem State.writeCounts_ecount : (s.writeCounts d v e c).g.ecount = e := by simp [State.writeCounts]
@[simp] theorem State.writeCounts_tcount : (s.writeCounts d v e c).g.tcount = c := by simp [State.writeCounts]
@[simp] theorem State.writeCounts_estart : (s.writeCounts d v e c).g.estart = 0 := by simp [State.writeCounts]
@[simp] theorem State.writeCounts_bq : (s.writeCounts d v e c).g.bq = s.g.bq := by simp [State.writeCounts]

theorem State.writeCounts_control {n : Nat} (he : n = 0x010 → e = s.g.ecount) (hc : n = 0x014 → c = s.g.tcount) (hstart : n ≠ 0x011)
    (hretired : n ≠ 0x041) : (s.writeCounts d v e c).g.control n = s.g.control n := by
  rw [State.writeCounts, State.commit4_g, Gang.control_commit _ _ hretired, State.setReg_g, Gang.control_setReg,
    State.setCounts_control s e c he hc hstart]

end WriteCounts

/-! ### The obligation -/

/-- Settles O14: both instructions are a write of the counts; SETEC puts back the TCOUNT it finds, and SETEC.t the ECOUNT. -/
theorem setCountWritesTheCount : Obligations.SetCountWritesTheCount := by
  unfold Obligations.SetCountWritesTheCount
  intro s d a
  constructor
  · intro v
    obtain ⟨hreg, hregs, hcommit, hbytes⟩ := s.writeCounts_effect d v v s.g.tcount
    refine completes_of_userOp (exec_setec d a s) ⟨hreg, hregs, hcommit, hbytes, ?_, ?_, ?_, fun n hcount hstart hretired => ?_⟩
    · exact s.writeCounts_ecount ..
    · exact s.writeCounts_estart ..
    · exact s.writeCounts_bq ..
    · exact s.writeCounts_control _ _ _ _ (absurd · hcount) (fun _ => rfl) hstart hretired
  · intro v
    obtain ⟨hreg, hregs, hcommit, hbytes⟩ := s.writeCounts_effect d v s.g.ecount v
    refine completes_of_userOp (exec_setecT d a s) ⟨hreg, hregs, hcommit, hbytes, ?_, ?_, ?_, fun n hcount hstart hretired => ?_⟩
    · exact s.writeCounts_tcount ..
    · exact s.writeCounts_estart ..
    · exact s.writeCounts_bq ..
    · exact s.writeCounts_control _ _ _ _ (fun _ => rfl) (absurd · hcount) hstart hretired

end Sys2Proof.Machine
end

section
/-! The encoder and the decoder undo each other (R139, R142 to R160). -/
namespace Sys2Proof.Laws.RoundTrip

/-- The round trip of every instruction, from the lemma of its constructor. -/
theorem statement (i : Instr) : Statement i :=
  Instr.casesOn i
    add sub and or xor andn sll srl sra rol ror slt sltu min max minu maxu mul mulh mulhu div divu rem remu clmul clmulh clz ctz popc
    sext zext addi andi ori xori slli srli srai slti sltiu lih lim lb lbu lh lhu lw lwu ld sb sh sw sd ldg stg amo beq bne blt bge bltu
    bgeu jal jalr crd cwr cset cclr registerWrite chstatCancel chstatErrorClear convresWrite setec setecT setspan fwset fwget owner rqpop
    rqstat eqpush eqpushLast eqpop eqstat fence fenceb barrierArrival waitb barcfg bqwait sigwait sigpost awset trap eret eretSkip
    eretDrop brk wfe yield halt qsave qload vadd vsub vmul vfma vfms vfnma vdiv vsqrt vmin vmax vabs vneg vcpys vfun vmulh vavg vclass
    vand vor vxor vsll vsrl vsra vclmul vclmulh vpopc vclz vcmp vselm vcvtn vcvtw vcvti vcvtf4 vmov viota vrev vreshape vcompress vexpand
    vredsum vredmax vredmin vredbit vscan vfirst vcount vscatadd vscatmax vscatmin vconfl vspadd vspmul vrunb bload tmma tew tact trowr
    tsoft ttrn tcvt tcpy tfill ttagr ttagw mtload mtinv mtquery copy copynd gather scatter drain bankBegin pullArrival pullServe
    pullResponse stagedWritePhase loadResponse stgNak trapEntry pageReply preemptionHalt fieldEviction clusterOffline copyStart
    copyElementLand copyFaultStop gatherPiece parityHomeAccess stackLost contractionStart contractionStripeMove rowRemapUpdate
    allocationTableUpdate powerDownEntry selfRefreshEntry reductionCommand reductionComplete mergeCountPass mergeWritePass mergeComplete
    allGather reduceScatter collectiveWaitComplete peerInboundAccess peerWindowRemap shootDown shootDownComplete walkPrefetch
    pageMigration pasidTeardown hostRmaWrite queueTailWrite queueErrorClear queueWatchFire schedulingPass gangStart reservationTimeout
    eventPost heartbeatTimeout commandCoreRelease directLaunch portDown connectionSetup powerOnReset startTimeout recoveryImagePush
    firmwareHandover attestationRequest powerLimitThrottle clockRaise writeAcknowledgement powerInputRemoved portUp svkAttach svkContinue

end Sys2Proof.Laws.RoundTrip
end

section
namespace Sys2Proof

theorem length_leBytes (k n : Nat) : (leBytes k n).length = k := by
  induction k generalizing n with
  | zero => rfl
  | succ k ih => simp [leBytes, ih]

theorem leNat_leBytes (k n : Nat) (h : n < 2 ^ (8 * k)) : leNat (leBytes k n) = n := by
  induction k generalizing n with
  | zero => simp at h; simp [leBytes, leNat, h]
  | succ k ih =>
    have hq : n / 256 < 2 ^ (8 * k) := by rw [Nat.mul_succ, Nat.pow_add] at h; omega
    rw [leBytes, leNat, ih _ hq, BitVec.toNat_ofNat]
    omega

end Sys2Proof
end

section
/-! Bytes that decode are the encoding of what they decode to (R139, R142 to R160). -/
namespace Sys2Proof

/-- The instruction is encoded in `k` bytes, by the word `n`. -/
def Encodes (k n : Nat) (i : Instr) : Prop := i.isEvent = false ∧ i.bytes = k ∧ encodeWord i = n

theorem encodes_decodeInteger {n : Nat} {i : Instr} (hn : n < 2 ^ 32) (hmaj : bitsOf n 0 7 = 0) (h : decodeInteger n = .ok i) : Encodes 4 n i := by
  unfold decodeInteger at h
  split at h
  all_goals try split at h
  all_goals cases h
  all_goals
    refine ⟨rfl, rfl, ?_⟩
    simp only [encodeWord, saWord, sa2Word, fld, bitsOf, BitVec.toNat_ofNat] at *
    omega

theorem encodes_decodeSys {n : Nat} {i : Instr} (hn : n < 2 ^ 32) (hmaj : bitsOf n 0 7 = 2) (h : decodeSys n = .ok i) : Encodes 4 n i := by
  unfold decodeSys at h
  split at h
  all_goals repeat' split at h
  all_goals cases h
  all_goals
    refine ⟨rfl, rfl, ?_⟩
    simp only [encodeWord, saWord, sa2Word, abWord, dbWord, d1Word, a1Word, fld, bitsOf, BitVec.toNat_ofNat] at *
    omega

theorem encodes_decodeCrx {n : Nat} {i : Instr} (hn : n < 2 ^ 32) (hmaj : bitsOf n 0 7 = 6) (h : decodeCrx n = .ok i) : Encodes 4 n i := by
  unfold decodeCrx at h
  split at h
  all_goals try split at h
  all_goals cases h
  all_goals
    refine ⟨rfl, rfl, ?_⟩
    simp only [encodeWord, cr2Word, cr3Word, fld, bitsOf, BitVec.toNat_ofNat] at *
    omega

theorem encodes_decode32 {n : Nat} {i : Instr} (hn : n < 2 ^ 32) (h : decode32 n = .ok i) : Encodes 4 n i := by
  unfold decode32 at h
  split at h
  case h_1 hmaj => exact encodes_decodeInteger hn hmaj h
  case h_2 hmaj => exact encodes_decodeSys hn hmaj h
  case h_3 hmaj => exact encodes_decodeCrx hn hmaj h
  all_goals try split at h
  all_goals cases h
  all_goals
    refine ⟨rfl, rfl, ?_⟩
    simp only [encodeWord, siWord, suWord, sbWord, ldgWord, stgWord, amoWord, fld, bitsOf, BitVec.toNat_ofNat] at *
    omega

/-! The fields of the three long formats, put back in their places, are the word they were read from. -/

theorem bxWord_bxOf {n : Nat} (hn : n < 2 ^ 64) (hclass : bitsOf n 0 4 = 3) : bxWord (bitsOf n 4 8) (bxOf n) = n := by
  simp only [bxWord, bxOf, fld, bitsOf, BitVec.toNat_ofNat] at *
  omega

theorem txWord_txOf {n : Nat} (hn : n < 2 ^ 48) (hclass : bitsOf n 0 4 = 7) : txWord (bitsOf n 4 8) (txOf n) = n := by
  simp only [txWord, txOf, fld, bitsOf, BitVec.toNat_ofNat] at *
  omega

theorem cxWord_cxOf {n : Nat} (hn : n < 2 ^ 64) (hclass : bitsOf n 0 4 = 11) (h31 : bitsOf n 31 1 = 0) : cxWord (bitsOf n 4 8) (cxOf n) = n := by
  simp only [cxWord, cxOf, fld, bitsOf, BitVec.toNat_ofNat] at *
  omega

theorem encodes_decodeBx {n : Nat} {i : Instr} (hn : n < 2 ^ 64) (hclass : bitsOf n 0 4 = 3) (h : decodeBx n = .ok i) : Encodes 8 n i := by
  have hw := bxWord_bxOf hn hclass
  unfold decodeBx at h
  split at h
  all_goals cases h
  all_goals
    next hop => exact ⟨rfl, rfl, (hop ▸ hw :)⟩

theorem encodes_decodeTx {n : Nat} {i : Instr} (hn : n < 2 ^ 64) (hclass : bitsOf n 0 4 = 7) (h : decodeTx n = .ok i) : Encodes 8 n i := by
  unfold decodeTx at h
  split at h
  next => cases h
  next htop =>
    have hw := txWord_txOf (n := n) (by simp only [bitsOf] at htop; omega) hclass
    split at h
    all_goals cases h
    all_goals
      next hop => exact ⟨rfl, rfl, (hop ▸ hw :)⟩

theorem encodes_decodeCx {n : Nat} {i : Instr} (hn : n < 2 ^ 64) (hclass : bitsOf n 0 4 = 11) (h : decodeCx n = .ok i) : Encodes 8 n i := by
  unfold decodeCx at h
  split at h
  next => cases h
  next h31 =>
    have hw := cxWord_cxOf hn hclass (Classical.not_not.mp h31)
    split at h
    all_goals cases h
    all_goals
      next hop => exact ⟨rfl, rfl, (hop ▸ hw :)⟩

theorem encodes_decode64 {n : Nat} {i : Instr} (hn : n < 2 ^ 64) (hlong : n % 4 = 3) (h : decode64 n = .ok i) : Encodes 8 n i := by
  have hlow : bitsOf n 0 4 = 3 + 4 * bitsOf n 2 2 := by simp only [bitsOf]; omega
  unfold decode64 at h
  split at h
  next hc => exact encodes_decodeBx hn (by rw [hlow, hc]) h
  next hc => exact encodes_decodeTx hn (by rw [hlow, hc]) h
  next hc => exact encodes_decodeCx hn (by rw [hlow, hc]) h
  next h0 h1 h2 =>
    have hclass : bitsOf n 2 2 = 3 := by
      have h0 : ¬ bitsOf n 2 2 = 0 := h0
      have h1 : ¬ bitsOf n 2 2 = 1 := h1
      have h2 : ¬ bitsOf n 2 2 = 2 := h2
      have hlt : bitsOf n 2 2 < 2 ^ 2 := Nat.mod_lt _ (by decide)
      omega
    split at h <;> cases h
    refine ⟨rfl, rfl, ?_⟩
    simp only [encodeWord, fld, bitsOf, BitVec.toNat_ofNat] at *
    omega

theorem leNat_lt (bs : List Byte) : leNat bs < 2 ^ (8 * bs.length) := by
  induction bs with
  | nil => exact Nat.one_pos
  | cons b bs ih =>
    have := b.isLt
    rw [leNat, List.length_cons, Nat.mul_succ, Nat.pow_add]
    omega

theorem leBytes_leNat (bs : List Byte) : leBytes bs.length (leNat bs) = bs := by
  induction bs with
  | nil => rfl
  | cons b bs ih =>
    have := b.isLt
    rw [List.length_cons, leBytes, leNat, show (b.toNat + 256 * leNat bs) / 256 = leNat bs by omega, ih]
    congr 1
    apply BitVec.eq_of_toNat_eq
    rw [BitVec.toNat_ofNat]
    omega

/-- What decodes to an instruction encoded by the first `k` bytes' value has these bytes for its encoding. -/
theorem Encodes.encode_eq_take {k : Nat} {bs : List Byte} {i : Instr} (h : Encodes k (leNat (bs.take k)) i) (hk : k ≤ bs.length) :
    encode i = bs.take k := by
  obtain ⟨-, hbytes, hword⟩ := h
  have hlen : (bs.take k).length = k := List.length_take_of_le hk
  rw [encode, hbytes, hword]
  exact (congrArg (leBytes · _) hlen.symm).trans (leBytes_leNat _)

theorem leNat_take_lt (bs : List Byte) (k : Nat) : leNat (bs.take k) < 2 ^ (8 * k) :=
  Nat.lt_of_lt_of_le (leNat_lt _) (Nat.pow_le_pow_right (by decide) (Nat.mul_le_mul_left 8 (List.length_take_le k bs)))

theorem leNat_take_mod (bs : List Byte) {j k : Nat} (h : j ≤ k) : leNat (bs.take k) % 2 ^ (8 * j) = leNat (bs.take j) := by
  induction bs generalizing j k with
  | nil => simp [leNat]
  | cons b bs ih =>
    cases j with
    | zero => simp [leNat, Nat.mod_one]
    | succ j =>
      obtain ⟨k, rfl⟩ : ∃ k', k = k' + 1 := ⟨k - 1, by omega⟩
      have hb := b.isLt
      have hlow := ih (Nat.le_of_succ_le_succ h)
      have hpos := Nat.two_pow_pos (8 * j)
      rw [List.take_succ_cons, List.take_succ_cons, leNat, leNat, Nat.mul_succ, Nat.pow_add, ← hlow,
        show (2 ^ (8 * j) * 2 ^ 8 : Nat) = 256 * 2 ^ (8 * j) by omega, Nat.mod_mul,
        show (b.toNat + 256 * leNat (bs.take k)) / 256 = leNat (bs.take k) by omega]
      omega

/-- What decodes is encoded by the bytes of its length. -/
theorem encodes_of_decode {bs : List Byte} {i : Instr} {n : Nat} (h : decode bs = .ok (i, n)) : n ≤ bs.length ∧ Encodes n (leNat (bs.take n)) i := by
  unfold decode at h
  split at h
  next => cases h
  next h4 =>
    dsimp only at h
    split at h
    next hlong =>
      split at h
      next => cases h
      next h8 =>
        cases hd : decode64 (leNat (bs.take 8)) with
        | error r => rw [hd] at h; cases h
        | ok j =>
          rw [hd] at h
          cases h
          have hlow := leNat_take_mod bs (show 4 ≤ 8 by decide)
          simp only [isLong, beq_iff_eq] at hlong
          exact ⟨Nat.not_lt.mp h8, encodes_decode64 (leNat_take_lt bs 8) (by omega) hd⟩
    next =>
      cases hd : decode32 (leNat (bs.take 4)) with
      | error r => rw [hd] at h; cases h
      | ok j =>
        rw [hd] at h
        cases h
        exact ⟨Nat.not_lt.mp h4, encodes_decode32 (leNat_take_lt bs 4) hd⟩

/-- The bytes of an instruction's encoding, whatever follows them. -/
theorem take_encode_append {i : Instr} {k : Nat} (hk : i.bytes = k) (rest : List Byte) : (encode i ++ rest).take k = leBytes k (encodeWord i) := by
  rw [encode, hk]
  exact List.take_left' (length_leBytes ..)

theorem decode_encode_append {i : Instr} (h : i.isEvent = false) (rest : List Byte) : decode (encode i ++ rest) = .ok (i, i.bytes) := by
  obtain ⟨hlt, hcase⟩ := Laws.RoundTrip.statement i h
  have hlen : (encode i ++ rest).length = i.bytes + rest.length := by rw [List.length_append, encode, length_leBytes]
  rcases hcase with ⟨hb, hmod, hd⟩ | ⟨hb, hmod, hd⟩
  · have h8 : leNat ((encode i ++ rest).take 8) = encodeWord i := by
      rw [take_encode_append hb, leNat_leBytes 8 _ (hb ▸ hlt)]
    have h4 := leNat_take_mod (encode i ++ rest) (show 4 ≤ 8 by decide)
    rw [h8] at h4
    have hlong : isLong (leNat ((encode i ++ rest).take 4)) = true := by simp only [isLong, beq_iff_eq]; omega
    rw [hb] at hlen ⊢
    simp only [decode, if_neg (show ¬ (encode i ++ rest).length < 4 by omega), if_neg (show ¬ (encode i ++ rest).length < 8 by omega), hlong, h8, hd]
    rfl
  · have h4 : leNat ((encode i ++ rest).take 4) = encodeWord i := by
      rw [take_encode_append hb, leNat_leBytes 4 _ (hb ▸ hlt)]
    have hshort : isLong (encodeWord i) = false := by simpa only [isLong, beq_eq_false_iff_ne] using hmod
    rw [hb] at hlen ⊢
    simp only [decode, if_neg (show ¬ (encode i ++ rest).length < 4 by omega), h4, hshort, hd]
    rfl

end Sys2Proof

namespace Sys2Proof.Machine

/-- Settles O54: the decoder reads the value of the bytes that the encoder wrote, and each constructor's word decodes to it. -/
theorem decodeReadsEveryEncoding : Obligations.DecodeReadsEveryEncoding := by
  unfold Obligations.DecodeReadsEveryEncoding
  exact fun _ rest h => decode_encode_append h rest

/-- Settles O55: each arm of the decoder reads every bit of the word, so its fields, put back, are that word. -/
theorem decodedBytesAreTheEncoding : Obligations.DecodedBytesAreTheEncoding := by
  unfold Obligations.DecodedBytesAreTheEncoding
  intro bs i n h
  obtain ⟨hn, henc⟩ := encodes_of_decode h
  obtain ⟨hevent, hbytes, -⟩ := id henc
  exact ⟨hevent, hbytes.symm, hn, henc.encode_eq_take hn⟩

end Sys2Proof.Machine
end

section
/-! What a step runs, and where the machine stops (R48, R139 to R141, R221, R437, R447). -/
namespace Sys2Proof.Machine

/-- No instruction and no event is refused: each one's meaning is a next state. -/
theorem exec_next (i : Instr) (s : State) : ∃ t, exec i s = .next t := by
  cases i <;> exact ⟨_, rfl⟩

/-- Only a package without power and without an input has no turn. -/
theorem turn_off_iff (s : State) : turn exec s = .off ↔ s.power = .off ∧ s.agenda = [] := by
  unfold turn
  split
  next i r h => simp only [h]; split <;> simp
  next h =>
    simp only [h, and_true]
    split
    next hoff => simp [hoff]
    next hoff =>
      simp only [hoff, iff_false]
      split
      · exact nofun
      · unfold gangTurn causeTurn fetchTurn
        repeat' split
        all_goals exact nofun

theorem step_fault_iff (s : State) : step s = .fault .poweredOff ↔ turn exec s = .off := by
  unfold step
  split
  next i t h =>
    obtain ⟨u, hu⟩ := exec_next i t
    simp [h, hu]
  next t h => simp [h]
  next h => simp [h]

theorem step_ne_refused (s : State) (r : Refusal) : step s ≠ .refused r := by
  unfold step
  split
  next i t _ =>
    obtain ⟨u, hu⟩ := exec_next i t
    simp [hu]
  next => exact nofun
  next => exact nofun

/-- Settles O60: every meaning is a next state, and a turn is refused to a package without power and input alone. -/
theorem onlyAPackageWithoutPowerStops : Obligations.OnlyAPackageWithoutPowerStops := by
  unfold Obligations.OnlyAPackageWithoutPowerStops
  exact ⟨fun s => (step_fault_iff s).trans (turn_off_iff s), step_ne_refused, exec_next⟩

/-- Settles O56: the decoder is evaluated on each word. -/
theorem wordsOfTheSpecDecode : Obligations.WordsOfTheSpecDecode := by
  unfold Obligations.WordsOfTheSpecDecode
  decide

/-- Settles O58: the reset state lists no byte and no tag, and its agenda holds the start sequence alone. -/
theorem resetAwaitsTheStartSequence : Obligations.ResetAwaitsTheStartSequence := by
  unfold Obligations.ResetAwaitsTheStartSequence
  refine ⟨⟨rfl, rfl, rfl⟩, rfl, rfl, rfl, rfl, rfl, rfl, fun _ => ⟨rfl, rfl, rfl⟩, fun r => ?_⟩
  by_cases hr : r = 0 <;> simp [State.reg, Gang.reg, State.reset, mget, hr]

end Sys2Proof.Machine
end

section
/-! The immediate group, the branches and the jumps (R173, R189 to R191). -/
namespace Sys2Proof.Machine

/-! ### Traps at the instruction boundary -/

/-- Every encoded instruction is an effect of its own behind what R141 asks of it. -/
theorem exec_eq_userOp (i : Instr) (s : State) (h : i.isEvent = false) : ∃ k, exec i s = userOp i s k := by
  cases i
  all_goals cases h
  all_goals exact ⟨_, by delta exec; rfl⟩

/-- An instruction whose encoding is not legal traps before its own effect (R141). -/
theorem exec_illegal {i : Instr} {s : State} (hi : i.isEvent = false) (hwf : i.wf = false) (ht : trapsNow s) :
    exec i s = .next (afterTrap 1 (w64 (encodeWord i)) 0 s.g.pc s) := by
  obtain ⟨k, hk⟩ := exec_eq_userOp i s hi
  simp [hk, userOp, hwf, trapIllegal, trapS_now s 1 _ _ ht rfl]

/-- An instruction whose own effect is a precise trap takes it. -/
theorem trapsWith_of_userOp {i : Instr} {s : State} {k : State → State} {code : Nat} {val val2 : Word} (h : exec i s = userOp i s k)
    (hk : k s = trapS s code val val2) (hc : coreFirst ⟨code, val, val2, 0, 0, 0⟩ = false) : trapsWith i code val val2 s := fun hi ht => by
  rw [h, userOp_of_issues hi, hk, trapS_now s code val val2 ht hc]

/-! ### Sign-extended immediates -/

theorem toInt_imm15 (i : BitVec 15) : (imm15 i).toInt = i.toInt := BitVec.toInt_signExtend_of_le (by decide)

theorem imm15_eq (i : BitVec 15) : imm15 i = BitVec.ofInt 64 i.toInt := rfl

theorem aluAdd_imm15 (x : Word) (i : BitVec 15) : aluAdd x (imm15 i) = BitVec.ofInt 64 (x.toInt + i.toInt) := by
  rw [aluAdd, imm15_eq, BitVec.ofInt_add, BitVec.ofInt_toInt]

theorem aluSlt_imm15 (x : Word) (i : BitVec 15) : aluSlt x (imm15 i) = if x.toInt < i.toInt then 1 else 0 := by
  rw [aluSlt_eq, toInt_imm15]

theorem shiftAmount_eq {i : BitVec 15} (h : i.toNat ≤ 63) : (i.zeroExtend 64).toNat % 64 = i.toNat := by
  rw [BitVec.toNat_setWidth]
  omega

/-! ### Completion -/

/-- A shift by an immediate completes only where its encoding is legal, by at most 63 (R173). -/
theorem completes_of_wf {i : Instr} {s : State} {P : State → Prop} (h : i.wf = true → completes i s P) : completes i s P :=
  fun hi => h hi.1 hi

/-- Settles O2: one register write each; the encoding of a shift by more than 63 is not legal, and it traps. -/
theorem immediateGroupWritesItsResult : Obligations.ImmediateGroupWritesItsResult := by
  unfold Obligations.ImmediateGroupWritesItsResult
  rintro s d a i _ rfl
  refine ⟨
    completes_of_pureResult rfl (aluAdd_imm15 ..),
    completes_of_pureResult rfl rfl,
    completes_of_pureResult rfl rfl,
    completes_of_pureResult rfl rfl,
    completes_of_wf fun hwf => completes_of_pureResult rfl ((aluSll_eq ..).trans ?_),
    completes_of_wf fun hwf => completes_of_pureResult rfl ((aluSrl_eq ..).trans ?_),
    completes_of_wf fun hwf => completes_of_pureResult rfl ((aluSra_eq ..).trans ?_),
    completes_of_pureResult rfl (aluSlt_imm15 ..),
    completes_of_pureResult rfl (aluSltu_eq ..), fun hi ht j hj => ?_⟩
  · rw [shiftAmount_eq (of_decide_eq_true hwf)]
  · rw [shiftAmount_eq (of_decide_eq_true hwf)]
  · rw [shiftAmount_eq (of_decide_eq_true hwf)]
  · have hwf : decide (i.toNat ≤ 63) = false := decide_eq_false (Nat.not_le.mpr hi)
    simp only [List.mem_cons, List.not_mem_nil, or_false] at hj
    rcases hj with rfl | rfl | rfl <;> exact exec_illegal rfl hwf ht

/-! ### Branches and jumps -/

/-- Four times a sign-extended offset is four times its value. -/
theorem four_mul_signExtend {w : Nat} (o : BitVec w) : 4 * o.signExtend 64 = BitVec.ofInt 64 (4 * o.toInt) := by
  rw [BitVec.ofInt_mul]
  rfl

/-- A conditional branch moves the PC alone, by its condition. -/
theorem completes_branch {i : Instr} {s : State} {a b : Reg} {l : BitVec 5} {h : BitVec 10} {taken : Word → Word → Bool} {p : Prop} [Decidable p]
    (hexec : exec i s = branch i a b l h taken s) (hp : taken (s.reg a) (s.reg b) = true ↔ p) :
    completes i s (onlyCommits (if p then s.g.pc + BitVec.ofInt 64 (4 * (h ++ l).toInt) else s.g.pc + 4) s) := by
  refine completes_of_userOp hexec ?_
  by_cases hc : p
  · rw [if_pos (hp.mpr hc), if_pos hc, branchOffset, four_mul_signExtend]
    exact onlyCommits_commitAt ..
  · rw [if_neg (mt hp.mp hc), if_neg hc]
    exact onlyCommits_commitAt s (s.g.pc + 4)

/-- Settles O4: the six branches differ in their condition alone. -/
theorem conditionalBranchesMoveThePc : Obligations.ConditionalBranchesMoveThePc := by
  unfold Obligations.ConditionalBranchesMoveThePc
  rintro s l a b h _ _ rfl rfl
  exact ⟨
    completes_branch rfl beq_iff_eq,
    completes_branch rfl bne_iff_ne,
    completes_branch rfl BitVec.slt_iff_toInt_lt,
    completes_branch (taken := fun x y => !x.slt y) rfl (by rw [Bool.not_eq_true', ← Bool.not_eq_true, BitVec.slt_iff_toInt_lt, Int.not_lt]),
    completes_branch rfl BitVec.ult_iff_toNat_lt,
    completes_branch (taken := fun x y => !x.ult y) rfl (by rw [Bool.not_eq_true', ← Bool.not_eq_true, BitVec.ult_iff_toNat_lt, Nat.not_lt])⟩

theorem exec_jal (d : Reg) (o : BitVec 20) (s : State) :
    exec (.jal d o) s = userOp (.jal d o) s fun s => (s.setReg d (s.g.pc + 4)).commitAt (s.g.pc + jumpOffset o) := rfl

/-- JALR as the sequencer performs it: a misaligned target traps in place of the link and the jump (R140, R191). -/
theorem exec_jalr (d a : Reg) (i : BitVec 15) (s : State) : exec (.jalr d a i) s = userOp (.jalr d a i) s fun s =>
    let t := s.reg a + imm15 i
    if t.toNat % 4 ≠ 0 then trapS s 3 t 3 else (s.setReg d (s.g.pc + 4)).commitAt t := rfl

/-- Settles O5: the link is a register write, and JALR's target is formed before it. -/
theorem jumpsLinkAndMoveThePc : Obligations.JumpsLinkAndMoveThePc := by
  unfold Obligations.JumpsLinkAndMoveThePc
  rintro s d a o i _ rfl
  refine ⟨completes_of_userOp (exec_jal d o s) ?_, fun hal => completes_of_userOp (exec_jalr d a i s) ?_, fun hal => ?_⟩
  · rw [← four_mul_signExtend]
    exact writesReg_commitAt ..
  · dsimp only
    rw [imm15_eq, if_neg (Classical.not_not.mpr hal)]
    exact writesReg_commitAt ..
  · refine trapsWith_of_userOp (exec_jalr d a i s) ?_ rfl
    dsimp only
    rw [imm15_eq, if_pos hal]

end Sys2Proof.Machine
end

section
/-! The scalar loads of sequencer-local memory and of F-space (R176, R177, R179). -/
namespace Sys2Proof.Machine

/-! ### Where a scalar access goes (R65) -/

theorem selectTarget_local {ea : Word} (h : 2 ^ 63 ≤ ea.toNat) (hoff : ea.toNat - 2 ^ 63 < 2 ^ 16) :
    selectTarget ea = .seqLocal (ea.toNat - 2 ^ 63) := by
  have hmid : bitsOf ea.toNat 16 47 = 0 := by simp only [bitsOf]; omega
  have hlow : ea.toNat % 65536 = ea.toNat - 2 ^ 63 := by omega
  simp only [selectTarget, ge_iff_le, if_pos h, if_pos hmid, hlow]

theorem selectTarget_field {ea : Word} (h : ea.toNat < 2 ^ 32) : selectTarget ea = .field ea.toNat := by
  simp only [selectTarget, ge_iff_le, if_neg (show ¬ 2 ^ 63 ≤ ea.toNat by omega), if_pos h]

theorem selectTarget_refused {ea : Word} (h : 2 ^ 32 ≤ ea.toNat) (h' : ea.toNat < 2 ^ 63 ∨ 2 ^ 63 + 2 ^ 16 ≤ ea.toNat) :
    selectTarget ea = .refused := by
  have hlt := ea.isLt
  by_cases hbig : 2 ^ 63 ≤ ea.toNat
  · have hmid : bitsOf ea.toNat 16 47 ≠ 0 := by simp only [bitsOf]; omega
    simp only [selectTarget, ge_iff_le, if_pos hbig, if_neg hmid]
  · simp only [selectTarget, ge_iff_le, if_neg hbig, if_neg (show ¬ ea.toNat < 2 ^ 32 by omega)]

/-! ### Words in error -/

theorem localBad_read (s : State) (off n : Nat) : localBad s off n false = decide (off / 8 ∈ s.g.lmemBad) := by
  simp [localBad]

theorem keysBad_eq_false {s : State} {ks : List Nat} : keysBad s ks = false ↔ ∀ k ∈ ks, k / 8 ∉ s.fieldBad := by
  simp [keysBad]

theorem keysBad_eq_true {s : State} {ks : List Nat} : keysBad s ks = true ↔ ∃ k ∈ ks, k / 8 ∈ s.fieldBad := by
  simp [keysBad]

/-! ### The value of a load -/

theorem length_rdBytes (m : List Host.Cell) (a n : Nat) : (rdBytes m a n).length = n := by
  induction n generalizing a with
  | zero => rfl
  | succ n ih => rw [rdBytes, List.length_cons, ih]

theorem length_of_fieldKeys {s : State} {w : Bool} {a n : Nat} {ks : List Nat} (h : fieldKeys s w a n = some ks) : ks.length = n := by
  induction n generalizing a ks with
  | zero => cases h; rfl
  | succ n ih =>
    rw [fieldKeys] at h
    split at h
    next k _ =>
      obtain ⟨ks', hks, rfl⟩ := Option.map_eq_some_iff.mp h
      rw [List.length_cons, ih hks]
    next => cases h

/-- A signed value of n whole bytes is their sign extension, an unsigned one their number (R176). -/
theorem extendLoad_eq_loaded {signed : Bool} {n : Nat} {bs : List Byte} (hn : bs.length = n) (h0 : 0 < n) (h8 : n ≤ 8) :
    extendLoad signed bs = loaded signed n bs := by
  cases signed with
  | false => rfl
  | true =>
    rw [extendLoad, if_pos rfl, hn, sextNat_eq_signExtend (n := 8 * n) (by omega) (by omega)]
    rfl

/-! ### Completion -/

/-- What a scalar load does once it goes on to its own effect (R176, R177, R179). -/
def State.loadScalar (s : State) (d : Reg) (ea : Word) (n : Nat) (signed : Bool) : State :=
  if ea.toNat % n ≠ 0 then trapS s 3 ea 0
  else match selectTarget ea with
    | .refused => trapS s 4 ea 0
    | .seqLocal off => if localBad s off n false then trapS s 7 ea 0 else (s.setReg d (extendLoad signed (rdBytes s.g.lmem off n))).commit4
    | .field x =>
      if fieldHeld s x n then stall s
      else match fieldKeys s false x n with
        | none => trapS s 4 ea 0
        | some ks => if keysBad s ks then trapS s 7 ea 0 else (s.setReg d (extendLoad signed (readKeys s ks))).commit4

section LoadScalar
variable {s : State} {d : Reg} {ea : Word} {n : Nat} {signed : Bool}

theorem loadScalar_local (hal : ea.toNat % n = 0) (h : 2 ^ 63 ≤ ea.toNat) (hoff : ea.toNat - 2 ^ 63 < 2 ^ 16) :
    s.loadScalar d ea n signed = if (ea.toNat - 2 ^ 63) / 8 ∈ s.g.lmemBad then trapS s 7 ea 0
      else (s.setReg d (extendLoad signed (rdBytes s.g.lmem (ea.toNat - 2 ^ 63) n))).commit4 := by
  simp only [State.loadScalar, if_neg (Classical.not_not.mpr hal), selectTarget_local h hoff, localBad_read, decide_eq_true_eq]

theorem loadScalar_field (hal : ea.toNat % n = 0) (h : ea.toNat < 2 ^ 32) (hheld : fieldHeld s ea.toNat n = false) :
    s.loadScalar d ea n signed = match fieldKeys s false ea.toNat n with
      | none => trapS s 4 ea 0
      | some ks => if keysBad s ks then trapS s 7 ea 0 else (s.setReg d (extendLoad signed (readKeys s ks))).commit4 := by
  simp only [State.loadScalar, if_neg (Classical.not_not.mpr hal), selectTarget_field h, hheld, Bool.false_eq_true, if_false]

end LoadScalar

/-- Everything O6 says of one load, from the load's width and extension. -/
theorem scalarLoad_spec {j : Instr} {s : State} {d : Reg} {ea : Word} {n : Nat} {signed : Bool}
    (hexec : exec j s = userOp j s fun s => s.loadScalar d ea n signed) (h0 : 0 < n) (h8 : n ≤ 8) :
    let off := ea.toNat - 2 ^ 63
    (ea.toNat % n = 0 → 2 ^ 63 ≤ ea.toNat → off < 2 ^ 16 → off / 8 ∉ s.g.lmemBad →
      completes j s (writesReg d (loaded signed n (rdBytes s.g.lmem off n)) (s.g.pc + 4) s))
    ∧ (∀ ks, ea.toNat % n = 0 → ea.toNat < 2 ^ 32 → fieldHeld s ea.toNat n = false → fieldKeys s false ea.toNat n = some ks →
      (∀ k ∈ ks, k / 8 ∉ s.fieldBad) → completes j s (writesReg d (loaded signed n (ks.map (rdByte s.field))) (s.g.pc + 4) s))
    ∧ (ea.toNat % n ≠ 0 → trapsWith j 3 ea 0 s)
    ∧ (ea.toNat % n = 0 → 2 ^ 32 ≤ ea.toNat → ea.toNat < 2 ^ 63 ∨ 2 ^ 63 + 2 ^ 16 ≤ ea.toNat → trapsWith j 4 ea 0 s)
    ∧ (ea.toNat % n = 0 → ea.toNat < 2 ^ 32 → fieldHeld s ea.toNat n = false → fieldKeys s false ea.toNat n = none → trapsWith j 4 ea 0 s)
    ∧ (ea.toNat % n = 0 → 2 ^ 63 ≤ ea.toNat → off < 2 ^ 16 → off / 8 ∈ s.g.lmemBad → trapsWith j 7 ea 0 s)
    ∧ (∀ ks, ea.toNat % n = 0 → ea.toNat < 2 ^ 32 → fieldHeld s ea.toNat n = false → fieldKeys s false ea.toNat n = some ks →
      (∃ k ∈ ks, k / 8 ∈ s.fieldBad) → trapsWith j 7 ea 0 s) := by
  have traps {code : Nat} (hc : coreFirst ⟨code, ea, 0, 0, 0, 0⟩ = false) (h : s.loadScalar d ea n signed = trapS s code ea 0) :
      trapsWith j code ea 0 s := trapsWith_of_userOp hexec h hc
  refine ⟨fun hal hbig hoff hbad => ?_, fun ks hal hlt hheld hks hbad => ?_, fun hal => ?_, fun hal hge hshape => ?_,
    fun hal hlt hheld hks => ?_, fun hal hbig hoff hbad => ?_, fun ks hal hlt hheld hks hbad => ?_⟩
  · refine completes_of_userOp hexec ?_
    rw [loadScalar_local hal hbig hoff, if_neg hbad, extendLoad_eq_loaded (length_rdBytes ..) h0 h8]
    exact writesReg_commit4 ..
  · refine completes_of_userOp hexec ?_
    rw [loadScalar_field hal hlt hheld, hks]
    dsimp only
    rw [if_neg (Bool.eq_false_iff.mp (keysBad_eq_false.mpr hbad)), readKeys,
      extendLoad_eq_loaded (by rw [List.length_map, length_of_fieldKeys hks]) h0 h8]
    exact writesReg_commit4 ..
  · exact traps rfl (if_pos hal)
  · refine traps rfl ?_
    simp only [State.loadScalar, if_neg (Classical.not_not.mpr hal), selectTarget_refused hge hshape]
  · refine traps rfl ?_
    rw [loadScalar_field hal hlt hheld, hks]
  · refine traps rfl ?_
    rw [loadScalar_local hal hbig hoff, if_pos hbad]
  · refine traps rfl ?_
    rw [loadScalar_field hal hlt hheld, hks]
    exact if_pos (keysBad_eq_true.mpr hbad)

/-- Settles O6: the seven loads differ in width and extension alone. -/
theorem scalarLoadsWriteTheExtendedValue : Obligations.ScalarLoadsWriteTheExtendedValue := by
  unfold Obligations.ScalarLoadsWriteTheExtendedValue
  rintro s d a i _ rfl p hp
  simp only [List.mem_cons, List.not_mem_nil, or_false] at hp
  rcases hp with rfl | rfl | rfl | rfl | rfl | rfl | rfl
  all_goals exact scalarLoad_spec rfl (by simp) (by simp)

end Sys2Proof.Machine
end

section
/-! The scalar stores to sequencer-local memory and to F-space (R176 to R179). -/
namespace Sys2Proof.Machine

/-! ### Bytes of a word -/

theorem getElem_leBytes {n v j : Nat} (h : j < (leBytes n v).length) : (leBytes n v)[j] = BitVec.ofNat 8 (v / 2 ^ (8 * j)) := by
  induction n generalizing v j with
  | zero => exact absurd h (Nat.not_lt_zero j)
  | succ n ih =>
    cases j with
    | zero => simp [leBytes]
    | succ j =>
      have h' : j < (leBytes n (v / 256)).length := by simpa [leBytes] using h
      have hpow : (2 : Nat) ^ (8 * (j + 1)) = 256 * 2 ^ (8 * j) := by rw [Nat.mul_succ, Nat.pow_add]; omega
      simp only [leBytes, List.getElem_cons_succ]
      rw [ih h', Nat.div_div_eq_div_mul, hpow]

/-! ### Bytes stored key by key -/

theorem rdByte_foldl_notMem (l : List (Nat × Byte)) (m : List Host.Cell) (k : Nat) (h : k ∉ l.map Prod.fst) :
    rdByte (l.foldl (fun m p => wrByte m p.1 p.2) m) k = rdByte m k := by
  induction l generalizing m with
  | nil => rfl
  | cons p l ih =>
    simp only [List.map_cons, List.mem_cons, not_or] at h
    rw [List.foldl_cons, ih _ h.2, rdByte_wrByte, if_neg h.1]

theorem rdByte_foldl_mem (l : List (Nat × Byte)) (m : List Host.Cell) (hnd : (l.map Prod.fst).Nodup) {p : Nat × Byte} (hp : p ∈ l) :
    rdByte (l.foldl (fun m p => wrByte m p.1 p.2) m) p.1 = p.2 := by
  induction l generalizing m with
  | nil => cases hp
  | cons q l ih =>
    rw [List.map_cons, List.nodup_cons] at hnd
    rw [List.foldl_cons]
    rcases List.mem_cons.mp hp with rfl | hp
    · rw [rdByte_foldl_notMem _ _ _ hnd.1, rdByte_wrByte, if_pos rfl]
    · exact ih _ hnd.2 hp

section WriteKeys
variable (s : State) (ks : List Nat) (bs : List Byte)

theorem writeKeys_g : (writeKeys s ks bs).g = s.g := rfl

theorem rdByte_writeKeys_notMem {k : Nat} (h : k ∉ ks) : rdByte (writeKeys s ks bs).field k = rdByte s.field k := by
  refine rdByte_foldl_notMem _ _ _ fun hk => h ?_
  obtain ⟨p, hp, rfl⟩ := List.mem_map.mp hk
  exact (List.of_mem_zip hp).1

variable {s ks bs}

theorem rdByte_writeKeys_mem (hlen : ks.length = bs.length) (hnd : ks.Nodup) {k j : Nat} (hj : (k, j) ∈ ks.zipIdx) :
    rdByte (writeKeys s ks bs).field k = bs[j]'(hlen ▸ (List.mem_zipIdx' hj).1) := by
  obtain ⟨hlt, hk⟩ := List.mem_zipIdx' hj
  have hfst : (ks.zip bs).map Prod.fst = ks := List.map_fst_zip (Nat.le_of_eq hlen)
  have hmem : (k, bs[j]'(hlen ▸ hlt)) ∈ ks.zip bs := by
    rw [List.mem_iff_getElem]
    refine ⟨j, by rw [List.length_zip]; omega, ?_⟩
    rw [List.getElem_zip, ← hk]
  exact rdByte_foldl_mem _ _ (by rwa [hfst]) hmem

end WriteKeys

/-! ### Completion -/

theorem beq_decide {α : Type} [DecidableEq α] (a b : α) : (a == b) = decide (a = b) := rfl

theorem localBad_write (s : State) (off n : Nat) : localBad s off n true = decide (off / 8 ∈ s.g.lmemBad ∧ n ≠ 8) := by
  simp [localBad, beq_decide]

/-- What a scalar store of value v does once it goes on to its own effect (R177 to R179). -/
def State.storeScalar (s : State) (v : Word) (ea : Word) (n : Nat) : State :=
  if ea.toNat % n ≠ 0 then trapS s 3 ea 1
  else match selectTarget ea with
    | .refused => trapS s 4 ea 1
    | .seqLocal off => if localBad s off n true then trapS s 7 ea 1 else (writeLocal s off (leBytes n v.toNat)).commit4
    | .field x =>
      if storeHeld s x n then stall s
      else match fieldKeys s true x n with
        | none => trapS s 4 ea 1
        | some ks => if keysPart s ks then trapS s 7 ea 1 else (writeKeys s ks (leBytes n v.toNat)).commit4

section StoreScalar
variable {s : State} {v ea : Word} {n : Nat}

theorem storeScalar_local (hal : ea.toNat % n = 0) (h : 2 ^ 63 ≤ ea.toNat) (hoff : ea.toNat - 2 ^ 63 < 2 ^ 16) :
    s.storeScalar v ea n = if (ea.toNat - 2 ^ 63) / 8 ∈ s.g.lmemBad ∧ n ≠ 8 then trapS s 7 ea 1
      else (writeLocal s (ea.toNat - 2 ^ 63) (leBytes n v.toNat)).commit4 := by
  simp only [State.storeScalar, if_neg (Classical.not_not.mpr hal), selectTarget_local h hoff, localBad_write, decide_eq_true_eq]

theorem storeScalar_field (hal : ea.toNat % n = 0) (h : ea.toNat < 2 ^ 32) (hheld : storeHeld s ea.toNat n = false) :
    s.storeScalar v ea n = match fieldKeys s true ea.toNat n with
      | none => trapS s 4 ea 1
      | some ks => if keysPart s ks then trapS s 7 ea 1 else (writeKeys s ks (leBytes n v.toNat)).commit4 := by
  simp only [State.storeScalar, if_neg (Classical.not_not.mpr hal), selectTarget_field h, hheld, Bool.false_eq_true, if_false]

/-- The commit of a store to sequencer-local memory. -/
theorem writeLocal_commit4 (s : State) (off : Nat) (bs : List Byte) :
    let t := (writeLocal s off bs).commit4
    sameRegsBut [] s t ∧ committed (s.g.pc + 4) s t ∧ onlyLocal s t ∧ (∀ j (h : j < bs.length), rdByte t.g.lmem (off + j) = bs[j])
      ∧ ∀ x, x < off ∨ off + bs.length ≤ x → rdByte t.g.lmem x = rdByte s.g.lmem x :=
  ⟨fun _ _ => rfl, ⟨rfl, rfl, s.g.commit_step (s.g.pc + 4)⟩, rfl, fun j h => rdByte_wrBytes_inside bs s.g.lmem off j h,
    fun x h => rdByte_wrBytes_outside bs s.g.lmem off x h⟩

/-- The commit of a store to the field. -/
theorem writeKeys_commit4 (s : State) (ks : List Nat) (bs : List Byte) :
    let t := (writeKeys s ks bs).commit4
    sameRegsBut [] s t ∧ committed (s.g.pc + 4) s t ∧ onlyField s t :=
  ⟨fun _ _ => rfl, ⟨rfl, rfl, s.g.commit_step (s.g.pc + 4)⟩, rfl⟩

end StoreScalar

/-- Everything O7 says of one store, from the store's width. -/
theorem scalarStore_spec {j : Instr} {s : State} {d : Reg} {ea : Word} {n : Nat}
    (hexec : exec j s = userOp j s fun s => s.storeScalar (s.reg d) ea n) :
    let off := ea.toNat - 2 ^ 63
    let byte := byteOf (s.reg d)
    (ea.toNat % n = 0 → 2 ^ 63 ≤ ea.toNat → off < 2 ^ 16 → (off / 8 ∉ s.g.lmemBad ∨ n = 8) →
      completes j s fun t => sameRegsBut [] s t ∧ committed (s.g.pc + 4) s t ∧ onlyLocal s t
        ∧ (∀ j < n, rdByte t.g.lmem (off + j) = byte j)
        ∧ ∀ x, x < off ∨ off + n ≤ x → rdByte t.g.lmem x = rdByte s.g.lmem x)
    ∧ (∀ ks, ea.toNat % n = 0 → ea.toNat < 2 ^ 32 → storeHeld s ea.toNat n = false → fieldKeys s true ea.toNat n = some ks →
      keysPart s ks = false →
      completes j s fun t => sameRegsBut [] s t ∧ committed (s.g.pc + 4) s t ∧ onlyField s t
        ∧ (ks.Nodup → ∀ q ∈ ks.zipIdx, rdByte t.field q.1 = byte q.2)
        ∧ ∀ k, k ∉ ks → rdByte t.field k = rdByte s.field k)
    ∧ (ea.toNat % n ≠ 0 → trapsWith j 3 ea 1 s)
    ∧ (ea.toNat % n = 0 → 2 ^ 32 ≤ ea.toNat → ea.toNat < 2 ^ 63 ∨ 2 ^ 63 + 2 ^ 16 ≤ ea.toNat → trapsWith j 4 ea 1 s)
    ∧ (ea.toNat % n = 0 → ea.toNat < 2 ^ 32 → storeHeld s ea.toNat n = false → fieldKeys s true ea.toNat n = none → trapsWith j 4 ea 1 s)
    ∧ (ea.toNat % n = 0 → 2 ^ 63 ≤ ea.toNat → off < 2 ^ 16 → off / 8 ∈ s.g.lmemBad → n ≠ 8 → trapsWith j 7 ea 1 s)
    ∧ (∀ ks, ea.toNat % n = 0 → ea.toNat < 2 ^ 32 → storeHeld s ea.toNat n = false → fieldKeys s true ea.toNat n = some ks →
      keysPart s ks = true → trapsWith j 7 ea 1 s) := by
  have traps {code : Nat} (hc : coreFirst ⟨code, ea, 1, 0, 0, 0⟩ = false) (h : s.storeScalar (s.reg d) ea n = trapS s code ea 1) :
      trapsWith j code ea 1 s := trapsWith_of_userOp hexec h hc
  have hlen : (leBytes n (s.reg d).toNat).length = n := length_leBytes ..
  refine ⟨fun hal hbig hoff hok => ?_, fun ks hal hlt hheld hks hok => ?_, fun hal => ?_, fun hal hge hshape => ?_,
    fun hal hlt hheld hks => ?_, fun hal hbig hoff hbad hn => ?_, fun ks hal hlt hheld hks hbad => ?_⟩
  · refine completes_of_userOp hexec ?_
    rw [storeScalar_local hal hbig hoff, if_neg (by rintro ⟨hbad, hn⟩; exact hok.elim (· hbad) hn)]
    obtain ⟨hregs, hcommit, honly, hin, hout⟩ := writeLocal_commit4 s (ea.toNat - 2 ^ 63) (leBytes n (s.reg d).toNat)
    refine ⟨hregs, hcommit, honly, fun j hj => ?_, fun x hx => hout x (hlen.symm ▸ hx)⟩
    rw [hin j (hlen.symm ▸ hj), getElem_leBytes]
    rfl
  · refine completes_of_userOp hexec ?_
    rw [storeScalar_field hal hlt hheld, hks]
    dsimp only
    rw [if_neg (Bool.eq_false_iff.mp hok)]
    obtain ⟨hregs, hcommit, honly⟩ := writeKeys_commit4 s ks (leBytes n (s.reg d).toNat)
    refine ⟨hregs, hcommit, honly, fun hnd q hq => ?_, fun k hk => rdByte_writeKeys_notMem s ks _ hk⟩
    refine (rdByte_writeKeys_mem (by rw [hlen, length_of_fieldKeys hks]) hnd hq).trans ?_
    rw [getElem_leBytes]
    rfl
  · exact traps rfl (if_pos hal)
  · refine traps rfl ?_
    simp only [State.storeScalar, if_neg (Classical.not_not.mpr hal), selectTarget_refused hge hshape]
  · refine traps rfl ?_
    rw [storeScalar_field hal hlt hheld, hks]
  · refine traps rfl ?_
    rw [storeScalar_local hal hbig hoff, if_pos ⟨hbad, hn⟩]
  · refine traps rfl ?_
    rw [storeScalar_field hal hlt hheld, hks]
    exact if_pos hbad

/-- Settles O7: the four stores differ in width alone. -/
theorem scalarStoresWriteTheirBytes : Obligations.ScalarStoresWriteTheirBytes := by
  unfold Obligations.ScalarStoresWriteTheirBytes
  rintro s d a i _ rfl p hp
  simp only [List.mem_cons, List.not_mem_nil, or_false] at hp
  rcases hp with rfl | rfl | rfl | rfl
  all_goals exact scalarStore_spec (d := d) rfl

end Sys2Proof.Machine
end

section
/-! What the shared operations leave of the bytes of memory: the parts of the state that say how a byte of memory or of the field reads. -/
namespace Sys2Proof.Machine

/-- What decides how every byte of memory and of the field reads (R71, R72, R414). -/
def State.store (s : State) : List Host.Cell × List Host.Cell × Map Word × Parity × Map Method × List Host.Cell :=
  (s.mem, s.peerMem, s.hbmTags, s.parity, s.peerWindows, s.field)

/-- A state as it is written out field by field: its `store`. -/
@[simp] theorem State.store_mk (power boot mem peerMem memBad parityBad replaced hbmTags field fieldBad ftags ftagBad parity hbmStat remap
    remapMirror remapBad mirrorBad domains domains2 pcpwr channelPower pasidDomain roots hubs generation shootDowns offline barriers queues
    startPtr reservations frozen heartbeats mailbox directPorts eventFrames peerWindows grants unacked portsDown connections homeData engineBad
    cycles clockStep hotness haltCounter nextGang savedFrames g others lockstep fresh agenda) :
    State.store ⟨power, boot, mem, peerMem, memBad, parityBad, replaced, hbmTags, field, fieldBad, ftags, ftagBad, parity, hbmStat, remap,
      remapMirror, remapBad, mirrorBad, domains, domains2, pcpwr, channelPower, pasidDomain, roots, hubs, generation, shootDowns, offline, barriers,
      queues, startPtr, reservations, frozen, heartbeats, mailbox, directPorts, eventFrames, peerWindows, grants, unacked, portsDown, connections,
      homeData, engineBad, cycles, clockStep, hotness, haltCounter, nextGang, savedFrames, g, others, lockstep, fresh, agenda⟩
      = (mem, peerMem, hbmTags, parity, peerWindows, field) := rfl

@[simp] theorem State.store_fold (s : State) : (s.mem, s.peerMem, s.hbmTags, s.parity, s.peerWindows, s.field) = s.store := rfl

@[simp] theorem State.store_ite (p : Prop) [Decidable p] (s t : State) : (if p then s else t).store = if p then s.store else t.store :=
  apply_ite State.store p s t

section Reads
variable {s t : State} (h : t.store = s.store)
include h

theorem memByte_of_store (a : Nat) : memByte t a = memByte s a := by
  simp only [State.store, Prod.mk.injEq] at h
  obtain ⟨hmem, hpeer, htags, hparity, hwindows, -⟩ := h
  simp only [memByte, peerCell, windowOfPeer, hmem, hpeer, htags, hparity, hwindows]

theorem memBytes_of_store (pa n : Nat) : memBytes t pa n = memBytes s pa n := by
  simp only [memBytes_eq, memByte_of_store h]

theorem field_of_store : t.field = s.field := by
  simp only [State.store, Prod.mk.injEq] at h
  exact h.2.2.2.2.2

theorem sameMem_of_store : sameMem s t := memByte_of_store h

theorem sameField_of_store : sameField s t := fun a => by rw [field_of_store h]

theorem sameCell_of_store (x p : Nat) : sameCell t x p = sameCell s x p := by
  simp only [State.store, Prod.mk.injEq] at h
  obtain ⟨-, -, -, -, hwindows, -⟩ := h
  simp only [sameCell, peerCell, windowOfPeer, hwindows]

end Reads

@[simp] theorem rotate_store (s : State) : (rotate s).store = s.store := by
  unfold rotate
  split <;> rfl

@[simp] theorem stall_store (s : State) : (stall s).store = s.store := rotate_store s

@[simp] theorem tickDie_store (s : State) (die : Nat) : (tickDie s die).store = s.store := rfl

@[simp] theorem sendFrame_store (s : State) (type die : Nat) (payload : List Word) : (sendFrame s type die payload).store = s.store := rfl

@[simp] theorem freeWords_store (s : State) (n : Nat) : (freeWords s n).2.store = s.store := rfl

@[simp] theorem haltSelected_store (ph : Phase) (s : State) (es : List Entry) (words : Map Resume) : (haltSelected ph s es words).store = s.store := rfl

@[simp] theorem commitAt_store (s : State) (pc : Word) : (s.commitAt pc).store = s.store := rfl

@[simp] theorem commit4_store (s : State) : s.commit4.store = s.store := rfl

@[simp] theorem commit8_store (s : State) : s.commit8.store = s.store := rfl

@[simp] theorem setReg_store (s : State) (d : Reg) (v : Word) : (s.setReg d v).store = s.store := rfl

theorem onlyServed.store_eq {s t : State} (h : onlyServed s t) : t.store = s.store := by
  unfold onlyServed at h
  rw [h]
  rfl

@[simp] theorem physTouch_store (s : State) (pa n : Nat) (write : Bool) : (physTouch s pa n write).store = s.store := (physTouch_only ..).store_eq

@[simp] theorem hubUse_store (s : State) (die pasid va : Nat) : (hubUse s die pasid va).store = s.store := (hubUse_only ..).store_eq

@[simp] theorem useG_store (s : State) (va : Nat) : (useG s va).store = s.store := hubUse_store ..

@[simp] theorem heat_store (s : State) (die pasid va : Nat) (k : HotKind) : (heat s die pasid va k).store = s.store := rfl

@[simp] theorem touchWalks_store (s : State) (va : Nat) : (touchWalks s va).store = s.store := rfl

@[simp] theorem atomicTouch_store (s : State) (ea : Nat) : (atomicTouch s ea).store = s.store := useG_store s ea

@[simp] theorem globalTouch_store (s : State) (ea : Nat) : (globalTouch s ea).store = s.store := useG_store s ea

end Sys2Proof.Machine
end

section
/-! G-space accesses of the sequencer (R180 to R185): what an access leaves besides its data, the traps of an access, and the request of a
page that is not present. -/
namespace Sys2Proof.Machine

/-! ### The turn passes on (R48) -/

@[simp] theorem rotate_eventFrames (s : State) : (rotate s).eventFrames = s.eventFrames := by
  unfold rotate
  split <;> rfl

/-- The gang that gives up its turn is found as it was. -/
theorem findGang_rotate {s : State} (h : ownId s) : findGang (rotate s) s.g.id = some s.g := by
  unfold rotate findGang
  split
  next => simp
  next x hx =>
    have hne : x.id ≠ s.g.id := h x (List.mem_of_find?_eq_some hx)
    have hrest : (s.others.filter fun y => y.id != x.id).find? (fun y => y.id == s.g.id) = none := by
      rw [List.find?_eq_none]
      exact fun y hy => by simpa using h y (List.mem_filter.mp hy).1
    simp [List.find?_append, hrest, hne]

/-! ### A page that is not present (R222) -/

theorem foldl_setReg_id (ls : List Load) (g : Gang) : (ls.foldl (fun (g : Gang) l => g.setReg l.reg l.value) g).id = g.id := by
  induction ls generalizing g with
  | nil => rfl
  | cons l ls ih => rw [List.foldl_cons, ih, Gang.setReg_id]

theorem foldl_setReg_pc (ls : List Load) (g : Gang) : (ls.foldl (fun (g : Gang) l => g.setReg l.reg l.value) g).pc = g.pc := by
  induction ls generalizing g with
  | nil => rfl
  | cons l ls ih => rw [List.foldl_cons, ih, Gang.setReg_pc]

theorem foldl_setReg_pasid (ls : List Load) (g : Gang) : (ls.foldl (fun (g : Gang) l => g.setReg l.reg l.value) g).pasid = g.pasid := by
  induction ls generalizing g with
  | nil => rfl
  | cons l ls ih => rw [List.foldl_cons, ih, Gang.setReg_pasid]

theorem foldl_setReg_cohN (ls : List Load) (g : Gang) : (ls.foldl (fun (g : Gang) l => g.setReg l.reg l.value) g).cohN = g.cohN := by
  induction ls generalizing g with
  | nil => rfl
  | cons l ls ih => rw [List.foldl_cons, ih, Gang.setReg_cohN]

theorem foldl_setReg_savedCause (ls : List Load) (g : Gang) :
    (ls.foldl (fun (g : Gang) l => g.setReg l.reg l.value) g).savedCause = g.savedCause := by
  induction ls generalizing g with
  | nil => rfl
  | cons l ls ih => rw [List.foldl_cons, ih, Gang.setReg_savedCause]

section Halt
variable (ph : Phase) (s : State) (es : List Entry) (words : Map Resume)

@[simp] theorem haltSelected_id : (haltSelected ph s es words).g.id = s.g.id := foldl_setReg_id ..
@[simp] theorem haltSelected_pc : (haltSelected ph s es words).g.pc = s.g.pc := foldl_setReg_pc ..
@[simp] theorem haltSelected_pasid : (haltSelected ph s es words).g.pasid = s.g.pasid := foldl_setReg_pasid ..
@[simp] theorem haltSelected_cohN : (haltSelected ph s es words).g.cohN = s.g.cohN := foldl_setReg_cohN ..
@[simp] theorem haltSelected_savedCause : (haltSelected ph s es words).g.savedCause = s.g.savedCause := foldl_setReg_savedCause ..
@[simp] theorem haltSelected_phase : (haltSelected ph s es words).g.phase = ph := rfl
@[simp] theorem haltSelected_others : (haltSelected ph s es words).others = s.others := rfl

end Halt

/-- Without unretired instructions a halt keeps no frame. -/
theorem haltGang_empty (ph : Phase) {s : State} (h : s.g.bq = []) :
    haltGang ph s = haltSelected ph
      { s with g := { s.g with bq := [], banks := [], pulls := [], tokens := [], rq := s.g.rq.filter Option.isSome } } [] [] := by
  simp [haltGang, stopBanks_empty s h]

/-- A gang that has no cohort halts alone. -/
theorem haltCohort_alone {s : State} (h : s.g.cohN = 1) : haltCohort s = s := by
  simp [haltCohort, cohortRunning, h]

/-- What a gang without a cohort and without unretired instructions leaves when it asks for a page: it waits with the cause kept, and the
host has the request. -/
theorem pageRequest_spec {s : State} {c : Cause} {gepc : Word} (hbq : s.g.bq = []) (hcoh : s.g.cohN = 1) (hid : ownId s) :
    let t := pageRequest s c false gepc
    ∃ x, findGang t s.g.id = some x ∧ x.phase = .pageWait ∧ x.pc = s.g.pc ∧ x.savedCause = some (c, false, gepc)
      ∧ sameMem s t ∧ sameField s t
      ∧ ∃ f ∈ t.eventFrames, f.type = 3 ∧ f.payload = [w64 s.g.pasid, c.val, requestAccess c, Config.contextAddress s.g.id] := by
  obtain ⟨u, hu⟩ : ∃ u, u = haltGang .pageWait { s with g := { s.g with savedCause := some (c, false, gepc) } } := ⟨_, rfl⟩
  have hhalt := hu.trans (haltGang_empty .pageWait hbq)
  have hstore : u.store = s.store := by rw [hhalt]; rfl
  have hid' : u.g.id = s.g.id := by rw [hhalt]; simp
  have hothers : u.others = s.others := by rw [hhalt]; rfl
  let v := sendFrame u 3 u.g.lead [w64 u.g.pasid, c.val, requestAccess c, Config.contextAddress u.g.id]
  have ht : pageRequest s c false gepc = rotate v := by
    rw [pageRequest, ← hu]
    exact congrArg rotate (haltCohort_alone (s := v) (show u.g.cohN = 1 by rw [hhalt]; simpa using hcoh))
  have hown : ownId v := by
    show ∀ x ∈ u.others, x.id ≠ u.g.id
    rw [hothers, hid']
    exact hid
  have hv : v.store = s.store := hstore
  dsimp only
  rw [ht]
  refine ⟨u.g, hid' ▸ findGang_rotate hown, ?_, ?_, ?_, sameMem_of_store ((rotate_store v).trans hv),
    sameField_of_store ((rotate_store v).trans hv), ?_⟩
  · rw [hhalt, haltSelected_phase]
  · rw [hhalt, haltSelected_pc]
  · rw [hhalt, haltSelected_savedCause]
  · refine ⟨⟨3, u.g.lead, dieCycle u u.g.lead, [w64 u.g.pasid, c.val, requestAccess c, Config.contextAddress u.g.id]⟩, ?_, rfl, ?_⟩
    · rw [rotate_eventFrames]
      exact List.mem_append_right _ (List.mem_singleton.mpr rfl)
    · dsimp only
      rw [hid', hhalt, haltSelected_pasid]

/-! ### What an access leaves besides its data -/

/-- Only what `onlyServed` allows, the hotness records and the walk registers have changed (R361, R362, R366, R374, R377, R385, R389). -/
def onlyTouched (s t : State) : Prop :=
  t = { s with
    memBad := t.memBad, parityBad := t.parityBad, hbmStat := t.hbmStat, remapBad := t.remapBad, mirrorBad := t.mirrorBad, channelPower := t.channelPower
    hubs := t.hubs, agenda := t.agenda, hotness := t.hotness, g := { s.g with walks := t.g.walks } }

theorem onlyTouched.trans {s t u : State} (h1 : onlyTouched s t) (h2 : onlyTouched t u) : onlyTouched s u := by
  unfold onlyTouched at h1 h2 ⊢
  rw [h1] at h2
  exact h2

theorem onlyServed.touched {s t : State} (h : onlyServed s t) : onlyTouched s t := by
  unfold onlyServed at h
  unfold onlyTouched
  rw [h]

theorem atomicTouch_only (s : State) (ea : Nat) : onlyTouched s (atomicTouch s ea) :=
  (hubUse_only s s.g.lead s.g.pasid ea).touched.trans rfl

theorem globalTouch_only (s : State) (ea : Nat) : onlyTouched s (globalTouch s ea) := (atomicTouch_only s ea).trans rfl

section Touched
variable {s t : State} (h : onlyTouched s t)
include h

theorem onlyTouched.store_eq : t.store = s.store := by
  unfold onlyTouched at h
  rw [h]
  rfl

theorem onlyTouched.g_eq : t.g = { s.g with walks := t.g.walks } := by unfold onlyTouched at h; rw [h]

theorem onlyTouched.sameBytes : sameBytes s t :=
  ⟨sameMem_of_store h.store_eq, sameField_of_store h.store_eq, fun _ => by rw [h.g_eq]⟩

theorem onlyTouched.unacked_eq : t.unacked = s.unacked := by unfold onlyTouched at h; rw [h]

theorem onlyTouched.peerWindows_eq : t.peerWindows = s.peerWindows := by unfold onlyTouched at h; rw [h]

theorem onlyTouched.lockstep_eq : t.lockstep = s.lockstep := by unfold onlyTouched at h; rw [h]

theorem onlyTouched.parity_eq : t.parity = s.parity := by unfold onlyTouched at h; rw [h]

end Touched

theorem physTouch_sound {s : State} (h : sound s = true) (pa n : Nat) (write : Bool) :
    physTouch s pa n write = { s with channelPower := wake s pa n write } := by
  have h' : sound { s with channelPower := wake s pa n write } = true := h
  simp [physTouch, h']

theorem foldl_physTouch_sound {s : State} (h : sound s = true) (l : List Nat) : sound (l.foldl (fun s a => physTouch s a 8) s) = true := by
  induction l generalizing s with
  | nil => exact h
  | cons a l ih => exact ih (by dsimp only; rw [physTouch_sound h]; exact h)

theorem hubUse_sound {s : State} (h : sound s = true) (die pasid va : Nat) : sound (hubUse s die pasid va) = true := by
  unfold hubUse
  split
  · exact h
  · dsimp only
    split
    · exact foldl_physTouch_sound h _
    · exact foldl_physTouch_sound h _

theorem atomicTouch_sound {s : State} (h : sound s = true) (ea : Nat) : sound (atomicTouch s ea) = true := hubUse_sound h s.g.lead s.g.pasid ea

theorem globalTouch_sound {s : State} (h : sound s = true) (ea : Nat) : sound (globalTouch s ea) = true := hubUse_sound h s.g.lead s.g.pasid ea

theorem physRead_fst (s : State) (pa n : Nat) : (physRead s pa n).1 = physTouch s pa n := rfl

/-- In a sound package the bytes read are those that stand there. -/
theorem physRead_snd_sound {s : State} (h : sound s = true) (pa n : Nat) : (physRead s pa n).2 = some (memBytes s pa n) := by
  rw [physRead_sound s pa n h]

/-! ### Stops of an access -/

theorem useG_beyond {s : State} {va : Nat} (h : 2 ^ 48 ≤ va) : useG s va = s := if_pos (.inl h)

theorem trapLost_now {s : State} {ea : Word} {val2 pa n : Nat} {write : Bool} (h : trapsNow s) :
    trapLost s ea val2 pa n write = afterTrap 7 ea (w64 val2) s.g.pc (physTouch (useG s ea.toNat) pa n write) := by
  rw [trapLost, afterWaits_now s _ h]
  refine takeCause_now _ _ _ ?_ rfl
  have hg : (physTouch (useG s ea.toNat) pa n write).g = s.g := by
    rw [physTouch_only (useG s ea.toNat) pa n write]
    exact useG_g ..
  simpa only [trapsNow, hg] using h

section Stops
variable {s : State} {ea : Word} {n code : Nat} {acc : Access}

theorem globalPa_beyond (h : 2 ^ 48 ≤ ea.toNat) : globalPa s ea n acc code = .error (.trap 8 code) := if_pos h

theorem globalPa_misaligned (h : ea.toNat < 2 ^ 48) (hal : ea.toNat % n ≠ 0) : globalPa s ea n acc code = .error (.trap 3 code) := by
  rw [globalPa, if_neg (Nat.not_le.mpr h), if_pos hal]

theorem globalPa_notPresent (h : ea.toNat < 2 ^ 48) (hal : ea.toNat % n = 0)
    (ht : translateFull s s.g.lead s.g.pasid ea.toNat acc = .notPresent) : globalPa s ea n acc code = .error (.trap 8 (code + 4)) := by
  rw [globalPa, if_neg (Nat.not_le.mpr h), if_neg (Classical.not_not.mpr hal), ht]

theorem globalPa_permission (h : ea.toNat < 2 ^ 48) (hal : ea.toNat % n = 0)
    (ht : translateFull s s.g.lead s.g.pasid ea.toNat acc = .permission) : globalPa s ea n acc code = .error (.trap 8 code) := by
  rw [globalPa, if_neg (Nat.not_le.mpr h), if_neg (Classical.not_not.mpr hal), ht]

end Stops

/-- An instruction whose own effect is the trap of a translated access takes it, as its walk leaves the machine. -/
theorem trapsLeaving_of_userOp {i : Instr} {s u : State} {k : State → State} {code : Nat} {val val2 : Word} (h : exec i s = userOp i s k)
    (hk : trapsNow s → k s = afterTrap code val val2 s.g.pc u) : trapsLeaving i code val val2 s u := fun hi ht => by
  rw [h, userOp_of_issues hi, hk ht]

/-- An instruction that traps with a page that is not present asks for it. -/
theorem asksForPage_of_userOp {i : Instr} {s : State} {k : State → State} {ea : Word} {code : Nat} (h : exec i s = userOp i s k)
    (hcode : code < 4) (hk : k s = trapG s ea 8 (code + 4)) : asksForPage i ea code s := by
  intro hi hbq hfault _ hcoh hid
  have hg : (useG s ea.toNat).g = s.g := useG_g ..
  have hval : (w64 (code + 4)).toNat = code + 4 := by rw [BitVec.toNat_ofNat]; omega
  have hfirst : coreFirst ⟨8, ea, w64 (code + 4), 0, 0, 0⟩ = true := by
    simp only [coreFirst, bit, hval, show (code + 4) / 2 ^ 2 % 2 = 1 by omega]
    rfl
  have haccess : requestAccess ⟨8, ea, w64 (code + 4), 0, 0, 0⟩ = w64 (code + 4) := by
    simp only [requestAccess, bitsOf, hval, show (code + 4) / 2 ^ 0 % 2 ^ 4 = code + 4 by omega]
    rfl
  have hk' : k s = pageRequest (useG s ea.toNat) ⟨8, ea, w64 (code + 4), 0, 0, 0⟩ false s.g.pc := by
    rw [hk, trapG]
    simp [afterWaits, hfault, hbq, takeCause, hfirst]
  have hothers : (useG s ea.toNat).others = s.others := by rw [useG, hubUse_only]
  obtain ⟨x, hfind, hphase, hpc, hcause, hmem, hfield, hframe⟩ := pageRequest_spec (c := ⟨8, ea, w64 (code + 4), 0, 0, 0⟩) (gepc := s.g.pc)
    (show (useG s ea.toNat).g.bq = [] by rw [hg, hbq]) (by rw [hg, hcoh]) (by simpa only [ownId, hg, hothers] using hid)
  obtain ⟨hbytes, hfld, -⟩ := (hubUse_only s s.g.lead s.g.pasid ea.toNat).touched.sameBytes
  rw [hg, haccess] at hframe
  rw [hg] at hfind hpc
  exact ⟨_, x, by rw [h, userOp_of_issues hi, hk'], hfind, hphase, hpc, hcause, fun a => (hmem a).trans (hbytes a),
    fun a => (hfield a).trans (hfld a), hframe⟩

end Sys2Proof.Machine
end

section
/-! LDG and STG (R180 to R185). -/
namespace Sys2Proof.Machine

/-! ### The state after an access -/

/-- What `onlyGlobal` allows before the result reaches its register and the instruction commits. -/
def onlyAccessed (s t : State) : Prop :=
  t = { s with
    mem := t.mem, peerMem := t.peerMem, hbmTags := t.hbmTags, memBad := t.memBad, parityBad := t.parityBad, unacked := t.unacked
    hubs := t.hubs, hotness := t.hotness, hbmStat := t.hbmStat, remapBad := t.remapBad, mirrorBad := t.mirrorBad, channelPower := t.channelPower, agenda := t.agenda
    g := { s.g with walks := t.g.walks } }

theorem onlyAccessed.trans {s t u : State} (h1 : onlyAccessed s t) (h2 : onlyAccessed t u) : onlyAccessed s u := by
  unfold onlyAccessed at h1 h2 ⊢
  rw [h1] at h2
  exact h2

theorem onlyTouched.accessed {s t : State} (h : onlyTouched s t) : onlyAccessed s t := by
  unfold onlyTouched at h
  unfold onlyAccessed
  rw [h]

section Accessed
variable {s t : State} (h : onlyAccessed s t)
include h

theorem onlyAccessed.g_eq : t.g = { s.g with walks := t.g.walks } := by unfold onlyAccessed at h; rw [h]

theorem onlyAccessed.lockstep_eq : t.lockstep = s.lockstep := by unfold onlyAccessed at h; rw [h]

theorem onlyAccessed.reg_eq (r : Reg) : t.g.reg r = s.g.reg r := by rw [h.g_eq]; rfl

theorem onlyAccessed.loads_eq : t.g.loads = s.g.loads := by rw [h.g_eq]

theorem onlyAccessed.pc_eq : t.g.pc = s.g.pc := by rw [h.g_eq]

theorem onlyAccessed.retired_eq : t.g.retired = s.g.retired := by rw [h.g_eq]

theorem onlyAccessed.stepping_eq : t.g.stepping = s.g.stepping := by rw [h.g_eq]

theorem onlyAccessed.pl_eq : t.g.pl = s.g.pl := by rw [h.g_eq]

theorem onlyAccessed.held_eq : t.g.held = s.g.held := by rw [h.g_eq]

theorem onlyAccessed.committed4 : committed (s.g.pc + 4) s t.commit4 := by
  refine ⟨congrArg (· + 4) h.pc_eq, congrArg (· + 1) h.retired_eq, ?_⟩
  simpa only [h.stepping_eq, h.pl_eq, h.held_eq, State.commit4_g] using t.g.commit_step (t.g.pc + 4)

theorem onlyAccessed.onlyGlobal_commit4 : onlyGlobal s t.commit4 := by
  unfold onlyAccessed at h
  unfold onlyGlobal
  rw [h]
  rfl

end Accessed

/-- The value of a load reaches its register, or waits for its response, and the load commits. -/
theorem answerLoad_commit4 {s u : State} (h : onlyAccessed s u) (d : Reg) (v : Word) (hold : Bool) :
    let t := (answerLoad u d v hold).commit4
    answers d v hold s t ∧ committed (s.g.pc + 4) s t ∧ onlyGlobal s t ∧ t.store = u.store ∧ t.g.lmem = s.g.lmem ∧ t.unacked = u.unacked := by
  intro t
  have hlmem : u.g.lmem = s.g.lmem := by rw [h.g_eq]
  cases hl : s.lockstep with
  | true =>
    have ht : t = (u.setReg d v).commit4 := by simp only [t, answerLoad, h.lockstep_eq, hl, if_true]
    obtain ⟨hreg, hregs, ⟨hpc, hret, hstep⟩, -, -⟩ := writesReg_commit4 u d v
    rw [ht]
    refine ⟨?_, ⟨?_, ?_, ?_⟩, ?_, rfl, ?_, rfl⟩
    · rw [answers, hl, if_pos rfl]
      exact ⟨hreg, fun r hr => (hregs r hr).trans (h.reg_eq r), by simp [h.loads_eq]⟩
    · rw [hpc, h.pc_eq]
    · rw [hret, h.retired_eq]
    · simpa only [h.stepping_eq, h.pl_eq, h.held_eq] using hstep
    · unfold onlyAccessed at h
      unfold onlyGlobal
      rw [h]
      unfold State.commit4 State.setReg Gang.setReg
      split <;> rfl
    · simp [hlmem]
  | false =>
    have ht : t = State.commit4 { u with g := { u.g with loads := u.g.loads ++ [Load.mk d v hold] } } := by
      simp only [t, answerLoad, h.lockstep_eq, hl, Bool.false_eq_true, if_false]
    obtain ⟨hpc, hret, hstep⟩ := h.committed4
    rw [ht]
    refine ⟨?_, ⟨hpc, hret, hstep⟩, ?_, rfl, hlmem, rfl⟩
    · rw [answers, hl, if_neg Bool.false_ne_true]
      exact ⟨fun r _ => h.reg_eq r, congrArg (· ++ [Load.mk d v hold]) h.loads_eq⟩
    · unfold onlyAccessed at h
      unfold onlyGlobal
      rw [h]
      rfl

theorem stgsPerformed_iff (s : State) (scope : Nat) : stgsPerformed s scope = true ↔ storesSeen s := by
  simp [stgsPerformed, storesSeen]

theorem releaseReady_iff (s : State) (scope : Nat) : releaseReady s scope = true ↔ released s := by
  simp [releaseReady, released, stgsPerformed_iff, and_assoc]

/-- The trap of a translated access that is refused for good (R179, R184). -/
theorem trapG_refused {s : State} {ea : Word} {code : Nat} (hcode : code < 4) (ht : trapsNow s) :
    trapG s ea 8 code = afterTrap 8 ea (w64 code) s.g.pc (useG s ea.toNat) := by
  refine trapG_now s ea 8 code ht ?_
  have hval : (w64 code).toNat = code := by rw [BitVec.toNat_ofNat]; omega
  simp only [coreFirst, bit, hval, show code / 2 ^ 2 % 2 = 0 by omega]
  rfl

/-! ### LDG -/

/-- What an LDG does once it goes on to its own effect (R180 to R184). -/
def State.loadGlobal (s : State) (d : Reg) (ea : Word) (z : BitVec 3) (o c : BitVec 2) : State :=
  let n := 2 ^ (z.toNat % 4)
  match globalPa s ea n .read 0 with
  | .error e => globalStop s ea e
  | .ok pa =>
    if pendingWrite s pa n || (o == 1 && !stgsPerformed s c.toNat) then stall s
    else if targetRefuses s pa then trapG s ea 8 0
    else match physRead (globalTouch s ea.toNat) pa n with
      | (_, none) => trapLost s ea 0 pa n false
      | (s, some bs) => (answerLoad s d (extendLoad (z.toNat < 4) bs) (o == 1)).commit4

theorem exec_ldg (d a b : Reg) (z : BitVec 3) (o c : BitVec 2) (s : State) :
    exec (.ldg d a b z o c) s = userOp (.ldg d a b z o c) s fun s => s.loadGlobal d (s.reg a + s.reg b) z o c := rfl

/-- The size of an access, by the two low bits of its code (R181). -/
theorem accessSize_bounds (z : Nat) : 0 < 2 ^ (z % 4) ∧ 2 ^ (z % 4) ≤ 8 := by
  have h : z % 4 ≤ 3 := by omega
  exact ⟨Nat.two_pow_pos _, Nat.pow_le_pow_right (n := 2) (by decide) h⟩

/-- A read answers as many bytes as it was asked for. -/
theorem length_of_physRead {s : State} {pa n : Nat} {bs : List Byte} (h : (physRead s pa n).2 = some bs) : bs.length = n := by
  simp only [physRead, physPeek, memBytes_eq] at h
  split at h
  · rw [← Option.some.inj h, List.length_map, List.length_range]
  · split at h
    · rw [← Option.some.inj h, List.length_map, List.length_range]
    · cases h

section LoadGlobal
variable {s : State} {d : Reg} {ea : Word} {z : BitVec 3} {o c : BitVec 2} {pa : Nat}

/-- An LDG whose address stands, with nothing to wait for (R182, R183). -/
theorem loadGlobal_ready (hpa : globalPa s ea (2 ^ (z.toNat % 4)) .read 0 = .ok pa) (hpend : pendingWrite s pa (2 ^ (z.toNat % 4)) = false)
    (hacq : o = 1 → storesSeen s) : s.loadGlobal d ea z o c =
      if targetRefuses s pa then trapG s ea 8 0
      else match physRead (globalTouch s ea.toNat) pa (2 ^ (z.toNat % 4)) with
        | (_, none) => trapLost s ea 0 pa (2 ^ (z.toNat % 4)) false
        | (s, some bs) => (answerLoad s d (extendLoad (z.toNat < 4) bs) (o == 1)).commit4 := by
  have hwait : (o == 1 && !stgsPerformed s c.toNat) = false := by
    rw [Bool.and_eq_false_imp, beq_iff_eq]
    exact fun ho => by rw [(stgsPerformed_iff ..).mpr (hacq ho)]; rfl
  simp only [State.loadGlobal, hpa, hpend, hwait, Bool.or_self, Bool.false_eq_true, if_false]

theorem loadGlobal_waits (hpa : globalPa s ea (2 ^ (z.toNat % 4)) .read 0 = .ok pa)
    (h : pendingWrite s pa (2 ^ (z.toNat % 4)) = true ∨ (o = 1 ∧ ¬ storesSeen s)) : s.loadGlobal d ea z o c = stall s := by
  have hwait : (pendingWrite s pa (2 ^ (z.toNat % 4)) || (o == 1 && !stgsPerformed s c.toNat)) = true := by
    rw [Bool.or_eq_true, Bool.and_eq_true, beq_iff_eq, Bool.not_eq_true', ← Bool.not_eq_true, stgsPerformed_iff]
    exact h
  simp only [State.loadGlobal, hpa, hwait, if_true]

theorem loadGlobal_stops {e : GStop} (hpa : globalPa s ea (2 ^ (z.toNat % 4)) .read 0 = .error e) : s.loadGlobal d ea z o c = globalStop s ea e := by
  simp only [State.loadGlobal, hpa]

end LoadGlobal

theorem trapsLeaving_beyond {i : Instr} {code : Nat} {val val2 : Word} {s : State} {ea : Nat} (h : 2 ^ 48 ≤ ea)
    (ht : trapsLeaving i code val val2 s (useG s ea)) : trapsWith i code val val2 s := by
  rw [useG_beyond h] at ht
  exact ht

/-- Settles O8: the access, where it is made, changes only what an access leaves; its bytes are those the read answered. -/
theorem globalLoadsReturnTheirBytes : Obligations.GlobalLoadsReturnTheirBytes := by
  unfold Obligations.GlobalLoadsReturnTheirBytes
  rintro s d a b z o c _ rfl
  have hexec := exec_ldg d a b z o c s
  obtain ⟨hn0, hn8⟩ := accessSize_bounds z.toNat
  refine ⟨?_, ?_, ?_, ?_, ?_, ?_, ?_, ?_⟩
  · rintro pa bs ⟨hpa, hpend, hacq⟩ href hread
    refine completes_of_userOp hexec ?_
    have hlen := length_of_physRead hread
    rw [loadGlobal_ready hpa hpend hacq, href, if_neg Bool.false_ne_true,
      show physRead (globalTouch s (s.reg a + s.reg b).toNat) pa (2 ^ (z.toNat % 4)) =
        (physTouch (globalTouch s (s.reg a + s.reg b).toNat) pa (2 ^ (z.toNat % 4)), some bs) from Prod.ext rfl hread]
    dsimp only
    rw [extendLoad_eq_loaded hlen hn0 hn8, beq_decide]
    have honly := (globalTouch_only s (s.reg a + s.reg b).toNat).trans
      (physTouch_only (globalTouch s (s.reg a + s.reg b).toNat) pa (2 ^ (z.toNat % 4)) false).touched
    obtain ⟨hans, hcommit, hglobal, hstore, hlmem, -⟩ := answerLoad_commit4 honly.accessed d (loaded (decide (z.toNat < 4)) (2 ^ (z.toNat % 4)) bs) (decide (o = 1))
    have hkept := hstore.trans honly.store_eq
    refine ⟨hans, hcommit, ⟨sameMem_of_store hkept, sameField_of_store hkept, fun x => by rw [hlmem]⟩, hglobal, fun hsound => ?_⟩
    rw [physRead_snd_sound (globalTouch_sound hsound _), memBytes_of_store (globalTouch_store ..)] at hread
    exact (Option.some.inj hread).symm
  · rintro pa ⟨hpa, hpend, hacq⟩ href
    refine trapsLeaving_of_userOp hexec fun ht => ?_
    rw [loadGlobal_ready hpa hpend hacq, href, if_pos rfl, trapG_refused (by decide) ht]
    rfl
  · rintro pa ⟨hpa, hpend, hacq⟩ href hread
    refine trapsLeaving_of_userOp hexec fun ht => ?_
    rw [loadGlobal_ready hpa hpend hacq, href, if_neg Bool.false_ne_true,
      show physRead (globalTouch s (s.reg a + s.reg b).toNat) pa (2 ^ (z.toNat % 4)) = (_, none) from Prod.ext rfl hread]
    exact trapLost_now ht
  · intro pa hpa hwait
    exact completes_of_userOp hexec (loadGlobal_waits hpa hwait)
  · intro hlt hal htr
    exact asksForPage_of_userOp hexec (by decide) (loadGlobal_stops (globalPa_notPresent hlt hal htr))
  · intro hge
    refine trapsLeaving_beyond hge (trapsLeaving_of_userOp hexec fun ht => ?_)
    exact (loadGlobal_stops (globalPa_beyond hge)).trans (trapG_refused (by decide) ht)
  · intro hlt hal
    exact trapsWith_of_userOp hexec (loadGlobal_stops (globalPa_misaligned hlt hal)) rfl
  · intro hlt hal htr
    refine trapsLeaving_of_userOp hexec fun ht => ?_
    exact (loadGlobal_stops (globalPa_permission hlt hal htr)).trans (trapG_refused (by decide) ht)

/-! ### Stores to physical memory -/

theorem setMemByte_only (s : State) (p : Nat) (b : Byte) :
    setMemByte s p b = { s with mem := (setMemByte s p b).mem, peerMem := (setMemByte s p b).peerMem, hbmTags := (setMemByte s p b).hbmTags } := by
  unfold setMemByte
  split
  · rfl
  · split <;> rfl

/-- Only the bytes of HBM, of its tag plane and of peers' memory have changed. -/
def onlyStored (s t : State) : Prop := t = { s with mem := t.mem, peerMem := t.peerMem, hbmTags := t.hbmTags }

theorem onlyStored.trans {s t u : State} (h1 : onlyStored s t) (h2 : onlyStored t u) : onlyStored s u := by
  unfold onlyStored at h1 h2 ⊢
  rw [h1] at h2
  exact h2

theorem setMemBytes_only (s : State) (pa : Nat) (bs : List Byte) : onlyStored s (setMemBytes s pa bs) := by
  unfold setMemBytes
  split
  · rfl
  · generalize bs.zipIdx = l
    induction l generalizing s with
    | nil => rfl
    | cons x l ih => exact onlyStored.trans (setMemByte_only s (pa + x.2) x.1) (ih _)

theorem onlyStored.accessed {s t : State} (h : onlyStored s t) : onlyAccessed s t := by
  unfold onlyStored at h
  unfold onlyAccessed
  rw [h]

theorem onlyStored.unacked_eq {s t : State} (h : onlyStored s t) : t.unacked = s.unacked := by
  unfold onlyStored at h
  rw [h]

theorem physStore_accessed (s : State) (pa : Nat) (bs : List Byte) : onlyAccessed s (physStore s pa bs) :=
  (setMemBytes_only s pa bs).accessed.trans rfl

@[simp] theorem physStore_unacked (s : State) (pa : Nat) (bs : List Byte) : (physStore s pa bs).unacked = s.unacked :=
  (setMemBytes_only s pa bs).unacked_eq

theorem physStore_store (s : State) (pa : Nat) (bs : List Byte) : (physStore s pa bs).store = (setMemBytes s pa bs).store := rfl

theorem physStore_outside {s : State} {pa x : Nat} {bs : List Byte} (h : ∀ j < bs.length, sameCell s x (pa + j) = false) :
    memByte (physStore s pa bs) x = memByte s x :=
  (memByte_of_store (physStore_store s pa bs) x).trans (memByte_setMemBytes_outside s pa x bs h)

/-- Bytes that begin in local HBM are different bytes. -/
theorem sameCell_region0 {s : State} {pa j k : Nat} (hpa : region pa = 0) (hne : j ≠ k) (hj : j < 2 ^ 42) (hk : k < 2 ^ 42) :
    sameCell s (pa + j) (pa + k) = false := by
  by_cases hr : region (pa + j) = 1 ∧ region (pa + k) = 1
  · have hbase : ∃ q, q % 2 ^ 50 = 0 ∧ pa < q ∧ q ≤ pa + j ∧ q ≤ pa + k := by
      refine ⟨pa / 2 ^ 50 * 2 ^ 50 + 2 ^ 50, ?_, ?_, ?_, ?_⟩ <;> (simp only [region] at hpa hr; omega)
    obtain ⟨q, hq, hlt, hqj, hqk⟩ := hbase
    have hblock := sameCell_block s q (pa + j - q) (pa + k - q) (by omega) (by omega) (by omega)
    rwa [show q + (pa + j - q) = pa + j by omega, show q + (pa + k - q) = pa + k by omega] at hblock
  · have hadd : pa + j ≠ pa + k := by omega
    rw [sameCell, beq_false_of_ne hadd, Bool.false_or, Bool.and_eq_false_imp]
    intro h1
    simp only [Bool.and_eq_true, beq_iff_eq] at h1
    exact absurd h1 hr

theorem physStore_inside {s : State} {pa j : Nat} {bs : List Byte} (hpa : region pa = 0) (hj : j < bs.length) (hlen : bs.length ≤ 2 ^ 42) :
    memByte (physStore s pa bs) (pa + j) = bs[j] := by
  rw [memByte_of_store (physStore_store s pa bs)]
  exact memByte_setMemBytes_inside s pa j bs hj fun k hk hjk => sameCell_region0 hpa (Nat.ne_of_lt hjk) (by omega) (by omega)

/-! ### STG -/

/-- What an STG of value v does once it goes on to its own effect (R180 to R185). -/
def State.storeGlobal (s : State) (v ea : Word) (n : Nat) (o c : BitVec 2) : State :=
  match globalPa s ea n .write 1 with
  | .error e => globalStop s ea e
  | .ok pa =>
    if o == 2 && !releaseReady s c.toNat then stall s
    else if storeLost s pa n then trapLost s ea 1 pa n true
    else (sendWrite (globalTouch s ea.toNat) 0 ea.toNat pa (leBytes n v.toNat)).commit4

theorem exec_stg (d a b : Reg) (z : BitVec 3) (o c : BitVec 2) (s : State) :
    exec (.stg d a b z o c) s = userOp (.stg d a b z o c) s fun s => s.storeGlobal (s.reg d) (s.reg a + s.reg b) (2 ^ z.toNat) o c := rfl

section StoreGlobal
variable {s : State} {v ea : Word} {n : Nat} {o c : BitVec 2} {pa : Nat}

theorem storeGlobal_ready (hpa : globalPa s ea n .write 1 = .ok pa) (hrel : o = 2 → released s) : s.storeGlobal v ea n o c =
    if storeLost s pa n then trapLost s ea 1 pa n true else (sendWrite (globalTouch s ea.toNat) 0 ea.toNat pa (leBytes n v.toNat)).commit4 := by
  have hwait : (o == 2 && !releaseReady s c.toNat) = false := by
    rw [Bool.and_eq_false_imp, beq_iff_eq]
    exact fun ho => by rw [(releaseReady_iff ..).mpr (hrel ho)]; rfl
  simp only [State.storeGlobal, hpa, hwait, Bool.false_eq_true, if_false]

theorem storeGlobal_waits (hpa : globalPa s ea n .write 1 = .ok pa) (ho : o = 2) (hrel : ¬ released s) : s.storeGlobal v ea n o c = stall s := by
  have hwait : (o == 2 && !releaseReady s c.toNat) = true := by
    rw [Bool.and_eq_true, beq_iff_eq, Bool.not_eq_true', ← Bool.not_eq_true, releaseReady_iff]
    exact ⟨ho, hrel⟩
  simp only [State.storeGlobal, hpa, hwait, if_true]

theorem storeGlobal_stops {e : GStop} (hpa : globalPa s ea n .write 1 = .error e) : s.storeGlobal v ea n o c = globalStop s ea e := by
  simp only [State.storeGlobal, hpa]

end StoreGlobal

/-- A write sent to another device's memory carries the sending gang, the instruction's place and the window's generation (R129, R132). -/
theorem sendWrite_far {s u : State} (h : onlyTouched s u) {pa : Nat} (hpa : region pa ≠ 0) (origin va : Nat) (bs : List Byte) :
    let t := sendWrite u origin va pa bs
    onlyAccessed s t ∧ t.store = s.store ∧ t.unacked = s.unacked ++ [⟨s.g.id, origin, s.g.retired, va, pa, bs, sendGen s pa, false⟩] := by
  have hsend : sendWrite u origin va pa bs = { u with unacked := u.unacked ++ [⟨u.g.id, origin, u.g.retired, va, pa, bs, sendGen u pa, false⟩] } :=
    if_neg hpa
  have hacc : onlyAccessed s { u with unacked := u.unacked ++ [⟨u.g.id, origin, u.g.retired, va, pa, bs, sendGen u pa, false⟩] } :=
    h.accessed.trans rfl
  have hid : u.g.id = s.g.id := by rw [h.g_eq]
  have hret : u.g.retired = s.g.retired := by rw [h.g_eq]
  intro t
  refine ⟨?_, ?_, ?_⟩
  · rw [show t = _ from hsend]
    exact hacc
  · rw [show t = _ from hsend]
    exact h.store_eq
  · rw [show t = _ from hsend]
    simp only [h.unacked_eq, hid, hret, sendGen, windowOfPeer, h.peerWindows_eq]

/-- Settles O9: in local HBM the bytes are stored at once; elsewhere the write joins those that await their acknowledgement. -/
theorem globalStoresWriteOrSendTheirBytes : Obligations.GlobalStoresWriteOrSendTheirBytes := by
  unfold Obligations.GlobalStoresWriteOrSendTheirBytes
  rintro s d a b z o c _ rfl
  have hexec := exec_stg d a b z o c s
  have hlen : (leBytes (2 ^ z.toNat) (s.reg d).toNat).length = 2 ^ z.toNat := length_leBytes ..
  have hn : 2 ^ z.toNat ≤ 2 ^ 42 := Nat.pow_le_pow_right (by decide) (by have := z.isLt; omega)
  refine ⟨?_, ?_, ?_, ?_, ?_, ?_, ?_⟩
  · intro pa hpa hrel hlost
    refine completes_of_userOp hexec ?_
    rw [storeGlobal_ready hpa hrel, hlost, if_neg Bool.false_ne_true]
    have honly := globalTouch_only s (s.reg a + s.reg b).toNat
    by_cases hr : region pa = 0
    · have hu : sendWrite (globalTouch s (s.reg a + s.reg b).toNat) 0 (s.reg a + s.reg b).toNat pa (leBytes (2 ^ z.toNat) (s.reg d).toNat)
          = physStore (physTouch (globalTouch s (s.reg a + s.reg b).toNat) pa (2 ^ z.toNat) true) pa (leBytes (2 ^ z.toNat) (s.reg d).toNat) := by
        rw [sendWrite, if_pos hr, physWrite, hlen]
      have htouch := honly.trans (physTouch_only (globalTouch s (s.reg a + s.reg b).toNat) pa (2 ^ z.toNat) true).touched
      have hacc := htouch.accessed.trans (physStore_accessed _ pa (leBytes (2 ^ z.toNat) (s.reg d).toNat))
      rw [hu, if_pos hr]
      refine ⟨fun r _ => hacc.reg_eq r, hacc.committed4, hacc.onlyGlobal_commit4, hacc.loads_eq, fun j hj => ?_, fun x hx => ?_, ?_⟩
      · refine (memByte_of_store (commit4_store _) _).trans ((physStore_inside hr (by rwa [hlen]) (hlen.symm ▸ hn)).trans ?_)
        rw [getElem_leBytes]
        rfl
      · refine (memByte_of_store (commit4_store _) _).trans ((physStore_outside fun j hj => ?_).trans (memByte_of_store htouch.store_eq x))
        rw [sameCell_of_store htouch.store_eq]
        exact hx j (hlen ▸ hj)
      · exact (physStore_unacked ..).trans htouch.unacked_eq
    · obtain ⟨hacc, hstore, hunacked⟩ := sendWrite_far honly hr 0 (s.reg a + s.reg b).toNat (leBytes (2 ^ z.toNat) (s.reg d).toNat)
      rw [if_neg hr]
      exact ⟨fun r _ => hacc.reg_eq r, hacc.committed4, hacc.onlyGlobal_commit4, hacc.loads_eq,
        sameMem_of_store ((commit4_store _).trans hstore), hunacked⟩
  · intro pa hpa hrel hlost
    refine trapsLeaving_of_userOp hexec fun ht => ?_
    rw [storeGlobal_ready hpa hrel, hlost, if_pos rfl]
    exact trapLost_now ht
  · intro pa hpa ho hrel
    exact completes_of_userOp hexec (storeGlobal_waits hpa ho hrel)
  · intro hlt hal htr
    exact asksForPage_of_userOp hexec (by decide) (storeGlobal_stops (globalPa_notPresent hlt hal htr))
  · intro hge
    refine trapsLeaving_beyond hge (trapsLeaving_of_userOp hexec fun ht => ?_)
    exact (storeGlobal_stops (globalPa_beyond hge)).trans (trapG_refused (by decide) ht)
  · intro hlt hal
    exact trapsWith_of_userOp hexec (storeGlobal_stops (globalPa_misaligned hlt hal)) rfl
  · intro hlt hal htr
    refine trapsLeaving_of_userOp hexec fun ht => ?_
    exact (storeGlobal_stops (globalPa_permission hlt hal htr)).trans (trapG_refused (by decide) ht)

end Sys2Proof.Machine
end

section
/-! Reads and writes of control registers (R161, R162, R195 to R198). -/
namespace Sys2Proof.Machine

theorem exec_crd (d : Reg) (n : BitVec 12) (s : State) : exec (.crd d n) s = userOp (.crd d n) s fun s =>
    if waitsForFlags n.toNat && !s.g.bq.isEmpty then stall s
    else
      let (v, s) := readControl s n.toNat
      (s.setReg d v).commit4 := rfl

/-- A read of EFLAGS or an FX register waits for the queue (R92). -/
theorem waitsForFlags_iff (n : Nat) : waitsForFlags n = true ↔ 0x15 ≤ n ∧ n ≤ 0x1A := by simp [waitsForFlags]

/-- Where the flags are not asked for, or the queue is empty, an access of a control register does not wait. -/
theorem flagsReady {n : Nat} {s : State} (h : 0x15 ≤ n → n ≤ 0x1A → s.g.bq = []) : (waitsForFlags n && !s.g.bq.isEmpty) = false := by
  by_cases hw : waitsForFlags n = true
  · obtain ⟨hlo, hhi⟩ := (waitsForFlags_iff n).mp hw
    simp [h hlo hhi]
  · simp [hw]

theorem readControl_other {n : Nat} (s : State) (h : n ≠ 0x040) : readControl s n = (s.g.control n, s) := if_neg h

theorem readControl_cycle (s : State) : readControl s 0x040 = (w64 (dieCycle s s.g.lead), tickDie s s.g.lead) := rfl

/-- The die's count as the read leaves it, and those of the other dies (R22). -/
theorem tickDie_cycles (s : State) (die k : Nat) :
    mget 0 (tickDie s die).cycles k = if k = die then dieCycle s die else mget 0 s.cycles k := mget_mset ..

/-- What a table of the registers' values says of one of them. -/
theorem control_of_pair (g : Gang) (n : Nat) (keys : List Nat) : ∀ p ∈ keys.map (fun k => (k, g.control k)), p.1 = n → g.control n = p.2 := by
  rintro _ hp rfl
  obtain ⟨k, -, rfl⟩ := List.mem_map.mp hp
  rfl

/-- Settles O11: every register but CYCLE is read as it stands, and a number of no register is no legal encoding. -/
theorem controlRegisterReadsReturnTheRegister : Obligations.ControlRegisterReadsReturnTheRegister := by
  unfold Obligations.ControlRegisterReadsReturnTheRegister
  intro s d n
  refine ⟨fun hn => completes_of_userOp (exec_crd d n s) ?_, fun hlo hhi hbq => completes_of_userOp (exec_crd d n s) ?_,
    fun hn hflags => completes_of_userOp (exec_crd d n s) ?_, fun _ _ _ _ _ _ _ _ ht => exec_illegal rfl ?_ ht⟩
  · have hw : (waitsForFlags 0x040 && !s.g.bq.isEmpty) = false := flagsReady (by omega)
    obtain ⟨hd, hregs, hcommit, hbytes, -⟩ := writesReg_commit4 (tickDie s s.g.lead) d (w64 (dieCycle s s.g.lead))
    have hcycles : ∀ k, mget 0 (((tickDie s s.g.lead).setReg d (w64 (dieCycle s s.g.lead))).commit4).cycles k
        = if k = s.g.lead then dieCycle s s.g.lead else mget 0 s.cycles k := tickDie_cycles s s.g.lead
    simp only [hn, hw, readControl_cycle, Bool.false_eq_true, if_false]
    refine ⟨?_, hregs, hcommit, hbytes, ?_, fun die hdie => ?_⟩
    · rw [hcycles, if_pos rfl]
      exact hd
    · rw [hcycles, if_pos rfl]
      exact Nat.le_add_right ..
    · rw [hcycles, if_neg hdie]
  · have hw : waitsForFlags n.toNat = true := (waitsForFlags_iff _).mpr ⟨hlo, hhi⟩
    simp [hw, hbq]
  · simp only [flagsReady hflags, readControl_other s hn]
    refine ⟨s.g.control n.toNat, writesReg_commit4 .., ?_⟩
    exact control_of_pair s.g n.toNat [0x000, 0x001, 0x002, 0x003, 0x004, 0x005, 0x006, 0x007, 0x010, 0x011, 0x012, 0x013, 0x014, 0x015, 0x016,
      0x017, 0x018, 0x019, 0x01A, 0x020, 0x021, 0x022, 0x030, 0x032, 0x041, 0x050, 0x051, 0x052, 0x053, 0x054, 0x055, 0x056, 0x057]
  · have : ctlAssigned n.toNat = false := by
      simp only [ctlAssigned, Bool.or_eq_false_iff, Bool.and_eq_false_iff, decide_eq_false_iff_not, beq_eq_false_iff_ne]
      omega
    exact this

end Sys2Proof.Machine
end

section
/-! Writes of control registers (R88, R91, R195 to R197). -/
namespace Sys2Proof.Machine

/-! ### Fields of words -/

/-- A field of a word in its place is the word under the field's mask. -/
theorem w64_bitsOf (v : Word) (lo w : Nat) : w64 (bitsOf v.toNat lo w * 2 ^ lo) = v &&& w64 ((2 ^ w - 1) * 2 ^ lo) := by
  apply BitVec.eq_of_getLsbD_eq
  intro i hi
  simp only [w64, bitsOf, BitVec.getLsbD_and, BitVec.getLsbD_ofNat, hi, decide_true, Bool.true_and, Nat.testBit_mul_two_pow,
    Nat.testBit_mod_two_pow, Nat.testBit_div_two_pow, Nat.testBit_two_pow_sub_one]
  by_cases hlo : lo ≤ i
  · rw [Nat.sub_add_cancel hlo]
    simp [hlo, BitVec.getLsbD, Bool.and_comm]
  · simp [hlo]

/-- Words under masks with no bit in common add up to their disjunction. -/
theorem and_add_and (x y : Word) {m n : Word} (h : m &&& n = 0) : (x &&& m) + (y &&& n) = (x &&& m) ||| (y &&& n) := by
  rw [BitVec.add_eq_or_of_and_eq_zero]
  calc (x &&& m) &&& (y &&& n) = (x &&& y) &&& (m &&& n) := by ac_rfl
    _ = 0#64 := by rw [h]; exact BitVec.and_zero

/-- ECTRL stores its fields, and its RM only where that is no reserved mode (R88). -/
theorem ectrlWrite_eq (old v : Word) : ectrlWrite old v =
    if v.toNat % 8 ≤ 5 then v &&& 0xFFFFFFFFFFFF03F7 else (v &&& 0xFFFFFFFFFFFF03F0) ||| (old &&& 7) := by
  have hrm (x : Word) : w64 (x.toNat % 8) = x &&& 7 := by simpa [bitsOf] using w64_bitsOf x 0 3
  have hmid : w64 (bitsOf v.toNat 4 6 * 16) = v &&& 0x3F0 := w64_bitsOf v 4 6
  have hhigh : w64 (bitsOf v.toNat 16 48 * 2 ^ 16) = v &&& 0xFFFFFFFFFFFF0000 := w64_bitsOf v 16 48
  have hsum (x : Word) : w64 (x.toNat % 8 + bitsOf v.toNat 4 6 * 16 + bitsOf v.toNat 16 48 * 2 ^ 16)
      = (v &&& 0xFFFFFFFFFFFF03F0) ||| (x &&& 7) := by
    calc _ = w64 (x.toNat % 8) + w64 (bitsOf v.toNat 4 6 * 16) + w64 (bitsOf v.toNat 16 48 * 2 ^ 16) := by
          simp only [w64, BitVec.ofNat_add]
      _ = (x &&& 7) + ((v &&& 0x3F0) + (v &&& 0xFFFFFFFFFFFF0000)) := by rw [hrm, hmid, hhigh, BitVec.add_assoc]
      _ = (x &&& 7) + (v &&& 0xFFFFFFFFFFFF03F0) := by rw [and_add_and v v rfl, ← BitVec.and_or_distrib_left]; rfl
      _ = _ := by rw [and_add_and x v rfl, BitVec.or_comm]
  unfold ectrlWrite
  split
  · rw [hsum, ← BitVec.and_or_distrib_left]
    rfl
  · exact hsum old

/-- Writing SS replaces bit 5 of GSTAT (R196). -/
theorem gstat_ss (g : Gang) (v : Word) : { g with ss := bit v 5 }.gstat = (g.gstat &&& ~~~0x20) ||| (v &&& 0x20) := by
  have hbit (x : Word) : (x &&& 0x20).toNat = 32 * (x.toNat / 32 % 2) := by
    have h : w64 (bitsOf x.toNat 5 1 * 2 ^ 5) = x &&& 0x20 := w64_bitsOf x 5 1
    rw [← h]
    simp [w64, bitsOf]
    omega
  have hdisjoint : (g.gstat &&& ~~~0x20) ||| (v &&& 0x20) = (g.gstat &&& ~~~0x20) + (v &&& 0x20) := (and_add_and g.gstat v rfl).symm
  have hsplit := congrArg BitVec.toNat (and_not_add_and g.gstat 0x20)
  have hss : b2n (bit v 5) = v.toNat / 32 % 2 := by
    unfold b2n bit
    split <;> simp_all
  have hnew : { g with ss := bit v 5 }.gstat = w64 (b2n g.pl + 4 * b2n g.fv + 8 * b2n g.db + 16 * b2n g.asyncHeld
      + 32 * b2n (bit v 5) + 256 * g.bq.length + 2 ^ 16 * g.rqv + 2 ^ 24 * g.rqr) := rfl
  rw [hdisjoint, hnew]
  apply BitVec.eq_of_toNat_eq
  rw [BitVec.toNat_add, hbit] at *
  simp only [Gang.gstat, w64, BitVec.toNat_ofNat, hss] at *
  have hb (b : Bool) : b2n b ≤ 1 := by cases b <;> decide
  have h1 := hb g.pl
  have h2 := hb g.fv
  have h3 := hb g.db
  have h4 := hb g.asyncHeld
  have h5 := hb g.ss
  omega

/-! ### Setting a control register -/

/-- What storing a control register may change. -/
theorem Gang.setControl_only (g : Gang) (n : Nat) (v : Word) :
    let h := g.setControl n v
    h = { g with
      ss := h.ss, gcause := h.gcause, gepc := h.gepc, geval := h.geval, geval2 := h.geval2, gqpos := h.gqpos, gtvec := h.gtvec
      gscratch := h.gscratch, ecount := h.ecount, estart := h.estart, emask := h.emask, ectrl := h.ectrl, tcount := h.tcount
      eflags := h.eflags, blktab := h.blktab } := by
  unfold Gang.setControl
  split <;> rfl

/-- Storing a control register leaves every other one. -/
theorem Gang.control_setControl_other {g : Gang} {n m : Nat} (v : Word) (h : m ≠ n) : (g.setControl n v).control m = g.control m := by
  unfold Gang.setControl
  split
  all_goals (unfold Gang.control; split <;> first | rfl | exact absurd rfl h)

/-- Storing a control register is no register write: the registers, the commit's counts and the queue stand. -/
def State.setControl (s : State) (n : Nat) (v : Word) : State := { s with g := s.g.setControl n v }

theorem storeControl_plain {s : State} {n : Nat} (v : Word) (hconv : n ≠ 0x030) (hch : n < 0x50 ∨ 0x57 < n) :
    storeControl s n v = s.setControl n v := by
  have : ¬ (0x50 ≤ n ∧ n ≤ 0x57) := by omega
  simp [storeControl, State.setControl, hconv, this]

/-- What the writing instructions do where they do not wait. -/
theorem crxWrite_plain {i : Instr} {d a : Reg} {n : BitVec 12} {f : Word → Word → Word} {clears : Bool} {s : State} {P : State → Prop}
    (hexec : exec i s = crxWrite i d a n f clears s)
    (hconv : n.toNat ≠ 0x030) (hcycle : n.toNat ≠ 0x040) (hch : n.toNat < 0x50 ∨ 0x57 < n.toNat)
    (hflags : 0x15 ≤ n.toNat → n.toNat ≤ 0x1A → s.g.bq = [])
    (hP : P (((s.setControl n.toNat (f (s.g.control n.toNat) (s.reg a))).setReg d (s.g.control n.toNat)).commit4)) : completes i s P := by
  refine completes_of_userOp hexec ?_
  have hnot : ¬ (0x50 ≤ n.toNat ∧ n.toNat ≤ 0x57) := by omega
  simpa [hconv, flagsReady hflags, readControl_other s hcycle, storeControl_plain _ hconv hch, hnot] using hP

/-- What a register that may be written holds afterwards: each stores what its layout admits (R88, R195, R196, R241, R287). -/
theorem Gang.control_setControl_same (g : Gang) (n : Nat) (v old : Word) (hold : old = g.control n) :
    ∀ q ∈ [(0x000, (old &&& ~~~0x20) ||| (v &&& 0x20)),
      (0x013, if v.toNat % 8 ≤ 5 then v &&& 0xFFFFFFFFFFFF03F7 else (v &&& 0xFFFFFFFFFFFF03F0) ||| (old &&& 7)),
      (0x001, w64 (v.toNat % 2 ^ 9)), (0x002, v &&& ~~~3), (0x003, v), (0x004, v), (0x005, v &&& 0xFFFF00BF), (0x006, v &&& ~~~3),
      (0x007, v), (0x010, w64 (min (2 ^ 34) v.toNat)), (0x011, w64 (v.toNat % 2 ^ 48)), (0x012, v), (0x014, w64 (min 131072 v.toNat)),
      (0x015, w64 (v.toNat % 32)), (0x032, w64 (min 4096 (v.toNat % 2 ^ 13)))],
    q.1 = n → n ≠ 0x041 ∧ (g.setControl n v).control n = q.2 := by
  have hvalues {k : Nat} {w : Word} (hk : k ≠ 0x041) (h : old = g.control k → (g.setControl k v).control k = w) :
      k = n → n ≠ 0x041 ∧ (g.setControl n v).control n = w := by
    rintro rfl
    exact ⟨hk, h hold⟩
  have hplain {k : Nat} {w : Word} (hk : k ≠ 0x041) (h : (g.setControl k v).control k = w) := hvalues hk fun _ => h
  simp only [List.forall_mem_cons]
  exact ⟨hvalues (by decide) (· ▸ gstat_ss g v), hvalues (by decide) (· ▸ ectrlWrite_eq g.ectrl v), hplain (by decide) rfl,
    hplain (by decide) (setBits_low2 v), hplain (by decide) rfl, hplain (by decide) rfl, hplain (by decide) rfl,
    hplain (by decide) (setBits_low2 v), hplain (by decide) rfl, hplain (by decide) rfl, hplain (by decide) rfl, hplain (by decide) rfl,
    hplain (by decide) rfl, hplain (by decide) rfl, hplain (by decide) rfl, by simp⟩

section SetControl
variable (g : Gang) (n : Nat) (v : Word)

@[simp] theorem Gang.setControl_regs : (g.setControl n v).regs = g.regs := by rw [g.setControl_only n v]
@[simp] theorem Gang.setControl_pc : (g.setControl n v).pc = g.pc := by rw [g.setControl_only n v]
@[simp] theorem Gang.setControl_retired : (g.setControl n v).retired = g.retired := by rw [g.setControl_only n v]
@[simp] theorem Gang.setControl_held : (g.setControl n v).held = g.held := by rw [g.setControl_only n v]
@[simp] theorem Gang.setControl_stepping : (g.setControl n v).stepping = g.stepping := by rw [g.setControl_only n v]
@[simp] theorem Gang.setControl_pl : (g.setControl n v).pl = g.pl := by rw [g.setControl_only n v]
@[simp] theorem Gang.setControl_lmem : (g.setControl n v).lmem = g.lmem := by rw [g.setControl_only n v]
@[simp] theorem Gang.setControl_reg (r : Reg) : (g.setControl n v).reg r = g.reg r := by simp [Gang.reg]

end SetControl

section Effect
variable (s : State) (d : Reg) (n : Nat) (v old : Word)

/-- Nothing but control registers and what a register write changes. -/
theorem setControl_onlyControls :
    let t := ((s.setControl n v).setReg d old).commit4
    t = { s with g := { s.g with
      ss := t.g.ss, gcause := t.g.gcause, gepc := t.g.gepc, geval := t.g.geval, geval2 := t.g.geval2, gqpos := t.g.gqpos
      gtvec := t.g.gtvec, gscratch := t.g.gscratch, ecount := t.g.ecount, estart := t.g.estart, emask := t.g.emask
      ectrl := t.g.ectrl, tcount := t.g.tcount, eflags := t.g.eflags, blktab := t.g.blktab
      regs := t.g.regs, regBad := t.g.regBad, pc := t.g.pc, retired := t.g.retired, held := t.g.held, stepping := t.g.stepping } } := by
  intro t
  obtain ⟨-, -, -, -, honly⟩ := writesReg_commit4 (s.setControl n v) d old
  have hstate : t = { s with g := t.g } := rfl
  have hgang := congrArg State.g honly
  have hset : (s.setControl n v).g = _ := s.g.setControl_only n v
  rw [hstate]
  congr 1
  change t.g = _ at hgang
  generalize t.g = G at hgang ⊢
  rw [hgang, hset]

/-- What a write of a control register, a write of a register and the commit leave. -/
theorem setControl_effect :
    let t := ((s.setControl n v).setReg d old).commit4
    t.g.reg d = (if d = 0 then 0 else old) ∧ sameRegsBut [d] s t ∧ committed (s.g.pc + 4) s t ∧ sameBytes s t
      ∧ (∀ m, m ≠ 0x041 → t.g.control m = (s.g.setControl n v).control m) := by
  obtain ⟨hreg, hregs, hcommit, ⟨hmem, hfield, hlocal⟩, -⟩ := writesReg_commit4 (s.setControl n v) d old
  refine ⟨hreg, ?_, ?_, ⟨hmem, hfield, ?_⟩, fun m hm => ?_⟩
  · simpa [sameRegsBut, State.setControl] using hregs
  · simpa [committed, State.setControl] using hcommit
  · simp [sameLocal, State.setControl]
  · rw [State.commit4_g, Gang.control_commit _ _ hm, State.setReg_g, Gang.control_setReg]
    rfl

end Effect

theorem exec_cwr (d a : Reg) (n : BitVec 12) (s : State) : exec (.cwr d a n) s = crxWrite (.cwr d a n) d a n (fun _ y => y) false s := rfl
theorem exec_cset (d a : Reg) (n : BitVec 12) (s : State) :
    exec (.cset d a n) s = crxWrite (.cset d a n) d a n (fun old y => old ||| y) false s := rfl
theorem exec_cclr (d a : Reg) (n : BitVec 12) (s : State) :
    exec (.cclr d a n) s = crxWrite (.cclr d a n) d a n (fun old y => old &&& ~~~y) true s := rfl

/-- The three writing instructions differ in what they store (R195). -/
theorem exec_crxWrite (s : State) (d a : Reg) (n : BitVec 12) :
    ∀ p ∈ [(Instr.cwr d a n, s.reg a), (Instr.cset d a n, s.g.control n.toNat ||| s.reg a), (Instr.cclr d a n, s.g.control n.toNat &&& ~~~(s.reg a))],
      ∃ f clears, exec p.1 s = crxWrite p.1 d a n f clears s ∧ p.2 = f (s.g.control n.toNat) (s.reg a) := by
  simp only [List.mem_cons, List.not_mem_nil, or_false]
  rintro _ (rfl | rfl | rfl)
  · exact ⟨_, _, exec_cwr .., rfl⟩
  · exact ⟨_, _, exec_cset .., rfl⟩
  · exact ⟨_, _, exec_cclr .., rfl⟩

/-- Settles O12: the three instructions write one register and one control register, which stores what its layout admits. -/
theorem controlRegisterWritesStoreWhatTheLayoutAdmits : Obligations.ControlRegisterWritesStoreWhatTheLayoutAdmits := by
  unfold Obligations.ControlRegisterWritesStoreWhatTheLayoutAdmits
  intro s d a n y old hy hold hconv hcycle hch hflags p hp
  subst hy hold
  obtain ⟨f, clears, hexec, hv⟩ := exec_crxWrite s d a n p hp
  refine crxWrite_plain hexec hconv hcycle hch hflags ?_
  rw [← hv]
  obtain ⟨hreg, hregs, hcommit, hbytes, hcontrol⟩ := setControl_effect s d n.toNat p.2 (s.g.control n.toNat)
  refine ⟨hreg, hregs, hcommit, hbytes, fun q hq hqn => ?_, fun m hm hm' => ?_, setControl_onlyControls ..⟩
  · obtain ⟨hretired, hvalue⟩ := s.g.control_setControl_same n.toNat p.2 _ rfl q hq hqn
    exact (hcontrol _ hretired).trans hvalue
  · rw [hcontrol m hm', Gang.control_setControl_other _ hm]

end Sys2Proof.Machine
end

section
/-! Privilege, resolution reports, the read queue, and the instructions that wait for the broadcast queue and for copies (R57, R124, R141,
R204 to R206, R211, R214). -/
namespace Sys2Proof.Machine

/-! ### Traps on encoding and level -/

/-- A privileged instruction at gang level traps before its own effect (R141, R200). -/
theorem exec_privileged {i : Instr} {s : State} (hi : i.isEvent = false) (hwf : i.wf = true) (hp : i.privileged = true) (ht : trapsNow s) :
    exec i s = .next (afterTrap 2 (w64 (encodeWord i)) 0 s.g.pc s) := by
  obtain ⟨k, hk⟩ := exec_eq_userOp i s hi
  obtain ⟨-, -, -, hpl, -⟩ := id ht
  simp [hk, userOp, hwf, hp, hpl, trapS_now s 2 _ _ ht rfl]

/-- Settles O24: both checks come before the instruction's own effect. -/
theorem illegalAndPrivilegedInstructionsTrap : Obligations.IllegalAndPrivilegedInstructionsTrap :=
  fun _ _ hi ht => ⟨fun hwf => exec_illegal hi hwf ht, fun hwf hp => exec_privileged hi hwf hp ht⟩

/-! ### OWNER -/

theorem exec_owner (d a : Reg) (s : State) :
    exec (.owner d a) s = userOp (.owner d a) s fun s => (s.setReg d (ownerWord s (s.reg a))).commit4 := rfl

theorem ownerWord_beyond {s : State} {a : Word} (h : 2 ^ 32 ≤ a.toNat) : ownerWord s a = 1 := if_pos h

theorem ownerWord_resolved {s : State} {a : Word} {r : Resolved} (h : a.toNat < 2 ^ 32) (hr : resolve s.g s.offline a.toNat false = .ok r) :
    ownerWord s a = w64 (r.loc + r.own * 2 ^ 32 + r.win * 2 ^ 48 + 2 ^ 63) := by
  rw [ownerWord, if_neg (Nat.not_le.mpr h), hr]

/-- The reasons of R204. -/
def NoOwner.word : NoOwner → Word
  | .noWindow => 1 | .outsideSpan => 2 | .offlineOwner => 3 | .beyondSlice => 4 | .readOnly => 0

theorem ownerWord_unresolved {s : State} {a : Word} {e : NoOwner} (h : a.toNat < 2 ^ 32) (hr : resolve s.g s.offline a.toNat false = .error e) :
    ownerWord s a = e.word := by
  rw [ownerWord, if_neg (Nat.not_le.mpr h), hr]
  cases e <;> rfl

/-- Settles O18: OWNER writes one register, by the resolution's cases. -/
theorem ownerReportsTheResolution : Obligations.OwnerReportsTheResolution := by
  unfold Obligations.OwnerReportsTheResolution
  intro s d a
  refine completes_of_userOp (exec_owner d a s) ⟨_, writesReg_commit4 .., fun w own loc hx hr => ownerWord_resolved (r := ⟨w, own, loc⟩) hx hr, fun h => ?_,
    fun hx => ⟨fun hr => ownerWord_unresolved hx hr, fun hr => ownerWord_unresolved hx hr, fun hr => ownerWord_unresolved hx hr⟩⟩
  by_cases hx : 2 ^ 32 ≤ (s.reg a).toNat
  · exact ownerWord_beyond hx
  · exact ownerWord_unresolved (Nat.lt_of_not_le hx) (h.resolve_left hx)

/-! ### The read queue -/

theorem exec_rqpop (d : Reg) (s : State) : exec (.rqpop d) s = userOp (.rqpop d) s fun s =>
    match s.g.rq.drop s.g.rqAside with
    | [] => trapIllegal s (.rqpop d) 2
    | none :: _ => stall s
    | some v :: r => ({ s with g := { s.g with rq := s.g.rq.take s.g.rqAside ++ r } }.setReg d v).commit4 := rfl

theorem exec_rqstat (d : Reg) (s : State) :
    exec (.rqstat d) s = userOp (.rqstat d) s fun s => (s.setReg d (w64 (s.g.rqv + s.g.rqr * 256))).commit4 := rfl

/-- Settles O19: the head of the queue at this level decides. -/
theorem readQueueInstructionsPopAndCount : Obligations.ReadQueueInstructionsPopAndCount := by
  unfold Obligations.ReadQueueInstructionsPopAndCount
  intro s d
  refine ⟨fun v r hq => completes_of_userOp (exec_rqpop d s) ?_, fun r hq => completes_of_userOp (exec_rqpop d s) ?_,
    fun hq => trapsWith_of_userOp (exec_rqpop d s) ?_ rfl, completes_of_userOp (exec_rqstat d s) ?_⟩
  · obtain ⟨hreg, hregs, hcommit, hbytes, -⟩ :=
      writesReg_commit4 { s with g := { s.g with rq := s.g.rq.take s.g.rqAside ++ r } } d v
    simp only [hq]
    exact ⟨hreg, hregs, hcommit, hbytes, by simp⟩
  · simp only [hq]
  · simp only [hq]
    rfl
  · have := writesReg_commit4 s d (w64 (s.g.rqv + s.g.rqr * 256))
    simpa [Gang.rqv, Gang.rqr, Nat.mul_comm] using this

end Sys2Proof.Machine
end

section
/-! Waiting for copies and engines where none is outstanding, and where the wait goes on (R29, R124, R137, R216). -/
namespace Sys2Proof.Machine

/-! ### Idle channels -/

/-- A read of a map answers the default or the value of a listed entry. -/
theorem mget_default_or_mem {α : Type} (d : α) (m : Map α) (k : Nat) : mget d m k = d ∨ ∃ p ∈ m, p.2 = mget d m k := by
  induction m with
  | nil => exact .inl rfl
  | cons e r ih =>
    obtain ⟨k', v⟩ := e
    by_cases hk : k' = k
    · exact .inr ⟨(k', v), List.mem_cons_self, (if_pos hk).symm⟩
    · have hr : mget d ((k', v) :: r) k = mget d r k := if_neg hk
      rw [hr]
      exact ih.imp_right fun ⟨p, hp, he⟩ => ⟨p, List.mem_cons_of_mem _ hp, he⟩

/-- What holds of the default and of every listed entry holds of every read. -/
theorem mget_induction {α : Type} {P : α → Prop} {d : α} {m : Map α} (hd : P d) (hm : ∀ p ∈ m, P p.2) (k : Nat) : P (mget d m k) := by
  obtain h | ⟨p, hp, h⟩ := mget_default_or_mem d m k
  · rwa [h]
  · rw [← h]
    exact hm p hp

section Idle
variable {s : State}

theorem channel_queue_idle (h : ∀ p ∈ s.g.channels, p.2.queue = []) (ch : Nat) : (s.g.channel ch).queue = [] :=
  mget_induction (P := fun x : Channel => x.queue = []) rfl h ch

theorem runChannel_idle {ch : Nat} (h : (s.g.channel ch).queue = []) : runChannel s ch = s := by
  simp [runChannel, h]

theorem foldl_runChannel_idle (h : ∀ p ∈ s.g.channels, p.2.queue = []) (chs : List Nat) : chs.foldl runChannel s = s := by
  induction chs with
  | nil => rfl
  | cons ch chs ih => rw [List.foldl_cons, runChannel_idle (channel_queue_idle h ch), ih]

/-- Where no copy is queued, running the channels changes nothing. -/
theorem waitCopies_idle (h : ∀ p ∈ s.g.channels, p.2.queue = []) : waitCopies s = s := by
  unfold waitCopies runChannels
  rw [foldl_runChannel_idle h]
  exact ite_self s

theorem waitCopies_stepwise (h : s.lockstep = false) : waitCopies s = s := by simp [waitCopies, h]

/-- A wait for copies where none is queued, or where the steps of the channels are events of their own. -/
theorem waitCopies_eq (h : (∀ p ∈ s.g.channels, p.2.queue = []) ∨ s.lockstep = false) : waitCopies s = s :=
  h.elim waitCopies_idle waitCopies_stepwise

theorem queuesDone_idle (h : ∀ p ∈ s.g.channels, p.2.queue = []) : (s.g.channels.all fun p => queueDone s p.2.queue) = true :=
  List.all_eq_true.mpr fun p hp => by rw [h p hp, queueDone_nil]

theorem mapReady_idle (hbq : s.g.bq = []) (h : ∀ p ∈ s.g.channels, p.2.queue = []) : mapReady s = true := by
  rw [mapReady, hbq, List.isEmpty_nil, Bool.true_and]
  exact List.all_eq_true.mpr fun p hp => by rw [h p hp, queueDone_nil, Bool.or_true]

/-- No channel that a fault has stopped is found where none is stopped. -/
theorem noneStopped (h : ∀ p ∈ s.g.channels, p.2.stopped = false) (f : Nat → Bool) :
    s.g.channels.find? (fun p => p.2.stopped && f p.1) = none := by
  rw [List.find?_eq_none]
  intro p hp
  simp [h p hp]

/-- No stopped channel is looked for at gang level, nor found where none is stopped. -/
theorem noneStopped_level (h : s.g.pl = true → ∀ p ∈ s.g.channels, p.2.stopped = false) (f : Nat → Bool) :
    (if s.g.pl then s.g.channels.find? (fun p => p.2.stopped && f p.1) else none) = none := by
  split
  case isTrue hpl => exact noneStopped (h hpl) f
  case isFalse => rfl

/-- A drain goes on where what it waits for is done. -/
theorem drainThen_done {chs : List Nat} {done : State → Bool} {k : State → State} (hrun : waitCopies s = s)
    (hstop : s.g.pl = true → ∀ p ∈ s.g.channels, p.2.stopped = false) (h : done s = true) : drainThen chs done k s = k s := by
  simp only [drainThen, hrun, noneStopped_level hstop, h, if_true]

/-- A drain waits where what it waits for is not done. -/
theorem drainThen_waits {chs : List Nat} {done : State → Bool} {k : State → State} (hrun : waitCopies s = s)
    (hstop : s.g.pl = true → ∀ p ∈ s.g.channels, p.2.stopped = false) (h : done s = false) : drainThen chs done k s = stall s := by
  simp only [drainThen, hrun, noneStopped_level hstop, h, Bool.false_eq_true, if_false]

theorem copiesUnseen_done (h : copiesDone s) (chs : List Nat) : copiesUnseen s chs = false := by
  obtain ⟨-, h⟩ := h
  rw [copiesUnseen, List.any_eq_false]
  intro u hu hall
  simp only [Bool.and_eq_true, beq_iff_eq, decide_eq_true_eq] at hall
  have := h u hu hall.1.1.1
  omega

theorem copiesFenced_done (h : copiesDone s) : copiesFenced s = true := by
  rw [copiesFenced, queuesDone_idle fun p hp => (h.1 p hp).1, copiesUnseen_done h]
  rfl

/-- Where no copy waits for a pending frame, copies that are left are waited for (R220). -/
theorem copiesFenced_left (h : copiesLeft s) (hframe : s.g.pl = true → s.g.frame = []) : copiesFenced s = false := by
  have hheld : frameHeld s = [] := by
    cases hpl : s.g.pl
    · exact frameHeld_gangLevel s hpl
    · exact frameHeld_noFrame s (hframe hpl)
  rw [copiesFenced, Bool.and_eq_false_iff]
  obtain ⟨ch, -, hq⟩ | ⟨u, hu, hgang, hlo, hhi⟩ := h
  · left
    rw [List.all_eq_false]
    obtain hd | ⟨p, hp, he⟩ := mget_default_or_mem ({} : Channel) s.g.channels ch
    · exact absurd (congrArg Channel.queue hd) hq
    · refine ⟨p, hp, ?_⟩
      rw [queueDone_held s _ hheld, he, List.isEmpty_iff]
      exact hq
  · right
    rw [Bool.not_eq_false', copiesUnseen, List.any_eq_true]
    refine ⟨u, hu, ?_⟩
    have : u.origin - 1 < 8 := by omega
    simp [hgang, hlo, hhi, this]

end Idle

/-! ### Fences -/

theorem onlyCommits_commit4 (s : State) : onlyCommits (s.g.pc + 4) s s.commit4 := onlyCommits_commitAt s (s.g.pc + 4)

theorem readsReturned_iff (s : State) : readsReturned s = true ↔ s.g.loads = [] ∧ s.g.bq = [] := by
  simp [readsReturned]

theorem exec_fence (sc k : BitVec 5) (s : State) : exec (.fence sc k) s = userOp (.fence sc k) s fun s =>
    let reads := k.toNat % 2 == 1
    let writes := k.toNat / 2 % 2 == 1
    if (reads && !readsReturned s) || (writes && !releaseReady s sc.toNat) || !stgsPerformed s sc.toNat then stall s
    else if k.toNat / 4 % 2 = 1 then drainThen (List.range 8) copiesFenced State.commit4 s
    else s.commit4 := rfl

theorem exec_bqwait (s : State) : exec .bqwait s = userOp .bqwait s fun s => if s.g.bq.isEmpty then s.commit4 else stall s := rfl

/-- What a fence of mask k waits for before the copies (R124, R183, R211). -/
theorem fence_waits_iff (s : State) (sc k : BitVec 5) :
    ((k.toNat % 2 == 1 && !readsReturned s) || (k.toNat / 2 % 2 == 1 && !releaseReady s sc.toNat) || !stgsPerformed s sc.toNat) = true ↔
      ¬ ((k.toNat % 2 = 1 → s.g.loads = [] ∧ s.g.bq = []) ∧ (k.toNat / 2 % 2 = 1 → released s) ∧ storesSeen s) := by
  rw [← readsReturned_iff, ← releaseReady_iff s sc.toNat, ← stgsPerformed_iff s sc.toNat]
  simp only [Bool.or_eq_true, Bool.and_eq_true, beq_iff_eq, Bool.not_eq_true', ← Bool.not_eq_true]
  grind

/-- Settles O20: what the mask names decides, then the copies. -/
theorem fencesWaitForWhatTheyName : Obligations.FencesWaitForWhatTheyName := by
  unfold Obligations.FencesWaitForWhatTheyName
  intro s sc k performed
  have hready (hp : performed) := mt (fence_waits_iff s sc k).mp (Classical.not_not.mpr hp)
  refine ⟨fun hi hp hcopies => ?_, fun hi hp => ?_, fun hi hp hk hleft hstep hlevel => ?_, fun hi hbq => ?_, fun hi hbq => ?_⟩
  · refine completes_of_userOp (exec_fence sc k s) ?_ hi
    dsimp only
    rw [if_neg (hready hp)]
    split
    case isTrue hk =>
      have hdone := hcopies hk
      rw [drainThen_done (waitCopies_idle fun p hp => (hdone.1 p hp).1) (fun _ p hp => (hdone.1 p hp).2) (copiesFenced_done hdone)]
      exact onlyCommits_commit4 s
    case isFalse => exact onlyCommits_commit4 s
  · rw [exec_fence, userOp_of_issues hi]
    dsimp only
    rw [if_pos ((fence_waits_iff s sc k).mpr hp)]
  · rw [exec_fence, userOp_of_issues hi]
    dsimp only
    rw [if_neg (hready hp), if_pos hk, drainThen_waits (waitCopies_stepwise hstep) (fun hpl => (hlevel hpl).2)
      (copiesFenced_left hleft fun hpl => (hlevel hpl).1)]
  · refine completes_of_userOp (exec_bqwait s) ?_ hi
    rw [hbq, List.isEmpty_nil, if_pos rfl]
    exact onlyCommits_commit4 s
  · rw [exec_bqwait, userOp_of_issues hi, if_neg (by simpa using hbq)]

end Sys2Proof.Machine
end

section
/-! AWSET, WFE and YIELD (R216, R217, R362), TRAP, BRK and the debugger's steps (R219, R226). -/
namespace Sys2Proof.Machine

/-! ### Idle engines -/

section Idle
variable {s : State} {p : Nat}

theorem port_commands_idle (h : enginesDone s) (p : Nat) : (s.g.port p).commands = [] :=
  mget_induction (P := fun x : Port => x.commands = []) rfl h p

theorem findCommand_idle (h : (s.g.port p).commands = []) (eng stage : Nat) : findCommand s p eng stage = none := by
  simp [findCommand, commandsAt, h]

theorem mergeCommand_idle (h : (s.g.port p).commands = []) (write : Bool) : mergeCommand write p s = s := by
  simp [mergeCommand, findCommand_idle h]

theorem collCommand_idle (h : (s.g.port p).commands = []) (scatter : Bool) : collCommand scatter p s = s := by
  simp [collCommand, commandsAt, h]

/-- No engine finds anything to do at a port without commands. -/
theorem enginePass_idle (h : (s.g.port p).commands = []) : enginePass p s = s := by
  have h1 : reductionCommand p s = s := by simp [reductionCommand, findCommand_idle h]
  have h2 : reductionComplete p s = s := by simp [reductionComplete, findCommand_idle h]
  have h3 : mergeComplete p s = s := by simp [mergeComplete, findCommand_idle h]
  have h4 : collectiveWaitComplete p s = s := by simp [collectiveWaitComplete, collBegun, h]
  simp [enginePass, h1, h2, mergeCountPass, mergeWritePass, mergeCommand_idle h, h3, allGather, reduceScatter, collCommand_idle h, h4]

theorem runEngines_idle (h : (s.g.port p).commands = []) : runEngines p s = s := by simp [runEngines, enginePass_idle h]

theorem runAllEngines_idle (h : enginesDone s) : runAllEngines s = s := by
  have hfold (ps : List Nat) : ps.foldl (fun s p => runEngines p s) s = s := by
    induction ps with
    | nil => rfl
    | cons p ps ih => rw [List.foldl_cons, runEngines_idle (port_commands_idle h p), ih]
  exact hfold _

end Idle

/-! ### AWSET, WFE and YIELD -/

theorem exec_awset (w a b : Reg) (s : State) : exec (.awset w a b) s = userOp (.awset w a b) s fun s =>
    { s with g := { s.g with walks := mset {} s.g.walks w.toNat ⟨s.reg a, w64 ((s.reg b).toNat % 2 ^ 48), s.reg a⟩ } }.commit4 := rfl

theorem exec_wfe (s : State) : exec .wfe s = userOp .wfe s fun s =>
    let s := runAllEngines (waitCopies s)
    if s.g.ev then { s with g := { s.g with ev := false } }.commit4 else stall s := rfl

/-- The machine after YIELD has asked the gang and its cohort to halt (R217). -/
def State.askToHalt (s : State) : State :=
  { s with
    g := { s.g with preempt := true }
    others := s.others.map fun h => if s.g.cohN = 1 then h else if sameCohort h s.g && h.active then { h with preempt := true } else h }

theorem exec_yield (s : State) : exec .yield s = userOp .yield s fun s => if spanWanted s then s.askToHalt.commit4 else s.commit4 := rfl

/-- Every running member of the cohort has been asked. -/
theorem askToHalt_others {s : State} (hn : s.g.cohN ≠ 1) : ∀ h ∈ s.askToHalt.others, sameCohort h s.g = true → h.phase = .running → h.preempt = true := by
  intro h hh hco hrun
  obtain ⟨h', -, rfl⟩ := List.mem_map.mp hh
  rw [if_neg hn] at hco hrun ⊢
  split
  case isTrue => rfl
  case isFalse hc =>
    rw [if_neg hc] at hco hrun
    simp [hco, Gang.active, hrun] at hc

/-- Settles O23: each commits a change of one field, or waits. -/
theorem hintsWaitsAndYields : Obligations.HintsWaitsAndYields := by
  unfold Obligations.HintsWaitsAndYields
  intro s w a b
  refine ⟨completes_of_userOp (exec_awset w a b s) ?_, fun hcopies hengines => ?_, fun hw => completes_of_userOp (exec_yield s) ?_,
    fun hw => completes_of_userOp (exec_yield s) ?_⟩
  · obtain ⟨hregs, hcommit, hbytes, -⟩ := onlyCommits_commit4
      { s with g := { s.g with walks := mset {} s.g.walks w.toNat ⟨s.reg a, w64 ((s.reg b).toNat % 2 ^ 48), s.reg a⟩ } }
    exact ⟨mget_mset_same .., fun n hn => mget_mset_other _ _ _ _ _ hn, hregs, hcommit, hbytes, fun n hn => Gang.control_commit _ _ hn⟩
  · have hidle : runAllEngines (waitCopies s) = s := by
      rw [waitCopies_idle fun p hp => (hcopies.1 p hp).1, runAllEngines_idle hengines]
    refine ⟨fun hev => completes_of_userOp (exec_wfe s) ?_, fun hev => completes_of_userOp (exec_wfe s) ?_⟩
    · obtain ⟨hregs, hcommit, hbytes, honly⟩ := onlyCommits_commit4 { s with g := { s.g with ev := false } }
      simp only [hidle, hev, if_true]
      exact ⟨rfl, hregs, hcommit, hbytes, honly⟩
    · simp only [hidle, hev, Bool.false_eq_true, if_false]
  · rw [hw, if_neg Bool.false_ne_true]
    exact onlyCommits_commit4 s
  · obtain ⟨hregs, hcommit, hbytes, -⟩ := onlyCommits_commit4 s.askToHalt
    rw [hw, if_pos rfl]
    exact ⟨rfl, hregs, hcommit, hbytes, askToHalt_others⟩

/-! ### TRAP, BRK and the debugger -/

theorem exec_trap (l h : BitVec 5) (s : State) : exec (.trap l h) s = userOp (.trap l h) s fun s =>
    let c : Cause := ⟨11, w64 (h.toNat * 32 + l.toNat), 0, 0, 0, 0⟩
    afterWaits s fun s => takeCause { s with g := { s.g with retired := s.g.retired + 1 } } c false (s.g.pc + 4) none := rfl

theorem exec_brk (s : State) : exec .brk s = userOp .brk s fun s =>
    if !s.g.db then trapAt s ⟨12, 0, 0, 0, 0, 0⟩ s.g.pc
    else afterWaits s fun s => rotate { s with g := { s.g with phase := .svkStop } } := rfl

/-- With nothing in the queue and no fault of a bank or a copy, a cause of the instruction is taken at once (R220). -/
theorem afterWaits_empty {s : State} (take : State → State) (hbq : s.g.bq = []) (hbank : s.g.bankFault = false) : afterWaits s take = take s := by
  simp [afterWaits, hbq, hbank]

theorem exec_svkAttach (id : Nat) (on : Bool) (s : State) : exec (.svkAttach id on) s = eventOp s (svkAttach id on) := rfl
theorem exec_svkContinue (id : Nat) (s : State) : exec (.svkContinue id) s = eventOp s (svkContinue id) := rfl

/-- An event completes in its own effect. -/
theorem occurs_of_eventOp {i : Instr} {s : State} {k : State → State} {P : State → Prop} (h : exec i s = eventOp s k) (hP : P (k s)) :
    occurs i s P := fun hpower => ⟨k s, h.trans (eventOp_ready hpower k), hP⟩

theorem updGang_own (f : Gang → Gang) (s : State) : updGang s s.g.id f = { s with g := f s.g } := if_pos rfl

/-- What SVK_CONTINUE does to a gang that stands stopped: the BRK is counted, a single step is not (R226; assumption log 40). -/
theorem svkContinue_stopped {s : State} (h : s.g.phase = .svkStop) : svkContinue s.g.id s =
    { s with g := if s.g.savedCause.isSome then { s.g with phase := .running, savedCause := none, svkHeld := false }
      else { s.g.commit (s.g.pc + 4) with phase := .running, svkHeld := false } } := by
  rw [svkContinue, updGang_own]
  simp [h]

/-- Settles O26: TRAP and BRK are causes that are taken at once, the rest are changes of one gang. -/
theorem trapsAndBreakpoints : Obligations.TrapsAndBreakpoints := by
  unfold Obligations.TrapsAndBreakpoints
  intro s l h gang on
  refine ⟨fun hi ht => ?_, fun hdb => trapsWith_of_userOp (exec_brk s) ?_ rfl, fun hdb hbq hbank _ => completes_of_userOp (exec_brk s) ?_,
    occurs_of_eventOp (exec_svkAttach gang on s) ⟨fun hid => if_pos hid, fun hid => if_neg hid⟩,
    fun hstop => occurs_of_eventOp (exec_svkContinue s.g.id s) ?_⟩
  · rw [exec_trap, userOp_of_issues hi]
    dsimp only
    rw [afterWaits_now _ _ ht]
    exact congrArg Host.Outcome.next (takeCause_now { s with g := { s.g with retired := s.g.retired + 1 } } _ _ ht rfl)
  · rw [hdb]
    rfl
  · rw [hdb, Bool.not_true, if_neg Bool.false_ne_true, afterWaits_empty _ hbq hbank]
  · rw [svkContinue_stopped hstop]
    cases hsaved : s.g.savedCause with
    | none => exact ⟨rfl, fun _ _ => rfl, ⟨fun _ => rfl, fun _ => rfl, fun _ => rfl⟩, fun _ => ⟨rfl, rfl⟩, fun h => absurd rfl h⟩
    | some c =>
      exact ⟨rfl, fun _ _ => rfl, ⟨fun _ => rfl, fun _ => rfl, fun _ => rfl⟩, fun h => absurd h (Option.some_ne_none c), fun _ => ⟨rfl, rfl, rfl⟩⟩

end Sys2Proof.Machine
end

section
/-! WAITB ends the tie that a barrier puts on the gang's die (R44, R126): it changes more than a commit does. -/
namespace Sys2Proof.Machine

/-- A gang that has arrived at a barrier of its die, whose phase has completed with it: its WAITB goes on. -/
def arrivedState : State :=
  { power := .ready
    barriers := [(0, { count := 1, phase := 1 })]
    g := { id := 1, phase := .running, clusters := [0, 1, 2, 3], pc := 0x10000, arrivals := [(0, 1)], unawaited := [0] } }

theorem exec_waitb (b : BitVec 5) (s : State) : exec (.waitb b) s = userOp (.waitb b) s fun s =>
    let k := barrierKey s.g b
    barrierUsable (.waitb b) k s fun s =>
      if s.g.arriving.isSome then stall s
      else match mget 0 s.g.arrivals k with
        | 0 => trapIllegal s (.waitb b) 6
        | n + 1 =>
          if n < (barrierOf s k).phase && stgsPerformed s (effectiveScope b 0) then
            { s with g := { s.g with unawaited := s.g.unawaited.filter (· != k) } }.commit4
          else stall s := rfl

theorem issues_waitb_arrived : issues (.waitb 0) arrivedState := ⟨rfl, nofun, rfl, rfl⟩

/-- Its WAITB commits, and the barrier no longer ties the gang to its die. -/
theorem exec_waitb_arrived : exec (.waitb 0) arrivedState = .next { arrivedState with g := { arrivedState.g with unawaited := [] } }.commit4 := by
  rw [exec_waitb, userOp_of_issues issues_waitb_arrived]
  rfl

/-- Refutes O21: of WAITB it asserts that a commit is all that changes, but the barrier leaves the list of those that the gang has yet to await. -/
theorem not_barriersCountTheirMembers : ¬ Obligations.BarriersCountTheirMembers := by
  unfold Obligations.BarriersCountTheirMembers
  intro h
  obtain ⟨-, -, -, hwaitb, -⟩ := h arrivedState 0 0 0 0
  obtain ⟨hgoesOn, -⟩ := hwaitb ⟨by decide, rfl⟩ rfl
  obtain ⟨t, hexec, -, -, -, honly⟩ := hgoesOn 0 rfl (by decide) (by intro u hu; cases hu) issues_waitb_arrived
  rw [exec_waitb_arrived] at hexec
  obtain rfl := Host.Outcome.next.inj hexec
  have : ([] : List Nat) = [0] := congrArg (fun u : State => u.g.unawaited) honly
  exact absurd this (by decide)

end Sys2Proof.Machine
end

section
/-! Signals (R215, R216). -/
namespace Sys2Proof.Machine

/-! ### The two instructions -/

/-- What a SIGWAIT does once it goes on to its own effect and the copies have run (R215). -/
def State.awaitSignal (s : State) (cond : Nat) (ea y : Word) : State :=
  match signalPa s ea .read 0 with
  | .error e => globalStop s ea e
  | .ok pa => match physRead (useG s ea.toNat) pa 8 with
    | (_, none) => trapLost s ea 0 pa 8 false
    | (s', some bs) => if condMet cond (w64 (leNat bs)) y && stgsPerformed s 3 then s'.commit4 else stall s

theorem exec_sigwait (c a b : BitVec 5) (s : State) : exec (.sigwait c a b) s = userOp (.sigwait c a b) s fun s =>
    (waitCopies s).awaitSignal c.toNat ((waitCopies s).reg a) ((waitCopies s).reg b) := rfl

/-- What a SIGPOST does once it goes on to its own effect (R215, R216). -/
def State.postSignal (s : State) (c b : BitVec 5) (ea : Word) : State :=
  match signalPa s ea .write 2 with
  | .error e => globalStop s ea e
  | .ok pa =>
    if !releaseReady s 3 then stall s
    else match physRead (useG s ea.toNat) pa 8 with
      | (_, none) => trapLost s ea 2 pa 8 false
      | (s, some bs) =>
        (signalEvents (physStore s pa (leBytes 8 (if c = 0 then (leNat bs + (s.reg b).toNat) % 2 ^ 64 else (s.reg b).toNat)))).commit4

theorem exec_sigpost (c a b : BitVec 5) (s : State) :
    exec (.sigpost c a b) s = userOp (.sigpost c a b) s fun s => s.postSignal c b (s.reg a) := rfl

section Signal
variable {s : State} {ea y : Word} {pa : Nat}

theorem signalPa_local {acc : Access} {code : Nat} (h : globalPa s ea 8 acc code = .ok pa) (hr : region pa = 0) :
    signalPa s ea acc code = .ok pa := by simp [signalPa, h, hr]

theorem signalPa_far {acc : Access} {code : Nat} (h : globalPa s ea 8 acc code = .ok pa) (hr : region pa ≠ 0) :
    signalPa s ea acc code = .error (.trap 8 code) := by simp [signalPa, h, hr]

theorem signalPa_stops {acc : Access} {code : Nat} {e : GStop} (h : globalPa s ea 8 acc code = .error e) :
    signalPa s ea acc code = .error e := by simp [signalPa, h]

theorem condMet_iff (cond : Nat) (v w : Word) :
    condMet cond v w = true ↔ match cond with | 0 => w.toNat ≤ v.toNat | 1 => v = w | _ => v ≠ w := by
  unfold condMet
  split <;> simp [BitVec.ule]

/-- The signal's word, read where it stands. -/
theorem physRead_signal {bs : List Byte} (h : (physRead (useG s ea.toNat) pa 8).2 = some bs) :
    physRead (useG s ea.toNat) pa 8 = (physTouch (useG s ea.toNat) pa 8, some bs) := Prod.ext rfl h

theorem signal_sound {bs : List Byte} (hs : sound s = true) (h : (physRead (useG s ea.toNat) pa 8).2 = some bs) : bs = memBytes s pa 8 := by
  have hu : sound (useG s ea.toNat) = true := hubUse_sound hs ..
  rw [physRead_snd_sound hu, memBytes_of_store (useG_store ..)] at h
  exact (Option.some.inj h).symm

/-- What reading the signal leaves. -/
theorem signal_touched (s : State) (ea : Word) (pa : Nat) : onlyTouched s (physTouch (useG s ea.toNat) pa 8) :=
  (hubUse_only s s.g.lead s.g.pasid ea.toNat).touched.trans (physTouch_only (useG s ea.toNat) pa 8 false).touched

/-- A SIGWAIT whose signal can be read (R215). -/
theorem awaitSignal_read {bs : List Byte} {cond : Nat} (hpa : globalPa s ea 8 .read 0 = .ok pa) (hr : region pa = 0)
    (hread : (physRead (useG s ea.toNat) pa 8).2 = some bs) : s.awaitSignal cond ea y =
      if condMet cond (w64 (leNat bs)) y && stgsPerformed s 3 then (physTouch (useG s ea.toNat) pa 8).commit4 else stall s := by
  simp only [State.awaitSignal, signalPa_local hpa hr, physRead_signal hread]

theorem awaitSignal_stops {cond : Nat} {e : GStop} (h : signalPa s ea .read 0 = .error e) : s.awaitSignal cond ea y = globalStop s ea e := by
  simp only [State.awaitSignal, h]

/-- The word that SIGPOST stores: the register's, or its sum with the signal (R215). -/
def postedWord (c : BitVec 5) (old : Nat) (y : Word) : Nat := if c = 0 then (old + y.toNat) % 2 ^ 64 else y.toNat

theorem postedWord_eq (c : BitVec 5) (old : Nat) (y : Word) : postedWord c old y = (if c = 0 then old + y.toNat else y.toNat) % 2 ^ 64 := by
  unfold postedWord
  split
  · rfl
  · exact (Nat.mod_eq_of_lt y.isLt).symm

/-- A SIGPOST whose signal can be read and whose releases are done. -/
theorem postSignal_ready {bs : List Byte} {c b : BitVec 5} (hpa : globalPa s ea 8 .write 2 = .ok pa) (hr : region pa = 0) (hrel : released s)
    (hread : (physRead (useG s ea.toNat) pa 8).2 = some bs) : s.postSignal c b ea =
      (signalEvents (physStore (physTouch (useG s ea.toNat) pa 8) pa (leBytes 8 (postedWord c (leNat bs) (s.reg b))))).commit4 := by
  have hreg : (physTouch (useG s ea.toNat) pa 8).reg b = s.reg b := (signal_touched s ea pa).accessed.reg_eq b
  simp only [State.postSignal, signalPa_local hpa hr, (releaseReady_iff s 3).mpr hrel, Bool.not_true, Bool.false_eq_true, if_false,
    physRead_signal hread, hreg, postedWord]

theorem postSignal_waits {c b : BitVec 5} (hpa : globalPa s ea 8 .write 2 = .ok pa) (hr : region pa = 0) (hrel : ¬ released s) :
    s.postSignal c b ea = stall s := by
  have : releaseReady s 3 = false := by rwa [← Bool.not_eq_true, releaseReady_iff]
  simp only [State.postSignal, signalPa_local hpa hr, this, Bool.not_false, if_true]

theorem postSignal_stops {c b : BitVec 5} {e : GStop} (h : signalPa s ea .write 2 = .error e) : s.postSignal c b ea = globalStop s ea e := by
  simp only [State.postSignal, h]

theorem onlyAccessed.sameField {s t : State} (h : onlyAccessed s t) : sameField s t := fun _ => by
  unfold onlyAccessed at h
  rw [h]

theorem onlyAccessed.sameLocal {s t : State} (h : onlyAccessed s t) : sameLocal s t := fun _ => by rw [h.g_eq]

/-- The eight bytes of a word that a store has left read as that word. -/
theorem memNat_physStore (s : State) {pa : Nat} (hr : region pa = 0) {v : Nat} (hv : v < 2 ^ 64) :
    memNat (physStore s pa (leBytes 8 v)) pa 8 = v := by
  have hbytes : memBytes (physStore s pa (leBytes 8 v)) pa 8 = leBytes 8 v := by
    rw [memBytes_eq]
    refine List.ext_getElem (by simp [length_leBytes]) fun j hj hj' => ?_
    rw [List.getElem_map, List.getElem_range]
    exact physStore_inside hr hj' (by rw [length_leBytes]; decide)
  rw [memNat, hbytes, leNat_leBytes 8 v hv]

end Signal

/-- What the commit of a SIGPOST leaves, whose store has been made: every gang learns of it (R216). -/
theorem signalEvents_effect {s u : State} {pa v : Nat} (hacc : onlyAccessed s u) (hword : memNat u pa 8 = v)
    (hkept : ∀ x, (∀ j < 8, sameCell s x (pa + j) = false) → memByte u x = memByte s x) :
    let t := (signalEvents u).commit4
    sameRegsBut [] s t ∧ committed (s.g.pc + 4) s t ∧ sameField s t ∧ sameLocal s t ∧ memNat t pa 8 = v ∧ memKept pa 8 s t
      ∧ t.g.ev = true ∧ ∀ h ∈ t.others, h.ev = true := by
  refine ⟨fun r _ => hacc.reg_eq r, hacc.committed4, hacc.sameField, hacc.sameLocal, hword, hkept, rfl, fun h hh => ?_⟩
  obtain ⟨h', -, rfl⟩ := List.mem_map.mp hh
  rfl

/-! ### The obligation -/

/-- An access of a signal that stops, by its instruction: SIGWAIT reads, SIGPOST stores with the access code of an AMO (assumption log 44). -/
theorem signal_stops {s : State} {c a b : BitVec 5} (hcopies : copiesDone s) :
    ∀ p ∈ [(Instr.sigwait c a b, Access.read, 0), (Instr.sigpost c a b, Access.write, 2)],
      p.2.2 < 4 ∧ ∃ k, exec p.1 s = userOp p.1 s k ∧ ∀ e, signalPa s (s.reg a) p.2.1 p.2.2 = .error e → k s = globalStop s (s.reg a) e := by
  simp only [List.mem_cons, List.not_mem_nil, or_false]
  rintro _ (rfl | rfl)
  · refine ⟨show 0 < 4 by decide, _, exec_sigwait c a b s, fun e he => ?_⟩
    rw [waitCopies_idle fun p hp => (hcopies.1 p hp).1]
    exact awaitSignal_stops he
  · exact ⟨show 2 < 4 by decide, _, exec_sigpost c a b s, fun e he => postSignal_stops he⟩

/-- Settles O22: a signal is read where it stands; SIGPOST then stores its word, and tells every gang. -/
theorem signalsAreAwaitedAndPosted : Obligations.SignalsAreAwaitedAndPosted := by
  unfold Obligations.SignalsAreAwaitedAndPosted
  rintro s c a b _ _ rfl rfl
  refine ⟨fun pa bs hpa hr hcopies hread => ?_, fun pa bs hpa hr hrel hread => ?_, fun pa hpa hr hrel => ?_, fun p hp hcopies => ?_⟩
  · have hrun : waitCopies s = s := waitCopies_idle fun p hp => (hcopies.1 p hp).1
    have hmet := condMet_iff c.toNat (w64 (leNat bs)) (s.reg b)
    refine ⟨fun hh => signal_sound hh.1 hread, fun hm hseen => completes_of_userOp (exec_sigwait c a b s) ?_,
      fun hm => completes_of_userOp (exec_sigwait c a b s) ?_⟩
    · rw [hrun, awaitSignal_read hpa hr hread, hmet.mpr hm, (stgsPerformed_iff s 3).mpr hseen, Bool.and_self, if_pos rfl]
      have honly := signal_touched s (s.reg a) pa
      exact ⟨fun r _ => honly.accessed.reg_eq r, honly.accessed.committed4, honly.sameBytes, honly.accessed.onlyGlobal_commit4⟩
    · rw [hrun, awaitSignal_read hpa hr hread, if_neg]
      rw [Bool.and_eq_true, hmet, stgsPerformed_iff]
      exact Classical.not_and_iff_not_or_not.mpr hm
  · refine ⟨fun hh => signal_sound hh.1 hread, completes_of_userOp (exec_sigpost c a b s) ?_⟩
    rw [postSignal_ready hpa hr hrel hread]
    have honly := signal_touched s (s.reg a) pa
    have hacc := honly.accessed.trans (physStore_accessed (physTouch (useG s (s.reg a).toNat) pa 8) pa (leBytes 8 (postedWord c (leNat bs) (s.reg b))))
    have hlen : (leBytes 8 (postedWord c (leNat bs) (s.reg b))).length = 8 := length_leBytes ..
    have hword := memNat_physStore (physTouch (useG s (s.reg a).toNat) pa 8) hr (v := postedWord c (leNat bs) (s.reg b))
      (by rw [postedWord_eq]; exact Nat.mod_lt _ (by decide))
    have hkept (x : Nat) (hx : ∀ j < 8, sameCell s x (pa + j) = false) :=
      (physStore_outside (bs := leBytes 8 (postedWord c (leNat bs) (s.reg b))) fun j hj => by
        rw [sameCell_of_store honly.store_eq]
        exact hx j (hlen ▸ hj)).trans (memByte_of_store honly.store_eq x)
    rw [postedWord_eq] at hword hkept hacc ⊢
    exact signalEvents_effect hacc hword hkept
  · exact completes_of_userOp (exec_sigpost c a b s) (postSignal_waits hpa hr hrel)
  · obtain ⟨hcode, k, hexec, hstop⟩ := signal_stops (c := c) (b := b) hcopies p hp
    refine ⟨fun hge => ?_, fun hlt hal => ?_, fun pa hpa hr => ?_⟩
    · refine trapsLeaving_beyond hge (trapsLeaving_of_userOp hexec fun ht => ?_)
      exact (hstop _ (signalPa_stops (globalPa_beyond hge))).trans (trapG_refused hcode ht)
    · exact trapsWith_of_userOp hexec (hstop _ (signalPa_stops (globalPa_misaligned hlt hal))) rfl
    · refine trapsLeaving_of_userOp hexec fun ht => ?_
      exact (hstop _ (signalPa_far hpa hr)).trans (trapG_refused hcode ht)

end Sys2Proof.Machine
end

section
/-! Starts, minimal mode, the loss of power, recovery, the hand-over and attestation (R375, R437 to R443, R447). -/
namespace Sys2Proof.Machine

/-! ### A scheduling pass with nothing to schedule -/

theorem levelPass_idle {s : State} (h : resumeList s = []) (level : Nat) : levelPass [] (s, [], []) level = (s, [], []) := by
  simp [levelPass, resumeLevel, levelOrder, h]

theorem foldl_levelPass_idle {s : State} (h : resumeList s = []) (levels : List Nat) : levels.foldl (levelPass []) (s, [], []) = (s, [], []) := by
  induction levels with
  | nil => rfl
  | cons l ls ih => rw [List.foldl_cons, levelPass_idle h, ih]

/-- A pass over no queue, no reservation and no halted gang only counts its heartbeat (R427; assumption log 6). -/
theorem schedulingPass_idle {s : State} (hpower : s.power = .ready) (hfrozen : s.frozen = false) (hqueues : s.queues = [])
    (hres : s.reservations = []) (hhalted : resumeList s = []) : schedulingPass s = { s with heartbeats := s.heartbeats + 1 } := by
  have hqueues' : { s with heartbeats := s.heartbeats + 1 }.queues = [] := hqueues
  have hres' : { s with heartbeats := s.heartbeats + 1 }.reservations = [] := hres
  have hhalted' : resumeList { s with heartbeats := s.heartbeats + 1 } = [] := hhalted
  rw [schedulingPass, if_neg (Classical.not_not.mpr hpower), if_neg (by rw [hfrozen]; exact Bool.false_ne_true)]
  generalize { s with heartbeats := s.heartbeats + 1 } = u at hqueues' hres' hhalted' ⊢
  have heval : evalQueues u = (u, []) := by simp [evalQueues, hqueues']
  have hstale : staleReservations [] u = u := by
    cases u
    cases hres'
    rfl
  have hevict : evictFor [] u = u := by simp [evictFor, hhalted']
  simp [heval, hstale, hevict, reservedPass, -List.foldl_cons, foldl_levelPass_idle hhalted', reservePass, sortBy]

/-! ### Starts -/

theorem exec_powerOnReset (x : StartInputs) (s : State) : exec (.powerOnReset x) s = .next (powerOnReset x s) := rfl
theorem exec_startTimeout (s : State) : exec .startTimeout s = .next (if s.power = .starting then failStart 3 s else s) := rfl
theorem exec_powerInputRemoved (mid : Bool) (s : State) : exec (.powerInputRemoved mid) s = .next (powerInputRemoved mid s) := rfl

/-- The stacks that do not train (R375, R437). -/
def untrainedStacks (x : StartInputs) : List Nat := (List.range 12).filter fun k => x.untrained.contains k

/-- A failed start, by its reason (R437, R438). -/
def startFailed (s : State) (why : Nat) (t : State) : Prop :=
  t.power = .failed ∧ t.boot.fails = s.boot.fails + 1 ∧ t.boot.reason = why ∧ t.boot.keyHeld = false

theorem startFailed_of_boot {s u : State} (why : Nat) (h : u.boot.fails = s.boot.fails) : startFailed s why (failStart why u) :=
  ⟨rfl, congrArg (· + 1) h, rfl, rfl⟩

/-- What a stack that is lost changes besides the stacks' status, the layout and the report of it. -/
theorem loseStack_only (k why : Nat) (s : State) : loseStack k why s = { s with
    hbmStat := (loseStack k why s).hbmStat, parity := (loseStack k why s).parity, cycles := (loseStack k why s).cycles
    fresh := (loseStack k why s).fresh, eventFrames := (loseStack k why s).eventFrames } := by
  unfold loseStack
  dsimp only
  split
  · rfl
  · split <;> rfl

theorem trainStacks_only (x : StartInputs) (s : State) : trainStacks x s = { s with
    hbmStat := (trainStacks x s).hbmStat, parity := (trainStacks x s).parity, cycles := (trainStacks x s).cycles
    fresh := (trainStacks x s).fresh, eventFrames := (trainStacks x s).eventFrames } := by
  unfold trainStacks
  split
  · rfl
  · exact loseStack_only ..

/-- A stack that a package with all its stacks loses (R375). -/
theorem loseStack_first {s : State} {k why : Nat} (hk : k < 12) (hstat : s.hbmStat = []) (hstate : s.parity.state = 0) :
    (loseStack k why s).parity = { s.parity with state := 1, lost := k }
      ∧ mget ({} : StackStat) (loseStack k why s).hbmStat k = { lost := true, why := why % 4 } := by
  have hx : mget ({} : StackStat) s.hbmStat k = {} := by rw [hstat]; rfl
  have hnot : ¬ (12 ≤ k ∨ (mget ({} : StackStat) s.hbmStat k).lost = true) := by
    rw [hx]
    simp [Nat.not_le.mpr hk]
  have hloss : parityLoss s.parity k = { s.parity with state := 1, lost := k } := by simp [parityLoss, hstate]
  have hne : ¬ ({ s.parity with state := 1, lost := k } : Parity).state = s.parity.state := by simp [hstate]
  rw [loseStack, if_neg hnot]
  dsimp only
  rw [hloss, if_neg hne, hx]
  exact ⟨rfl, mget_mset_same ({} : StackStat) s.hbmStat k { lost := true, why := why % 4 }⟩

section Start
variable {x : StartInputs} {s : State}

theorem trainStacks_whole (h : untrainedStacks x = []) : trainStacks x s = s := by
  unfold untrainedStacks at h
  simp only [trainStacks, h]

theorem trainStacks_one {k : Nat} (h : untrainedStacks x = [k]) : trainStacks x s = loseStack k 1 s := by
  unfold untrainedStacks at h
  simp only [trainStacks, h]

theorem lost_lt {k : Nat} (h : untrainedStacks x = [k]) : k < 12 := by
  have hk : k ∈ untrainedStacks x := by rw [h]; exact List.mem_singleton_self k
  exact List.mem_range.mp (List.mem_filter.mp hk).1

/-- The state that a start leaves for its first scheduling pass holds nothing to schedule (R437). -/
theorem becomeReady_eq {u : State} (hfrozen : u.frozen = false) (hqueues : u.queues = []) (hres : u.reservations = [])
    (hhalted : resumeList u = []) : becomeReady u = { u with
      power := .ready, field := [], fieldBad := [], ftags := [], ftagBad := [], hbmTags := [], boot := { u.boot with fails := 0 }
      heartbeats := u.heartbeats + 1 } := schedulingPass_idle rfl hfrozen hqueues hres hhalted

/-- The package with the firmware's measurement, as its boot ROM leaves it (R437). -/
def State.measured (s : State) (img : List Byte) : State :=
  { coldState s with boot := { (coldState s).boot with measurement := sha512 img, version := Config.imageVersion img, keyHeld := true } }

/-- A start whose stacks and firmware stand (R437). -/
theorem firmwareStart_stands (img : List Byte) (hself : x.selfTest = true) (hlost : ¬ 2 ≤ (untrainedStacks x).length) (hfault : x.firmwareFault = false) :
    firmwareStart x (s.measured img) = if x.inTime = false then { trainStacks x (s.measured img) with power := .starting }
      else { trainStacks x (s.measured img) with
        power := .ready, field := [], fieldBad := [], ftags := [], ftagBad := [], hbmTags := []
        boot := { (trainStacks x (s.measured img)).boot with fails := 0 }, heartbeats := (trainStacks x (s.measured img)).heartbeats + 1 } := by
  have hready := becomeReady_eq (u := trainStacks x (s.measured img)) (by rw [trainStacks_only]; rfl) (by rw [trainStacks_only]; rfl)
    (by rw [trainStacks_only]; rfl) (by rw [trainStacks_only]; rfl)
  unfold untrainedStacks at hlost
  simp only [firmwareStart, hself, hlost, hfault, hready, Bool.not_true, Bool.false_eq_true, if_false, Bool.not_eq_true']

end Start

/-- The ports that minimal mode closes are all but port 0 (R439). -/
theorem mem_minimalPorts (p : Nat) (h : p < 12) : p ∈ (List.range 11).map (· + 1) ↔ p ≠ 0 := by
  simp only [List.mem_map, List.mem_range]
  constructor
  · rintro ⟨k, -, rfl⟩
    omega
  · exact fun h0 => ⟨p - 1, by omega, by omega⟩

/-- A read of a map without the keys that fail a test. -/
theorem mget_filter_key {α : Type} (d : α) (m : Map α) (f : Nat → Bool) (k : Nat) :
    mget d (m.filter fun p => f p.1) k = if f k then mget d m k else d := by
  induction m with
  | nil => simp [mget]
  | cons e r ih =>
    obtain ⟨k', v⟩ := e
    by_cases hf : f k' = true
    · rw [List.filter_cons_of_pos (by exact hf)]
      by_cases hk : k' = k
      · simp [mget, hk, hk ▸ hf]
      · simp [mget, hk, ih]
    · rw [List.filter_cons_of_neg (by exact hf), ih]
      by_cases hk : k' = k
      · simp [hk ▸ hf]
      · simp [mget, hk]

/-- What a start that passes every check leaves, in time or not (R375, R437). -/
theorem start_stands {x : StartInputs} {s : State} {img : List Byte} (hself : x.selfTest = true) (hlost : ¬ 2 ≤ (untrainedStacks x).length)
    (hfault : x.firmwareFault = false) :
    let t := firmwareStart x (s.measured img)
    t.boot.measurement = sha512 img ∧ t.boot.version = Config.imageVersion img ∧ t.boot.keyHeld = true
      ∧ (untrainedStacks x = [] → t.parity.state = 0 ∧ t.hbmStat = [])
      ∧ (∀ k, untrainedStacks x = [k] → t.parity.state = 1 ∧ t.parity.lost = k ∧ mget ({} : StackStat) t.hbmStat k = { lost := true, why := 1 })
      ∧ if x.inTime = false then t.power = .starting
        else t.power = .ready ∧ t.boot.fails = 0 ∧ t.field = [] ∧ t.ftags = [] ∧ t.hbmTags = [] := by
  have hboot : (trainStacks x (s.measured img)).boot = (s.measured img).boot := by rw [trainStacks_only]
  have hwhole (h : untrainedStacks x = []) := trainStacks_whole (s := s.measured img) h
  have hone (k : Nat) (h : untrainedStacks x = [k]) :
      (trainStacks x (s.measured img)).parity.state = 1 ∧ (trainStacks x (s.measured img)).parity.lost = k
        ∧ mget ({} : StackStat) (trainStacks x (s.measured img)).hbmStat k = { lost := true, why := 1 } := by
    obtain ⟨hparity, hstat⟩ := loseStack_first (s := s.measured img) (why := 1) (lost_lt h) rfl rfl
    rw [trainStacks_one h, hparity]
    exact ⟨rfl, rfl, hstat⟩
  intro t
  have ht : t = _ := firmwareStart_stands img hself hlost hfault
  generalize trainStacks x (s.measured img) = u at hboot hwhole hone ht
  split
  case isTrue hin =>
    rw [if_pos hin] at ht
    rw [ht]
    exact ⟨by rw [hboot]; rfl, by rw [hboot]; rfl, by rw [hboot]; rfl, fun h => by rw [hwhole h]; exact ⟨rfl, rfl⟩, hone, rfl⟩
  case isFalse hin =>
    rw [if_neg hin] at ht
    rw [ht]
    exact ⟨by rw [hboot]; rfl, by rw [hboot]; rfl, by rw [hboot]; rfl, fun h => by rw [hwhole h]; exact ⟨rfl, rfl⟩, hone, rfl, rfl, rfl, rfl, rfl⟩

/-- The firmware's checks in their order (R437). -/
theorem firmwareStart_spec (x : StartInputs) (s : State) (img : List Byte) :
    let t := firmwareStart x (s.measured img)
    if x.selfTest = false then startFailed s 6 t
    else if 2 ≤ (untrainedStacks x).length then startFailed s 5 t
    else if x.firmwareFault = true then startFailed s 4 t
    else t.boot.measurement = sha512 img ∧ t.boot.version = Config.imageVersion img ∧ t.boot.keyHeld = true
      ∧ (untrainedStacks x = [] → t.parity.state = 0 ∧ t.hbmStat = [])
      ∧ (∀ k, untrainedStacks x = [k] → t.parity.state = 1 ∧ t.parity.lost = k ∧ mget ({} : StackStat) t.hbmStat k = { lost := true, why := 1 })
      ∧ if x.inTime = false then t.power = .starting
        else t.power = .ready ∧ t.boot.fails = 0 ∧ t.field = [] ∧ t.ftags = [] ∧ t.hbmTags = [] := by
  have hfails : (s.measured img).boot.fails = s.boot.fails := rfl
  have htrained : (trainStacks x (s.measured img)).boot.fails = s.boot.fails := by rw [trainStacks_only]; rfl
  intro t
  split
  case isTrue hself =>
    have ht : t = failStart 6 (s.measured img) := by simp only [t, firmwareStart, hself, Bool.not_false, if_true]
    exact ht ▸ startFailed_of_boot 6 hfails
  case isFalse hself =>
    rw [Bool.not_eq_false] at hself
    split
    case isTrue hlost =>
      have hlost' : 2 ≤ ((List.range 12).filter fun k => x.untrained.contains k).length := hlost
      have ht : t = failStart 5 (s.measured img) := by
        simp only [t, firmwareStart, hself, hlost', Bool.not_true, Bool.false_eq_true, if_false, if_true]
      exact ht ▸ startFailed_of_boot 5 hfails
    case isFalse hlost =>
      split
      case isTrue hfault =>
        have hlost' : ¬ 2 ≤ ((List.range 12).filter fun k => x.untrained.contains k).length := hlost
        have ht : t = failStart 4 (trainStacks x (s.measured img)) := by
          simp only [t, firmwareStart, hself, hlost', hfault, Bool.not_true, Bool.false_eq_true, if_false, if_true]
        exact ht ▸ startFailed_of_boot 4 htrained
      case isFalse hfault => exact start_stands hself hlost ((Bool.not_eq_true _).mp hfault)

/-- A start without an image gives reason 1 or 2 (R440; assumption log 2). -/
theorem failStart_noImage (s u : State) (n : Nat) (h : u.boot.fails = s.boot.fails) :
    startFailed s 1 (failStart (1 + n % 2) u) ∨ startFailed s 2 (failStart (1 + n % 2) u) := by
  obtain h0 | h1 : n % 2 = 0 ∨ n % 2 = 1 := by omega
  · rw [h0]
    exact .inl (startFailed_of_boot 1 h)
  · rw [h1]
    exact .inr (startFailed_of_boot 2 h)

/-- The boot ROM's checks of an image that it has read (R437). -/
theorem bootRom_image {x : StartInputs} {s : State} {img : List Byte} (hread : x.flashRead = true) (himg : s.boot.flash = some img) :
    bootRom x (coldState s) = if Config.imageReadable img = false then failStart 2 (coldState s)
      else if Config.signatureValid img = false then failStart 1 (coldState s) else firmwareStart x (s.measured img) := by
  have hflash : (coldState s).boot.flash = some img := himg
  unfold bootRom
  simp only [hread, Bool.not_true, Bool.false_eq_true, if_false, Bool.not_eq_true']
  split
  case h_1 h => rw [hflash] at h; cases h
  case h_2 img' h =>
    rw [hflash] at h
    cases h
    rfl

/-- Settles O52: the boot ROM's checks in their order, then the stacks, then the first pass, which finds nothing to schedule. -/
theorem startsSucceedFailOrEnterMinimalMode : Obligations.StartsSucceedFailOrEnterMinimalMode := by
  unfold Obligations.StartsSucceedFailOrEnterMinimalMode
  intro s x
  have hfails : (coldState s).boot.fails = s.boot.fails := rfl
  refine ⟨fun h => ⟨enterMinimal (coldState s), ?_, rfl, rfl, rfl, mem_minimalPorts⟩, fun h => ⟨bootRom x (coldState s), ?_, ?_⟩,
    fun h => ⟨failStart 3 s, ?_, startFailed_of_boot 3 rfl⟩, fun h => ?_, fun mid => ⟨powerInputRemoved mid s, exec_powerInputRemoved mid s, rfl,
      rfl, rfl, rfl, ?_, rfl, rfl, fun y => ?_⟩⟩
  · rw [exec_powerOnReset, powerOnReset, hfails, if_pos h]
  · rw [exec_powerOnReset, powerOnReset, hfails, if_neg (Nat.not_le.mpr h)]
  · cases hread : x.flashRead with
    | false =>
      rw [if_pos rfl, show bootRom x (coldState s) = failStart 2 (coldState s) by simp [bootRom, hread]]
      exact startFailed_of_boot 2 hfails
    | true =>
      rw [if_neg (Bool.noConfusion : ¬ true = false)]
      cases himg : s.boot.flash with
      | none =>
        rw [show bootRom x (coldState s) = failStart (1 + (freeValue (coldState s)).1.toNat % 2) (freeValue (coldState s)).2 by
          simp [bootRom, hread, show (coldState s).boot.flash = none from himg]]
        exact failStart_noImage s _ _ rfl
      | some img =>
        dsimp only
        rw [bootRom_image hread himg]
        cases hreadable : Config.imageReadable img with
        | false => exact startFailed_of_boot 2 hfails
        | true =>
          cases hvalid : Config.signatureValid img with
          | false => exact startFailed_of_boot 1 hfails
          | true => exact firmwareStart_spec x s img
  · rw [exec_startTimeout, if_pos h]
  · rw [exec_startTimeout, if_neg h]
  · cases mid <;> rfl
  · refine (mget_filter_key (0 : Byte) s.mem (fun a => region a != 0) y).trans ?_
    by_cases hy : region y = 0
    · simp [hy]
    · simp [hy]
      rfl

end Sys2Proof.Machine
end

section
/-! Recovery images, the hand-over of the firmware, and attestation reports (R439 to R443). -/
namespace Sys2Proof.Machine

/-! ### Reports -/

theorem length_padTo (n : Nat) (bs : List Byte) : (padTo n bs).length = n := by
  simp only [padTo, List.length_append, List.length_take, List.length_replicate]
  omega

/-- A field holds as much of its bytes as it has room for, and zeros after them. -/
theorem padTo_eq (n : Nat) (bs : List Byte) : padTo n bs = (bs ++ List.replicate n (0 : Byte)).take n := by
  rw [padTo, List.take_append, List.take_replicate, Nat.min_eq_left (Nat.sub_le ..)]

/-- The eight pieces of a report's body lie one after the other (R442). -/
theorem report_layout {a b c d e f g z : List Byte} (ha : a.length = 64) (hb : b.length = 64) (hc : c.length = 8) (hd : d.length = 64)
    (he : e.length = 8) (hf : f.length = 64) (hg : g.length = 8) :
    let body := a ++ b ++ c ++ d ++ e ++ f ++ g ++ z
    body.take 64 = a ∧ (body.drop 64).take 64 = b ∧ (body.drop 128).take 8 = c ∧ (body.drop 136).take 64 = d ∧ (body.drop 200).take 8 = e
      ∧ (body.drop 208).take 64 = f ∧ (body.drop 272).take 8 = g ∧ ∀ j, 280 ≤ j → body[j]? = z[j - 280]? := by
  refine ⟨?_, ?_, ?_, ?_, ?_, ?_, ?_, fun j hj => ?_⟩
  case refine_8 =>
    have hlen : (a ++ b ++ c ++ d ++ e ++ f ++ g).length = 280 := by simp only [List.length_append, ha, hb, hc, hd, he, hf, hg]
    rw [List.getElem?_append_right (hlen ▸ hj), hlen]
  all_goals simp [List.drop_append, ha, hb, hc, hd, he, hf, hg, List.drop_of_length_le]

/-- The measurement field of an image that is being handed over (R441, R442). -/
theorem padTo_pending (o : Option (List Byte)) : padTo 64 (match o with | some img => sha512 img | none => []) =
    match o with
    | some img => (sha512 img ++ List.replicate 64 (0 : Byte)).take 64
    | none => List.replicate 64 0 := by
  cases o with
  | none => rfl
  | some img => exact padTo_eq 64 _

/-- What the fields of a report's body say (R442). -/
theorem reportBody_fields (nonce : List Byte) (b : Boot) (parst : Word) :
    let body := reportBody nonce b parst
    let field := fun (bs : List Byte) => (bs ++ List.replicate 64 (0 : Byte)).take 64
    body.length = 640 ∧ body.take 64 = field nonce ∧ (body.drop 64).take 64 = field Config.deviceId
      ∧ leNat ((body.drop 128).take 8) = b.version.toNat ∧ (body.drop 136).take 64 = field b.measurement
      ∧ leNat ((body.drop 200).take 8) = (if b.pendingImage.isSome = true then 1 else 0)
      ∧ (body.drop 208).take 64 = (match b.pendingImage with | some im => field (sha512 im) | none => List.replicate 64 0)
      ∧ leNat ((body.drop 272).take 8) = parst.toNat ∧ ∀ j, 280 ≤ j → j < 640 → body.getD j 1 = 0 := by
  obtain ⟨h1, h2, h3, h4, h5, h6, h7, h8⟩ := report_layout (z := List.replicate 360 (0 : Byte)) (length_padTo 64 nonce)
    (length_padTo 64 Config.deviceId) (length_leBytes 8 b.version.toNat) (length_padTo 64 b.measurement)
    (length_leBytes 8 (b2n b.pendingImage.isSome))
    (length_padTo 64 (match b.pendingImage with | some img => sha512 img | none => [])) (length_leBytes 8 parst.toNat)
  intro body field
  refine ⟨?_, h1.trans (padTo_eq 64 nonce), h2.trans (padTo_eq 64 _), ?_, h4.trans (padTo_eq 64 _), ?_, h6.trans (padTo_pending _), ?_,
    fun j hj hj' => ?_⟩
  · simp only [body, reportBody, List.length_append, length_padTo, length_leBytes, List.length_replicate]
  · exact (congrArg leNat h3).trans (leNat_leBytes 8 _ b.version.isLt)
  · refine (congrArg leNat h5).trans ((leNat_leBytes 8 _ ?_).trans ?_) <;> cases b.pendingImage.isSome <;> decide
  · exact (congrArg leNat h7).trans (leNat_leBytes 8 _ parst.isLt)
  · have hz : (List.replicate 360 (0 : Byte))[j - 280]? = some 0 := by rw [List.getElem?_replicate, if_pos (by omega)]
    rw [List.getD_eq_getElem?_getD]
    exact congrArg (·.getD 1) ((h8 j hj).trans hz)

/-! ### The obligation -/

theorem exec_recoveryImagePush (img : List Byte) (s : State) : exec (.recoveryImagePush img) s = .next (recoveryImagePush img s) := rfl
theorem exec_firmwareHandover (x : Handover) (s : State) : exec (.firmwareHandover x) s = eventOp s (firmwareHandover x) := rfl
theorem exec_attestationRequest (nonce : List Byte) (s : State) : exec (.attestationRequest nonce) s = eventOp s (attestationRequest nonce) := rfl

/-- Settles O53: each is a change of the boot state, by the image's check or the key that is held. -/
theorem recoveryHandoverAndAttestation : Obligations.RecoveryHandoverAndAttestation := by
  unfold Obligations.RecoveryHandoverAndAttestation
  intro s img nonce
  refine ⟨fun hmin => ?_, fun hmin => ?_, fun hpend => occurs_of_eventOp (exec_firmwareHandover (.offer img) s) ?_,
    fun hpend => occurs_of_eventOp (exec_firmwareHandover .release s) ?_, fun hkey => occurs_of_eventOp (exec_attestationRequest nonce s) ?_,
    fun hkey => occurs_of_eventOp (exec_attestationRequest nonce s) ?_⟩
  · rw [exec_recoveryImagePush, recoveryImagePush, if_neg (Classical.not_not.mpr hmin)]
    simp only [Bool.not_eq_true']
  · rw [exec_recoveryImagePush, recoveryImagePush, if_pos hmin]
  · by_cases h : Config.imageReadable img = true ∧ Config.signatureValid img = true
    · rw [if_pos h]
      simp [firmwareHandover, hpend, h]
    · rw [if_neg h]
      have hrefused : (!Config.imageReadable img || !Config.signatureValid img) = true := by
        rw [← Bool.not_and, Bool.not_eq_true', ← Bool.not_eq_true, Bool.and_eq_true]
        exact h
      simp only [firmwareHandover, hpend, Option.isSome_none, Bool.false_or, hrefused, if_true]
  · simp only [firmwareHandover, hpend]
  · refine ⟨reportBody nonce s.boot s.parity.word, ?_, reportBody_fields nonce s.boot s.parity.word⟩
    rw [attestationRequest, hkey, Bool.not_true, if_neg Bool.false_ne_true]
    dsimp only
    rw [padTo_eq]
  · simp only [attestationRequest, hkey, Bool.not_false, if_true]

end Sys2Proof.Machine
end

section
/-! Device registers, ports, connections and the clock (R375, R389, R411, R421, R435, R448). -/
namespace Sys2Proof.Machine

theorem exec_portDown (p : Nat) (s : State) : exec (.portDown p) s = eventOp s (portDown p) := rfl
theorem exec_portUp (p : Nat) (s : State) : exec (.portUp p) s = eventOp s (portUp p) := rfl
theorem exec_connectionSetup (mode : DeliveryMode) (s : State) : exec (.connectionSetup mode) s = eventOp s (connectionSetup mode) := rfl
theorem exec_powerLimitThrottle (s : State) : exec .powerLimitThrottle s = eventOp s fun s => { s with clockStep := s.clockStep + 1 } := rfl
theorem exec_clockRaise (s : State) : exec .clockRaise s = eventOp s fun s => { s with clockStep := s.clockStep - 1 } := rfl
theorem exec_registerWrite (r : DevReg) (v : Word) (s : State) : exec (.registerWrite r v) s = eventOp s (registerWrite r v) := rfl

theorem sameBytes_rfl (s : State) : sameBytes s s := ⟨fun _ => rfl, fun _ => rfl, fun _ => rfl⟩

/-! ### The error limit -/

/-- A check of the error limit only puts the loss of a stack on the agenda (R375, R378). -/
theorem errorLimit_only (s : State) (k : Nat) : errorLimit s k = { s with agenda := (errorLimit s k).agenda } := by
  unfold errorLimit
  dsimp only
  split <;> rfl

theorem foldl_errorLimit_only (ks : List Nat) (s : State) : ks.foldl errorLimit s = { s with agenda := (ks.foldl errorLimit s).agenda } := by
  induction ks generalizing s with
  | nil => rfl
  | cons k ks ih =>
    rw [List.foldl_cons, ih, errorLimit_only]

theorem errorLimit_agenda_mono {s : State} {k : Nat} {i : Instr} (h : i ∈ s.agenda) : i ∈ (errorLimit s k).agenda := by
  unfold errorLimit
  dsimp only
  split
  · exact h
  · exact List.mem_append_left _ h

theorem foldl_errorLimit_agenda_mono {ks : List Nat} {s : State} {i : Instr} (h : i ∈ s.agenda) : i ∈ (ks.foldl errorLimit s).agenda := by
  induction ks generalizing s with
  | nil => exact h
  | cons k ks ih => exact ih (errorLimit_agenda_mono h)

/-- A stack whose count has reached the limit is declared lost next. -/
theorem errorLimit_declares {s : State} {k : Nat} (hlost : (mget ({} : StackStat) s.hbmStat k).lost = false) (hlimit : s.parity.errlim ≠ 0)
    (hreached : s.parity.errlim ≤ (mget ({} : StackStat) s.hbmStat k).errc) : .stackLost k 2 ∈ (errorLimit s k).agenda := by
  unfold errorLimit
  dsimp only
  split
  case isTrue h =>
    simp only [hlost, Bool.false_eq_true, hlimit, Nat.not_lt.mpr hreached, false_or, List.contains_iff_mem] at h
    exact h
  case isFalse => exact List.mem_append_right _ (List.mem_singleton_self _)

theorem foldl_errorLimit_declares {ks : List Nat} {s : State} {k : Nat} (hk : k ∈ ks)
    (hlost : (mget ({} : StackStat) s.hbmStat k).lost = false) (hlimit : s.parity.errlim ≠ 0)
    (hreached : s.parity.errlim ≤ (mget ({} : StackStat) s.hbmStat k).errc) : .stackLost k 2 ∈ (ks.foldl errorLimit s).agenda := by
  induction ks generalizing s with
  | nil => cases hk
  | cons j ks ih =>
    obtain rfl | hk' := List.mem_cons.mp hk
    · exact foldl_errorLimit_agenda_mono (s := errorLimit s k) (errorLimit_declares hlost hlimit hreached)
    · have honly := errorLimit_only s j
      refine ih hk' ?_ ?_ ?_
      · rw [honly]; exact hlost
      · rw [honly]; exact hlimit
      · rw [honly]; exact hreached

theorem setPcpwr_only (s : State) (k : Nat) (v : Word) : setPcpwr s k v = { s with pcpwr := (setPcpwr s k v).pcpwr } := by
  unfold setPcpwr
  split <;> rfl

/-- PDT and SRT are stored, and the other fields of PCPWR stay (R389). -/
theorem setPcpwr_reads (s : State) {k : Nat} (hk : k < 12) (v : Word) :
    (pcpwrOf (setPcpwr s k v) k).toNat = v.toNat % 2 ^ 32 + (pcpwrOf s k).toNat / 2 ^ 32 * 2 ^ 32 := by
  have hlt : v.toNat % 2 ^ 32 + (pcpwrOf s k).toNat / 2 ^ 32 * 2 ^ 32 < 2 ^ 64 := by
    have := (pcpwrOf s k).isLt
    omega
  have hread : pcpwrOf (setPcpwr s k v) k = w64 (v.toNat % 2 ^ 32 + (pcpwrOf s k).toNat / 2 ^ 32 * 2 ^ 32) := by
    rw [setPcpwr, if_neg (Nat.not_le.mpr hk)]
    exact mget_mset_same ..
  rw [hread, w64, BitVec.toNat_ofNat, Nat.mod_eq_of_lt hlt]

theorem queueOf_setQueue_same (s : State) (q : Nat) (x : Queue) : queueOf (setQueue s q x) q = x := mget_mset_same ..

/-! ### The obligation -/

/-- Settles O51: each step changes the register it names, and what follows from it. -/
theorem deviceRegistersPortsAndClock : Obligations.DeviceRegistersPortsAndClock := by
  unfold Obligations.DeviceRegistersPortsAndClock
  intro s p k mode v
  refine ⟨fun hp => occurs_of_eventOp (exec_portDown p s) ?_, occurs_of_eventOp (exec_portUp p s) ?_,
    occurs_of_eventOp (exec_connectionSetup mode s) ?_, occurs_of_eventOp (exec_powerLimitThrottle s) ⟨rfl, Nat.lt_succ_self _⟩,
    occurs_of_eventOp (exec_clockRaise s) ⟨rfl, Nat.sub_le ..⟩, occurs_of_eventOp (exec_registerWrite .parst v s) ?_,
    fun hk => occurs_of_eventOp (exec_registerWrite (.stkstat k) v s) ?_, fun hk => occurs_of_eventOp (exec_registerWrite (.pcpwr k) v s) ?_,
    fun hk => occurs_of_eventOp (exec_registerWrite (.queueWord k 0) v s) ?_, fun q w => occurs_of_eventOp (exec_registerWrite (.portRecord q w) v s) ?_,
    fun pasid page => occurs_of_eventOp (exec_registerWrite (.hotnessClear pasid page) v s) ?_⟩
  · have hp' : ¬ 12 ≤ p := Nat.not_le.mpr hp
    by_cases hdown : p ∈ s.portsDown
    · rw [portDown, if_pos (.inr (List.contains_iff_mem.mpr hdown))]
      exact ⟨hdown, fun _ hq => hq, rfl, rfl, sameBytes_rfl s⟩
    · rw [portDown, if_neg (by simpa [hp'] using hdown)]
      exact ⟨List.mem_append_right _ (List.mem_singleton_self p), fun _ hq => List.mem_append_left _ hq, rfl, rfl, sameBytes_rfl s⟩
  · exact ⟨rfl, rfl, rfl, sameBytes_rfl s⟩
  · unfold connectionSetup
    split
    · exact ⟨⟨rfl, rfl, sameBytes_rfl s⟩, rfl⟩
    · exact ⟨⟨rfl, rfl, sameBytes_rfl s⟩, rfl⟩
  · exact ⟨foldl_errorLimit_only .., fun j hj hlost hlimit hreached => foldl_errorLimit_declares (List.mem_range.mpr hj) hlost hlimit hreached⟩
  · have hset : setErrc s k v = { s with hbmStat := mset {} s.hbmStat k { mget ({} : StackStat) s.hbmStat k with errc := bitsOf v.toNat 8 16 } } :=
      if_neg (Nat.not_le.mpr hk)
    have hstat : mget ({} : StackStat) (setErrc s k v).hbmStat k = { mget ({} : StackStat) s.hbmStat k with errc := bitsOf v.toNat 8 16 } := by
      rw [hset]
      exact mget_mset_same ..
    have honly := errorLimit_only (setErrc s k v) k
    refine ⟨?_, ?_, fun hlost hlimit hreached => errorLimit_declares ?_ ?_ ?_⟩
    · rw [registerWrite, honly, hset]
      exact ⟨rfl, rfl, sameBytes_rfl s⟩
    · rw [registerWrite, honly]
      exact hstat
    · rw [hstat]
      exact hlost
    · rw [hset]
      exact hlimit
    · rw [hstat, hset]
      exact hreached
  · refine ⟨?_, setPcpwr_reads s hk v⟩
    rw [registerWrite, setPcpwr_only]
    exact ⟨rfl, rfl, sameBytes_rfl s⟩
  · have hset : registerWrite (.queueWord k 0) v s = setQueue s k (queueWord0 (queueOf s k) v) := if_neg (Nat.not_le.mpr hk)
    rw [hset]
    refine ⟨⟨rfl, rfl, sameBytes_rfl s⟩, (queueOf_setQueue_same ..).trans ?_⟩
    simp [queueWord0, bit, bitsOf]
  · exact ⟨⟨rfl, rfl, sameBytes_rfl s⟩, mget_mset_same ..⟩
  · exact ⟨⟨rfl, rfl, sameBytes_rfl s⟩, mget_mset_same ({} : Hot) s.hotness (pasid * 2 ^ 32 + page) {}⟩

end Sys2Proof.Machine
end

section
/-! Stacks, spare rows, allocation tables, idle channels, and contraction (R375, R378 to R383, R385, R387 to R389). -/
namespace Sys2Proof.Machine

/-! ### Memory under another layout -/

/-- A map without the keys of a range. -/
theorem mget_mclear {α : Type} (d : α) (m : Map α) (lo hi k : Nat) :
    mget d (mclear m lo hi) k = if k < lo ∨ hi ≤ k then mget d m k else d := by
  rw [mclear, mget_filter_key (f := fun a => a < lo || hi ≤ a)]
  simp only [Bool.or_eq_true, decide_eq_true_eq]

/-- A byte reads the same where its place in the tag plane is the same. -/
theorem memByte_of_tagFrame {s t : State} {a : Nat} (htag : tagFrame t.parity a = tagFrame s.parity a) (hmem : t.mem = s.mem)
    (hpeer : t.peerMem = s.peerMem) (htags : t.hbmTags = s.hbmTags) (hwindows : t.peerWindows = s.peerWindows) : memByte t a = memByte s a := by
  simp only [memByte, peerCell, windowOfPeer, htag, hmem, hpeer, htags, hwindows]

/-- The tag plane depends on BOUNDARY and the layout alone (R72, R382). -/
theorem tagFrame_congr {q r : Parity} (hb : q.boundary = r.boundary) (ht : q.tenPlusOne = r.tenPlusOne) (p : Nat) : tagFrame q p = tagFrame r p := by
  unfold tagFrame tagHome
  rw [hb, ht]

/-- Below the tag plane, and beyond local HBM, no byte holds a tag. -/
theorem tagFrame_outside {q : Parity} {p : Nat} (h : p < contractLimit ∨ 2 ^ 50 ≤ p) : tagFrame q p = none := by
  refine if_pos (h.imp_right fun h => ?_)
  have : end11 = 0x8400000000 := rfl
  omega

theorem sameMem_of_parity {s t : State} (hb : t.parity.boundary = s.parity.boundary) (ht : t.parity.tenPlusOne = s.parity.tenPlusOne)
    (hmem : t.mem = s.mem) (hpeer : t.peerMem = s.peerMem) (htags : t.hbmTags = s.hbmTags) (hwindows : t.peerWindows = s.peerWindows) :
    sameMem s t := fun a => memByte_of_tagFrame (tagFrame_congr hb ht a) hmem hpeer htags hwindows

/-! ### Stacks, rows, tables and channels -/

theorem exec_stackLost (k : Nat) (why : BitVec 2) (s : State) : exec (.stackLost k why) s = eventOp s (loseStack k why.toNat) := rfl
theorem exec_rowRemapUpdate (k row spare : Nat) (s : State) : exec (.rowRemapUpdate k row spare) s = eventOp s (rowRemapUpdate k row spare) := rfl
theorem exec_allocationTableUpdate (second : Bool) (g : Nat) (d : BitVec 16) (s : State) :
    exec (.allocationTableUpdate second g d) s = eventOp s (allocationTableUpdate second g d.toNat) := rfl
theorem exec_powerDownEntry (k pc : Nat) (s : State) : exec (.powerDownEntry k pc) s = eventOp s (channelIdle 0 1 k pc) := rfl
theorem exec_selfRefreshEntry (k pc : Nat) (s : State) : exec (.selfRefreshEntry k pc) s = eventOp s (channelIdle 16 2 k pc) := rfl

/-- The loss of a stack changes no place of the tag plane (R379). -/
theorem parityLoss_layout (q : Parity) (k : Nat) : (parityLoss q k).boundary = q.boundary ∧ (parityLoss q k).tenPlusOne = q.tenPlusOne := by
  unfold parityLoss
  split <;> exact ⟨rfl, rfl⟩

/-- What the loss of a stack changes (R375, R378, R379). -/
theorem loseStack_effect {s : State} {k why : Nat} (hk : k < 12) (hlost : (mget ({} : StackStat) s.hbmStat k).lost = false) :
    let t := loseStack k why s
    t.hbmStat = mset {} s.hbmStat k { mget ({} : StackStat) s.hbmStat k with lost := true, why := why % 4 } ∧ t.parity = parityLoss s.parity k
      ∧ t.g = s.g ∧ t.field = s.field ∧ t.mem = s.mem ∧ t.peerMem = s.peerMem ∧ t.hbmTags = s.hbmTags ∧ t.peerWindows = s.peerWindows := by
  have hnot : ¬ (12 ≤ k ∨ (mget ({} : StackStat) s.hbmStat k).lost = true) := by
    rw [hlost]
    simp [Nat.not_le.mpr hk]
  rw [loseStack, if_neg hnot]
  dsimp only
  split <;> exact ⟨rfl, rfl, rfl, rfl, rfl, rfl, rfl, rfl⟩

/-- What the update of a spare row changes (R385). -/
theorem rowRemapUpdate_effect {s : State} {k row spare : Nat} (hk : k < 12) (hlost : stackLost s k = false) :
    let t := rowRemapUpdate k row spare s
    t.remap = mset 0 s.remap (row * 12 + k) spare
      ∧ t.remapMirror = (if (mirrorOf s k).isSome then mset 0 s.remapMirror (row * 12 + k) spare else s.remapMirror)
      ∧ t.g = s.g ∧ t.store = s.store := by
  have hnot : ¬ (12 ≤ k ∨ stackLost s k = true) := by
    rw [hlost]
    simp [Nat.not_le.mpr hk]
  rw [rowRemapUpdate, if_neg hnot]
  dsimp only
  split
  · have honly := remapLookup_only { { s with remapMirror := mset 0 s.remapMirror (row * 12 + k) spare } with remap := mset 0 s.remap (row * 12 + k) spare } k
    unfold onlyServed at honly
    rw [honly]
    exact ⟨rfl, rfl, rfl, rfl⟩
  · have honly := remapLookup_only { s with remap := mset 0 s.remap (row * 12 + k) spare } k
    unfold onlyServed at honly
    rw [honly]
    exact ⟨rfl, rfl, rfl, rfl⟩

theorem allocationTableUpdate_refused {s : State} {second : Bool} {g d : Nat} (h : allocationOk s second g (d % 4096) = false) :
    allocationTableUpdate second g d s = s := by
  simp only [allocationTableUpdate, h, Bool.not_false, if_true]

theorem allocationTableUpdate_second {s : State} {g d : Nat} (h : allocationOk s true g (d % 4096) = true) :
    allocationTableUpdate true g d s = { s with domains2 := mset 0xFFF s.domains2 g (BitVec.ofNat 16 (d % 4096)) } := by
  simp only [allocationTableUpdate, h, Bool.not_true, Bool.false_eq_true, if_false, if_true]

theorem allocationTableUpdate_first {s : State} {g d : Nat} (h : allocationOk s false g (d % 4096) = true) :
    allocationTableUpdate false g d s = { s with domains := mset 0xFFF s.domains g (BitVec.ofNat 16 (d % 4096)) } := by
  simp only [allocationTableUpdate, h, Bool.not_true, Bool.false_eq_true, if_false]

/-- What the idling of a pseudo-channel changes (R389). -/
theorem channelIdle_effect {s : State} {field level k pc : Nat} (hk : k < 12) (hpc : pc < 64)
    (hlost : (mget ({} : StackStat) s.hbmStat k).lost = false) (htime : bitsOf (pcpwrOf s k).toNat field 16 ≠ 0) :
    let t := channelIdle field level k pc s
    mget 0 t.channelPower (k * 64 + pc) = max level (mget 0 s.channelPower (k * 64 + pc))
      ∧ (∀ n, n ≠ k * 64 + pc → mget 0 t.channelPower n = mget 0 s.channelPower n) ∧ t.g = s.g ∧ sameMem s t := by
  have hnot : ¬ (12 ≤ k ∨ 64 ≤ pc ∨ stackLost s k = true ∨ bitsOf (pcpwrOf s k).toNat field 16 = 0) := by
    simp [Nat.not_le.mpr hk, Nat.not_le.mpr hpc, stackLost, hlost, htime]
  rw [channelIdle, if_neg hnot]
  exact ⟨mget_mset_same .., fun n hn => mget_mset_other _ _ _ _ _ hn, rfl, fun _ => rfl⟩

/-- Settles O44: each step changes its own table, and the loss of a stack the parity state. -/
theorem stacksRowsAndDomainsChange : Obligations.StacksRowsAndDomainsChange := by
  unfold Obligations.StacksRowsAndDomainsChange
  intro s k why row spare pc g d
  refine ⟨fun hk hlost => occurs_of_eventOp (exec_stackLost k why s) ?_, fun h => occurs_of_eventOp (exec_stackLost k why s) (if_pos h),
    fun hk hlost => occurs_of_eventOp (exec_rowRemapUpdate k row spare s) ?_,
    fun h => occurs_of_eventOp (exec_allocationTableUpdate true g d s) ?_, fun h => occurs_of_eventOp (exec_allocationTableUpdate false g d s) ?_,
    fun second h => occurs_of_eventOp (exec_allocationTableUpdate second g d s) (allocationTableUpdate_refused h), ?_⟩
  · obtain ⟨hstat, hparity, hg, hfield, hmem, hpeer, htags, hwindows⟩ := loseStack_effect (why := why.toNat) hk hlost
    obtain ⟨hb, ht⟩ := parityLoss_layout s.parity k
    have hwhy : why.toNat % 4 = why.toNat := Nat.mod_eq_of_lt why.isLt
    rw [hwhy] at hstat
    refine ⟨(congrArg (mget ({} : StackStat) · k) hstat).trans (mget_mset_same ..),
      fun j hj => (congrArg (mget ({} : StackStat) · j) hstat).trans (mget_mset_other _ _ _ _ _ hj), hg,
      sameMem_of_parity (by rw [hparity, hb]) (by rw [hparity, ht]) hmem hpeer htags hwindows, fun a => by rw [hfield], ?_⟩
    rw [hparity]
    refine ⟨fun h => ?_, fun h => ?_, fun h => ?_, fun h => ?_⟩
    · simp only [parityLoss, h]
    · obtain h | h := h <;> simp only [parityLoss, h]
    · simp only [parityLoss, h]
    · simp only [parityLoss, h]
  · obtain ⟨hremap, hmirror, hg, hstore⟩ := rowRemapUpdate_effect (row := row) (spare := spare) hk hlost
    refine ⟨by rw [hremap]; exact mget_mset_same .., fun n hn => by rw [hremap]; exact mget_mset_other _ _ _ _ _ hn, fun hm => ?_, hg,
      sameMem_of_store hstore⟩
    rw [hmirror, if_pos hm]
    exact mget_mset_same ..
  · rw [allocationTableUpdate_second h]
    exact ⟨mget_mset_same .., fun n hn => mget_mset_other _ _ _ _ _ hn, rfl, rfl, fun _ => rfl⟩
  · rw [allocationTableUpdate_first h]
    exact ⟨mget_mset_same .., fun n hn => mget_mset_other _ _ _ _ _ hn, rfl, rfl, fun _ => rfl⟩
  · exact List.forall_mem_cons.mpr
      ⟨fun hk hpc hlost htime => occurs_of_eventOp (exec_powerDownEntry k pc s) (channelIdle_effect hk hpc hlost htime),
        List.forall_mem_singleton.mpr fun hk hpc hlost htime =>
          occurs_of_eventOp (exec_selfRefreshEntry k pc s) (channelIdle_effect hk hpc hlost htime)⟩

end Sys2Proof.Machine
end

section
/-! Contraction (R379, R381 to R383, R387). -/
namespace Sys2Proof.Machine

theorem exec_contractionStart (s : State) : exec .contractionStart s = eventOp s contractionStart := rfl
theorem exec_contractionStripeMove (s : State) : exec .contractionStripeMove s = eventOp s contractionStripeMove := rfl

/-- With BOUNDARY at the end of the 10+1 layout every tag still lies where the 11+1 layout has it (R383). -/
theorem tagHome_atStart {q r : Parity} (hq : q.boundary = end10) (hr : r.boundary = 0) (ht : q.tenPlusOne = r.tenPlusOne) (f : Nat) :
    tagHome q f = tagHome r f := by
  have hend : end10 = 0x7800000000 := rfl
  have hlimit : contractLimit = 0x77E2000000 := rfl
  have hfar : ¬ (end10 ≤ contractLimit + 8 * f ∧ f < contractLimit / 8192) := by omega
  unfold tagHome
  by_cases h10 : r.tenPlusOne = true
  · simp only [ht, h10, Bool.true_or, if_true]
  · simp only [Bool.not_eq_true] at h10
    simp only [hq, hr, ht, h10, bne_self_eq_false, Bool.false_and, Bool.and_assoc, ← Bool.decide_and, Bool.false_or, Bool.and_eq_true, decide_eq_true_eq]
    rw [if_neg (fun h => hfar h.2), if_neg Bool.false_ne_true]

theorem tagFrame_atStart {q r : Parity} (hq : q.boundary = end10) (hr : r.boundary = 0) (ht : q.tenPlusOne = r.tenPlusOne) (p : Nat) :
    tagFrame q p = tagFrame r p := by
  unfold tagFrame
  dsimp only
  rw [tagHome_atStart hq hr ht, ht]

/-- A frame of the parity state is sent to the host, and nothing else moves but a die's count (R375, R432). -/
theorem parityFrame_effect (s : State) (k : Nat) :
    ∃ f, f.type = 4 ∧ parityFrame s k = { s with eventFrames := s.eventFrames ++ [f], cycles := (parityFrame s k).cycles, fresh := (parityFrame s k).fresh } :=
  ⟨_, rfl, rfl⟩

/-- The conditions of R379, R381 and R387. -/
theorem contractionStart_of_may {s : State} (hstate : s.parity.state = 1) (hpages : ∀ p ∈ mappedPages s, p.2.1 + p.2.2 ≤ contractLimit)
    (hsecond : secondTableOk s (mappedPages s) = true) :
    contractionStart s = parityFrame { s with parity := { s.parity with state := 2, boundary := end10 } } s.parity.lost :=
  if_pos ⟨hstate, by simpa using hpages, hsecond⟩

theorem contractionStart_refused {s : State} (h : ¬ (s.parity.state = 1 ∧ (∀ p ∈ mappedPages s, p.2.1 + p.2.2 ≤ contractLimit)
    ∧ secondTableOk s (mappedPages s) = true)) : contractionStart s = s :=
  if_neg fun ⟨hstate, hpages, hsecond⟩ => h ⟨hstate, by simpa using hpages, hsecond⟩

/-- The reads of a stripe's move (R377, R383, R385). -/
def moveRead (s : State) : State := (moveReads s.parity.boundary).foldl (fun s u => physTouch s u 512) s

theorem moveRead_only (s : State) : onlyServed s (moveRead s) :=
  onlyServed.foldl (fun s u => physTouch s u 512) (fun s u => physTouch_only s u 512 false) _ s

/-- The words with errors and the channels that are awake after a move that takes BOUNDARY from b to `next` (R383, R389). -/
def moveWoken (b next : Nat) (s : State) : State :=
  { s with
    memBad := movedErrors b s.memBad
    channelPower := awake s ((List.range 12).filter fun k => !stackLost s k) (place10 { s.parity with boundary := next }.lost next).pc }

theorem moveWoken_only (b next : Nat) (s : State) : onlyServed s (moveWoken b next s) := rfl

/-- The look-ups of the row-remap tables of every stack that is online (R385). -/
def onlineLookups (s : State) : State := ((List.range 12).filter fun k => !stackLost s k).foldl remapLookup s

theorem onlineLookups_only (s : State) : onlyServed s (onlineLookups s) := onlyServed.foldl remapLookup remapLookup_only _ s

/-- A stripe has moved, but for BOUNDARY itself (R383, R385, R389). -/
def stripeMoved (s : State) : State := onlineLookups (moveWoken s.parity.boundary (s.parity.boundary - 5120) (moveRead s))

theorem stripeMoved_only (s : State) : onlyServed s (stripeMoved s) :=
  (moveRead_only s).trans ((moveWoken_only ..).trans (onlineLookups_only _))

theorem contractionStripeMove_eq {s : State} (hgo : ¬ (s.parity.state ≠ 2 ∨ s.parity.boundary = 0)) :
    contractionStripeMove s = if s.parity.boundary ≤ 5120 then contractionComplete (stripeMoved s)
      else { stripeMoved s with parity := { (moveRead s).parity with boundary := s.parity.boundary - 5120 } } := by
  rw [contractionStripeMove, if_neg hgo]
  unfold stripeMoved onlineLookups moveWoken moveRead
  rfl

theorem contractionStripeMove_idle {s : State} (h : s.parity.state ≠ 2) : contractionStripeMove s = s := if_pos (.inl h)

theorem contractionStripeMove_moves {s : State} (hstate : s.parity.state = 2) (hb : 5120 < s.parity.boundary) :
    contractionStripeMove s = { stripeMoved s with parity := { s.parity with boundary := s.parity.boundary - 5120 } } := by
  have hparity : (moveRead s).parity = s.parity := by rw [moveRead_only s]
  rw [contractionStripeMove_eq (by omega), if_neg (by omega), hparity]

theorem contractionStripeMove_last {s : State} (hstate : s.parity.state = 2) (hpos : 0 < s.parity.boundary) (hb : s.parity.boundary ≤ 5120) :
    contractionStripeMove s = contractionComplete (stripeMoved s) := by
  rw [contractionStripeMove_eq (by omega), if_pos hb]

/-- Outside the places that the layouts use for tags a byte is read from the same memory whatever the layout is. -/
theorem memByte_outside {s t : State} {x : Nat} (hx : x < contractLimit ∨ 2 ^ 50 ≤ x) (hmem : rdByte t.mem x = rdByte s.mem x)
    (hpeer : t.peerMem = s.peerMem) (hwindows : t.peerWindows = s.peerWindows) : memByte t x = memByte s x := by
  simp only [memByte, peerCell, windowOfPeer, tagFrame_outside hx, hmem, hpeer, hwindows]

/-- What the last move leaves (R379, R383, R387). -/
theorem contractionComplete_effect (s : State) :
    let t := contractionComplete s
    t.parity = { s.parity with state := 3, boundary := 0, tenPlusOne := true } ∧ t.domains = s.domains2 ∧ t.domains2 = [] ∧ t.g = s.g
      ∧ (∀ f < contractLimit / 8192, mget rawTag t.hbmTags f = mget rawTag s.hbmTags f)
      ∧ (∀ x, x < contractLimit ∨ 2 ^ 50 ≤ x → memByte t x = memByte s x)
      ∧ ∃ f ∈ t.eventFrames, f.type = 4 := by
  refine ⟨rfl, rfl, rfl, rfl, fun f hf => (mget_mclear ..).trans (if_pos (.inl hf)), fun x hx => memByte_outside hx ?_ rfl rfl,
    _, List.mem_append_right _ (List.mem_singleton.mpr rfl), rfl⟩
  exact (mget_mclear ..).trans (if_pos hx)

/-- Settles O45: the reads of a move change only what serving an access changes, and no layout has a tag outside of what is cleared. -/
theorem contractionMovesStripeByStripe : Obligations.ContractionMovesStripeByStripe := by
  unfold Obligations.ContractionMovesStripeByStripe
  intro s pages may
  have hmoved : stripeMoved s = _ := stripeMoved_only s
  refine ⟨fun ⟨hstate, hpages, hsecond⟩ hb => occurs_of_eventOp (exec_contractionStart s) ?_,
    fun h => occurs_of_eventOp (exec_contractionStart s) (contractionStart_refused h),
    fun hstate hb => occurs_of_eventOp (exec_contractionStripeMove s) ?_,
    fun hstate hpos hb => occurs_of_eventOp (exec_contractionStripeMove s) ?_,
    fun hstate => occurs_of_eventOp (exec_contractionStripeMove s) (contractionStripeMove_idle hstate)⟩
  · rw [contractionStart_of_may hstate hpages hsecond]
    exact ⟨rfl, rfl, fun a => memByte_of_tagFrame (tagFrame_atStart (q := { s.parity with state := 2, boundary := end10 }) rfl hb rfl a) rfl rfl rfl rfl⟩
  · rw [contractionStripeMove_moves hstate hb, hmoved]
    exact ⟨rfl, rfl, rfl, fun x hx => memByte_outside hx rfl rfl rfl⟩
  · rw [contractionStripeMove_last hstate hpos hb]
    obtain ⟨hparity, hdomains, hdomains2, hg, htags, hmem, hframe⟩ := contractionComplete_effect (stripeMoved s)
    refine ⟨hparity.trans (by rw [hmoved]), hdomains.trans (by rw [hmoved]), hdomains2, hg.trans (by rw [hmoved]),
      fun f hf => (htags f hf).trans (by rw [hmoved]), fun x hx => (hmem x hx).trans (memByte_outside hx ?_ ?_ ?_), hframe⟩ <;> rw [hmoved]

end Sys2Proof.Machine
end

section
/-! What a step runs (R48, R139 to R141, R221, R361). -/
namespace Sys2Proof.Machine

/-! ### The gang whose turn it is -/

/-- A gang of its own cohort is stopped by no other gang (R37). -/
theorem cohortStopped_alone {s : State} {g : Gang} (h : g.cohN = 1) : cohortStopped s g = false := by
  simp [cohortStopped, h]

/-- A running gang at a boundary with nothing pending fetches (R221, R228). -/
theorem turn_fetches {s : State} (hagenda : s.agenda = []) (hpower : s.power = .ready) (hphase : s.g.phase = .running) (halone : s.g.cohN = 1)
    (hpreempt : s.g.preempt = false) (hturn : turnOver s = false) (hpending : s.g.pendingReady = false) : turn exec s = fetchTurn s := by
  simp [turn, hagenda, hpower, gangTurn, Gang.runnable, hphase, cohortStopped_alone halone, hpreempt, hturn, hpending]

/-! ### What is fetched -/

theorem leNat_append (xs ys : List Byte) : leNat (xs ++ ys) = leNat xs + 2 ^ (8 * xs.length) * leNat ys := by
  induction xs with
  | nil => simp [leNat]
  | cons x xs ih =>
    have hpow : 2 ^ (8 * (xs.length + 1)) = 256 * 2 ^ (8 * xs.length) := by
      rw [Nat.mul_succ, Nat.pow_add, Nat.mul_comm]
    rw [List.cons_append, leNat, leNat, ih, List.length_cons, hpow, Nat.mul_add, Nat.mul_assoc, Nat.add_assoc]

theorem length_memBytes (s : State) (pa n : Nat) : (memBytes s pa n).length = n := by simp [memBytes_eq]

/-- Four bytes that decode as a whole are a short instruction (R139). -/
theorem decode_short {bs : List Byte} {i : Instr} (hlen : bs.length = 4) (h : decode bs = .ok (i, 4)) :
    isLong (leNat bs) = false ∧ decodeFetched (leNat bs) = .ok i := by
  have htake : bs.take 4 = bs := List.take_of_length_le (by omega)
  simp only [decode, hlen, htake, decodeFetched, Nat.lt_irrefl, if_false, show 4 < 8 from by decide, if_true] at h ⊢
  by_cases hlong : isLong (leNat bs) = true
  · simp [hlong] at h
  · simp only [hlong, Bool.false_eq_true, if_false] at h ⊢
    cases hd : decode32 (leNat bs) with
    | error e => simp [hd, Except.map] at h
    | ok j => simp_all [Except.map]

/-- Eight bytes that decode as a whole are a long instruction, which their first parcel shows (R139). -/
theorem decode_eight {bs : List Byte} {i : Instr} (hlen : bs.length = 8) (h : decode bs = .ok (i, 8)) :
    isLong (leNat (bs.take 4)) = true ∧ decode64 (leNat bs) = .ok i := by
  have htake : bs.take 8 = bs := List.take_of_length_le (by omega)
  simp only [decode, hlen, htake, show ¬ 8 < 4 from by decide, Nat.lt_irrefl, if_false] at h
  by_cases hlong : isLong (leNat (bs.take 4)) = true
  · simp only [hlong, if_true] at h
    cases hd : decode64 (leNat bs) with
    | error e => simp [hd, Except.map] at h
    | ok j => simp_all [Except.map]
  · simp only [hlong, Bool.false_eq_true, if_false] at h
    cases hd : decode32 (leNat (bs.take 4)) <;> simp [hd, Except.map] at h

theorem leNat_parcels {xs : List Byte} (ys : List Byte) (hx : xs.length = 4) : leNat (xs ++ ys) = leNat xs + leNat ys * 2 ^ 32 := by
  have happend := leNat_append xs ys
  rw [hx] at happend
  omega

/-- The first parcel of an instruction shows its length (R139). -/
theorem isLong_parcels (p q : Nat) : isLong (p + q * 2 ^ 32) = isLong p := by
  have hmod : (p + q * 2 ^ 32) % 4 = p % 4 := by omega
  rw [isLong, hmod, isLong]

theorem decode_long {xs ys : List Byte} {i : Instr} (hx : xs.length = 4) (hy : ys.length = 4) (h : decode (xs ++ ys) = .ok (i, 8)) :
    isLong (leNat xs) = true ∧ decodeFetched (leNat xs + leNat ys * 2 ^ 32) = .ok i := by
  obtain ⟨hlong, hi⟩ := decode_eight (by simp [hx, hy]) h
  rw [show (xs ++ ys).take 4 = xs by rw [← hx]; exact List.take_left] at hlong
  rw [leNat_parcels ys hx] at hi
  exact ⟨hlong, (if_pos ((isLong_parcels ..).trans hlong)).trans hi⟩

/-- A short word that does not decode is no instruction. -/
theorem decodeFetched_undecodable {bs : List Byte} (hlen : bs.length = 4) (hshort : isLong (leNat bs) = false)
    (h : ∀ i, decode bs ≠ .ok (i, 4)) : ∃ e, decodeFetched (leNat bs) = .error e := by
  have htake : bs.take 4 = bs := List.take_of_length_le (by omega)
  simp only [decode, hlen, htake, decodeFetched, hshort, Nat.lt_irrefl, Bool.false_eq_true, if_false] at h ⊢
  cases hd : decode32 (leNat bs) with
  | error e => exact ⟨e, rfl⟩
  | ok i => exact absurd (by rw [hd]; rfl) (h i)

/-! ### A fetch in a healthy package with every channel awake -/

/-- Every pseudo-channel is awake and every access is served as it stands. -/
def fresh (s : State) : Prop := sound s = true ∧ s.channelPower = []

theorem physTouch_fresh {s : State} (h : fresh s) (pa n : Nat) (write : Bool) : physTouch s pa n write = s := by
  obtain ⟨hsound, hawake⟩ := h
  have hwake : wake s pa n write = s.channelPower := if_pos (.inr hawake)
  rw [physTouch_sound hsound, hwake]

theorem hubUse_fresh {s : State} (h : fresh s) (die pasid va : Nat) : fresh (hubUse s die pasid va) := by
  have hfold : ∀ l : List Nat, l.foldl (fun s a => physTouch s a 8) s = s := by
    intro l
    induction l with
    | nil => rfl
    | cons a l ih => rw [List.foldl_cons, physTouch_fresh h, ih]
  unfold hubUse
  rw [hfold]
  split
  · exact h
  · dsimp only
    split <;> exact h

theorem useG_fresh {s : State} (h : fresh s) (va : Nat) : fresh (useG s va) := hubUse_fresh h ..

theorem fetchParcel_fresh {s : State} (h : fresh s) {a : Word} {pa : Nat} {leaf : Word}
    (hat : translateFull s s.g.lead s.g.pasid a.toNat .fetch = .ok pa leaf) :
    fetchParcel s a = (useG s a.toNat, .word (leNat (memBytes s pa 4))) := by
  have hu := useG_fresh h a.toNat
  have hread : physRead (useG s a.toNat) pa 4 = (useG s a.toNat, some (memBytes s pa 4)) := by
    rw [physRead, physTouch_fresh hu, ← memBytes_of_store (useG_store s a.toNat)]
    exact congrArg (Prod.mk _) (if_pos (.inr hu.1))
  simp only [fetchParcel, hat, hread]

theorem fetchWord_short {s t : State} {p : Nat} (h : fetchParcel s s.g.pc = (t, .word p)) (hshort : isLong p = false) : fetchWord s = (t, .word p) := by
  simp only [fetchWord, h, hshort, Bool.false_eq_true, if_false]

theorem fetchWord_long {s t u : State} {p q : Nat} (hp : fetchParcel s s.g.pc = (t, .word p)) (hlong : isLong p = true)
    (hq : fetchParcel t (t.g.pc + 4) = (u, .word q)) : fetchWord s = (u, .word (p + q * 2 ^ 32)) := by
  simp only [fetchWord, hp, hlong, if_true, hq]

/-- Settles O57: the turn of the gang is its fetch, in each case of what the fetch finds. -/
theorem stepRunsTheDecodedInstruction : Obligations.StepRunsTheDecodedInstruction := by
  unfold Obligations.StepRunsTheDecodedInstruction
  intro s hagenda hpower hphase halone hpreempt hturn hpending at_ u v
  have hfetch := turn_fetches hagenda hpower hphase halone hpreempt hturn hpending
  have hruns : ∀ t n i, fetchWord s = (t, .word n) → decodeFetched n = .ok i → step s = exec i t := fun t n i hword hdecode => by
    simp only [step, hfetch, fetchTurn, hword, hdecode]
  have hug : u.g = s.g := useG_g ..
  have htraps : trapsNow s → trapsNow u := fun h => by unfold trapsNow; rw [hug]; exact h
  refine ⟨hruns, fun hhealthy hawake => ?_, fun hat htrap => ?_⟩
  · have hs : fresh s := ⟨hhealthy.1, hawake⟩
    refine ⟨fun pa leaf i hat hdecode => ?_, fun pa leaf pb leaf' i hat hat' hdecode => ?_, fun pa leaf hat hshort hnone htrap => ?_⟩
    · obtain ⟨hshort, hi⟩ := decode_short (length_memBytes ..) hdecode
      exact hruns u _ i (fetchWord_short (fetchParcel_fresh hs hat) hshort) hi
    · obtain ⟨hlong, hi⟩ := decode_long (length_memBytes ..) (length_memBytes ..) hdecode
      have hpc : u.g.pc = s.g.pc := congrArg Gang.pc hug
      have hsecond : fetchParcel u (u.g.pc + 4) = (v, .word (leNat (memBytes s pb 4))) := by
        rw [hpc, fetchParcel_fresh (useG_fresh hs _) hat', memBytes_of_store (useG_store s _)]
      exact hruns v _ i (fetchWord_long (fetchParcel_fresh hs hat) hlong hsecond) hi
    · have hnotLong : isLong (leNat (memBytes s pa 4)) = false := by simpa [isLong, memNat] using hshort
      obtain ⟨e, he⟩ := decodeFetched_undecodable (length_memBytes ..) hnotLong hnone
      have hword := fetchWord_short (fetchParcel_fresh hs hat) hnotLong
      have htrapped : trapS u 1 (w64 (leNat (memBytes s pa 4))) 0 = afterTrap 1 (w64 (memNat s pa 4)) 0 s.g.pc u := by
        rw [trapS_now u 1 _ _ (htraps htrap) rfl, hug]
        rfl
      simp only [step, hfetch, fetchTurn, hword, he]
      exact congrArg Host.Outcome.next htrapped
  · have hparcel : fetchParcel s s.g.pc = (u, .trap 8 s.g.pc 3) := by simp only [fetchParcel, show translateFull s s.g.lead s.g.pasid s.g.pc.toNat .fetch = .permission from hat]; rfl
    have hfirst : coreFirst ⟨8, s.g.pc, w64 3, 0, 0, 0⟩ = false := by
      show (bit (w64 3) 2 || false) = false
      decide
    have htrapped : trapS u 8 s.g.pc (w64 3) = afterTrap 8 s.g.pc 3 s.g.pc u := by
      rw [trapS_now u 8 _ _ (htraps htrap) hfirst, hug]
      rfl
    simp only [step, hfetch, fetchTurn, fetchWord, hparcel]
    exact congrArg Host.Outcome.next htrapped

end Sys2Proof.Machine
end

section
/-! The end of a copy that is discarded (R300, R358, R373), and the field under a gang that ends (R30, R47). -/
namespace Sys2Proof.Machine

/-! ### Where an F-address lies -/

theorem Gang.clusterOf_mem {g : Gang} {own : Nat} (h : own < g.banksInSpan) : g.clusterOf own ∈ g.clusters := by
  have hlt : own / 16 < g.clusters.length := by
    unfold Gang.banksInSpan at h
    omega
  rw [Gang.clusterOf, List.getElem?_eq_getElem hlt]
  exact List.getElem_mem hlt

/-- The byte that an F-address names lies in a cluster of the gang (R9, R10, R57). -/
theorem fieldAt_cluster {s : State} {a k : Nat} {write : Bool} (h : fieldAt s a write = .ok k) : k / 2 ^ 23 ∈ s.g.clusters := by
  unfold fieldAt resolve at h
  split at h
  · simp [Except.map] at h
  · dsimp only at h
    split at h
    · simp [Except.map] at h
    next hown =>
      split at h
      · simp [Except.map] at h
      · split at h
        · simp [Except.map] at h
        next hloc =>
          split at h
          · simp [Except.map] at h
          · simp only [Except.map, Except.ok.injEq] at h
            generalize Window.first _ + _ = own at h hown
            generalize Window.loc _ + _ + _ = loc at h hloc
            have hend : s.g.sliceEnd ≤ 2 ^ 19 := by unfold Gang.sliceEnd; omega
            have hk : k / 2 ^ 23 = s.g.clusterOf own := by
              rw [← h, Gang.fieldKey]
              omega
            rw [hk]
            exact Gang.clusterOf_mem (by omega)

/-- Every byte of a destination in the field lies in a cluster of the gang. -/
theorem copyKeys_cluster {s : State} {addr : Int} {len : Nat} {write : Bool} {ks : List Nat} (h : copyKeys s addr len write = .ok ks) :
    ∀ k ∈ ks, k / 2 ^ 23 ∈ s.g.clusters := by
  suffices hall : ∀ (l : List Nat) (acc : Except CopyStop (List Nat)), (∀ ks, acc = .ok ks → ∀ k ∈ ks, k / 2 ^ 23 ∈ s.g.clusters) →
      ∀ ks, l.foldl (fun acc j => match acc with
        | .error e => .error e
        | .ok ks =>
          let a := addr + (j : Nat)
          if a < 0 ∨ 2 ^ 32 ≤ a then .error (.fault 2 addr (32 + 8 * b2n write))
          else match fieldAt s a.toNat write with
            | .error _ => .error (.fault 2 addr (32 + 8 * b2n write))
            | .ok k => .ok (ks ++ [k])) acc = .ok ks → ∀ k ∈ ks, k / 2 ^ 23 ∈ s.g.clusters from
    hall _ (.ok []) (by simp) ks h
  intro l
  induction l with
  | nil => exact fun acc hacc ks h => hacc ks h
  | cons j l ih =>
    refine fun acc hacc => ih _ ?_
    intro ks hks
    cases acc with
    | error e => simp at hks
    | ok front =>
      dsimp only at hks
      split at hks
      · simp at hks
      · split at hks
        · simp at hks
        next k hk =>
          simp only [Except.ok.injEq] at hks
          subst hks
          intro x hx
          obtain hx | hx := List.mem_append.mp hx
          · exact hacc front rfl x hx
          · rw [List.mem_singleton.mp hx]
            exact fieldAt_cluster hk

/-- Frames of the field under a destination lie in clusters of the gang. -/
theorem copyLanding_frames {s : State} {c : Copy} {addr : Int} {len : Nat} {l : Landing} (h : copyLanding s c addr len = .ok l) :
    ∀ f ∈ l.frames, f < 2 ^ 32 → f / 1024 ∈ s.g.clusters := by
  intro f hf hlt
  unfold copyLanding at h
  split at h
  · cases hk : copyKeys s addr len true with
    | error e => simp [hk, Except.map] at h
    | ok ks =>
      simp only [hk, Except.map, Except.ok.injEq] at h
      subst h
      simp only [Landing.frames, List.mem_eraseDups, List.mem_map] at hf
      obtain ⟨k, hks, rfl⟩ := hf
      have hdiv : k / 8192 / 1024 = k / 2 ^ 23 := by omega
      rw [hdiv]
      exact copyKeys_cluster hk k hks
  · cases ht : copyTranslate s addr true with
    | error e => simp [ht, Except.map] at h
    | ok pa =>
      simp only [ht, Except.map, Except.ok.injEq] at h
      subst h
      simp only [Landing.frames] at hf
      split at hf
      · have hf := List.mem_singleton.mp hf
        omega
      · simp at hf

/-! ### What a discarded copy leaves -/

/-- Only what serving an access changes, bytes of HBM and of peers, the marks of writes over errors, and tags of the listed clusters have
changed. -/
def onlyMarked (cs : List Nat) (s t : State) : Prop :=
  t = { s with
    mem := t.mem, peerMem := t.peerMem, hbmTags := t.hbmTags, ftags := t.ftags, ftagBad := t.ftagBad, memBad := t.memBad, parityBad := t.parityBad
    replaced := t.replaced, hbmStat := t.hbmStat, remapBad := t.remapBad, mirrorBad := t.mirrorBad, channelPower := t.channelPower
    hubs := t.hubs, agenda := t.agenda }
  ∧ ∀ f, f / 1024 ∉ cs → mget rawTag t.ftags f = mget rawTag s.ftags f

section Marked
variable {cs : List Nat} {s t u : State}

theorem onlyMarked.refl (cs : List Nat) (s : State) : onlyMarked cs s s := ⟨rfl, fun _ _ => rfl⟩

theorem onlyMarked.trans (h1 : onlyMarked cs s t) (h2 : onlyMarked cs t u) : onlyMarked cs s u := by
  obtain ⟨hst, hstags⟩ := h1
  obtain ⟨htu, httags⟩ := h2
  refine ⟨?_, fun f hf => (httags f hf).trans (hstags f hf)⟩
  rw [hst] at htu
  exact htu

/-- A fold of steps that each leave the rest alone. -/
theorem onlyMarked.foldl {α β : Type} {proj : α → State} {f : α → β → α} {l : List β} {init : α} (hinit : onlyMarked cs s (proj init))
    (h : ∀ acc, onlyMarked cs s (proj acc) → ∀ x ∈ l, onlyMarked cs (proj acc) (proj (f acc x))) : onlyMarked cs s (proj (l.foldl f init)) :=
  List.foldlRecOn (motive := fun acc => onlyMarked cs s (proj acc)) l f hinit fun acc hacc x hx => hacc.trans (h acc hacc x hx)

theorem onlyServed.marked (h : onlyServed s t) : onlyMarked cs s t := by
  unfold onlyServed at h
  rw [h]
  exact ⟨rfl, fun _ _ => rfl⟩

theorem onlyStored.marked (h : onlyStored s t) : onlyMarked cs s t := by
  unfold onlyStored at h
  rw [h]
  exact ⟨rfl, fun _ _ => rfl⟩

theorem onlyMarked.g_eq (h : onlyMarked cs s t) : t.g = s.g := by rw [h.1]

theorem onlyMarked.others_eq (h : onlyMarked cs s t) : t.others = s.others := by rw [h.1]

theorem onlyMarked.field_eq (h : onlyMarked cs s t) : t.field = s.field := by rw [h.1]

theorem onlyMarked.offline_eq (h : onlyMarked cs s t) : t.offline = s.offline := by rw [h.1]

theorem onlyMarked.queues_eq (h : onlyMarked cs s t) : t.queues = s.queues := by rw [h.1]

theorem onlyMarked.eventFrames_eq (h : onlyMarked cs s t) : t.eventFrames = s.eventFrames := by rw [h.1]

theorem onlyMarked.lockstep_eq (h : onlyMarked cs s t) : t.lockstep = s.lockstep := by rw [h.1]

end Marked

theorem physStore_marked (cs : List Nat) (s : State) (pa : Nat) (bs : List Byte) : onlyMarked cs s (physStore s pa bs) :=
  (setMemBytes_only s pa bs).marked.trans ⟨rfl, fun _ _ => rfl⟩

theorem physTouch_marked (cs : List Nat) (s : State) (pa n : Nat) (write : Bool) : onlyMarked cs s (physTouch s pa n write) :=
  (physTouch_only s pa n write).marked

theorem setHbmTag_marked (cs : List Nat) (s : State) (f : Nat) (t : Word) : onlyMarked cs s (setHbmTag s f t) := by
  unfold setHbmTag physWrite
  split
  · exact physTouch_marked ..
  · exact (physTouch_marked ..).trans (physStore_marked ..)

/-- The tag of a frame that is no frame of the field, or lies in one of the clusters. -/
theorem putFrameTag_marked {cs : List Nat} (s : State) {f : Nat} (t : Word) (hf : f < 2 ^ 32 → f / 1024 ∈ cs) : onlyMarked cs s (putFrameTag s f t) := by
  unfold putFrameTag
  split
  next hlt => exact ⟨rfl, fun x hx => mget_mset_other _ _ _ _ _ fun h => hx (h ▸ hf hlt)⟩
  · exact setHbmTag_marked ..

theorem staleFrames_marked {cs : List Nat} (s : State) (c : Copy) {fs : List Nat} (hfs : ∀ f ∈ fs, f < 2 ^ 32 → f / 1024 ∈ cs) :
    onlyMarked cs s (staleFrames s c fs).1 :=
  onlyMarked.foldl (proj := Prod.fst) (onlyMarked.refl cs s) fun acc _ f hf => putFrameTag_marked acc.1 _ (hfs f (List.mem_filter.mp hf).1)

theorem poisonTags_marked {cs : List Nat} (s : State) {fs : List Nat} (hfs : ∀ f ∈ fs, f < 2 ^ 32 → f / 1024 ∈ cs) :
    onlyMarked cs s (poisonTags s fs) := by
  refine onlyMarked.foldl (proj := id) (onlyMarked.refl cs s) fun acc _ f hf => ?_
  dsimp only [id]
  split
  · exact putFrameTag_marked acc _ (hfs f hf)
  · exact onlyMarked.refl cs acc

/-- Frames that a copy leaves half written are marked in the gang's clusters and in HBM alone (R300). -/
theorem staleLeft_marked (s : State) (c : Copy) : onlyMarked s.g.clusters s (staleLeft s c) := by
  refine onlyMarked.foldl (proj := id) (onlyMarked.refl _ s) fun acc hacc d _ => ?_
  dsimp only [id] at hacc ⊢
  split
  · exact onlyMarked.refl _ acc
  next l hl =>
    have hframes := copyLanding_frames hl
    rw [hacc.g_eq] at hframes
    split
    · exact (staleFrames_marked acc _ hframes).trans (poisonTags_marked _ hframes)
    · exact staleFrames_marked acc _ hframes

/-- No byte is written where a copy has written every frame that it has touched to its end. -/
theorem staleLeft_settled {s : State} {c : Copy} (h : ∀ f ∈ c.touched, f ∈ c.posted) : staleLeft s c = s := by
  have hnone : (c.touched.filter fun d => !c.posted.contains d && carriesTag s c d) = [] := by
    rw [List.filter_eq_nil_iff]
    exact fun d hd => by simp [h d hd]
  rw [staleLeft, hnone, List.foldl_nil]

/-- A full-stripe write that is broken off moves marks of errors alone (R373). -/
def onlyErrors (s t : State) : Prop :=
  t = { s with
    memBad := t.memBad, parityBad := t.parityBad, replaced := t.replaced, hbmStat := t.hbmStat, remapBad := t.remapBad, mirrorBad := t.mirrorBad
    channelPower := t.channelPower, hubs := t.hubs, agenda := t.agenda }

theorem onlyErrors.trans {s t u : State} (h1 : onlyErrors s t) (h2 : onlyErrors t u) : onlyErrors s u := by
  unfold onlyErrors at h1 h2 ⊢
  rw [h1] at h2
  exact h2

theorem onlyServed.errors {s t : State} (h : onlyServed s t) : onlyErrors s t := by
  unfold onlyServed at h
  unfold onlyErrors
  rw [h]

theorem onlyErrors.marked {cs : List Nat} {s t : State} (h : onlyErrors s t) : onlyMarked cs s t := by
  unfold onlyErrors at h
  rw [h]
  exact ⟨rfl, fun _ _ => rfl⟩

theorem onlyErrors.store_eq {s t : State} (h : onlyErrors s t) : t.store = s.store := by
  unfold onlyErrors at h
  rw [h]
  rfl

theorem breakStripe_errors (s : State) (c : Copy) (e0 e1 j pa : Nat) : onlyErrors s (breakStripe s c e0 e1 j pa) := by
  unfold breakStripe
  dsimp only
  refine onlyErrors.trans (t := unreplace s pa) rfl (onlyErrors.trans (onlyServed.errors ?_) rfl)
  exact onlyServed.foldl _ (fun s u => physTouch_only ..) _ _

theorem brokenStripe_errors (s : State) (c : Copy) (e : Nat) : onlyErrors s (brokenStripe s c e) := by
  unfold brokenStripe
  refine List.foldlRecOn (motive := fun (acc : State × List Nat) => onlyErrors s acc.1) _ _ (rfl : onlyErrors s s) fun acc hacc k _ => ?_
  split
  · exact hacc
  · split
    · exact hacc
    · exact hacc.trans (breakStripe_errors ..)

theorem discardCopy_marked (s : State) (c : Copy) : onlyMarked s.g.clusters s (discardCopy s c) := by
  have hbroken := brokenStripe_errors s c c.position
  have hstale := staleLeft_marked (brokenStripe s c c.position) c
  rw [(hbroken.marked (cs := [])).g_eq] at hstale
  exact hbroken.marked.trans hstale

theorem discardCopy_settled {s : State} {c : Copy} (h : ∀ f ∈ c.touched, f ∈ c.posted) : (discardCopy s c).store = s.store := by
  rw [discardCopy, staleLeft_settled h]
  exact (brokenStripe_errors ..).store_eq

theorem foldl_discardCopy_marked (s : State) (q : List Copy) : onlyMarked s.g.clusters s (q.foldl discardCopy s) :=
  onlyMarked.foldl (proj := id) (onlyMarked.refl _ s) fun acc hacc c _ => by
    have h := discardCopy_marked acc c
    rwa [show acc.g = s.g from hacc.g_eq] at h

theorem foldl_discardCopy_settled {q : List Copy} (h : ∀ c ∈ q, ∀ f ∈ c.touched, f ∈ c.posted) (s : State) :
    (q.foldl discardCopy s).store = s.store :=
  List.foldlRecOn (motive := fun t => t.store = s.store) q discardCopy rfl fun _ ht c hc => (discardCopy_settled (h c hc)).trans ht

theorem discardCopies_marked (s : State) : onlyMarked s.g.clusters s (discardCopies s) :=
  onlyMarked.foldl (proj := id) (onlyMarked.refl _ s) fun acc hacc p _ => by
    have h := foldl_discardCopy_marked acc p.2.queue
    rwa [show acc.g = s.g from hacc.g_eq] at h

theorem discardCopies_idle {s : State} (h : ∀ p ∈ s.g.channels, p.2.queue = []) : discardCopies s = s :=
  List.foldlRecOn (motive := fun t => t = s) _ _ rfl fun t ht p hp => by
    rw [h p hp, List.foldl_nil, ht]

/-! ### Clusters that are given up (R30, R47) -/

/-- Only the field and its tags have changed. -/
def onlySpan (s t : State) : Prop := t = { s with field := t.field, fieldBad := t.fieldBad, ftags := t.ftags, ftagBad := t.ftagBad }

theorem onlySpan.trans {s t u : State} (h1 : onlySpan s t) (h2 : onlySpan t u) : onlySpan s u := by
  unfold onlySpan at h1 h2 ⊢
  rw [h1] at h2
  exact h2

theorem foldl_clearCluster_only (cs : List Nat) (s : State) : onlySpan s (cs.foldl clearCluster s) :=
  List.foldlRecOn (motive := onlySpan s) cs clearCluster (rfl : onlySpan s s) fun t ht c _ => ht.trans (rfl : onlySpan t (clearCluster t c))

/-- Cleared clusters read as zero, with every tag RAW, and no other byte or tag of the field changes (R30). -/
theorem foldl_clearCluster_reads (cs : List Nat) (s : State) (x : Nat) :
    rdByte (cs.foldl clearCluster s).field x = (if x / 2 ^ 23 ∈ cs then 0 else rdByte s.field x)
      ∧ tagOfKey (cs.foldl clearCluster s) x = if x / 2 ^ 23 ∈ cs then rawTag else tagOfKey s x := by
  induction cs generalizing s with
  | nil => simp
  | cons c cs ih =>
    obtain ⟨hfield, htag⟩ := ih (clearCluster s c)
    have hbyte : rdByte (clearCluster s c).field x = if x / 2 ^ 23 = c then 0 else rdByte s.field x := by
      refine (mget_mclear ..).trans ?_
      by_cases h : x / 2 ^ 23 = c
      · rw [if_neg (by omega), if_pos h]
        rfl
      · rw [if_pos (by omega), if_neg h]
        rfl
    have hclear : tagOfKey (clearCluster s c) x = if x / 2 ^ 23 = c then rawTag else tagOfKey s x := by
      refine (mget_mclear ..).trans ?_
      by_cases h : x / 2 ^ 23 = c
      · rw [if_neg (by omega), if_pos h]
      · rw [if_pos (by omega), if_neg h]
        rfl
    rw [List.foldl_cons, hfield, htag, hbyte, hclear]
    by_cases hcs : x / 2 ^ 23 ∈ cs
    · simp only [hcs, if_true, List.mem_cons, or_true, and_self]
    · simp only [hcs, if_false, List.mem_cons, or_false, and_self]

/-- A span that is released: its clusters are cleared, and the rest of the field stays (R30, R47). -/
theorem releaseSpan_field (s : State) : (∀ c ∈ s.g.clusters, clusterClear c (releaseSpan s)) ∧ fieldKept s.g.clusters s (releaseSpan s) := by
  have hfield : (releaseSpan s).field = (s.g.clusters.foldl clearCluster s).field := by
    unfold releaseSpan requestPass
    split <;> rfl
  have htags : (releaseSpan s).ftags = (s.g.clusters.foldl clearCluster s).ftags := by
    unfold releaseSpan requestPass
    split <;> rfl
  refine ⟨fun c hc x hx => ?_, fun x hx => ?_⟩ <;> obtain ⟨hbyte, htag⟩ := foldl_clearCluster_reads s.g.clusters s x
  · subst hx
    rw [if_pos hc] at hbyte htag
    exact ⟨by rw [hfield, hbyte], by rw [← htag, tagOfKey, htags, tagOfKey]⟩
  · rw [if_neg hx] at hbyte htag
    exact ⟨by rw [hfield, hbyte], by rw [← htag, tagOfKey, htags, tagOfKey]⟩

/-- What releasing a span changes besides the field. -/
theorem releaseSpan_only (s : State) :
    let t := releaseSpan s
    t = { s with field := t.field, fieldBad := t.fieldBad, ftags := t.ftags, ftagBad := t.ftagBad, agenda := t.agenda
                 g := { s.g with clusters := [], followers := [] } } := by
  have h := foldl_clearCluster_only s.g.clusters s
  unfold onlySpan at h
  unfold releaseSpan requestPass
  generalize s.g.clusters.foldl clearCluster s = u at h ⊢
  rw [h]
  dsimp only
  split <;> rfl

end Sys2Proof.Machine
end

section
/-! The failure of a gang (R220, R223). -/
namespace Sys2Proof.Machine

theorem foldl_setReg_only (ls : List Load) (g : Gang) :
    let h := ls.foldl (fun (g : Gang) l => g.setReg l.reg l.value) g
    h = { g with regs := h.regs, regBad := h.regBad } :=
  List.foldlRecOn (motive := fun (h : Gang) => h = { g with regs := h.regs, regBad := h.regBad }) ls _ rfl fun h hh l _ => by
    rw [hh]
    unfold Gang.setReg
    split <;> rfl

/-- What a halt of a gang without unretired instructions changes (R41, R223, R228). -/
theorem haltGang_only (ph : Phase) {s : State} (h : s.g.bq = []) :
    let t := haltGang ph s
    t = { s with
      haltCounter := t.haltCounter, fresh := t.fresh
      g := { s.g with
        regs := t.g.regs, regBad := t.g.regBad, bq := [], banks := [], pulls := [], tokens := [], rq := t.g.rq, phase := ph, svkHeld := t.g.svkHeld
        loads := [], preempt := false, haltFrame := [], haltResume := [], haltOrder := t.g.haltOrder, context := t.g.context } } := by
  have hregs := foldl_setReg_only s.g.loads { s.g with bq := [], banks := [], pulls := [], tokens := [], rq := s.g.rq.filter Option.isSome }
  rw [haltGang_empty ph h, haltSelected]
  dsimp only at hregs ⊢
  rw [hregs]
  rfl

/-- A stopped queue reports its error, and nothing but its entry and what is sent to the host changes (R425, R432). -/
theorem stopQueue_only (s : State) (q err ix : Nat) :
    let t := stopQueue s q err ix
    t = { s with queues := t.queues, eventFrames := t.eventFrames, cycles := t.cycles, fresh := t.fresh } := by
  unfold stopQueue
  split <;> rfl

theorem stopQueue_entry {s : State} {q : Nat} (err ix : Nat) (h : q < 8192) :
    (mget ({} : Queue) (stopQueue s q err ix).queues q).st = 3 ∧ (mget ({} : Queue) (stopQueue s q err ix).queues q).err = err := by
  have hq : (stopQueue s q err ix).queues = mset {} s.queues q { mget ({} : Queue) s.queues q with st := 3, err := err, errix := ix } := by
    rw [stopQueue, if_pos h]
    rfl
  rw [hq, mget_mset_same]
  exact ⟨rfl, rfl⟩

theorem stopQueue_eventFrames (s : State) (q err ix : Nat) {f : EventFrame} (h : f ∈ s.eventFrames) : f ∈ (stopQueue s q err ix).eventFrames := by
  unfold stopQueue
  split
  · exact List.mem_append_left _ h
  · exact h

theorem rotate_tags (s : State) : (rotate s).ftags = s.ftags ∧ (rotate s).queues = s.queues := by
  unfold rotate
  split <;> exact ⟨rfl, rfl⟩

/-- A gang without unretired instructions that fails (R220, R223, R425): it has no span, its clusters are cleared, the host is told, and its
queue stops. -/
theorem failGang_effect {s : State} {c : Cause} {imp : Bool} {gepc : Word} (hbq : s.g.bq = []) (hid : ownId s) :
    let t := failGang s c imp gepc
    ∃ x, findGang t s.g.id = some x ∧ x.phase = .failed ∧ x.clusters = []
      ∧ (∀ k ∈ s.g.clusters, clusterClear k t) ∧ fieldKept s.g.clusters s t
      ∧ ((∀ p ∈ s.g.channels, p.2.queue = []) → sameMem s t)
      ∧ (∃ f ∈ t.eventFrames, f.type = 2
          ∧ f.payload = [w64 s.g.launch.queue, w64 s.g.launch.index, s.g.gangId, causeWord c imp, gepc, c.val])
      ∧ (s.g.launch.queue < 8192 → (mget {} t.queues s.g.launch.queue).st = 3 ∧ (mget {} t.queues s.g.launch.queue).err = 5) := by
  have hhalt := haltGang_only .failed hbq
  obtain ⟨u, hu⟩ : ∃ u, u = haltGang .failed s := ⟨_, rfl⟩
  rw [← hu] at hhalt
  dsimp only at hhalt
  have hmarked := discardCopies_marked u
  have hclusters : u.g.clusters = s.g.clusters := by rw [hhalt]
  obtain ⟨v, hv⟩ : ∃ v, v = discardCopies u := ⟨_, rfl⟩
  rw [← hv, hclusters] at hmarked
  have hvg : v.g = u.g := hmarked.g_eq
  let told := sendFrame v 2 v.g.lead [w64 v.g.launch.queue, w64 v.g.launch.index, v.g.gangId, causeWord c imp, gepc, c.val]
  let y := stopQueue told v.g.launch.queue 5 v.g.launch.index
  have hfail : failGang s c imp gepc = rotate (releaseSpan y) := by
    rw [failGang, ← hu, ← hv]
  have hstopped : y = _ := stopQueue_only told v.g.launch.queue 5 v.g.launch.index
  have hyg : y.g = u.g := by
    rw [hstopped]
    exact hvg
  have hreleased := releaseSpan_only y
  obtain ⟨hclear, hkept⟩ := releaseSpan_field y
  obtain ⟨hrtags, hrqueues⟩ := rotate_tags (releaseSpan y)
  have hrfield : (rotate (releaseSpan y)).field = (releaseSpan y).field := field_of_store (rotate_store _)
  have hzg : (releaseSpan y).g = { u.g with clusters := [], followers := [] } := by rw [hreleased, ← hyg]
  have hzid : (releaseSpan y).g.id = s.g.id := by rw [hzg, hhalt]
  have hyclusters : y.g.clusters = s.g.clusters := by rw [hyg, hclusters]
  have hownz : ownId (releaseSpan y) := by
    have hothers : (releaseSpan y).others = s.others := by
      rw [hreleased, hstopped]
      exact (hmarked.others_eq).trans (by rw [hhalt])
    unfold ownId
    rw [hzid, hothers]
    exact hid
  have hlaunch : v.g.launch = s.g.launch := by rw [hvg, hhalt]
  dsimp only
  rw [hfail]
  refine ⟨(releaseSpan y).g, hzid ▸ findGang_rotate hownz, ?_, by rw [hzg], fun k hk x hx => ?_, fun x hx => ?_, fun hidle => ?_, ?_, fun hq => ?_⟩
  · rw [hzg, hhalt]
  · obtain ⟨hbyte, htag⟩ := hclear k (hyclusters ▸ hk) x hx
    exact ⟨by rw [hrfield, hbyte], by rw [← htag, tagOfKey, hrtags, tagOfKey]⟩
  · obtain ⟨hbyte, htag⟩ := hkept x (by rw [hyclusters]; exact hx)
    have hyfield : y.field = s.field := by
      rw [hstopped]
      exact hmarked.field_eq.trans (by rw [hhalt])
    have hytag : tagOfKey y x = tagOfKey s x := by
      have h := hmarked.2 (x / 8192) (by rw [show x / 8192 / 1024 = x / 2 ^ 23 by omega]; exact hx)
      rw [hstopped]
      exact h.trans (by rw [hhalt]; rfl)
    exact ⟨by rw [hrfield, hbyte, hyfield], by rw [← hytag, ← htag, tagOfKey, hrtags, tagOfKey]⟩
  · have huv : v = u := hv.trans (discardCopies_idle (by rw [hhalt]; exact hidle))
    have hparity : (releaseSpan y).parity = s.parity := by
      rw [hreleased, hstopped]
      show v.parity = s.parity
      rw [huv, hhalt]
    have hstore : (releaseSpan y).mem = s.mem ∧ (releaseSpan y).peerMem = s.peerMem ∧ (releaseSpan y).hbmTags = s.hbmTags
        ∧ (releaseSpan y).peerWindows = s.peerWindows := by
      rw [hreleased, hstopped]
      show v.mem = s.mem ∧ v.peerMem = s.peerMem ∧ v.hbmTags = s.hbmTags ∧ v.peerWindows = s.peerWindows
      rw [huv, hhalt]
      exact ⟨rfl, rfl, rfl, rfl⟩
    obtain ⟨hmem, hpeer, htags, hwindows⟩ := hstore
    exact fun a => (memByte_of_store (rotate_store _) a).trans (memByte_of_tagFrame (by rw [hparity]) hmem hpeer htags hwindows)
  · refine ⟨⟨2, v.g.lead, dieCycle v v.g.lead, [w64 v.g.launch.queue, w64 v.g.launch.index, v.g.gangId, causeWord c imp, gepc, c.val]⟩,
      ?_, rfl, ?_⟩
    · rw [rotate_eventFrames, hreleased]
      exact stopQueue_eventFrames _ _ _ _ (List.mem_append_right _ (List.mem_singleton.mpr rfl))
    · dsimp only
      rw [hlaunch, hvg, hhalt]
      rfl
  · have hentry := stopQueue_entry (s := told) (q := v.g.launch.queue) 5 v.g.launch.index (by rw [hlaunch]; exact hq)
    rw [hlaunch] at hentry
    have hzqueues : (releaseSpan y).queues = (stopQueue told s.g.launch.queue 5 s.g.launch.index).queues := by
      rw [hreleased, ← hlaunch]
    rw [hrqueues, hzqueues]
    exact hentry

/-- Without a handler, or at handler level, a cause fails the gang (R220, R223). -/
theorem enterHandler_fails {s : State} (c : Cause) (imp : Bool) (gepc : Word) (fault : Option Nat) (h : s.g.pl = true ∨ s.g.gtvec = 0) :
    enterHandler s c imp gepc fault = failGang s c imp gepc := if_pos h

/-- Settles O25: a cause that finds no handler fails the gang. -/
theorem causesWithoutAHandlerFailTheGang : Obligations.CausesWithoutAHandlerFailTheGang := by
  unfold Obligations.CausesWithoutAHandlerFailTheGang
  intro i s hi hwf hid hbq hbank hnone
  obtain ⟨k, hk⟩ := exec_eq_userOp i s hi
  have hfail : exec i s = .next (failGang s ⟨1, w64 (encodeWord i), w64 0, 0, 0, 0⟩ false s.g.pc) := by
    have hno : s.g.pl = true ∨ s.g.gtvec = 0 := hnone.imp_right And.left
    have hfirst : coreFirst ⟨1, w64 (encodeWord i), w64 0, 0, 0, 0⟩ = false := rfl
    simp [hk, userOp, hwf, trapIllegal, trapS, trapAt, afterWaits, hbank, hbq, takeCause, hfirst, enterHandler_fails _ _ _ _ hno]
  obtain ⟨x, hfind, hphase, hclusters, hclear, hkept, hmem, ⟨f, hf, htype, hpayload⟩, hqueue⟩ := failGang_effect
    (c := ⟨1, w64 (encodeWord i), w64 0, 0, 0, 0⟩) (imp := false) (gepc := s.g.pc) hbq hid
  exact ⟨_, x, hfail, hfind, hphase, hclusters, hclear, hkept, hmem, ⟨f, hf, htype, by rw [hpayload]; rfl, by rw [hpayload]; rfl⟩, hqueue⟩

end Sys2Proof.Machine
end

section
/-! Writes of CHSTAT (R195, R343, R358). -/
namespace Sys2Proof.Machine

/-! ### A channel that is stored -/

theorem setChannel_channel (s : State) (ch j : Nat) (x : Channel) :
    (setChannel s ch x).g.channel j = if j = ch then x else s.g.channel j := by
  by_cases h : j = ch
  · rw [if_pos h, h]
    exact mget_mset_same ..
  · rw [if_neg h]
    exact mget_mset_other _ _ _ _ _ h

/-- Of the gang only its channels and its event bit differ, and its channel ch is now x. -/
def storesChannel (ch : Nat) (x : Channel) (s t : State) : Prop :=
  t.g = { s.g with ev := t.g.ev, channels := t.g.channels } ∧ t.field = s.field ∧ ∀ j, t.g.channel j = if j = ch then x else s.g.channel j

theorem setChannel_stores (s : State) (ch : Nat) (x : Channel) : storesChannel ch x s (setChannel s ch x) :=
  ⟨rfl, rfl, fun j => setChannel_channel s ch j x⟩

theorem setChannel_store (s : State) (ch : Nat) (x : Channel) : (setChannel s ch x).store = s.store := rfl

theorem clearErrors_eq (ch : Nat) (m : BitVec 7) (s : State) :
    clearErrors ch m s = setChannel s ch { s.g.channel ch with errors := (s.g.channel ch).errors &&& ~~~m } := rfl

/-- A queue that is empty has nothing to go on with. -/
theorem proceed_empty {s : State} (h : s.g.bq = []) : proceed s = s := by
  unfold proceed
  rw [h]
  split <;> rfl

/-- A channel that is cancelled: its copies are discarded, and it is idle again (R358). -/
def Channel.cancelled (x : Channel) : Channel := { x with queue := [], stopped := false, fault := none, taken := false }

theorem cancelChannel_running {s : State} {ch : Nat} (h : (s.g.channel ch).stopped = false) : cancelChannel s ch = s := by
  simp only [cancelChannel, h, Bool.false_eq_true, if_false]

/-- What cancelling a stopped channel changes (R216, R300, R358). -/
theorem cancelChannel_stopped {s : State} {ch : Nat} (h : (s.g.channel ch).stopped = true) :
    let t := cancelChannel s ch
    storesChannel ch (s.g.channel ch).cancelled s t ∧ t.g.ev = true
      ∧ ((∀ c ∈ (s.g.channel ch).queue, ∀ f ∈ c.touched, f ∈ c.posted) → t.store = s.store) := by
  have hmarked := foldl_discardCopy_marked s (s.g.channel ch).queue
  obtain ⟨u, hu⟩ : ∃ u, u = (s.g.channel ch).queue.foldl discardCopy s := ⟨_, rfl⟩
  have hcancel : cancelChannel s ch = setChannel { u with g := { u.g with ev := true } } ch (s.g.channel ch).cancelled := by
    simp only [cancelChannel, h, if_true, ← hu]
    rfl
  rw [← hu] at hmarked
  have hg : u.g = s.g := hmarked.g_eq
  dsimp only
  rw [hcancel]
  refine ⟨⟨?_, hmarked.field_eq, fun j => (setChannel_channel ..).trans ?_⟩, rfl, fun hsettled => ?_⟩
  · simp only [setChannel, hg]
  · simp only [hg]
    rfl
  · have hstore := foldl_discardCopy_settled hsettled s
    rw [← hu] at hstore
    exact hstore

/-! ### The writing instructions -/

/-- Error bits that a write of CHSTAT leaves (R343). -/
def errorsLeft (x : Channel) (v : Word) : Channel := { x with errors := x.errors &&& ~~~(BitVec.ofNat 7 (v.toNat / 2 ^ 8)) }

/-- The error bits are cleared, before a cancel. -/
def clearWritten (s : State) (ch : Nat) (v : Word) : State := setChannel s ch (errorsLeft (s.g.channel ch) v)

theorem clearWritten_commit_store (s : State) (ch : Nat) (v : Word) (d : Reg) (old : Word) :
    (((clearWritten s ch v).setReg d old).commit4).store = s.store := by
  rw [commit4_store, setReg_store]
  rfl

theorem storeChstat_eq (s : State) (ch : Nat) (v : Word) :
    storeChstat s ch v = if bit v 16 then proceed (cancelChannel (clearWritten s ch v) ch) else clearWritten s ch v := by
  have hmask : BitVec.ofNat 7 (bitsOf v.toNat 8 7) = BitVec.ofNat 7 (v.toNat / 2 ^ 8) := by
    apply BitVec.eq_of_toNat_eq
    simp [bitsOf]
  rw [storeChstat, hmask]
  rfl

/-- Where nothing is cancelled only error bits are cleared. -/
theorem storeChstat_keeps {s : State} {ch : Nat} {v : Word} (h : bit v 16 = false ∨ (s.g.channel ch).stopped = false)
    (hbq : s.g.bq = [] ∨ bit v 16 = false) : storeChstat s ch v = clearWritten s ch v := by
  have hchannel : (clearWritten s ch v).g.channel ch = errorsLeft (s.g.channel ch) v := (setChannel_channel ..).trans (if_pos rfl)
  rw [storeChstat_eq]
  by_cases hv : bit v 16 = true
  · have hrun : ((clearWritten s ch v).g.channel ch).stopped = false := by
      rw [hchannel]
      exact h.resolve_left (by simp [hv])
    rw [if_pos hv, cancelChannel_running hrun]
    exact proceed_empty (s := clearWritten s ch v) (hbq.resolve_right (by simp [hv]))
  · rw [if_neg hv]

/-- A write with CN = 1 of a stopped channel cancels it. -/
theorem storeChstat_cancels {s : State} {ch : Nat} {v : Word} (hv : bit v 16 = true) (hstopped : (s.g.channel ch).stopped = true)
    (hbq : s.g.bq = []) :
    let t := storeChstat s ch v
    storesChannel ch (errorsLeft (s.g.channel ch) v).cancelled s t ∧ t.g.ev = true
      ∧ ((∀ c ∈ (s.g.channel ch).queue, ∀ f ∈ c.touched, f ∈ c.posted) → t.store = s.store) := by
  have hchannel : (clearWritten s ch v).g.channel ch = errorsLeft (s.g.channel ch) v := (setChannel_channel ..).trans (if_pos rfl)
  obtain ⟨⟨hg, hfield, hchannels⟩, hev, hstore⟩ := cancelChannel_stopped (s := clearWritten s ch v) (ch := ch) (by rw [hchannel]; exact hstopped)
  rw [hchannel] at hchannels hstore
  have hidle : proceed (cancelChannel (clearWritten s ch v) ch) = cancelChannel (clearWritten s ch v) ch := proceed_empty (by rw [hg]; exact hbq)
  have hstored : storeChstat s ch v = cancelChannel (clearWritten s ch v) ch := by rw [storeChstat_eq, if_pos hv, hidle]
  dsimp only
  rw [hstored]
  refine ⟨⟨by rw [hg]; rfl, hfield, fun j => (hchannels j).trans ?_⟩, hev, hstore⟩
  by_cases hj : j = ch
  · rw [if_pos hj, if_pos hj]
  · rw [if_neg hj, if_neg hj]
    exact (setChannel_channel ..).trans (if_neg hj)

/-- The register that is written, and what is committed, where of the gang only a channel is stored. -/
theorem storesChannel.effect {ch : Nat} {x : Channel} {s u : State} (h : storesChannel ch x s u) (d : Reg) (old : Word) :
    let t := (u.setReg d old).commit4
    t.g.reg d = (if d = 0 then 0 else old) ∧ sameRegsBut [d] s t ∧ committed (s.g.pc + 4) s t ∧ sameField s t ∧ sameLocal s t
      ∧ t.g.channel ch = x ∧ ∀ j, j ≠ ch → t.g.channel j = s.g.channel j := by
  obtain ⟨hg, hfield, hchannels⟩ := h
  have hchannel : ∀ j, (u.setReg d old).commit4.g.channel j = u.g.channel j := fun j =>
    congrArg (mget ({} : Channel) · j) (Gang.setReg_channels ..)
  obtain ⟨hd, hregs, hcommit, ⟨-, hfield', hlocal⟩, -⟩ := writesReg_commit4 u d old
  refine ⟨hd, fun r hr => (hregs r hr).trans (by rw [hg]; rfl), ?_, fun a => (hfield' a).trans (by rw [hfield]),
    fun a => (hlocal a).trans (by rw [hg]), (hchannel ch).trans ((hchannels ch).trans (if_pos rfl)),
    fun j hj => (hchannel j).trans ((hchannels j).trans (if_neg hj))⟩
  unfold committed at hcommit ⊢
  rw [show u.g.pc = s.g.pc by rw [hg], show u.g.retired = s.g.retired by rw [hg], show u.g.stepping = s.g.stepping by rw [hg],
    show u.g.pl = s.g.pl by rw [hg], show u.g.held = s.g.held by rw [hg]] at hcommit
  exact hcommit

/-- The registers CHSTAT0 to CHSTAT7 (R195, R343). -/
theorem chstat_number (c : BitVec 3) :
    (BitVec.ofNat 12 (0x50 + c.toNat)).toNat = 0x50 + c.toNat ∧ c.toNat ≤ 7 := by
  have hc : c.toNat < 8 := c.isLt
  refine ⟨?_, by omega⟩
  rw [BitVec.toNat_ofNat]
  omega

theorem control_chstat (g : Gang) {k : Nat} (hk : k ≤ 7) : g.control (0x50 + k) = chstat g k := by
  have hcases : k = 0 ∨ k = 1 ∨ k = 2 ∨ k = 3 ∨ k = 4 ∨ k = 5 ∨ k = 6 ∨ k = 7 := by omega
  rcases hcases with rfl | rfl | rfl | rfl | rfl | rfl | rfl | rfl <;> rfl

/-- What CWR, CSET and CCLR write to CHSTAT: the register, but CCLR nothing (R195). -/
theorem exec_chstatWrite (s : State) (d a : Reg) (c : BitVec 3) {P : State → Prop} :
    ∀ p ∈ [(Instr.cwr d a (BitVec.ofNat 12 (0x50 + c.toNat)), s.reg a), (.cset d a (BitVec.ofNat 12 (0x50 + c.toNat)), s.reg a),
        (.cclr d a (BitVec.ofNat 12 (0x50 + c.toNat)), 0)],
      P (((storeChstat s c.toNat p.2).setReg d (chstat s.g c.toNat)).commit4) → completes p.1 s P := by
  obtain ⟨hn, hk⟩ := chstat_number c
  have hwrites : ∀ (i : Instr) (f : Word → Word → Word) (clears : Bool),
      exec i s = crxWrite i d a (BitVec.ofNat 12 (0x50 + c.toNat)) f clears s →
      P (((storeChstat s c.toNat (if clears then 0 else s.reg a)).setReg d (chstat s.g c.toNat)).commit4) → completes i s P := by
    intro i f clears hi hP
    refine completes_of_userOp hi ?_
    have hflags : waitsForFlags (0x50 + c.toNat) = false := by
      simp only [waitsForFlags, Bool.and_eq_false_iff, decide_eq_false_iff_not]
      omega
    have hconv : 0x50 + c.toNat ≠ 0x030 := by omega
    have hcycle : 0x50 + c.toNat ≠ 0x040 := by omega
    have hch : 0x50 ≤ 0x50 + c.toNat ∧ 0x50 + c.toNat ≤ 0x57 := by omega
    simp only [hn, hconv, if_false, hflags, Bool.false_and, beq_eq_false_iff_ne.mpr hconv, Bool.or_self, Bool.false_eq_true, readControl_other s hcycle,
      control_chstat s.g hk, hch, and_self, if_true, storeControl, Nat.add_sub_cancel_left]
    exact hP
  simp only [List.forall_mem_cons, List.not_mem_nil, false_imp_iff, implies_true, and_true]
  exact ⟨hwrites _ (fun _ y => y) false (exec_cwr ..), hwrites _ (fun old y => old ||| y) false (exec_cset ..),
    hwrites _ (fun old y => old &&& ~~~y) true (exec_cclr ..)⟩

theorem exec_chstatErrorClear (c : BitVec 3) (m : BitVec 7) (s : State) : exec (.chstatErrorClear c m) s = eventOp s (clearErrors c.toNat m) := rfl
theorem exec_chstatCancel (c : BitVec 3) (s : State) : exec (.chstatCancel c) s = eventOp s fun s => proceed (cancelChannel s c.toNat) := rfl

/-- Settles O13: a write clears error bits, and cancels the channel where it is stopped. -/
theorem channelStatusWritesClearAndCancel : Obligations.ChannelStatusWritesClearAndCancel := by
  unfold Obligations.ChannelStatusWritesClearAndCancel
  intro s d a c m k n settled left
  refine ⟨fun p hp => ⟨fun hkeep hbq => exec_chstatWrite s d a c p hp ?_, fun hv hstopped hbq => exec_chstatWrite s d a c p hp ?_⟩,
    occurs_of_eventOp (exec_chstatErrorClear c m s) ?_, fun hstopped hbq => occurs_of_eventOp (exec_chstatCancel c s) ?_⟩
  · rw [storeChstat_keeps hkeep hbq]
    exact ⟨(setChannel_stores s k _).effect d _, sameMem_of_store (clearWritten_commit_store ..)⟩
  · obtain ⟨hstores, hev, hstore⟩ := storeChstat_cancels hv hstopped hbq
    refine ⟨by rw [State.commit4_g]; exact (Gang.setReg_ev ..).trans hev, fun hsettled => sameMem_of_store ?_, hstores.effect d _⟩
    rw [commit4_store, setReg_store, hstore hsettled]
  · rw [clearErrors_eq]
    obtain ⟨-, -, hchannels⟩ := setChannel_stores s c.toNat { s.g.channel c.toNat with errors := (s.g.channel c.toNat).errors &&& ~~~m }
    exact ⟨⟨sameMem_of_store (setChannel_store ..), fun _ => rfl, fun _ => rfl⟩, (hchannels c.toNat).trans (if_pos rfl),
      fun j hj => (hchannels j).trans (if_neg hj)⟩
  · obtain ⟨⟨hg, hfield, hchannels⟩, hev, hstore⟩ := cancelChannel_stopped hstopped
    rw [proceed_empty (by rw [hg]; exact hbq)]
    exact ⟨fun a => by rw [hfield], fun a => by rw [hg], fun hsettled => sameMem_of_store (hstore hsettled), hev,
      (hchannels k).trans (if_pos rfl), fun j hj => (hchannels j).trans (if_neg hj)⟩

end Sys2Proof.Machine
end

section
/-! The conversion reservation (R195, R302). -/
namespace Sys2Proof.Machine

/-! ### An answer in a register -/

/-- The gang stands where it stood, with the registers that it had. -/
def sameProgress (s t : State) : Prop :=
  t.g.regs = s.g.regs ∧ t.g.pc = s.g.pc ∧ t.g.retired = s.g.retired ∧ t.g.stepping = s.g.stepping ∧ t.g.pl = s.g.pl ∧ t.g.held = s.g.held

/-- What an instruction that answers in a register leaves of the registers and the progress of its gang. -/
theorem sameProgress.answers {s u : State} (h : sameProgress s u) (d : Reg) (v : Word) :
    let t := (u.setReg d v).commit4
    t.g.reg d = (if d = 0 then 0 else v) ∧ sameRegsBut [d] s t ∧ committed (s.g.pc + 4) s t := by
  obtain ⟨hregs, hpc, hretired, hstepping, hpl, hheld⟩ := h
  obtain ⟨hd, hothers, hcommit, -, -⟩ := writesReg_commit4 u d v
  refine ⟨hd, fun r hr => (hothers r hr).trans (by rw [Gang.reg, Gang.reg, hregs]), ?_⟩
  unfold committed at hcommit ⊢
  rw [hpc, hretired, hstepping, hpl, hheld] at hcommit
  exact hcommit

@[simp] theorem answer_store (u : State) (d : Reg) (v : Word) : ((u.setReg d v).commit4).store = u.store := by rw [commit4_store, setReg_store]

/-! ### The reservation for conversions (R302) -/

/-- The bytes of the frames lo to hi - 1 of one of the first n banks of the span. -/
def inFrames (g : Gang) (n lo hi x : Nat) : Prop := ∃ b < n, g.fieldKey b 0 + lo * 8192 ≤ x ∧ x < g.fieldKey b 0 + hi * 8192

/-- Frames that are cleared read as zeros, and no other byte of the field changes (R30, R302). -/
theorem clearFrames_reads (s : State) (lo hi x : Nat) :
    (inFrames s.g s.g.banksInSpan lo hi x → rdByte (clearFrames s lo hi).field x = 0)
      ∧ (¬ inFrames s.g s.g.banksInSpan lo hi x → rdByte (clearFrames s lo hi).field x = rdByte s.field x)
      ∧ onlySpan s (clearFrames s lo hi) := by
  unfold clearFrames
  induction s.g.banksInSpan with
  | zero => exact ⟨fun ⟨b, hb, _⟩ => absurd hb (Nat.not_lt_zero b), fun _ => rfl, rfl⟩
  | succ n ih =>
    rw [List.range_succ, List.foldl_append, List.foldl_cons, List.foldl_nil]
    generalize (List.range n).foldl _ s = u at ih ⊢
    obtain ⟨hin, hout, honly⟩ := ih
    have hg : u.g = s.g := by rw [honly]
    have hbyte : ∀ r, rdByte (mclear u.field (u.g.fieldKey n 0 + lo * 8192) (u.g.fieldKey n 0 + hi * 8192)) r
        = if s.g.fieldKey n 0 + lo * 8192 ≤ r ∧ r < s.g.fieldKey n 0 + hi * 8192 then 0 else rdByte u.field r := fun r => by
      refine (mget_mclear ..).trans ?_
      rw [hg]
      by_cases hr : s.g.fieldKey n 0 + lo * 8192 ≤ r ∧ r < s.g.fieldKey n 0 + hi * 8192
      · rw [if_pos hr, if_neg (by omega)]
        rfl
      · rw [if_neg hr, if_pos (by omega)]
        rfl
    refine ⟨fun ⟨b, hb, hx⟩ => (hbyte x).trans ?_, fun hnot => (hbyte x).trans ?_, honly.trans rfl⟩
    · by_cases hn : s.g.fieldKey n 0 + lo * 8192 ≤ x ∧ x < s.g.fieldKey n 0 + hi * 8192
      · exact if_pos hn
      · rw [if_neg hn]
        have hbn : b ≠ n := fun h => hn (h ▸ hx)
        exact hin ⟨b, by omega, hx⟩
    · rw [if_neg fun hx => hnot ⟨n, Nat.lt_succ_self n, hx⟩]
      exact hout fun ⟨b, hb, hx⟩ => hnot ⟨b, Nat.lt_succ_of_lt hb, hx⟩

/-- What a write of NCF stores (R302). -/
theorem storeConvres_effect (s : State) (v : Word) :
    let t := storeConvres s v
    let old := s.g.convres.toNat % 32
    let new := min 16 (v.toNat % 32)
    t.g = { s.g with convres := w64 new }
      ∧ (∀ x, inFrames s.g s.g.banksInSpan (64 - max old new) (64 - min old new) x → rdByte t.field x = 0)
      ∧ (∀ x, ¬ inFrames s.g s.g.banksInSpan (64 - max old new) (64 - min old new) x → rdByte t.field x = rdByte s.field x)
      ∧ sameMem s t := by
  have hreads := clearFrames_reads s (64 - max (s.g.convres.toNat % 32) (min 16 (v.toNat % 32)))
    (64 - min (s.g.convres.toNat % 32) (min 16 (v.toNat % 32)))
  have honly := (hreads 0).2.2
  unfold onlySpan at honly
  dsimp only
  refine ⟨?_, fun x => (hreads x).1, fun x => (hreads x).2.1, fun a => ?_⟩
  · unfold storeConvres
    dsimp only
    rw [honly]
  · refine memByte_of_tagFrame (tagFrame_congr ?_ ?_ a) ?_ ?_ ?_ ?_ <;> (unfold storeConvres; dsimp only; rw [honly])

theorem exec_convresWrite (v : Word) (s : State) : exec (.convresWrite v) s = eventOp s (convresWrite v) := rfl

/-- The store of CONVRES by an instruction, with nothing outstanding (R195, R302). -/
theorem crxWrite_convres {i : Instr} {d a : Reg} {f : Word → Word → Word} {clears : Bool} {s : State} {P : State → Prop}
    (hexec : exec i s = crxWrite i d a 0x030 f clears s) (hbq : s.g.bq = []) (hchannels : ∀ p ∈ s.g.channels, p.2.queue = [])
    (hP : P (((storeConvres s (f s.g.convres (s.reg a))).setReg d s.g.convres).commit4)) : completes i s P := by
  refine completes_of_userOp hexec ?_
  have hn : (0x030 : BitVec 12).toNat = 0x030 := rfl
  have hcontrol : s.g.control 0x030 = s.g.convres := rfl
  have hflags : waitsForFlags 0x030 = false := rfl
  simp only [hn, if_true, waitCopies_idle hchannels, hflags, Bool.false_and, mapReady_idle hbq hchannels, Bool.not_true, Bool.and_false, Bool.or_self,
    Bool.false_eq_true, if_false, readControl_other s (show (0x030 : Nat) ≠ 0x040 by decide), hcontrol, storeControl]
  exact hP

/-- The three writing instructions of CONVRES (R195). -/
theorem exec_convresControl (s : State) (d a : Reg) :
    ∀ p ∈ [(Instr.cwr d a 0x030, s.reg a), (.cset d a 0x030, s.g.convres ||| s.reg a), (.cclr d a 0x030, s.g.convres &&& ~~~(s.reg a))],
      ∃ f clears, exec p.1 s = crxWrite p.1 d a 0x030 f clears s ∧ p.2 = f s.g.convres (s.reg a) := exec_crxWrite s d a 0x030

/-- Settles O16: the frames between the old and the new reservation are cleared, and nothing else. -/
theorem conversionReservationClearsTheFramesThatMove : Obligations.ConversionReservationClearsTheFramesThatMove := by
  unfold Obligations.ConversionReservationClearsTheFramesThatMove
  intro s d a v hbq hchannels old new moved effect
  have hevent : convresWrite v s = storeConvres s v := if_pos (mapReady_idle hbq hchannels)
  refine ⟨occurs_of_eventOp (exec_convresWrite v s) ?_, fun p hp => ?_⟩
  · rw [hevent]
    obtain ⟨hg, hin, hout, hmem⟩ := storeConvres_effect s v
    exact ⟨by rw [hg], hin, hout, hmem, fun x => by rw [hg]⟩
  · obtain ⟨f, clears, hexec, hvalue⟩ := exec_convresControl s d a p hp
    refine crxWrite_convres hexec hbq hchannels ?_
    rw [← hvalue]
    obtain ⟨hg, hin, hout, hmem⟩ := storeConvres_effect s p.2
    have hprogress : sameProgress s (storeConvres s p.2) := by
      unfold sameProgress
      rw [hg]
      exact ⟨rfl, rfl, rfl, rfl, rfl, rfl⟩
    obtain ⟨hd, hregs, hcommit⟩ := hprogress.answers d s.g.convres
    have hfield : ∀ t : State, ((t.setReg d s.g.convres).commit4).field = t.field := fun t => rfl
    refine ⟨⟨?_, fun x hx => by rw [hfield]; exact hin x hx, fun x hx => by rw [hfield]; exact hout x hx,
      fun x => (memByte_of_store (answer_store ..) x).trans (hmem x), fun x => ?_⟩, hd, hregs, hcommit⟩
    · exact (Gang.setReg_convres ..).trans (by rw [hg])
    · exact congrArg (rdByte · x) ((Gang.setReg_lmem ..).trans (by rw [hg]))

end Sys2Proof.Machine
end

section
/-! Windows of F-space (R55, R56, R62, R203). -/
namespace Sys2Proof.Machine

theorem wrBytes_append (xs ys : List Byte) (m : List Host.Cell) (a : Nat) : wrBytes m a (xs ++ ys) = wrBytes (wrBytes m a xs) (a + xs.length) ys := by
  induction xs generalizing m a with
  | nil => rfl
  | cons x xs ih =>
    rw [List.cons_append, wrBytes, wrBytes, ih, List.length_cons, Nat.add_assoc, Nat.add_comm 1]

theorem length_leBytes (k n : Nat) : (leBytes k n).length = k := by
  induction k generalizing n with
  | zero => rfl
  | succ k ih => rw [leBytes, List.length_cons, ih]

theorem rdBytes_wrBytes_below (bs : List Byte) (m : List Host.Cell) {a : Nat} (n x : Nat) (h : x + n ≤ a) :
    rdBytes (wrBytes m a bs) x n = rdBytes m x n := by
  induction n generalizing x with
  | zero => rfl
  | succ n ih => rw [rdBytes, rdBytes, ih (x + 1) (by omega), rdByte_wrBytes_outside bs m a x (.inl (by omega))]

/-- Words that have been stored one after another read as they are. -/
theorem rdNat_wrWords (ws : List Word) (m : List Host.Cell) (a : Nat) {j : Nat} (hj : j < ws.length) :
    w64 (rdNat (wrBytes m a (ws.flatMap fun w => leBytes 8 w.toNat)) (a + 8 * j) 8) = ws.getD j 0 := by
  induction ws generalizing m a j with
  | nil => exact absurd hj (Nat.not_lt_zero j)
  | cons w ws ih =>
    have hlen : (leBytes 8 w.toNat).length = 8 := length_leBytes ..
    rw [List.flatMap_cons, wrBytes_append, hlen]
    cases j with
    | zero =>
      have hread := rdBytes_wrBytes (leBytes 8 w.toNat) m a
      rw [hlen] at hread
      rw [rdNat, rdBytes_wrBytes_below _ _ _ _ (by omega), Nat.mul_zero, Nat.add_zero, hread, leNat_leBytes 8 _ w.isLt]
      exact BitVec.ofNat_toNat ..
    | succ j =>
      rw [show a + 8 * (j + 1) = a + 8 + 8 * j by omega]
      exact ih _ _ (Nat.lt_of_succ_lt_succ hj)

/-- What FWSET does with a descriptor that it has read (R56, R203). -/
def fwsetLocal (d : Reg) (off k : Nat) (s : State) : State :=
  if 63 < k then (s.setReg d 0).commit4
  else match installWindow s.g k (localWord s.g off) (localWord s.g (off + 8)) (localWord s.g (off + 16)) (localWord s.g (off + 24)) with
    | none => (s.setReg d 0).commit4
    | some g => ({ s with g := g }.setReg d 1).commit4

theorem fwsetLocal_installs {s : State} {d : Reg} {off k : Nat} {g : Gang} (hk : k < 64)
    (h : installWindow s.g k (localWord s.g off) (localWord s.g (off + 8)) (localWord s.g (off + 16)) (localWord s.g (off + 24)) = some g) :
    fwsetLocal d off k s = ({ s with g := g }.setReg d 1).commit4 := by
  rw [fwsetLocal, if_neg (by omega), h]

theorem fwsetLocal_refuses {s : State} {d : Reg} {off k : Nat}
    (h : k < 64 → installWindow s.g k (localWord s.g off) (localWord s.g (off + 8)) (localWord s.g (off + 16)) (localWord s.g (off + 24)) = none) :
    fwsetLocal d off k s = (s.setReg d 0).commit4 := by
  rw [fwsetLocal]
  by_cases hk : k < 64
  · rw [if_neg (by omega), h hk]
  · rw [if_pos (by omega)]

theorem exec_fwset_eq (d a b : Reg) (s : State) : exec (.fwset d a b) s = userOp (.fwset d a b) s fun s =>
    match imageAt s (s.reg a) 0 with
    | .error t => t
    | .ok off =>
      if !mapReady (waitCopies s) then stall (waitCopies s)
      else if (List.range 4).any fun j => (waitCopies s).g.lmemBad.contains (off / 8 + j) then trapS (waitCopies s) 7 ((waitCopies s).reg a) 0
      else fwsetLocal d off ((waitCopies s).reg b).toNat (waitCopies s) := rfl

/-- The four words of a window's descriptor in sequencer-local memory (R203). -/
def fwgetLocal (off k : Nat) (s : State) : State :=
  { s with g := { s.g with
      lmem := wrBytes s.g.lmem off ((windowWords (s.g.window k)).flatMap fun (w : Word) => leBytes 8 w.toNat)
      lmemBad := s.g.lmemBad.filter fun w => decide (w < off / 8) || decide (off / 8 + 4 ≤ w) } }

theorem exec_fwget_eq (d a b : Reg) (s : State) : exec (.fwget d a b) s = userOp (.fwget d a b) s fun s =>
    match imageAt s (s.reg a) 1 with
    | .error t => t
    | .ok off =>
      if 63 < (s.reg b).toNat then (s.setReg d 0).commit4
      else ((fwgetLocal off (s.reg b).toNat s).setReg d 1).commit4 := rfl

section Image
variable {s : State} {d a b : Reg} {off k : Nat} (haddr : (s.reg a).toNat = 2 ^ 63 + off) (halign : off % 8 = 0) (hfits : off + 32 ≤ 65536)
  (hk : k = (s.reg b).toNat)
include haddr halign hfits

/-- The image of a descriptor in sequencer-local memory (R203). -/
theorem imageAt_local (code : Nat) : imageAt s (s.reg a) code = .ok off := by
  have hmod : ¬ (s.reg a).toNat % 8 ≠ 0 := by omega
  have htarget : selectTarget (s.reg a) = .seqLocal off := by
    rw [selectTarget_local (by omega) (by omega), haddr, Nat.add_sub_cancel_left]
  rw [imageAt, if_neg hmod, htarget]
  exact if_pos hfits

include hk

/-- FWSET with nothing outstanding and an image that can be read: the descriptor is installed, or refused (R56, R203). -/
theorem exec_fwset {P : State → Prop} (hbq : s.g.bq = []) (hchannels : ∀ p ∈ s.g.channels, p.2.queue = [])
    (hread : ∀ j < 4, off / 8 + j ∉ s.g.lmemBad)
    (hP : P (fwsetLocal d off k s)) : completes (.fwset d a b) s P := by
  refine completes_of_userOp (exec_fwset_eq d a b s) ?_
  have hgood : ((List.range 4).any fun j => s.g.lmemBad.contains (off / 8 + j)) = false := by
    rw [List.any_eq_false]
    intro j hj
    simpa using hread j (List.mem_range.mp hj)
  simp only [imageAt_local haddr halign hfits, waitCopies_idle hchannels, mapReady_idle hbq hchannels, Bool.not_true, Bool.false_eq_true, if_false, hgood,
    ← hk]
  exact hP

/-- FWGET of a window that there is (R203). -/
theorem exec_fwget_window {P : State → Prop} (hsmall : k < 64)
    (hP : P (((fwgetLocal off k s).setReg d 1).commit4)) : completes (.fwget d a b) s P := by
  refine completes_of_userOp (exec_fwget_eq d a b s) ?_
  simpa only [imageAt_local haddr halign hfits, ← hk, if_neg (show ¬ 63 < k by omega)] using hP

/-- FWGET of a window that there is not (R203). -/
theorem exec_fwget_none (hbig : 63 < k) : completes (.fwget d a b) s (writesReg d 0 (s.g.pc + 4) s) := by
  refine completes_of_userOp (exec_fwget_eq d a b s) ?_
  simpa only [imageAt_local haddr halign hfits, ← hk, if_pos hbig] using writesReg_commit4 s d 0

end Image

/-- The window that FWSET installs, and every other one as it was (R203). -/
theorem installWindow_window {g : Gang} {k : Nat} {w0 w1 w2 w3 : Word} (h : bit w1 31 = true → windowValid g.windows g.banksInSpan k w0 w1 w2 w3 = true) :
    installWindow g k w0 w1 w2 w3 = some { g with windows := mset {} g.windows k (windowOf w0 w1 w2) } := by
  refine if_neg fun hrefused => ?_
  simp only [Bool.and_eq_true, Bool.not_eq_true'] at hrefused
  rw [h hrefused.1] at hrefused
  exact absurd hrefused.2 (by decide)

theorem installWindow_refused {g : Gang} {k : Nat} {w0 w1 w2 w3 : Word} (h : ¬ (bit w1 31 = true → windowValid g.windows g.banksInSpan k w0 w1 w2 w3 = true)) :
    installWindow g k w0 w1 w2 w3 = none := by
  refine if_pos ?_
  simpa [Classical.not_imp] using h

/-- Settles O17: the descriptor at s[a] is installed where R56 admits it, and a window's four words are stored there. -/
theorem windowInstructionsInstallAndReadDescriptors : Obligations.WindowInstructionsInstallAndReadDescriptors := by
  unfold Obligations.WindowInstructionsInstallAndReadDescriptors
  intro s d a b off k haddr halign hfits hk w ok
  refine ⟨fun hbq hchannels hread => ⟨fun hok => exec_fwset haddr halign hfits hk hbq hchannels hread ?_,
    fun hno => exec_fwset haddr halign hfits hk hbq hchannels hread ?_⟩, fun hsmall => exec_fwget_window haddr halign hfits hk hsmall ?_,
    fun hbig => exec_fwget_none haddr halign hfits hk hbig⟩
  · obtain ⟨hsmall, hvalid⟩ := hok
    rw [fwsetLocal_installs hsmall (installWindow_window hvalid)]
    obtain ⟨hd, hregs, hcommit⟩ := sameProgress.answers (s := s) (u := { s with g := { s.g with windows := mset {} s.g.windows k (windowOf (w 0) (w 1) (w 2)) } })
      ⟨rfl, rfl, rfl, rfl, rfl, rfl⟩ d 1
    have hwindows := congrArg (mget ({} : Window)) (Gang.setReg_windows { s.g with windows := mset {} s.g.windows k (windowOf (w 0) (w 1) (w 2)) } d 1)
    refine ⟨hd, hregs, hcommit, ⟨sameMem_of_store (answer_store ..), fun _ => rfl, fun x => ?_⟩, ?_, fun j hj => ?_⟩
    · exact congrArg (rdByte · x) (Gang.setReg_lmem ..)
    · exact (congrFun hwindows k).trans (mget_mset_same ..)
    · exact (congrFun hwindows j).trans (mget_mset_other _ _ _ _ _ hj)
  · rw [fwsetLocal_refuses fun hsmall => installWindow_refused fun h => hno ⟨hsmall, h⟩]
    exact writesReg_commit4 s d 0
  · obtain ⟨u, hu⟩ : ∃ u, u = fwgetLocal off k s := ⟨_, rfl⟩
    rw [← hu]
    have hlmem : ((u.setReg d 1).commit4).g.lmem = wrBytes s.g.lmem off ((windowWords (s.g.window k)).flatMap fun (w : Word) => leBytes 8 w.toNat) :=
      (Gang.setReg_lmem ..).trans (by rw [hu]; rfl)
    have hlen : ((windowWords (s.g.window k)).flatMap fun (w : Word) => leBytes 8 w.toNat).length = 32 := by
      simp [windowWords, length_leBytes]
    obtain ⟨hd, hregs, hcommit⟩ := sameProgress.answers (s := s) (u := u) (by rw [hu]; exact ⟨rfl, rfl, rfl, rfl, rfl, rfl⟩) d 1
    obtain ⟨-, -, -, -, honly⟩ := writesReg_commit4 u d 1
    refine ⟨hd, hregs, hcommit, ?_, fun j hj => by rw [hlmem]; exact rdNat_wrWords _ _ _ hj, fun x hx => ?_⟩
    · unfold onlyRegs at honly
      unfold onlyLocal
      rw [honly, hu]
      rfl
    · rw [hlmem, rdByte_wrBytes_outside _ _ _ _ (by omega)]

end Sys2Proof.Machine
end

section
/-! SETSPAN (R28, R30, R31, R202). -/
namespace Sys2Proof.Machine

/-! ### The clusters that a grant adds (R28) -/

theorem sizeCode_isNone (n : Nat) : (sizeCode n).isNone = true ↔ n ∉ [4, 8, 16, 32, 64, 128] := by
  unfold sizeCode
  split <;> simp_all

theorem clusterFree_iff {s : State} {c : Nat} :
    clusterFree s c = true ↔ c ∉ s.offline ∧ (∀ h ∈ s.g :: s.others, c ∉ h.clusters) ∧ ∀ r ∈ s.reservations, c ∉ r.2.clusters := by
  simp [clusterFree, and_assoc]

theorem rangeFree_iff {s : State} {lo n : Nat} : rangeFree s lo n = true ↔ ∀ j < n, clusterFree s (lo + j) = true := by
  simp [rangeFree]

/-- A run of numbers counted up from a base. -/
theorem nodup_run (lo n : Nat) : ((List.range n).map fun j => lo + j).Nodup :=
  List.Pairwise.map (R := (· ≠ ·)) _ (fun a b h => by omega) List.nodup_range

theorem mem_run {lo n c : Nat} : c ∈ ((List.range n).map fun j => lo + j) ↔ lo ≤ c ∧ c < lo + n := by
  simp only [List.mem_map, List.mem_range]
  exact ⟨fun ⟨j, hj, h⟩ => by omega, fun h => ⟨c - lo, by omega, by omega⟩⟩

theorem rangeFree_run {s : State} {lo n c : Nat} (h : rangeFree s lo n = true) (hc : c ∈ ((List.range n).map fun j => lo + j)) :
    clusterFree s c = true := by
  obtain ⟨j, hj, rfl⟩ := List.mem_map.mp hc
  exact rangeFree_iff.mp h j (List.mem_range.mp hj)

/-- What is found meets the condition. -/
theorem findUp_some {p : Nat → Bool} {i n c : Nat} (h : findUp p i n = some c) : p c = true := by
  induction n generalizing i with
  | zero => simp [findUp] at h
  | succ n ih =>
    rw [findUp] at h
    split at h
    next hp =>
      rw [← Option.some.inj h]
      exact hp
    next => exact ih h

/-- What growth within the die adds: free clusters directly below and above the range (R28). -/
theorem growWithin_spec {s : State} {n : Nat} {added : List Nat} (h : growWithin s n = some added) :
    added.Nodup ∧ (∀ c ∈ added, clusterFree s c = true) ∧ added.length = n - s.g.clusters.length := by
  unfold growWithin at h
  dsimp only at h
  have hempty : s.g.clusters.length = 0 → s.g.clusters.foldl Nat.min (s.g.clusters.headD 0) = 0 := fun hlen => by
    rw [List.length_eq_zero_iff.mp hlen]
    rfl
  generalize s.g.clusters.foldl Nat.min (s.g.clusters.headD 0) = lo at h hempty
  generalize s.g.clusters.foldl Nat.max 0 = hi at h
  split at h
  · exact absurd h (by simp)
  next hrange =>
    obtain ⟨below, hfind, rfl⟩ := Option.map_eq_some_iff.mp h
    have hfits := findUp_some hfind
    simp only [Bool.and_eq_true, decide_eq_true_eq] at hfits
    obtain ⟨⟨⟨⟨⟨hle, hbelow⟩, -⟩, -⟩, hfree⟩, hfree'⟩ := hfits
    refine ⟨List.nodup_append.mpr ⟨nodup_run .., nodup_run .., fun a ha b hb => ?_⟩, fun c hc => ?_, ?_⟩
    · rw [mem_run] at ha hb
      omega
    · obtain hc | hc := List.mem_append.mp hc
      · exact rangeFree_run hfree hc
      · exact rangeFree_run hfree' hc
    · simp only [List.length_append, List.length_map, List.length_range]
      omega

/-- The clusters of a die (R9). -/
def dieClusters (d : Nat) : List Nat := (List.range 32).map fun j => 32 * d + j

theorem nodup_dieClusters (d : Nat) : (dieClusters d).Nodup := nodup_run ..

theorem mem_dieClusters {d c : Nat} : c ∈ dieClusters d ↔ c / 32 = d := by
  rw [dieClusters, mem_run]
  omega

/-- The clusters of the lead die that a gang below 32 clusters takes first (R28). -/
def leadRest (s : State) : List Nat := if s.g.clusters.length < 32 then (dieClusters s.g.lead).filter fun c => !s.g.clusters.contains c else []

/-- The dies that growth adds. -/
def addedDies (s : State) (n : Nat) : List Nat := (addableDies s).take ((n - s.g.clusters.length - (leadRest s).length) / 32)

theorem growDies_eq {s : State} {n : Nat} {added : List Nat} (h : growDies s n = some added) :
    added = leadRest s ++ (addedDies s n).flatMap dieClusters ∧ (∀ c ∈ leadRest s, clusterFree s c = true)
      ∧ (addedDies s n).length = (n - s.g.clusters.length - (leadRest s).length) / 32 := by
  have heq : growDies s n = if ((leadRest s).all fun c => clusterFree s c)
      && (addedDies s n).length == (n - s.g.clusters.length - (leadRest s).length) / 32
      then some (leadRest s ++ (addedDies s n).flatMap dieClusters) else none := rfl
  rw [heq] at h
  split at h
  next hok =>
    simp only [Bool.and_eq_true, List.all_eq_true, beq_iff_eq] at hok
    exact ⟨(Option.some.inj h).symm, hok.1, hok.2⟩
  next => exact absurd h (by simp)

theorem addedDies_spec {s : State} {n d : Nat} (h : d ∈ addedDies s n) : d ≠ s.g.lead ∧ ∀ c ∈ dieClusters d, clusterFree s c = true := by
  have hmem := List.mem_of_mem_take h
  simp only [addableDies, List.mem_filter, Bool.and_eq_true, bne_iff_ne] at hmem
  obtain ⟨-, ⟨⟨hlead, hfree⟩, -⟩, -⟩ := hmem
  exact ⟨hlead, fun c hc => rangeFree_run hfree hc⟩

theorem nodup_addedDies (s : State) (n : Nat) : (addedDies s n).Nodup :=
  (List.nodup_range.filter _).sublist (List.take_sublist ..)

theorem leadRest_die {s : State} {c : Nat} (h : c ∈ leadRest s) : c / 32 = s.g.lead := by
  unfold leadRest at h
  split at h
  · exact mem_dieClusters.mp (List.mem_filter.mp h).1
  · exact absurd h (by simp)

theorem nodup_leadRest (s : State) : (leadRest s).Nodup := by
  unfold leadRest
  split
  · exact (nodup_run _ _).filter _
  · exact List.nodup_nil

theorem length_flatMap_dieClusters (ds : List Nat) : (ds.flatMap dieClusters).length = 32 * ds.length := by
  induction ds with
  | nil => rfl
  | cons d ds ih =>
    rw [List.flatMap_cons, List.length_append, ih, List.length_cons, dieClusters, List.length_map, List.length_range]
    omega

/-- A gang that lies on its lead die leaves the rest of its 32 clusters (R28). -/
theorem length_leadRest {s : State} (hsmall : s.g.clusters.length < 32) (hnodup : s.g.clusters.Nodup) (hlead : ∀ c ∈ s.g.clusters, c / 32 = s.g.lead) :
    (leadRest s).length + s.g.clusters.length = 32 := by
  have hperm : ((dieClusters s.g.lead).filter fun c => s.g.clusters.contains c).Perm s.g.clusters := by
    refine (List.perm_ext_iff_of_nodup ((nodup_dieClusters _).filter _) hnodup).mpr fun c => ?_
    rw [List.mem_filter, mem_dieClusters, List.contains_iff_mem]
    exact ⟨And.right, fun hc => ⟨hlead c hc, hc⟩⟩
  have hsplit := (List.filter_append_perm (fun c => s.g.clusters.contains c) (dieClusters s.g.lead)).length_eq
  rw [List.length_append, hperm.length_eq, dieClusters, List.length_map, List.length_range] at hsplit
  rw [leadRest, if_pos hsmall, dieClusters]
  omega

/-- What growth to 64 or 128 clusters adds (R28). -/
theorem growDies_spec {s : State} {n : Nat} {added : List Nat} (h : growDies s n = some added) :
    added.Nodup ∧ (∀ c ∈ added, clusterFree s c = true) := by
  obtain ⟨rfl, hrest, -⟩ := growDies_eq h
  refine ⟨List.nodup_append.mpr ⟨nodup_leadRest s, List.pairwise_flatMap.mpr ⟨fun d _ => nodup_run .., ?_⟩, fun a ha b hb hab => ?_⟩, fun c hc => ?_⟩
  · refine (nodup_addedDies s n).imp fun {d e} hne => ?_
    refine fun c hd c' he hcc => hne ?_
    rw [← mem_dieClusters.mp hd, ← mem_dieClusters.mp he, hcc]
  · obtain ⟨d, hd, hbd⟩ := List.mem_flatMap.mp hb
    refine (addedDies_spec hd).1 ?_
    rw [← mem_dieClusters.mp hbd, ← hab]
    exact leadRest_die ha
  · obtain hc | hc := List.mem_append.mp hc
    · exact hrest c hc
    · obtain ⟨d, hd, hcd⟩ := List.mem_flatMap.mp hc
      exact (addedDies_spec hd).2 c hcd

theorem growDies_length {s : State} {n : Nat} {added : List Nat} (h : growDies s n = some added) (hn : n = 64 ∨ n = 128)
    (hgrow : s.g.clusters.length < n) (hsize : s.g.clusters.length ∈ [4, 8, 16, 32, 64, 128]) (hnodup : s.g.clusters.Nodup)
    (hlead : ∀ c ∈ s.g.clusters, s.g.clusters.length < 32 → c / 32 = s.g.lead) : added.length = n - s.g.clusters.length := by
  obtain ⟨rfl, -, hdies⟩ := growDies_eq h
  rw [List.length_append, length_flatMap_dieClusters, hdies]
  simp only [List.mem_cons, List.not_mem_nil, or_false] at hsize
  by_cases hsmall : s.g.clusters.length < 32
  · have hrest := length_leadRest hsmall hnodup fun c hc => hlead c hc hsmall
    omega
  · have hrest : (leadRest s).length = 0 := by rw [leadRest, if_neg hsmall]; rfl
    omega

/-- What a grant adds where the span grows (R28). -/
theorem spanGrant_grows {s : State} {n : Nat} {added : List Nat} (h : spanGrant s n = some added) (hgrow : s.g.clusters.length < n) :
    added.Nodup ∧ (∀ c ∈ added, clusterFree s c = true)
      ∧ (s.g.clusters.Nodup → s.g.clusters.length ∈ [4, 8, 16, 32, 64, 128] → (∀ c ∈ s.g.clusters, s.g.clusters.length < 32 → c / 32 = s.g.lead) →
        added.length = n - s.g.clusters.length) := by
  unfold spanGrant at h
  split at h
  · exact absurd h (by simp)
  next hsized =>
    rw [sizeCode_isNone, Classical.not_not] at hsized
    rw [if_neg (by omega)] at h
    split at h
    · obtain ⟨hnodup, hfree, hlen⟩ := growWithin_spec h
      exact ⟨hnodup, hfree, fun _ _ _ => hlen⟩
    next hbig =>
      obtain ⟨hnodup, hfree⟩ := growDies_spec h
      refine ⟨hnodup, hfree, fun hcs hsize hlead => growDies_length h ?_ hgrow hsize hcs hlead⟩
      simp only [List.mem_cons, List.not_mem_nil, or_false] at hsized
      omega

theorem spanGrant_shrinks {s : State} {n : Nat} (hsized : n ∈ [4, 8, 16, 32, 64, 128]) (hle : n ≤ s.g.clusters.length) : spanGrant s n = some [] := by
  rw [spanGrant, if_neg (by rw [sizeCode_isNone, Classical.not_not]; exact hsized), if_pos hle]

theorem spanGrant_unsized {s : State} {n : Nat} (h : n ∉ [4, 8, 16, 32, 64, 128]) : spanGrant s n = none := if_pos ((sizeCode_isNone n).mpr h)

/-! ### The instruction -/

/-- SETSPAN with nothing outstanding (R202). -/
def setspanNow (d : Reg) (n : Nat) (s : State) : State :=
  match spanGrant s n with
  | none => (s.setReg d 0).commit4
  | some added => ((applySpan s n added).setReg d (w64 n)).commit4

theorem exec_setspan_eq (d a : Reg) (s : State) : exec (.setspan d a) s = userOp (.setspan d a) s fun s =>
    match (if (waitCopies s).g.pl then (waitCopies s).g.stoppedChannel else none) with
    | some (k, c) => stuckOnChannel (waitCopies s) k c
    | none =>
      if !(waitCopies s).g.bq.isEmpty || !((waitCopies s).g.channels.all fun p => queueDone (waitCopies s) p.2.queue) || !portsDone (waitCopies s).g
      then stall (waitCopies s)
      else setspanNow d ((waitCopies s).reg a).toNat (waitCopies s) := rfl

theorem exec_setspan {s : State} {d a : Reg} {P : State → Prop} (hbq : s.g.bq = [])
    (hchannels : ∀ p ∈ s.g.channels, p.2.queue = [] ∧ p.2.stopped = false) (hports : ∀ p ∈ s.g.ports, p.2.commands = [])
    (hP : P (setspanNow d (s.reg a).toNat s)) : completes (.setspan d a) s P := by
  refine completes_of_userOp (exec_setspan_eq d a s) ?_
  have hcopies : waitCopies s = s := waitCopies_idle fun p hp => (hchannels p hp).1
  have hstuck : (if s.g.pl then s.g.stoppedChannel else none) = none := by
    have hnone : s.g.stoppedChannel = none := List.find?_eq_none.mpr fun p hp => by simp [(hchannels p hp).2]
    rw [hnone, ite_self]
  have hdone : (s.g.channels.all fun p => queueDone s p.2.queue) = true :=
    List.all_eq_true.mpr fun p hp => by rw [(hchannels p hp).1, queueDone_nil]
  have hidle : portsDone s.g = true := List.all_eq_true.mpr fun p hp => by rw [hports p hp]; rfl
  simp only [hcopies, hstuck, hbq, hdone, hidle, List.isEmpty_nil, Bool.not_true, Bool.or_self, Bool.false_eq_true, if_false]
  exact hP

/-- What a granted span changes (R28, R30). -/
theorem applySpan_effect (s : State) (n : Nat) (added : List Nat) :
    let t := applySpan s n added
    sameProgress s t ∧ t.g.clusters = s.g.clusters.take n ++ added ∧ t.g.lmem = s.g.lmem ∧ sameMem s t
      ∧ t.field = ((s.g.clusters.drop n).foldl clearCluster s).field ∧ t.ftags = ((s.g.clusters.drop n).foldl clearCluster s).ftags := by
  have honly := foldl_clearCluster_only (s.g.clusters.drop n) s
  unfold onlySpan at honly
  unfold applySpan
  dsimp only
  generalize (s.g.clusters.drop n).foldl clearCluster s = u at honly ⊢
  have hg : u.g = s.g := by rw [honly]
  refine ⟨?_, rfl, by rw [hg], fun a => ?_, rfl, rfl⟩
  · unfold sameProgress
    dsimp only
    rw [hg]
    exact ⟨rfl, rfl, rfl, rfl, rfl, rfl⟩
  · refine memByte_of_tagFrame (tagFrame_congr ?_ ?_ a) ?_ ?_ ?_ ?_ <;> (dsimp only; rw [honly])

/-- Settles O15: a grant adds free clusters, and a span that shrinks clears those that it gives up. -/
theorem setSpanGrantsOrRefuses : Obligations.SetSpanGrantsOrRefuses := by
  unfold Obligations.SetSpanGrantsOrRefuses
  intro s d a n hn hbq hchannels hports sized
  have hcompletes : ∀ {P : State → Prop}, P (setspanNow d n s) → completes (.setspan d a) s P := fun hP =>
    exec_setspan hbq hchannels hports (by rw [← hn]; exact hP)
  have hclusters : ∀ u : State, ((u.setReg d (w64 n)).commit4).g.clusters = u.g.clusters := fun u => Gang.setReg_clusters ..
  have hlmem : ∀ u : State, ((u.setReg d (w64 n)).commit4).g.lmem = u.g.lmem := fun u => Gang.setReg_lmem ..
  refine ⟨fun hno => hcompletes ?_, fun hsized hle => hcompletes ?_, fun added hgrow hgrant => hcompletes ?_⟩
  · have hnone : spanGrant s n = none := hno.elim spanGrant_unsized id
    rw [setspanNow, hnone]
    exact writesReg_commit4 s d 0
  · obtain ⟨hprogress, hspan, hlocal, hmem, hfield, htags⟩ := applySpan_effect s n []
    obtain ⟨hd, hregs, hcommit⟩ := hprogress.answers d (w64 n)
    rw [setspanNow, spanGrant_shrinks hsized hle]
    refine ⟨hd, hregs, hcommit, fun x => (memByte_of_store (answer_store ..) x).trans (hmem x), fun x => by rw [hlmem, hlocal],
      by rw [hclusters, hspan, List.append_nil], fun c hc x hlo hhi => ?_, fun x hx => ?_⟩
    all_goals
      obtain ⟨hbyte, htag⟩ := foldl_clearCluster_reads (s.g.clusters.drop n) s x
      rw [← hfield] at hbyte
      rw [tagOfKey, ← htags] at htag
    · have hin : x / 2 ^ 23 ∈ s.g.clusters.drop n := by rwa [show x / 2 ^ 23 = c by omega]
      rw [if_pos hin] at hbyte htag
      exact ⟨hbyte, htag⟩
    · rw [if_neg hx] at hbyte htag
      exact ⟨hbyte, htag⟩
  · obtain ⟨hprogress, hspan, hlocal, hmem, hfield, -⟩ := applySpan_effect s n added
    obtain ⟨hd, hregs, hcommit⟩ := hprogress.answers d (w64 n)
    obtain ⟨hnodup, hfree, hlength⟩ := spanGrant_grows hgrant hgrow
    rw [List.take_of_length_le (by omega)] at hspan
    rw [List.drop_of_length_le (by omega), List.foldl_nil] at hfield
    rw [setspanNow, hgrant]
    refine ⟨hd, hregs, hcommit, ⟨fun x => (memByte_of_store (answer_store ..) x).trans (hmem x), fun x => congrArg (rdByte · x) hfield,
      fun x => by rw [hlmem, hlocal]⟩, by rw [hclusters, hspan], hnodup, fun c hc => clusterFree_iff.mp (hfree c hc), fun hcs hsize hlead => ?_⟩
    rw [hclusters, hspan, List.length_append, hlength hcs hsize hlead]
    omega

end Sys2Proof.Machine
end

section
/-! The answers that a gang awaits (R129, R132, R183, R185, R343, R413, R419). -/
namespace Sys2Proof.Machine

/-! ### A change of another gang -/

theorem focus_store (s : State) (id : Nat) : (focus s id).store = s.store ∧ (focus s id).unacked = s.unacked := by
  unfold focus
  split
  · exact ⟨rfl, rfl⟩
  · split <;> exact ⟨rfl, rfl⟩

/-- Where another gang is changed, the selected one is as it was. -/
theorem onGang_g {s : State} {id : Nat} {f : State → State} (hne : s.g.id ≠ id) (hothers : ∀ t, (f t).others = t.others)
    (hid : ∀ t, (f t).g.id = t.g.id) : (onGang s id f).g = s.g := by
  rw [onGang, if_neg hne]
  split
  next hany =>
    obtain ⟨h, hmem, hh⟩ := List.any_eq_true.mp hany
    obtain ⟨x, hx⟩ := Option.isSome_iff_exists.mp (List.find?_isSome (p := fun h : Gang => h.id == id).mpr ⟨h, hmem, hh⟩)
    have hxid : x.id = id := by simpa using List.find?_some hx
    have hfocus : focus s id = { s with g := x, others := s.g :: s.others.filter fun y => y.id != id } := by
      rw [focus, if_neg hne, hx]
    have hback : (f (focus s id)).others.find? (fun y => y.id == s.g.id) = some s.g := by
      rw [hothers, hfocus]
      simp
    have hcur : ¬ (f (focus s id)).g.id = s.g.id := by
      rw [hid, hfocus]
      exact fun h => hne (h.symm.trans hxid)
    rw [focus, if_neg hcur, hback]
  next => rfl

theorem onGang_own (s : State) (f : State → State) : onGang s s.g.id f = f s := if_pos rfl

/-- A change of a gang that leaves the memories and the outstanding writes leaves them wherever the gang stands. -/
theorem onGang_store {s : State} {id : Nat} {f : State → State} (hf : ∀ t, (f t).store = t.store ∧ (f t).unacked = t.unacked) :
    (onGang s id f).store = s.store ∧ (onGang s id f).unacked = s.unacked := by
  unfold onGang
  split
  · exact hf s
  · split
    · obtain ⟨hstore, hunacked⟩ := focus_store (f (focus s id)) s.g.id
      obtain ⟨hfstore, hfunacked⟩ := hf (focus s id)
      obtain ⟨hsstore, hsunacked⟩ := focus_store s id
      exact ⟨hstore.trans (hfstore.trans hsstore), hunacked.trans (hfunacked.trans hsunacked)⟩
    · exact ⟨rfl, rfl⟩

/-! ### A write that is dropped -/

theorem nakChannel_frame (c n d : Nat) (t : State) :
    ((nakChannel c n d t).others = t.others ∧ (nakChannel c n d t).g.id = t.g.id) ∧ (nakChannel c n d t).store = t.store
      ∧ (nakChannel c n d t).unacked = t.unacked ∧ (nakChannel c n d t).g.regs = t.g.regs ∧ (nakChannel c n d t).g.lmem = t.g.lmem :=
  ⟨⟨rfl, rfl⟩, rfl, rfl, rfl, rfl⟩

theorem collNak_frame (p q : Nat) (t : State) :
    ((collNak p q t).others = t.others ∧ (collNak p q t).g.id = t.g.id) ∧ (collNak p q t).store = t.store
      ∧ (collNak p q t).unacked = t.unacked ∧ (collNak p q t).g.regs = t.g.regs ∧ (collNak p q t).g.lmem = t.g.lmem := by
  unfold collNak
  split <;> exact ⟨⟨rfl, rfl⟩, rfl, rfl, rfl, rfl⟩

/-- What a gang is told is kept in the gang. -/
theorem onGang_told {s : State} {id : Nat} {f : State → State}
    (hf : ∀ t, ((f t).others = t.others ∧ (f t).g.id = t.g.id) ∧ (f t).store = t.store ∧ (f t).unacked = t.unacked ∧ (f t).g.regs = t.g.regs
      ∧ (f t).g.lmem = t.g.lmem) :
    (onGang s id f).store = s.store ∧ (onGang s id f).unacked = s.unacked ∧ (onGang s id f).g.regs = s.g.regs ∧ (onGang s id f).g.lmem = s.g.lmem := by
  obtain ⟨hstore, hunacked⟩ := onGang_store (s := s) (id := id) fun t => ⟨(hf t).2.1, (hf t).2.2.1⟩
  refine ⟨hstore, hunacked, ?_⟩
  by_cases h : s.g.id = id
  · subst h
    rw [onGang_own]
    exact (hf s).2.2.2
  · rw [onGang_g h (fun t => (hf t).1.1) fun t => (hf t).1.2]
    exact ⟨rfl, rfl⟩

theorem noteNak_frame (g : Gang) (seq : Nat) (a : Word) : (g.noteNak seq a).regs = g.regs ∧ (g.noteNak seq a).lmem = g.lmem := by
  unfold Gang.noteNak
  split
  · split <;> exact ⟨rfl, rfl⟩
  · exact ⟨rfl, rfl⟩

/-- The refused STG that is reported, of one that is held and a new one: the earlier in gang order (R185). -/
def earlierNak (held : Option (Nat × Word)) (seq : Nat) (a : Word) : Option (Nat × Word) :=
  match held with
  | some (m, v) => if seq < m then some (seq, a) else some (m, v)
  | none => some (seq, a)

theorem noteNak_stgNak (g : Gang) (seq : Nat) (a : Word) : (g.noteNak seq a).stgNak = earlierNak g.stgNak seq a := by
  cases h : g.stgNak with
  | none => simp [Gang.noteNak, earlierNak, h]
  | some p =>
    simp only [Gang.noteNak, earlierNak, h]
    by_cases hlt : seq < p.1
    · rw [if_pos hlt, if_pos hlt]
    · rw [if_neg hlt, if_neg hlt, h]

theorem updGang_told (s : State) (id : Nat) {f : Gang → Gang} (hf : ∀ g, (f g).regs = g.regs ∧ (f g).lmem = g.lmem) :
    (updGang s id f).store = s.store ∧ (updGang s id f).unacked = s.unacked ∧ (updGang s id f).g.regs = s.g.regs
      ∧ (updGang s id f).g.lmem = s.g.lmem := by
  unfold updGang
  split
  · exact ⟨rfl, rfl, hf s.g⟩
  · exact ⟨rfl, rfl, rfl, rfl⟩

/-- A write that is dropped changes no byte and no register (R132, R185, R419). -/
theorem dropWrite_told (s : State) (u : Unacked) :
    (dropWrite s u).store = s.store ∧ (dropWrite s u).unacked = s.unacked ∧ (dropWrite s u).g.regs = s.g.regs
      ∧ (dropWrite s u).g.lmem = s.g.lmem := by
  unfold dropWrite
  split
  · exact updGang_told s u.gang fun g => noteNak_frame g u.seq (w64 u.va)
  · split
    · exact onGang_told (nakChannel_frame _ _ _)
    · exact onGang_told (collNak_frame _ _)

/-- A dropped write leaves every byte and every register. -/
theorem dropWrite_kept (s : State) (u : Unacked) : sameBytes s (dropWrite s u) ∧ sameRegsBut [] s (dropWrite s u) := by
  obtain ⟨hstore, -, hregs, hlmem⟩ := dropWrite_told s u
  exact ⟨⟨sameMem_of_store hstore, sameField_of_store hstore, fun a => by rw [hlmem]⟩, fun r _ => by rw [Gang.reg, Gang.reg, hregs]⟩

theorem dropWrite_stg {s : State} {u : Unacked} (hgang : u.gang = s.g.id) (horigin : u.origin = 0) :
    (dropWrite s u).g.stgNak = (s.g.noteNak u.seq (w64 u.va)).stgNak := by
  rw [dropWrite, if_pos horigin, hgang, updGang_own]

theorem dropWrite_copy {s : State} {u : Unacked} (hgang : u.gang = s.g.id) (hpos : 0 < u.origin) (hlt : u.origin < 16) :
    ((dropWrite s u).g.channel (u.origin - 1)).errors = (s.g.channel (u.origin - 1)).errors ||| 0x10 := by
  rw [dropWrite, if_neg (by omega), if_pos hlt, hgang, onGang_own, nakChannel, setChannel_channel, if_pos rfl]

/-! ### The answers -/

theorem exec_loadResponse (d : Reg) (s : State) : exec (.loadResponse d) s = eventOp s fun s => loadResponse s d := rfl
theorem exec_writeAcknowledgement (ok : Bool) (s : State) : exec (.writeAcknowledgement ok) s = eventOp s (writeAcknowledgement ok) := rfl
theorem exec_stgNak (gang a : Nat) (s : State) : exec (.stgNak gang a) s = eventOp s (stgNak gang a) := rfl

theorem loadResponse_some {s : State} {d : Reg} {l : Load} (h : s.g.loads.find? (fun l => l.reg == d) = some l) :
    loadResponse s d = { s with g := { s.g.setReg d l.value with loads := s.g.loads.erase l } } := by rw [loadResponse, h]

theorem loadResponse_none {s : State} {d : Reg} (h : s.g.loads.find? (fun l => l.reg == d) = none) : loadResponse s d = s := by rw [loadResponse, h]

theorem writeAcknowledgement_performs {s : State} {u : Unacked} {r : List Unacked} (h : s.unacked = u :: r) (hmoved : windowMoved s u = false) :
    writeAcknowledgement true s = physStore { s with unacked := r } u.pa (landing s u) := by
  have hsame : windowMoved { s with unacked := r } u = false := hmoved
  rw [writeAcknowledgement, h]
  dsimp only
  rw [hsame]
  rfl

theorem writeAcknowledgement_drops {s : State} {u : Unacked} {r : List Unacked} {ok : Bool} (h : s.unacked = u :: r)
    (hmoved : ok = false ∨ windowMoved s u = true) : writeAcknowledgement ok s = dropWrite { s with unacked := r } u := by
  have hnot : ¬ (ok && !windowMoved { s with unacked := r } u) = true := by
    obtain rfl | hmoved := hmoved
    · simp
    · simp [show windowMoved { s with unacked := r } u = true from hmoved]
  rw [writeAcknowledgement, h]
  exact if_neg hnot

/-- What an acknowledged write leaves, of a write of at least one byte that stays within a window (R132, R417). -/
theorem length_landing (s : State) (u : Unacked) : (landing s u).length = u.bytes.length := by
  unfold landing
  split
  · exact length_leBytes ..
  · rfl

/-- A write within one window is read as it was written. -/
theorem physStore_block {s : State} {pa j : Nat} {bs : List Byte} (hj : j < bs.length) (hblock : pa / 2 ^ 42 = (pa + bs.length - 1) / 2 ^ 42) :
    memByte (physStore s pa bs) (pa + j) = bs.getD j 0 := by
  rw [memByte_of_store (physStore_store s pa bs), ← List.getElem_eq_getD (h := hj)]
  exact memByte_setMemBytes_inside s pa j bs hj fun k hk hjk => sameCell_block s pa j k (Nat.ne_of_lt hjk) (by omega) (by omega)

/-- Settles O42: an answer changes the register or the bytes that it is for, and a write that is dropped only what its sender learns. -/
theorem answersReachTheirGang : Obligations.AnswersReachTheirGang := by
  unfold Obligations.AnswersReachTheirGang
  intro s d u r l nak
  refine ⟨fun hl => occurs_of_eventOp (exec_loadResponse d s) ?_, fun hl => occurs_of_eventOp (exec_loadResponse d s) (loadResponse_none hl),
    fun hunacked => ⟨fun hmoved hblock => occurs_of_eventOp (exec_writeAcknowledgement true s) ?_,
      fun ok hdrop => occurs_of_eventOp (exec_writeAcknowledgement ok s) ?_⟩,
    fun a hfind => occurs_of_eventOp (exec_stgNak s.g.id a s) ?_⟩
  · rw [loadResponse_some hl]
    refine ⟨?_, fun q hq => ?_, rfl, ⟨sameMem_of_store rfl, fun _ => rfl, fun x => ?_⟩, Gang.setReg_pc ..⟩
    · exact (Gang.reg_setReg ..).trans (if_pos rfl)
    · exact (Gang.reg_setReg ..).trans (if_neg fun h : q = d => hq (h ▸ List.mem_singleton.mpr rfl))
    · exact congrArg (rdByte · x) (Gang.setReg_lmem ..)
  · rw [writeAcknowledgement_performs hunacked hmoved]
    have hlen := length_landing s u
    have hacc := physStore_accessed { s with unacked := r } u.pa (landing s u)
    refine ⟨physStore_unacked .., ?_, hacc.sameField, fun j hj => physStore_block (by rwa [hlen]) (by rwa [hlen]), fun x hx => ?_⟩
    · unfold physStore
      rw [setMemBytes_only { s with unacked := r } u.pa (landing s u)]
    · exact physStore_outside fun j hj => hx j (hlen ▸ hj)
  · rw [writeAcknowledgement_drops hunacked hdrop]
    obtain ⟨-, hleft, -, -⟩ := dropWrite_told { s with unacked := r } u
    obtain ⟨hbytes, hregs⟩ := dropWrite_kept { s with unacked := r } u
    exact ⟨hleft, hbytes, hregs, fun hgang horigin => (dropWrite_stg (s := { s with unacked := r }) hgang horigin).trans (noteNak_stgNak ..),
      fun hgang hpos hlt => dropWrite_copy (s := { s with unacked := r }) hgang hpos (by omega)⟩
  · have hdrop : stgNak s.g.id a s = dropWrite { s with unacked := s.unacked.erase u } u := by rw [stgNak, hfind]
    have hu := List.find?_some hfind
    simp only [Bool.and_eq_true, beq_iff_eq] at hu
    obtain ⟨⟨hgang, horigin⟩, -⟩ := hu
    rw [hdrop]
    obtain ⟨-, hleft, -, -⟩ := dropWrite_told { s with unacked := s.unacked.erase u } u
    obtain ⟨hbytes, hregs⟩ := dropWrite_kept { s with unacked := s.unacked.erase u } u
    exact ⟨hleft, hbytes, hregs, (dropWrite_stg (s := { s with unacked := s.unacked.erase u }) hgang horigin).trans (noteNak_stgNak ..)⟩

end Sys2Proof.Machine
end

section
/-! Accesses at a parity home (R187, R371, R372). -/
namespace Sys2Proof.Machine

/-! ### The values of the atomic operations (R187) -/

/-- The signed value of a number's low w bits is that of the bit vector. -/
theorem signedNat_eq_toInt (x : Nat) {w : Nat} (hw : 0 < w) : signedNat x w = (BitVec.ofNat w x).toInt := by
  have hpow : 2 ^ w = 2 * 2 ^ (w - 1) := by rw [← Nat.pow_succ', Nat.succ_eq_add_one, Nat.sub_add_cancel hw]
  have hcast : ((2 ^ w : Nat) : Int) = 2 ^ w := by push_cast; rfl
  have hmod : (((x % 2 ^ w : Nat) : Int) % (2 ^ w : Int)) = ((x % 2 ^ w : Nat) : Int) := by
    rw [← hcast, ← Int.natCast_emod, Nat.mod_mod]
  have hvalue : (x : Int) % (2 ^ w : Int) = ((x % 2 ^ w : Nat) : Int) := by push_cast; rfl
  rw [BitVec.toInt_eq_toNat_bmod, BitVec.toNat_ofNat, Int.bmod, signedNat, hcast, hmod, hvalue]
  generalize x % 2 ^ w = r
  have hhalf : ((r : Int) < ((2 : Int) ^ w + 1) / 2) ↔ r < 2 ^ (w - 1) := by
    rw [← hcast, hpow]
    generalize 2 ^ (w - 1) = half
    push_cast
    omega
  simp only [hhalf]

theorem toInt_lt_iff {x y w : Nat} (hw : 0 < w) : (BitVec.ofNat w x).toInt < (BitVec.ofNat w y).toInt ↔ signedNat x w < signedNat y w := by
  rw [signedNat_eq_toInt x hw, signedNat_eq_toInt y hw]

/-- What an atomic operation stores, as a number, is the value of R187, which fits (R186, R187). -/
theorem amoNew_some {op n old y c v : Nat} (hn : 0 < n) (hold : old < 2 ^ (8 * n)) (hy : y < 2 ^ (8 * n))
    (h : amoNew op n old y c = some v) :
    v < 2 ^ (8 * n) ∧ BitVec.ofNat (8 * n) v = amoResult (min 9 op) (BitVec.ofNat (8 * n) old) (BitVec.ofNat (8 * n) y) (BitVec.ofNat (8 * n) c) := by
  have hw : 0 < 8 * n := by omega
  have htoNat : ∀ {x : Nat}, x < 2 ^ (8 * n) → (BitVec.ofNat (8 * n) x).toNat = x := fun hx => by rw [BitVec.toNat_ofNat, Nat.mod_eq_of_lt hx]
  unfold amoNew at h
  split at h
  case h_1 => simp_all [amoResult]
  case h_2 =>
    simp only [Option.some.injEq] at h
    subst h
    refine ⟨Nat.mod_lt _ (Nat.two_pow_pos _), BitVec.eq_of_toNat_eq ?_⟩
    simp [amoResult, htoNat, hold, hy, BitVec.toNat_add]
  case h_3 =>
    simp only [Option.some.injEq] at h
    subst h
    have hlt : old &&& y < 2 ^ (8 * n) := Nat.and_lt_two_pow old hy
    exact ⟨hlt, BitVec.eq_of_toNat_eq ((htoNat hlt).trans (by simp [amoResult, htoNat, hold, hy, BitVec.toNat_and]))⟩
  case h_4 =>
    simp only [Option.some.injEq] at h
    subst h
    have hlt : old ||| y < 2 ^ (8 * n) := Nat.or_lt_two_pow hold hy
    exact ⟨hlt, BitVec.eq_of_toNat_eq ((htoNat hlt).trans (by simp [amoResult, htoNat, hold, hy, BitVec.toNat_or]))⟩
  case h_5 =>
    simp only [Option.some.injEq] at h
    subst h
    have hlt : old ^^^ y < 2 ^ (8 * n) := Nat.xor_lt_two_pow hold hy
    exact ⟨hlt, BitVec.eq_of_toNat_eq ((htoNat hlt).trans (by simp [amoResult, htoNat, hold, hy, BitVec.toNat_xor]))⟩
  case h_6 =>
    simp only [Option.some.injEq] at h
    subst h
    refine ⟨by split <;> assumption, ?_⟩
    simp only [amoResult, toInt_lt_iff hw, Nat.min_eq_right (show 5 ≤ 9 by decide)]
    split <;> rfl
  case h_7 =>
    simp only [Option.some.injEq] at h
    subst h
    refine ⟨by split <;> assumption, ?_⟩
    simp only [amoResult, toInt_lt_iff hw, Nat.min_eq_right (show 6 ≤ 9 by decide)]
    split <;> rfl
  case h_8 =>
    simp only [Option.some.injEq] at h
    subst h
    refine ⟨by split <;> assumption, ?_⟩
    simp only [amoResult, htoNat hold, htoNat hy, Nat.min_eq_right (show 7 ≤ 9 by decide)]
    split <;> rfl
  case h_9 =>
    simp only [Option.some.injEq] at h
    subst h
    refine ⟨by split <;> assumption, ?_⟩
    simp only [amoResult, htoNat hold, htoNat hy, Nat.min_eq_right (show 8 ≤ 9 by decide)]
    split <;> rfl
  case h_10 h0 h1 h2 h3 h4 h5 h6 h7 h8 =>
    have hop : min 9 op = 9 := Nat.min_eq_left (by grind)
    split at h
    next heq =>
      simp only [Option.some.injEq] at h
      subst h
      exact ⟨hy, by rw [hop, heq]; exact (if_pos rfl).symm⟩
    next => simp at h

/-- A compare-and-swap that does not find its comparand leaves the old value (R187). -/
theorem amoNew_none {op n old y c : Nat} (hold : old < 2 ^ (8 * n)) (hc : c < 2 ^ (8 * n)) (h : amoNew op n old y c = none) :
    BitVec.ofNat (8 * n) old = amoResult (min 9 op) (BitVec.ofNat (8 * n) old) (BitVec.ofNat (8 * n) y) (BitVec.ofNat (8 * n) c) := by
  unfold amoNew at h
  split at h
  case h_10 h0 h1 h2 h3 h4 h5 h6 h7 h8 =>
    have hop : min 9 op = 9 := Nat.min_eq_left (by grind)
    split at h
    next => simp at h
    next hne =>
      rw [hop]
      refine (if_neg fun heq => hne ?_).symm
      have hnat := congrArg BitVec.toNat heq
      rwa [BitVec.toNat_ofNat, BitVec.toNat_ofNat, Nat.mod_eq_of_lt hold, Nat.mod_eq_of_lt hc] at hnat
  all_goals simp at h

/-! ### The accesses -/

theorem exec_parityHomeAccess (x : HomeAccess) (s : State) : exec (.parityHomeAccess x) s = eventOp s (parityHomeAccess x) := rfl

/-- In a healthy package every byte of local HBM can be read, so that no store is lost (R380). -/
theorem storeLost_healthy {s : State} (h : healthy s) (pa n : Nat) : storeLost s pa n = false := by
  obtain ⟨hsound, hstacks⟩ := h
  have hbad : s.memBad = [] := by
    simp only [sound, Bool.and_eq_true, beq_iff_eq] at hsound
    exact hsound.1.1.1.2
  have hread : ∀ a, readable s a = true := fun a => by
    rw [readable, stackLost, hstacks, if_neg Bool.false_ne_true, hbad]
    rfl
  simp [storeLost, byteLost, hread]

/-- An access that meets no error goes to the bytes as they stand. -/
theorem parityHomeAccess_eq {x : HomeAccess} {s : State} (hecc : x.eccError = false) (hparity : x.parityError = false)
    (hshape : homeShape s x.pa x.size = true) :
    parityHomeAccess x s = { (homeAccess s x.kind x.pa x.size x.val x.cmp).1 with homeData := (homeAccess s x.kind x.pa x.size x.val x.cmp).2 } := by
  have hmeet : meetError s x = s := by simp [meetError, hecc, hparity]
  simp only [parityHomeAccess, hshape, hmeet, Bool.not_true, Bool.false_eq_true, if_false]

theorem homeShape_spec {s : State} {pa n : Nat} (h : homeShape s pa n = true) : region pa = 0 ∧ 0 < n ∧ n ≤ 8 := by
  simp only [homeShape, accessShape, Bool.and_eq_true, beq_iff_eq, decide_eq_true_eq, List.contains_iff_mem, List.mem_cons, List.not_mem_nil,
    or_false] at h
  omega

/-- Only the bytes of an access have changed. -/
def keepsOthers (pa n : Nat) (s t : State) : Prop := memKept pa n s t ∧ t.g = s.g ∧ sameField s t

theorem keepsOthers_of_served {s t : State} (h : onlyServed s t) (pa n : Nat) : keepsOthers pa n s t ∧ sameMem s t := by
  have hg : t.g = s.g := by
    unfold onlyServed at h
    rw [h]
  exact ⟨⟨fun x _ => memByte_of_store h.store_eq x, hg, sameField_of_store h.store_eq⟩, sameMem_of_store h.store_eq⟩

/-- The bytes that are stored at an access in local HBM, and no other byte. -/
theorem physStore_home {s t : State} (h : onlyServed s t) {pa n : Nat} (v : Nat) (hr : region pa = 0) (hn : n ≤ 8) :
    memBytes (physStore t pa (leBytes n v)) pa n = leBytes n v ∧ keepsOthers pa n s (physStore t pa (leBytes n v)) := by
  have hlen : (leBytes n v).length = n := length_leBytes ..
  refine ⟨?_, fun x hx => ?_, ?_, fun x => (physStore_accessed t pa (leBytes n v)).sameField x |>.trans (sameField_of_store h.store_eq x)⟩
  · rw [memBytes_eq]
    refine List.ext_getElem (by simp [hlen]) fun j hj hj' => ?_
    rw [List.getElem_map, List.getElem_range]
    exact physStore_inside hr hj' (by rw [hlen]; omega)
  · refine (physStore_outside fun j hj => ?_).trans (memByte_of_store h.store_eq x)
    rw [sameCell_of_store h.store_eq]
    exact hx j (hlen ▸ hj)
  · have hstore : (physStore t pa (leBytes n v)).g = t.g := by
      unfold physStore
      rw [setMemBytes_only t pa (leBytes n v)]
    unfold onlyServed at h
    rw [hstore, h]

theorem leNat_leBytes_mod (n v : Nat) : leNat (leBytes n v) = v % 2 ^ (8 * n) := by
  have hmod : leBytes n v = leBytes n (v % 2 ^ (8 * n)) := by
    refine List.ext_getElem (by simp [length_leBytes]) fun j hj hj' => ?_
    rw [getElem_leBytes, getElem_leBytes]
    rw [length_leBytes] at hj
    apply BitVec.eq_of_toNat_eq
    rw [BitVec.toNat_ofNat, BitVec.toNat_ofNat]
    rw [show 8 * n = 8 * j + 8 * (n - j) by omega, Nat.pow_add, Nat.mod_mul_right_div_self,
      Nat.mod_mod_of_dvd _ (Nat.pow_dvd_pow 2 (show 8 ≤ 8 * (n - j) by omega))]
  rw [hmod, leNat_leBytes n _ (Nat.mod_lt _ (Nat.two_pow_pos _))]

theorem leNat_memBytes_lt (s : State) (pa n : Nat) : leNat (memBytes s pa n) < 2 ^ (8 * n) := by
  have h := leNat_lt (memBytes s pa n)
  rwa [length_memBytes] at h

theorem physPeek_sound {s : State} (h : sound s = true) (pa n : Nat) : physPeek s pa n = some (memBytes s pa n) := physRead_snd_sound h pa n

/-- An atomic operation at a parity home (R187, R371). -/
theorem amoHome_effect {s : State} (h : healthy s) {pa n : Nat} (op : Nat) {y c : Nat} (hr : region pa = 0) (hpos : 0 < n) (hn : n ≤ 8)
    (hy : y < 2 ^ (8 * n)) (hc : c < 2 ^ (8 * n)) :
    (amoHome s pa op n y c).2 = some (memBytes s pa n) ∧ keepsOthers pa n s (amoHome s pa op n y c).1
      ∧ BitVec.ofNat (8 * n) (memNat (amoHome s pa op n y c).1 pa n)
        = amoResult (min 9 op) (BitVec.ofNat (8 * n) (memNat s pa n)) (BitVec.ofNat (8 * n) y) (BitVec.ofNat (8 * n) c) := by
  have hold : memNat s pa n < 2 ^ (8 * n) := leNat_memBytes_lt s pa n
  rw [amoHome, physPeek_sound h.1]
  dsimp only
  cases hnew : amoNew op n (leNat (memBytes s pa n)) y c with
  | some v =>
    obtain ⟨hv, hvalue⟩ := amoNew_some hpos hold hy hnew
    obtain ⟨hbytes, hkeeps⟩ := physStore_home (physTouch_only s pa n true) v hr hn
    refine ⟨rfl, hkeeps, ?_⟩
    dsimp only
    rw [memNat, hbytes, leNat_leBytes n v hv]
    exact hvalue
  | none =>
    have honly := physTouch_only s pa n false
    refine ⟨rfl, (keepsOthers_of_served honly pa n).1, ?_⟩
    dsimp only
    rw [memNat, memBytes_of_store honly.store_eq]
    exact amoNew_none hold hc hnew

/-- Settles O43: in a healthy package an access reads, writes or updates its own bytes. -/
theorem parityHomesServeAccesses : Obligations.ParityHomesServeAccesses := by
  unfold Obligations.ParityHomesServeAccesses
  intro s x hecc hparity hhealthy hshape old keeps
  obtain ⟨hr, hpos, hn⟩ := homeShape_spec hshape
  have heq := parityHomeAccess_eq hecc hparity hshape
  refine ⟨fun hkind => occurs_of_eventOp (exec_parityHomeAccess x s) ?_, fun hkind => occurs_of_eventOp (exec_parityHomeAccess x s) ?_,
    fun op hkind => occurs_of_eventOp (exec_parityHomeAccess x s) ?_⟩
  · have hread : homeAccess s .read x.pa x.size x.val x.cmp = (physTouch s x.pa x.size, some (w64 old)) := by
      rw [homeAccess, physRead, physPeek_sound hhealthy.1]
      rfl
    rw [heq, hkind, hread]
    obtain ⟨hkeeps, hmem⟩ := keepsOthers_of_served (physTouch_only s x.pa x.size false) x.pa x.size
    exact ⟨rfl, hkeeps, hmem⟩
  · have hwrite : homeAccess s .write x.pa x.size x.val x.cmp
        = (physStore (physTouch s x.pa x.size true) x.pa (leBytes x.size x.val.toNat), some 0) := by
      rw [homeAccess, storeLost_healthy hhealthy, if_neg Bool.false_ne_true, physWrite, length_leBytes]
    rw [heq, hkind, hwrite]
    obtain ⟨hbytes, hkeeps⟩ := physStore_home (physTouch_only s x.pa x.size true) x.val.toNat hr hn
    exact ⟨rfl, hkeeps, (congrArg leNat hbytes).trans (leNat_leBytes_mod ..)⟩
  · obtain ⟨hdata, hkeeps, hvalue⟩ := amoHome_effect hhealthy op.toNat hr hpos hn (Nat.mod_lt x.val.toNat (Nat.two_pow_pos (8 * x.size)))
      (Nat.mod_lt x.cmp.toNat (Nat.two_pow_pos (8 * x.size)))
    have hmodulo : ∀ v : Nat, BitVec.ofNat (8 * x.size) (v % 2 ^ (8 * x.size)) = BitVec.ofNat (8 * x.size) v := fun v =>
      BitVec.eq_of_toNat_eq (by simp)
    rw [hmodulo, hmodulo] at hvalue
    rw [heq, hkind]
    exact ⟨congrArg (Option.map fun bs => w64 (leNat bs)) hdata, hkeeps, hvalue⟩

end Sys2Proof.Machine
end

section
/-! Accesses of a peer (R413 to R415). -/
namespace Sys2Proof.Machine

theorem exec_peerInboundAccess (x : PeerAccess) (s : State) : exec (.peerInboundAccess x) s = eventOp s (peerInboundAccess x) := rfl

/-- What an event that occurs leaves is its own effect. -/
theorem eventOp_of_occurs {i : Instr} {s : State} {k : State → State} {P : State → Prop} (h : exec i s = eventOp s k) (hready : s.power = .ready)
    (hoccurs : occurs i s P) : P (k s) := by
  obtain ⟨t, hexec, hP⟩ := hoccurs hready
  rw [h, eventOp_ready hready] at hexec
  rw [Host.Outcome.next.inj hexec]
  exact hP

/-- A page whose size is no power of two, so that an aligned access reaches across the end of peer window 0, and window 1 such that the bytes
beyond lie where those before lie. -/
def crossing : State :=
  { State.reset with
    power := .ready
    hubs := [(0, [⟨0, 0x7FFFFFFFFF8, 0x40000000004, 0x4000000000007⟩])]
    peerWindows := [(0, ⟨1, 0, 0x0400000000000000, 0⟩), (1, ⟨1, 0x3FFFFFFFFFC, 0x0400000000000000, 0⟩)]
    grants := [(0, ⟨0, 0x80000000000, 0x0000000100000000, 0⟩)] }

/-- A swap of 8 bytes, with 1 as the new value. -/
def crossingSwap : PeerAccess := { peer := 0, win := 0, gen := 0, off := 0, size := 8, kind := .amo 0, val := 1, cmp := 0 }

/-- The translation of its address, across the end of the window. -/
theorem crossing_translates : translateFull crossing 0 0 0x80000000000 .write = .ok (2 ^ 50 + 2 ^ 42 - 4) 0x4000000000007 := by decide

theorem crossing_swaps : memNat (peerInboundAccess crossingSwap crossing) (2 ^ 50 + 2 ^ 42 - 4) 8 = 0 := by decide

/-- Refutes O46: an AMO of a peer whose page's translation reaches across the end of a peer window, into one that names the same bytes
of the peer, does not leave the value of R187 there. -/
theorem not_peerAccessesFollowTheirGrants : ¬ Obligations.PeerAccessesFollowTheirGrants := by
  unfold Obligations.PeerAccessesFollowTheirGrants
  intro h
  obtain ⟨-, -, haccess, -⟩ := h crossing crossingSwap 0 0 0 0
  obtain ⟨-, hfar⟩ := haccess _ _ (by decide) crossing_translates
  obtain ⟨-, -, -, -, -, hamo⟩ := eventOp_of_occurs (exec_peerInboundAccess crossingSwap crossing) rfl (hfar (by decide))
  have hupdated := hamo 0 rfl
  rw [if_pos (by decide)] at hupdated
  obtain ⟨-, hvalue⟩ := hupdated
  rw [show crossingSwap.size = 8 from rfl, crossing_swaps] at hvalue
  exact absurd hvalue (by decide)

end Sys2Proof.Machine
end

section
/-! Shoot-downs, prefetches and teardowns (R361 to R363, R365), and the stop of a gang's banks (R220, R243, R244, R335). -/
namespace Sys2Proof.Machine

/-! ### The stop of the banks -/

/-- Only the field, its tags, and the gang's window of the broadcast stream have changed. -/
def onlyBanks (s t : State) : Prop :=
  t = { s with
    field := t.field, fieldBad := t.fieldBad, ftags := t.ftags, ftagBad := t.ftagBad
    g := { s.g with bq := t.g.bq, banks := t.g.banks, pulls := t.g.pulls, tokens := t.g.tokens, rq := t.g.rq } }

theorem onlyBanks.trans {s t u : State} (h1 : onlyBanks s t) (h2 : onlyBanks t u) : onlyBanks s u := by
  unfold onlyBanks at h1 h2 ⊢
  rw [h1] at h2
  exact h2

theorem onlyBanks.ite {s t u : State} {p : Prop} [Decidable p] (h1 : onlyBanks s t) (h2 : onlyBanks s u) : onlyBanks s (if p then t else u) := by
  split
  · exact h1
  · exact h2

theorem onlyBanks.foldl {β : Type} {f : State → β → State} (h : ∀ s x, onlyBanks s (f s x)) (l : List β) (s : State) : onlyBanks s (l.foldl f s) :=
  List.foldlRecOn (motive := onlyBanks s) l f rfl fun t ht x _ => ht.trans (h t x)

theorem applyWrite_banks (s : State) (w : Wr) : onlyBanks s (applyWrite s w) := by
  unfold onlyBanks
  rw [applyWrite_only s w]

theorem applyTag_banks (s : State) (p : Nat × Word) : onlyBanks s (applyTag s p) := by
  unfold applyTag
  split <;> rfl

theorem applyOut_banks (s : State) (e : Entry) (o : Out) : onlyBanks s (applyOut s e o).1 :=
  ((onlyBanks.foldl applyWrite_banks _ s).trans (onlyBanks.foldl applyTag_banks _ _)).trans rfl

theorem writeHeld_banks (below : Nat) (s : State) (e : Entry) : onlyBanks s (writeHeld below s e) :=
  (applyOut_banks _ _ _).trans rfl

theorem showRows_banks (seq : Nat) (s : State) : onlyBanks s (showRows seq s) := by
  unfold showRows
  split
  · split
    · exact writeHeld_banks ..
    · rfl
  · rfl

theorem upkeepFrame_banks (e : Entry) (s : State) (fr : Nat) : onlyBanks s (upkeepFrame e s fr) := by
  unfold upkeepFrame
  exact onlyBanks.ite rfl rfl

theorem settleTags_banks (words : Map Resume) (l : List (Entry × Nat)) (s : State) : onlyBanks s (settleTags s words l).1 := by
  induction l generalizing s with
  | nil => rfl
  | cons x l ih => exact (onlyBanks.foldl (upkeepFrame_banks _) _ s).trans (ih _)

/-- What a stop of the banks changes (R220, R244, R335). -/
theorem stopBanks_banks (s : State) : onlyBanks s (stopBanks s).1 := by
  have hshown := onlyBanks.foldl (f := fun s (e : Entry) => showRows e.seq s) (fun s e => showRows_banks e.seq s) s.g.bq s
  have hsettled := settleTags_banks (resumeWords s) (s.g.bq.foldl (fun s e => showRows e.seq s) s).g.bq.zipIdx
    (s.g.bq.foldl (fun s e => showRows e.seq s) s)
  exact (hshown.trans hsettled).trans rfl

/-! ### Hubs -/

theorem exec_shootDown (pasid lo hi : Nat) (s : State) : exec (.shootDown pasid lo hi) s = eventOp s (shootDown pasid lo hi) := rfl
theorem exec_shootDownComplete (s : State) : exec .shootDownComplete s = eventOp s shootDownComplete := rfl
theorem exec_walkPrefetch (w : BitVec 4) (s : State) : exec (.walkPrefetch w) s = eventOp s (walkPrefetch w.toNat) := rfl
theorem exec_pasidTeardown (pasid : Nat) (s : State) : exec (.pasidTeardown pasid) s = eventOp s (pasidTeardown pasid) := rfl

/-- No hub holds a translation of the PASID in the range. -/
def hubsClean (pasid lo hi : Nat) (t : State) : Prop := ∀ p ∈ t.hubs, ∀ f ∈ p.2, f.pasid = pasid → f.va < hi → ¬ lo < f.va + f.size

theorem shootDown_clean (pasid lo hi : Nat) (s : State) : hubsClean pasid lo hi (shootDown pasid lo hi s) := by
  intro p hp f hf hpasid hva hlo
  obtain ⟨q, -, rfl⟩ := List.mem_map.mp hp
  have hkept := (List.mem_filter.mp hf).2
  simp [Fill.meets, hpasid, hva, hlo] at hkept

theorem shootDown_keeps {pasid lo hi : Nat} {s : State} {p : Nat × List Fill} {f : Fill} (hp : p ∈ s.hubs) (hf : f ∈ p.2)
    (h : f.meets pasid lo hi = false) : ∃ q ∈ (shootDown pasid lo hi s).hubs, q.1 = p.1 ∧ f ∈ q.2 :=
  ⟨_, List.mem_map_of_mem hp, rfl, List.mem_filter.mpr ⟨hf, by rw [h]; rfl⟩⟩

theorem shootDownComplete_waits {s : State} {pasid lo hi : Nat} {r : List (Nat × Nat × Nat)} (h : s.shootDowns = (pasid, lo, hi) :: r)
    (hflight : writesInFlight s pasid lo hi = true) : shootDownComplete s = s := by
  rw [shootDownComplete, h]
  exact if_pos hflight

theorem shootDownComplete_completes {s : State} {pasid lo hi : Nat} {r : List (Nat × Nat × Nat)} (h : s.shootDowns = (pasid, lo, hi) :: r)
    (hflight : writesInFlight s pasid lo hi = false) : shootDownComplete s = retryPorts { s with shootDowns := r } := by
  rw [shootDownComplete, h]
  exact if_neg (by rw [hflight]; decide)

theorem remapLookup_hubs (s : State) (k : Nat) : (remapLookup s k).hubs = s.hubs := by
  unfold remapLookup
  dsimp only
  repeat' split
  all_goals rfl

theorem countError_hubs (s : State) (k : Nat) : (countError s k).hubs = s.hubs := by
  unfold countError errorLimit
  dsimp only
  split <;> rfl

theorem homeParity_hubs (s : State) (x : Nat × Nat) : (homeParity s x).hubs = s.hubs := by
  unfold homeParity
  dsimp only
  split
  · rfl
  · exact countError_hubs ..

theorem homeUnit_hubs (write : Bool) (s : State) (x : Nat × Nat) : (homeUnit write s x).hubs = s.hubs := by
  have hlooked : ((accessed s write x).foldl remapLookup s).hubs = s.hubs :=
    List.foldlRecOn (motive := fun t => t.hubs = s.hubs) _ _ rfl fun t ht k _ => (remapLookup_hubs t k).trans ht
  unfold homeUnit
  dsimp only
  generalize (accessed s write x).foldl remapLookup s = u at hlooked ⊢
  have hread : (if write then homeParity u x else u).hubs = s.hubs := by
    split
    · exact (homeParity_hubs ..).trans hlooked
    · exact hlooked
  generalize (if write then homeParity u x else u) = v at hread ⊢
  split
  · exact hread
  · split
    · exact hread
    · exact (countError_hubs ..).trans hread

/-- An access of memory does not touch the hubs. -/
theorem physTouch_hubs (s : State) (pa n : Nat) (write : Bool) : (physTouch s pa n write).hubs = s.hubs := by
  unfold physTouch
  dsimp only
  split
  · rfl
  · exact List.foldlRecOn (motive := fun t => t.hubs = s.hubs) (unitPieces pa n) (homeUnit write)
      (rfl : ({ s with channelPower := wake s pa n write } : State).hubs = s.hubs) fun t ht x _ => (homeUnit_hubs write t x).trans ht

/-- The hubs after the use of a translation: at most the fill that the walk found, in the hub of the die (R361). -/
theorem hubUse_hubs (s : State) (die pasid va : Nat) :
    (hubUse s die pasid va).hubs = s.hubs
      ∨ ∃ f, walkFill s pasid va = some f ∧ (hubUse s die pasid va).hubs = mset [] s.hubs die (addFill (mget [] s.hubs die) f) := by
  have hwalked : ∀ l : List Nat, (l.foldl (fun s a => physTouch s a 8) s).hubs = s.hubs := fun l =>
    List.foldlRecOn (motive := fun t => t.hubs = s.hubs) l _ rfl fun t ht a _ => (physTouch_hubs t a 8 false).trans ht
  unfold hubUse
  split
  · exact .inl rfl
  · dsimp only
    split
    next f hf => exact .inr ⟨f, hf, by rw [hwalked]⟩
    next => exact .inl (hwalked _)

theorem mem_addFill {fs : List Fill} {f g : Fill} (h : g ∈ addFill fs f) : g ∈ fs ∨ g = f := by
  unfold addFill at h
  split at h
  · exact .inl h
  · simpa using h

theorem mem_addFill_of_mem {fs : List Fill} {f g : Fill} (h : g ∈ fs) : g ∈ addFill fs f := by
  unfold addFill
  split
  · exact h
  · exact List.mem_append_left _ h

/-- Of a hub, fills stay and no other die's hub changes. -/
theorem hubUse_adds (s : State) (die pasid va : Nat) :
    (∀ d, d ≠ die → mget [] (hubUse s die pasid va).hubs d = mget [] s.hubs d)
      ∧ (∀ f ∈ mget [] s.hubs die, f ∈ mget [] (hubUse s die pasid va).hubs die)
      ∧ ∀ f ∈ mget [] (hubUse s die pasid va).hubs die, f ∈ mget [] s.hubs die ∨ walkFill s pasid va = some f := by
  obtain h | ⟨f, hfill, h⟩ := hubUse_hubs s die pasid va
  · rw [h]
    exact ⟨fun _ _ => rfl, fun _ hf => hf, fun _ hf => .inl hf⟩
  · rw [h]
    refine ⟨fun d hd => mget_mset_other _ _ _ _ _ hd, fun x hx => ?_, fun x hx => ?_⟩
    · rw [mget_mset_same]
      exact mem_addFill_of_mem hx
    · rw [mget_mset_same] at hx
      exact (mem_addFill hx).imp_right fun h : x = f => h ▸ hfill

/-- In a sound package a translation changes no table, so that every walk finds what it found. -/
theorem useG_walks {s : State} (h : sound s = true) (va : Nat) :
    ∃ power hubs, useG s va = { s with channelPower := power, hubs := hubs } := by
  have hfold : ∀ l : List Nat, ∃ power : Map Nat, l.foldl (fun s a => physTouch s a 8) s = { s with channelPower := power } := fun l => by
    refine List.foldlRecOn (motive := fun t => ∃ power : Map Nat, t = { s with channelPower := power }) l _ ⟨s.channelPower, rfl⟩ fun t ht a _ => ?_
    obtain ⟨power, rfl⟩ := ht
    exact ⟨_, physTouch_sound (s := { s with channelPower := power }) h a 8 false⟩
  unfold useG hubUse
  split
  · exact ⟨_, _, rfl⟩
  · obtain ⟨power, hpower⟩ := hfold (walkEntries s s.g.pasid va)
    dsimp only
    rw [hpower]
    split
    · exact ⟨_, _, rfl⟩
    · exact ⟨_, _, rfl⟩

/-- A prefetch adds fills of the gang's walk to the hub of its lead die (R362). -/
theorem foldl_useG_adds (s : State) (l : List Nat) :
    let t := l.foldl useG s
    onlyServed s t ∧ (∀ d, d ≠ s.g.lead → mget [] t.hubs d = mget [] s.hubs d)
      ∧ (∀ f ∈ mget [] s.hubs s.g.lead, f ∈ mget [] t.hubs s.g.lead)
      ∧ (sound s = true → (∃ power hubs, t = { s with channelPower := power, hubs := hubs })
        ∧ ∀ f ∈ mget [] t.hubs s.g.lead, f ∈ mget [] s.hubs s.g.lead ∨ ∃ va, walkFill s s.g.pasid va = some f) := by
  refine List.foldlRecOn (motive := fun t => onlyServed s t ∧ (∀ d, d ≠ s.g.lead → mget [] t.hubs d = mget [] s.hubs d)
      ∧ (∀ f ∈ mget [] s.hubs s.g.lead, f ∈ mget [] t.hubs s.g.lead)
      ∧ (sound s = true → (∃ power hubs, t = { s with channelPower := power, hubs := hubs })
        ∧ ∀ f ∈ mget [] t.hubs s.g.lead, f ∈ mget [] s.hubs s.g.lead ∨ ∃ va, walkFill s s.g.pasid va = some f)) l useG
    ⟨onlyServed.refl s, fun _ _ => rfl, fun _ hf => hf, fun _ => ⟨⟨s.channelPower, s.hubs, rfl⟩, fun _ hf => .inl hf⟩⟩ ?_
  rintro t ⟨honly, hothers, hkept, hsound⟩ va -
  have hg : t.g = s.g := by
    unfold onlyServed at honly
    rw [honly]
  obtain ⟨hothers', hkept', hnew⟩ := hubUse_adds t t.g.lead t.g.pasid va
  rw [hg] at hothers' hkept' hnew
  have huse : useG t va = hubUse t s.g.lead s.g.pasid va := by rw [useG, hg]
  refine ⟨honly.trans (hubUse_only ..), fun d hd => ?_, fun f hf => ?_, fun hs => ?_⟩
  · rw [huse, hothers' d hd, hothers d hd]
  · rw [huse]
    exact hkept' f (hkept f hf)
  · obtain ⟨⟨power, hubs, ht⟩, hfrom⟩ := hsound hs
    refine ⟨?_, fun f hf => ?_⟩
    · obtain ⟨power', hubs', ht'⟩ := useG_walks (s := t) (by rw [ht]; exact hs) va
      exact ⟨power', hubs', by rw [ht', ht]⟩
    · rw [huse] at hf
      obtain hf | hf := hnew f hf
      · exact hfrom f hf
      · refine .inr ⟨va, ?_⟩
        rw [ht] at hf
        exact hf

/-! ### A halt -/

/-- Only the field, its tags, what counts halts and free values, and what a halt keeps in the gang have changed (R41, R228). -/
def onlyHalted (ph : Phase) (s t : State) : Prop :=
  t = { s with
    field := t.field, fieldBad := t.fieldBad, ftags := t.ftags, ftagBad := t.ftagBad, haltCounter := t.haltCounter, fresh := t.fresh
    g := { s.g with
      regs := t.g.regs, regBad := t.g.regBad, bq := t.g.bq, banks := t.g.banks, pulls := t.g.pulls, tokens := t.g.tokens, rq := t.g.rq
      heldStart := t.g.heldStart, estart := t.g.estart, phase := ph, svkHeld := t.g.svkHeld, loads := [], preempt := false
      haltFrame := t.g.haltFrame, haltResume := t.g.haltResume, haltOrder := t.g.haltOrder, context := t.g.context } }

theorem haltSelected_halted {ph : Phase} {s u : State} (es : List Entry) (words : Map Resume)
    (hu : u = { s with
      field := u.field, fieldBad := u.fieldBad, ftags := u.ftags, ftagBad := u.ftagBad
      g := { s.g with bq := u.g.bq, banks := u.g.banks, pulls := u.g.pulls, tokens := u.g.tokens, rq := u.g.rq, heldStart := u.g.heldStart, estart := u.g.estart } }) :
    onlyHalted ph s (haltSelected ph u es words) := by
  have hregs := foldl_setReg_only u.g.loads u.g
  unfold onlyHalted haltSelected
  dsimp only at hregs ⊢
  rw [hregs, hu]
  rfl

/-- What a halt changes (R41, R43, R228, R244). -/
theorem haltGang_halted (ph : Phase) (s : State) : onlyHalted ph s (haltGang ph s) := by
  have hstop := stopBanks_banks s
  rw [haltGang]
  generalize stopBanks s = stopped at hstop ⊢
  obtain ⟨v, es, words⟩ := stopped
  dsimp only at hstop ⊢
  unfold onlyBanks at hstop
  refine haltSelected_halted es words ?_
  by_cases hes : es = []
  · rw [if_pos hes, hstop]
  · rw [if_neg hes, hstop]

/-! ### Teardown -/

/-- A gang that is discarded (R365): it keeps no span, its clusters are cleared, and no other byte changes but what copies have left half written. -/
theorem discardGang_effect (s : State) :
    let t := discardGang s
    t.g.phase = .retired ∧ t.g.clusters = [] ∧ (∀ c ∈ s.g.clusters, clusterClear c t) ∧ ((∀ p ∈ s.g.channels, p.2.queue = []) → sameMem s t)
      ∧ t.roots = s.roots ∧ t.others = s.others := by
  have hhalt := haltGang_halted .retired { s with g := { s.g with loads := [] } }
  obtain ⟨u, hu⟩ : ∃ u, u = haltGang .retired { s with g := { s.g with loads := [] } } := ⟨_, rfl⟩
  rw [← hu] at hhalt
  unfold onlyHalted at hhalt
  have hmarked := discardCopies_marked u
  obtain ⟨v, hv⟩ : ∃ v, v = discardCopies u := ⟨_, rfl⟩
  rw [← hv] at hmarked
  have hvg : v.g = u.g := hmarked.g_eq
  have hclusters : v.g.clusters = s.g.clusters := by rw [hvg, hhalt]
  have hreleased := releaseSpan_only v
  obtain ⟨hclear, -⟩ := releaseSpan_field v
  have ht : discardGang s = { releaseSpan v with g := { (releaseSpan v).g with
      haltFrame := [], haltResume := [], savedCause := none, evicted := [], context := [], frame := [], resume := [], fv := false
      rq := [], rqAside := 0, ports := [], channels := [], held := none, fpDue := none, stgNak := none, revoked := none } } := by
    rw [discardGang, ← hu, ← hv]
  dsimp only
  rw [ht]
  refine ⟨?_, by dsimp only; rw [hreleased], fun c hc => hclear c (by rw [hclusters]; exact hc), fun hidle a => ?_, ?_, ?_⟩
  · dsimp only
    rw [hreleased]
    dsimp only
    rw [hvg, hhalt]
  · have hvu : v = u := hv.trans (discardCopies_idle (by rw [hhalt]; exact hidle))
    refine memByte_of_tagFrame (tagFrame_congr ?_ ?_ a) ?_ ?_ ?_ ?_ <;> (dsimp only; rw [hreleased, hvu, hhalt])
  · dsimp only
    rw [hreleased, hmarked.1, hhalt]
  · dsimp only
    rw [hreleased, hmarked.1, hhalt]

theorem alive_of_retired {g : Gang} (h : g.phase = .retired) : g.alive = false := by rw [Gang.alive, h]

/-- With the PASID's gang discarded, what the teardown leaves besides it (R365). -/
def tornDown (pasid : Nat) (s : State) : State :=
  shootDown pasid 0 (2 ^ 48) { s with
    queues := s.queues.map fun p => (p.1, if p.2.qpasid = pasid then { p.2 with en := false } else p.2)
    roots := s.roots.filter fun p => p.1 != pasid }

section TornDown
variable (pasid : Nat) (s : State)

theorem tornDown_store : (tornDown pasid s).store = s.store := rfl
theorem tornDown_roots : (tornDown pasid s).roots = s.roots.filter fun p => p.1 != pasid := rfl
theorem tornDown_queues : (tornDown pasid s).queues = s.queues.map fun p => (p.1, if p.2.qpasid = pasid then { p.2 with en := false } else p.2) := rfl
theorem tornDown_g : (tornDown pasid s).g = s.g := rfl
theorem tornDown_others : (tornDown pasid s).others = s.others := rfl
theorem tornDown_clear (c : Nat) : clusterClear c (tornDown pasid s) = clusterClear c s := rfl

end TornDown

theorem rotate_alone {s : State} (h : s.others = []) : rotate s = s := by
  unfold rotate
  rw [h]
  rfl

theorem pasidTeardown_eq {pasid : Nat} {s : State} (hfrozen : s.frozen = false) :
    pasidTeardown pasid s =
      (let t := tornDown pasid ((((s.g :: s.others).filter fun h => h.alive && h.pasid == pasid).map fun h => h.id).foldl
        (fun s id => onGang s id discardGang) s)
       if t.g.alive then t else rotate t) :=
  if_neg (by rw [hfrozen]; decide)

/-- A teardown of a package with one gang (R365). -/
theorem pasidTeardown_alone {pasid : Nat} {s : State} (hfrozen : s.frozen = false) (halone : s.others = []) :
    pasidTeardown pasid s = tornDown pasid (if s.g.alive = true ∧ s.g.pasid = pasid then discardGang s else s) := by
  have hgangs : (((s.g :: s.others).filter fun h => h.alive && h.pasid == pasid).map fun h => h.id).foldl (fun s id => onGang s id discardGang) s
      = if s.g.alive = true ∧ s.g.pasid = pasid then discardGang s else s := by
    rw [halone, List.filter_cons, List.filter_nil]
    by_cases h : s.g.alive = true ∧ s.g.pasid = pasid
    · rw [if_pos (by simpa using h), if_pos h, List.map_singleton, List.foldl_cons, List.foldl_nil, onGang_own]
    · rw [if_neg (by simpa using h), if_neg h, List.map_nil, List.foldl_nil]
  have hothers : (if s.g.alive = true ∧ s.g.pasid = pasid then discardGang s else s).others = [] := by
    split
    · obtain ⟨-, -, -, -, -, hothers⟩ := discardGang_effect s
      exact hothers.trans halone
    · exact halone
  rw [pasidTeardown_eq hfrozen, hgangs]
  generalize (if s.g.alive = true ∧ s.g.pasid = pasid then discardGang s else s) = u at hothers ⊢
  dsimp only
  rw [rotate_alone ((tornDown_others pasid u).trans hothers)]
  exact ite_self _

theorem mfind_filter_key {α : Type} (m : Map α) (k j : Nat) : mfind (m.filter fun p => p.1 != k) j = if j = k then none else mfind m j := by
  induction m with
  | nil => simp [mfind]
  | cons p m ih =>
    obtain ⟨i, v⟩ := p
    by_cases hi : i = k
    · rw [List.filter_cons_of_neg (by simpa using hi), ih, mfind]
      by_cases hj : j = k
      · rw [if_pos hj, if_pos hj]
      · rw [if_neg hj, if_neg hj, if_neg fun h => hj (h.symm.trans hi)]
    · rw [List.filter_cons_of_pos (by simpa using hi), mfind, mfind, ih]
      by_cases hij : i = j
      · rw [if_pos hij, if_pos hij, if_neg fun h => hi (hij.trans h)]
      · rw [if_neg hij, if_neg hij]

/-- Settles O47: what is dropped meets the range, a prefetch only adds what its walks find, and a teardown discards the PASID's gang. -/
theorem shootDownsPrefetchesAndTeardowns : Obligations.ShootDownsPrefetchesAndTeardowns := by
  unfold Obligations.ShootDownsPrefetchesAndTeardowns
  intro s pasid lo hi w clean
  refine ⟨occurs_of_eventOp (exec_shootDown pasid lo hi s) ?_, fun r hr => ⟨fun hflight => occurs_of_eventOp (exec_shootDownComplete s) ?_,
      fun hflight => occurs_of_eventOp (exec_shootDownComplete s) (shootDownComplete_waits hr hflight)⟩,
    occurs_of_eventOp (exec_walkPrefetch w s) ?_,
    fun hfrozen => occurs_of_eventOp (exec_pasidTeardown pasid s) (if_pos hfrozen),
    fun halone hfrozen => occurs_of_eventOp (exec_pasidTeardown pasid s) ?_⟩
  · exact ⟨shootDown_clean pasid lo hi s, rfl, rfl, fun p hp f hf h => shootDown_keeps hp hf h, rfl, sameMem_of_store rfl⟩
  · exact shootDownComplete_completes hr hflight
  · obtain ⟨honly, hothers, hkept, hsound⟩ := foldl_useG_adds s ((List.range (bitsOf (mget ({} : Walk) s.g.walks w.toNat).pattern.toNat 40 8)).map
      fun k => ((mget ({} : Walk) s.g.walks w.toNat).position + w64 k * sextNat (mget ({} : Walk) s.g.walks w.toNat).pattern.toNat 40).toNat)
    refine ⟨hothers, hkept, fun hs => (hsound hs).2, ?_, sameMem_of_store honly.store_eq⟩
    unfold onlyServed at honly
    exact (congrArg State.g honly).trans rfl
  · rw [pasidTeardown_alone hfrozen halone]
    obtain ⟨hphase, hclusters, hclear, hmem, hroots, -⟩ := discardGang_effect s
    have hroots' : (if s.g.alive = true ∧ s.g.pasid = pasid then discardGang s else s).roots = s.roots := by
      split
      · exact hroots
      · rfl
    refine ⟨shootDown_clean pasid 0 (2 ^ 48) _, fun hidle => ?_, ?_, fun j hj => ?_, fun p hp hpasid => ?_, fun hpasid halive => ?_, fun hpasid => ?_⟩
    · refine fun a => (memByte_of_store (tornDown_store ..) a).trans ?_
      by_cases h : s.g.alive = true ∧ s.g.pasid = pasid
      · rw [if_pos h]
        exact hmem (hidle h.2) a
      · rw [if_neg h]
    · rw [tornDown_roots, mfind_filter_key, if_pos rfl]
    · rw [tornDown_roots, mfind_filter_key, if_neg hj, hroots']
    · rw [tornDown_queues] at hp
      obtain ⟨q, -, rfl⟩ := List.mem_map.mp hp
      dsimp only at hpasid ⊢
      split at hpasid <;> simp_all
    · rw [if_pos ⟨halive, hpasid⟩, tornDown_g]
      exact ⟨hphase, hclusters, fun c hc => by rw [tornDown_clear]; exact hclear c hc⟩
    · rw [if_neg fun h => hpasid h.2, tornDown_g]
      exact ⟨rfl, sameField_of_store (tornDown_store ..)⟩

end Sys2Proof.Machine
end

section
/-! Writes of the host (R373, R412). -/
namespace Sys2Proof.Machine

theorem exec_hostRmaWrite (pasid a : Nat) (bytes : List Byte) (s : State) : exec (.hostRmaWrite pasid a bytes) s = eventOp s (hostRmaWrite pasid a bytes) := rfl

/-- A page whose size is no power of two, so that a write reaches across the end of peer window 0, and window 1 such that the byte beyond
lies where the one before lies. -/
def crossingPage : State :=
  { State.reset with
    power := .ready
    hubs := [(0, [⟨0, 0x7FFFFFFFFF8, 0x40000000001, 0x4000000000007⟩])]
    peerWindows := [(0, ⟨1, 0, 0x0400000000000000, 0⟩), (1, ⟨1, 0x3FFFFFFFFFF, 0x0400000000000000, 0⟩)] }

theorem crossingPage_translates : translateFull crossingPage 0 0 0x80000000000 .write = .ok (2 ^ 50 + 2 ^ 42 - 1) 0x4000000000007 := by decide

theorem crossingPage_writes : memByte (hostRmaWrite 0 0x80000000000 [1, 2] crossingPage) (2 ^ 50 + 2 ^ 42 - 1) = 2 := by decide

/-- Refutes O48: of two bytes that a host writes across the end of a peer window, into one that names the same byte of the peer, the first is
not left. -/
theorem not_pageMovesAndHostWrites : ¬ Obligations.PageMovesAndHostWrites := by
  unfold Obligations.PageMovesAndHostWrites
  intro h
  obtain ⟨-, -, hwrite, -⟩ := h crossingPage 0 0 0 0x80000000000 [1, 2]
  obtain ⟨hbytes, -⟩ := eventOp_of_occurs (exec_hostRmaWrite 0 0x80000000000 [1, 2] crossingPage) rfl
    (hwrite _ _ (by decide) (by decide) crossingPage_translates fun hlocal => absurd hlocal (by decide))
  have hfirst := hbytes 0 (by decide)
  rw [Nat.add_zero, crossingPage_writes] at hfirst
  exact absurd hfirst (by decide)

end Sys2Proof.Machine
end

section
/-! Queue writes, watches, hang recovery and reservation time-outs (R216, R422 to R436). -/
namespace Sys2Proof.Machine

theorem exec_queueTailWrite (q : Nat) (tail : BitVec 16) (s : State) :
    exec (.queueTailWrite q tail) s = eventOp s (queueTailWrite q tail.toNat) := rfl
theorem exec_queueErrorClear (q : Nat) (m : BitVec 4) (s : State) : exec (.queueErrorClear q m) s = eventOp s (queueErrorClear q m.toNat) := rfl
theorem exec_queueWatchFire (q : Nat) (s : State) : exec (.queueWatchFire q) s = eventOp s (queueWatchFire q) := rfl
theorem exec_eventPost (id : Nat) (s : State) : exec (.eventPost id) s = eventOp s (eventPost id) := rfl
theorem exec_heartbeatTimeout (s : State) : exec .heartbeatTimeout s = eventOp s heartbeatTimeout := rfl
theorem exec_commandCoreRelease (s : State) : exec .commandCoreRelease s = eventOp s commandCoreRelease := rfl
theorem exec_schedulingPass (s : State) : exec .schedulingPass s = eventOp s schedulingPass := rfl
theorem exec_reservationTimeout (die : Nat) (s : State) : exec (.reservationTimeout die) s = eventOp s (reservationTimeout die) := rfl

/-! ### A pass that is asked for -/

/-- A pass is on the agenda once it is asked for, and nothing else changes (R427). -/
theorem requestPass_effect (s : State) :
    requestPass s = { s with agenda := (requestPass s).agenda } ∧ Instr.schedulingPass ∈ (requestPass s).agenda := by
  unfold requestPass
  by_cases h : s.agenda.contains Instr.schedulingPass = true
  · rw [if_pos h]
    exact ⟨rfl, by simpa using h⟩
  · rw [if_neg h]
    exact ⟨rfl, by simp⟩

theorem requestPass_only (s : State) : requestPass s = { s with agenda := (requestPass s).agenda } := (requestPass_effect s).1
theorem schedulingPass_mem_requestPass (s : State) : Instr.schedulingPass ∈ (requestPass s).agenda := (requestPass_effect s).2

theorem sameBytes_requestPass {s t : State} (h : sameBytes s t) : sameBytes s (requestPass t) := by
  rw [requestPass_only]
  exact h

theorem queueOf_requestPass (s : State) (q : Nat) : queueOf (requestPass s) q = queueOf s q := by
  rw [requestPass_only]
  rfl

theorem queueOf_setQueue_other {j q : Nat} (h : j ≠ q) (s : State) (x : Queue) : queueOf (setQueue s q x) j = queueOf s j := mget_mset_other _ _ _ _ _ h

/-- A queue that stops with an error, and what is said of it (R425, R432). -/
theorem queueOf_stopQueue {s : State} {q : Nat} (err ix : Nat) (hq : q < 8192) :
    queueOf (stopQueue s q err ix) q = { queueOf s q with st := 3, err := err, errix := ix }
      ∧ (∀ j, j ≠ q → queueOf (stopQueue s q err ix) j = queueOf s j) ∧ ∃ f ∈ (stopQueue s q err ix).eventFrames, f.type = 1 := by
  have hqueues : (stopQueue s q err ix).queues = (setQueue s q { queueOf s q with st := 3, err := err, errix := ix }).queues := by
    rw [stopQueue, if_pos hq]
    rfl
  have hqueueOf : ∀ j, queueOf (stopQueue s q err ix) j = queueOf (setQueue s q { queueOf s q with st := 3, err := err, errix := ix }) j :=
    fun j => by rw [queueOf, queueOf, hqueues]
  refine ⟨(hqueueOf q).trans (queueOf_setQueue_same ..), fun j hj => (hqueueOf j).trans (queueOf_setQueue_other hj s _), ?_⟩
  rw [stopQueue, if_pos hq]
  exact ⟨_, List.mem_append_right _ List.mem_cons_self, rfl⟩

theorem sameBytes_refl (s : State) : sameBytes s s := ⟨fun _ => rfl, fun _ => rfl, fun _ => rfl⟩

/-- What the host is told of a late heartbeat (R433, R434). -/
theorem heartbeat_told (s : State) :
    let t := sendFrame { tickDie s 0 with frozen := true, mailbox := some (mailboxOf s) } 5 0 [w64 s.heartbeats, Config.mailboxAddress]
    t.frozen = true ∧ t.mailbox = some (mailboxOf s) ∧ t.g = s.g ∧ t.others = s.others ∧ sameBytes s t ∧ ∃ f ∈ t.eventFrames, f.type = 5 := by
  generalize mailboxOf s = box
  generalize [w64 s.heartbeats, Config.mailboxAddress] = payload
  intro t
  have hg : t.g = s.g := rfl
  have hstore : t.store = s.store := rfl
  refine ⟨rfl, rfl, hg, rfl, ⟨sameMem_of_store hstore, sameField_of_store hstore, fun a => by rw [hg]⟩, ?_⟩
  exact ⟨_, List.mem_append_right _ List.mem_cons_self, rfl⟩

/-! ### A reservation that has waited -/

/-- Whether a gang stands in the way of a reservation that has waited (R431). -/
def inTheWay (v : Reservation) (h : Gang) : Bool :=
  (h.haltable || h.phase == .pageWait) && decide (h.launch.prio < v.prio) && h.clusters.any fun c => v.clusters.contains c

/-- The cohorts that are asked to halt (R431). -/
def askedCohorts (v : Reservation) (s : State) : List Nat := ((s.g :: s.others).filter (inTheWay v)).map fun h => h.launch.cohort

/-- A gang with the request to halt, if its cohort is asked (R431). -/
def askToHalt (cohorts : List Nat) (h : Gang) : Gang := if h.active && cohorts.contains h.launch.cohort then { h with preempt := true } else h

/-- The members of the asked cohorts that stand stopped for `svk` (assumption log 77). -/
def stoppedMembers (cohorts : List Nat) (s : State) : List Nat :=
  ((s.g :: s.others).filter fun h => h.phase == .svkStop && cohorts.contains h.launch.cohort).map fun h => h.id

/-- The state with the gangs asked and the reservations of the queue marked (R431). -/
def askAll (v : Reservation) (s : State) : State :=
  { s with
    reservations := s.reservations.map fun p => (p.1, if p.2.queue = v.queue then { p.2 with timedOut := true } else p.2)
    g := askToHalt (askedCohorts v s) s.g
    others := s.others.map (askToHalt (askedCohorts v s)) }

/-- A gang that stands stopped for `svk` halts at once, with its cohort (assumption log 77). -/
def haltStopped (s : State) : State := if s.g.phase = .svkStop then haltCohort (haltGang .halted s) else s

theorem reservationTimeout_eq {die : Nat} {s : State} {v : Reservation} (hv : mfind s.reservations die = some v) :
    reservationTimeout die s = if v.timedOut ∨ s.frozen ∨ 256 ≤ (resumeList s).length then s
      else (stoppedMembers (askedCohorts v s) s).foldl (fun s id => onGang s id haltStopped) (askAll v s) := by
  rw [reservationTimeout, hv]
  rfl

theorem mem_askedCohorts {v : Reservation} {s : State} (hphase : s.g.haltable = true) (hprio : s.g.launch.prio < v.prio)
    (hc : ∃ c ∈ s.g.clusters, c ∈ v.clusters) : s.g.launch.cohort ∈ askedCohorts v s := by
  have hhit : inTheWay v s.g = true := by simpa [inTheWay, hphase, hprio] using hc
  exact List.mem_map_of_mem (List.mem_filter.mpr ⟨List.mem_cons_self, hhit⟩)

theorem askToHalt_active {cohorts : List Nat} {h : Gang} (hactive : h.active = true) (hmem : h.launch.cohort ∈ cohorts) :
    (askToHalt cohorts h).preempt = true := by
  rw [askToHalt, if_pos (by simpa [hactive] using hmem)]

theorem askToHalt_stopped {h : Gang} (cohorts : List Nat) (hstop : h.phase = .svkStop) : askToHalt cohorts h = h := by
  rw [askToHalt, if_neg (by simp [Gang.active, hstop])]

theorem askToHalt_lmem (cohorts : List Nat) (h : Gang) : (askToHalt cohorts h).lmem = h.lmem := by
  unfold askToHalt
  split <;> rfl

theorem askAll_sameBytes (v : Reservation) (s : State) : sameBytes s (askAll v s) := by
  refine ⟨fun _ => rfl, fun _ => rfl, fun a => ?_⟩
  rw [askAll, askToHalt_lmem]

theorem stoppedMembers_none {s : State} (cohorts : List Nat) (h : ∀ x ∈ s.g :: s.others, x.phase ≠ .svkStop) : stoppedMembers cohorts s = [] := by
  rw [stoppedMembers, List.map_eq_nil_iff, List.filter_eq_nil_iff]
  intro x hx
  simp [h x hx]

theorem stoppedMembers_own {s : State} {cohorts : List Nat} (hothers : s.others = []) (hstop : s.g.phase = .svkStop)
    (hmem : s.g.launch.cohort ∈ cohorts) : stoppedMembers cohorts s = [s.g.id] := by
  simp [stoppedMembers, hothers, hstop, hmem]

/-! #### Halts leave the reservations -/

theorem focus_reservations (s : State) (id : Nat) : (focus s id).reservations = s.reservations := by
  unfold focus
  split
  · rfl
  · split <;> rfl

theorem onGang_reservations {f : State → State} (hf : ∀ t, (f t).reservations = t.reservations) (s : State) (id : Nat) :
    (onGang s id f).reservations = s.reservations := by
  unfold onGang
  split
  · exact hf s
  · split
    · rw [focus_reservations, hf, focus_reservations]
    · rfl

theorem foldl_onGang_reservations {f : State → State} (hf : ∀ t, (f t).reservations = t.reservations) (ids : List Nat) (s : State) :
    (ids.foldl (fun s id => onGang s id f) s).reservations = s.reservations :=
  List.foldlRecOn (motive := fun t => t.reservations = s.reservations) ids _ rfl fun t ht id _ => (onGang_reservations hf t id).trans ht

theorem haltGang_reservations (ph : Phase) (s : State) : (haltGang ph s).reservations = s.reservations := by
  have h := haltGang_halted ph s
  unfold onlyHalted at h
  rw [h]

theorem haltStopped_reservations (s : State) : (haltStopped s).reservations = s.reservations := by
  unfold haltStopped
  split
  · rw [haltCohort, foldl_onGang_reservations (haltGang_reservations .halted), haltGang_reservations]
  · rfl

/-! #### A gang that halts -/

theorem haltGang_svkHeld {s : State} (h : s.g.phase = .svkStop) : (haltGang .halted s).g.svkHeld = true := by
  have hstop := stopBanks_banks s
  rw [haltGang]
  generalize stopBanks s = stopped at hstop ⊢
  obtain ⟨v, es, words⟩ := stopped
  dsimp only at hstop ⊢
  unfold onlyBanks at hstop
  have hphase : v.g.phase = .svkStop := by rw [hstop]; exact h
  have hregs := foldl_setReg_only (if es = [] then v
    else { v with g := { v.g with heldStart := some v.g.estart, estart := w64 (stopStart es words 0 % 2 ^ 48) } }).g.loads (if es = [] then v
    else { v with g := { v.g with heldStart := some v.g.estart, estart := w64 (stopStart es words 0 % 2 ^ 48) } }).g
  dsimp only at hregs
  unfold haltSelected
  dsimp only
  rw [hregs]
  by_cases hes : es = []
  · simp [hes, hphase]
  · simp [hes, hphase]

theorem haltCohort_noOthers {s : State} (h : s.others = []) : haltCohort s = s := by
  simp [haltCohort, cohortRunning, h]

theorem haltStopped_alone {s : State} (hothers : s.others = []) (hstop : s.g.phase = .svkStop) :
    (haltStopped s).g.phase = .halted ∧ (haltStopped s).g.svkHeld = true ∧ (haltStopped s).g.pc = s.g.pc := by
  have hheld := haltGang_svkHeld hstop
  have h := haltGang_halted .halted s
  unfold onlyHalted at h
  rw [haltStopped, if_pos hstop, haltCohort_noOthers (by rw [h]; exact hothers)]
  exact ⟨by rw [h], hheld, by rw [h]⟩

/-- Settles O49: the queue's entry is what a write stores, a pass follows, and a reservation that has waited asks the gangs in its way. -/
theorem queuesAndHangRecovery : Obligations.QueuesAndHangRecovery := by
  unfold Obligations.QueuesAndHangRecovery
  intro s q die gang tail m x diff others
  have hwrite : ∀ y, others (requestPass (setQueue s q y)) := fun y =>
    ⟨fun j hj => (queueOf_requestPass _ j).trans (queueOf_setQueue_other hj s y), by rw [requestPass_only]; rfl,
      sameBytes_requestPass (sameBytes_refl s)⟩
  refine ⟨fun hq hdiff => occurs_of_eventOp (exec_queueTailWrite q tail s) ?_, fun hq hdiff => occurs_of_eventOp (exec_queueTailWrite q tail s) ?_,
    fun hq => occurs_of_eventOp (exec_queueErrorClear q m s) ?_, fun hst hfrozen => occurs_of_eventOp (exec_queueWatchFire q s) (if_pos ?_),
    fun h => occurs_of_eventOp (exec_queueWatchFire q s) (if_neg ?_), fun hid => occurs_of_eventOp (exec_eventPost gang s) ?_,
    fun hfrozen => occurs_of_eventOp (exec_heartbeatTimeout s) ?_, fun hfrozen hpower => ?_,
    occurs_of_eventOp (exec_commandCoreRelease s) ?_, fun v hv => ⟨fun h => occurs_of_eventOp (exec_reservationTimeout die s) ?_,
      fun htime hfrozen hroom => occurs_of_eventOp (exec_reservationTimeout die s) ?_⟩⟩
  · have ht : queueTailWrite q tail.toNat s = requestPass (setQueue s q { x with
        tail := tail.toNat, pending := diff != 0, st := if x.st = 3 then 3 else if diff = 0 then 0 else if x.st = 2 then 2 else 1 }) := by
      rw [queueTailWrite, if_neg (by omega), if_neg (Nat.not_lt.mpr hdiff)]
    rw [ht]
    exact ⟨(queueOf_requestPass _ q).trans (queueOf_setQueue_same ..), hwrite _, schedulingPass_mem_requestPass _⟩
  · have ht : queueTailWrite q tail.toNat s = stopQueue (setQueue s q { x with tail := tail.toNat }) q 6 x.head := by
      rw [queueTailWrite, if_neg (by omega), if_pos hdiff]
    obtain ⟨hentry, hrest, htold⟩ := queueOf_stopQueue (s := setQueue s q { x with tail := tail.toNat }) 6 x.head hq
    have honly := stopQueue_only (setQueue s q { x with tail := tail.toNat }) q 6 x.head
    rw [ht]
    refine ⟨hentry.trans (by rw [queueOf_setQueue_same]), ⟨fun j hj => (hrest j hj).trans (queueOf_setQueue_other hj s _), ?_, ?_⟩, htold⟩
    · rw [honly]
      rfl
    · rw [honly]
      exact sameBytes_refl s
  · have hm : m.toNat % 16 = m.toNat := Nat.mod_eq_of_lt m.isLt
    have ht : queueErrorClear q m.toNat s = requestPass (setQueue s q { x with
        err := Nat.land x.err (15 - m.toNat), st := if x.st = 3 ∧ Nat.land x.err (15 - m.toNat) = 0 then b2n x.pending else x.st }) := by
      rw [queueErrorClear, if_neg (by omega), hm]
    rw [ht, queueOf_requestPass, queueOf_setQueue_same]
    exact ⟨rfl, rfl, rfl, hwrite _, schedulingPass_mem_requestPass _⟩
  · exact ⟨hst, by rw [hfrozen]; rfl⟩
  · rintro ⟨hst, hf⟩
    rcases h with h | h
    · exact h hst
    · rw [h] at hf
      exact Bool.false_ne_true hf
  · rw [eventPost, ← hid, updGang_own]
  · rw [heartbeatTimeout, if_neg (by rw [hfrozen]; exact Bool.false_ne_true)]
    exact heartbeat_told s
  · have ht : schedulingPass s = retryPorts s := by
      rw [schedulingPass, if_neg (Classical.not_not.mpr hpower), if_pos hfrozen]
    refine occurs_of_eventOp (exec_schedulingPass s) ?_ hpower
    rw [ht]
    refine ⟨rfl, fun i hi => List.mem_append_left _ hi, fun i hi => ?_⟩
    rcases List.mem_append.mp hi with hi | hi
    · exact .inl hi
    · obtain ⟨p, -, rfl⟩ := List.mem_map.mp hi
      exact .inr ⟨_, rfl⟩
  · rw [commandCoreRelease]
    refine ⟨?_, ?_, ?_, sameBytes_requestPass (sameBytes_refl s), schedulingPass_mem_requestPass _⟩ <;> rw [requestPass_only]
  · rw [reservationTimeout_eq hv, if_pos h]
  · have ht := reservationTimeout_eq hv
    rw [if_neg (by simp [htime, hfrozen, hroom])] at ht
    rw [ht]
    refine ⟨fun hnone => ?_, fun hothers hstop hlower => ?_, fun p hp hqueue => ?_⟩
    · rw [stoppedMembers_none _ hnone]
      refine ⟨askAll_sameBytes v s, fun hphase hlower => ?_⟩
      have hactive : s.g.active = true := by
        rcases hphase with h | h <;> simp [Gang.active, h]
      exact askToHalt_active hactive (mem_askedCohorts (by simp [Gang.haltable, hactive]) hlower.1 hlower.2)
    · have hmem := mem_askedCohorts (by simp [Gang.haltable, hstop]) hlower.1 hlower.2
      have hg : (askAll v s).g = s.g := askToHalt_stopped _ hstop
      rw [stoppedMembers_own hothers hstop hmem, List.foldl_cons, List.foldl_nil, ← hg, onGang_own]
      exact haltStopped_alone (by rw [askAll, hothers]; rfl) (by rw [hg]; exact hstop)
    · rw [foldl_onGang_reservations haltStopped_reservations] at hp
      obtain ⟨p₀, -, rfl⟩ := List.mem_map.mp hp
      dsimp only at hqueue ⊢
      by_cases h₀ : p₀.2.queue = v.queue
      · rw [if_pos h₀]
      · rw [if_neg h₀] at hqueue
        exact absurd hqueue h₀

end Sys2Proof.Machine
end

section
/-! Scheduling passes, gang starts and direct launches (R26, R34 to R36, R44, R45, R424, R427, R430, R435). -/
namespace Sys2Proof.Machine

theorem exec_gangStart (id : Nat) (s : State) : exec (.gangStart id) s = eventOp s (gangStart id) := rfl
theorem exec_directLaunch (p : BitVec 2) (s : State) : exec (.directLaunch p) s = eventOp s (directLaunch p.toNat) := rfl

/-! ### What a pass may change -/

/-- Whether a gang is on the resume list (R431). -/
def Gang.waits (h : Gang) : Bool := h.phase == .halted || h.phase == .pageWait

theorem length_insertBy {α : Type} (before : α → α → Bool) (x : α) (l : List α) : (insertBy before x l).length = l.length + 1 := by
  induction l with
  | nil => rfl
  | cons y l ih =>
    unfold insertBy
    split
    · rfl
    · rw [List.length_cons, ih, List.length_cons]

theorem length_sortBy {α : Type} (before : α → α → Bool) (l : List α) : (sortBy before l).length = l.length := by
  induction l with
  | nil => rfl
  | cons x l ih => rw [sortBy, List.foldr_cons, length_insertBy, List.length_cons, ← ih, sortBy]

theorem resumeList_nil_iff (s : State) : resumeList s = [] ↔ ∀ h ∈ s.g :: s.others, h.waits = false := by
  rw [resumeList, ← List.length_eq_zero_iff, length_sortBy, List.length_eq_zero_iff, List.filter_eq_nil_iff]
  simp only [Gang.waits, Bool.not_eq_true]

/-- All that a pass without halted gangs changes: what the stacks and hubs count and fill, queues, reservations, what is sent to the host,
and new gangs with their fields (R427). -/
def onlyScheduled (s t : State) : Prop :=
  t = { s with
    memBad := t.memBad, parityBad := t.parityBad, hbmStat := t.hbmStat, remapBad := t.remapBad, mirrorBad := t.mirrorBad, channelPower := t.channelPower
    hubs := t.hubs, agenda := t.agenda, queues := t.queues, eventFrames := t.eventFrames, cycles := t.cycles, fresh := t.fresh
    field := t.field, fieldBad := t.fieldBad, ftags := t.ftags, ftagBad := t.ftagBad, reservations := t.reservations, startPtr := t.startPtr
    nextGang := t.nextGang, g := t.g, others := t.others }

theorem onlyScheduled.trans {s t u : State} (h1 : onlyScheduled s t) (h2 : onlyScheduled t u) : onlyScheduled s u := by
  unfold onlyScheduled at h1 h2 ⊢
  rw [h1] at h2
  exact h2

/-- No gang that is there is changed by a pass, and none halts (R427): gangs only join. -/
structure Joins (s t : State) : Prop where
  only : onlyScheduled s t
  own : s.g.phase ≠ .none → t.g = s.g
  stays : ∀ h ∈ s.others, h ∈ t.others
  awake : resumeList s = [] → resumeList t = []

theorem Joins.refl (s : State) : Joins s s := ⟨rfl, fun _ => rfl, fun _ h => h, id⟩

theorem Joins.trans {s t u : State} (h1 : Joins s t) (h2 : Joins t u) : Joins s u where
  only := h1.only.trans h2.only
  own := fun h => (h2.own (by rw [h1.own h]; exact h)).trans (h1.own h)
  stays := fun x hx => h2.stays x (h1.stays x hx)
  awake := fun h => h2.awake (h1.awake h)

theorem Joins.foldl {β : Type} {f : State → β → State} (h : ∀ s x, Joins s (f s x)) (l : List β) (s : State) : Joins s (l.foldl f s) :=
  List.foldlRecOn (motive := Joins s) l f (.refl s) fun t ht x _ => ht.trans (h t x)

/-- A change that leaves the gangs alone. -/
theorem Joins.of_gangs {s t : State} (h : onlyScheduled s t) (hg : t.g = s.g) (hothers : t.others = s.others) : Joins s t :=
  ⟨h, fun _ => hg, fun x hx => by rw [hothers]; exact hx, fun ha => by
    rw [resumeList_nil_iff, hg, hothers, ← resumeList_nil_iff]
    exact ha⟩

theorem Joins.sameMem {s t : State} (h : Joins s t) : sameMem s t := fun a => by
  have honly := h.only
  unfold onlyScheduled at honly
  refine memByte_of_tagFrame (tagFrame_congr ?_ ?_ a) ?_ ?_ ?_ ?_ <;> rw [honly]

theorem Joins.heartbeats {s t : State} (h : Joins s t) : t.heartbeats = s.heartbeats := by
  have honly := h.only
  unfold onlyScheduled at honly
  rw [honly]

/-! ### Reading queues, records and images -/

/-- What reading a queue, its record and its image leaves of everything but the stacks, the hubs, the queues and what is sent to the host
(R361, R425, R432). -/
def onlyEvaluated (s t : State) : Prop :=
  t = { s with
    memBad := t.memBad, parityBad := t.parityBad, hbmStat := t.hbmStat, remapBad := t.remapBad, mirrorBad := t.mirrorBad, channelPower := t.channelPower
    hubs := t.hubs, agenda := t.agenda, queues := t.queues, eventFrames := t.eventFrames, cycles := t.cycles, fresh := t.fresh }

theorem onlyEvaluated.trans {s t u : State} (h1 : onlyEvaluated s t) (h2 : onlyEvaluated t u) : onlyEvaluated s u := by
  unfold onlyEvaluated at h1 h2 ⊢
  rw [h1] at h2
  exact h2

theorem onlyServed.evaluated {s t : State} (h : onlyServed s t) : onlyEvaluated s t := by
  unfold onlyServed at h
  unfold onlyEvaluated
  rw [h]

theorem onlyEvaluated.joins {s t : State} (h : onlyEvaluated s t) : Joins s t := by
  unfold onlyEvaluated at h
  refine .of_gangs ?_ (by rw [h]) (by rw [h])
  unfold onlyScheduled
  rw [h]

theorem onlyEvaluated.nextGang_eq {s t : State} (h : onlyEvaluated s t) : t.nextGang = s.nextGang := by
  unfold onlyEvaluated at h
  rw [h]

theorem stopQueue_evaluated (s : State) (q err ix : Nat) : onlyEvaluated s (stopQueue s q err ix) := by
  have h := stopQueue_only s q err ix
  unfold onlyEvaluated
  rw [h]

theorem physRead_only (s : State) (pa n : Nat) : onlyServed s (physRead s pa n).1 := physTouch_only ..

theorem headRecord_only (s : State) (q : Nat) : onlyServed s (headRecord s q).1 := by
  rw [headRecord]
  split
  · next pa _ _ =>
    have h := (hubUse_only s 0 (queueOf s q).qpasid ((queueOf s q).base + 64 * ((queueOf s q).head % 2 ^ (queueOf s q).lgn))).trans
      (physRead_only (hubUse s 0 (queueOf s q).qpasid ((queueOf s q).base + 64 * ((queueOf s q).head % 2 ^ (queueOf s q).lgn))) pa 64)
    split
    · next hread => rwa [hread] at h
    · next hread => rwa [hread] at h
  · exact .refl s
  · exact hubUse_only ..

theorem coreRead_only (pasid n a : Nat) (s : State) : onlyServed s (coreRead s pasid n a).1 := by
  induction n generalizing a s with
  | zero => exact .refl s
  | succ n ih =>
    rw [coreRead]
    split
    · next pa _ _ =>
      have h := (hubUse_only s 0 pasid a).trans (physRead_only (hubUse s 0 pasid a) pa 4096)
      split
      · next u bs hread =>
        rw [hread] at h
        have hrest := h.trans (ih (a + 4096) u)
        cases hx : coreRead u pasid n (a + 4096) with
        | mk v found =>
          rw [hx] at hrest
          cases found <;> exact hrest
      · next hread => rwa [hread] at h
    · exact .refl s
    · exact hubUse_only ..

theorem readImage_only (s : State) (pasid a sz : Nat) : onlyServed s (readImage s pasid a sz).1 := by
  have h := coreRead_only pasid 1 a s
  rw [readImage]
  split
  · next hread => rwa [hread] at h
  · next hread => rwa [hread] at h
  · next u head hread =>
    rw [hread] at h
    dsimp only
    split
    · exact h
    · have hrest := h.trans (coreRead_only pasid (imgNat head 16 8 / 4096) a u)
      split
      · next hx => rwa [hx] at hrest
      · next hx => rwa [hx] at hrest
      · next hx => rwa [hx] at hrest

theorem coreTouch_only (s : State) (pasid va n : Nat) : onlyServed s (coreTouch s pasid va n) := by
  unfold coreTouch
  split
  · exact (hubUse_only ..).trans (physTouch_only ..)
  · exact hubUse_only ..

theorem touchSignals_only (s : State) (r : Record) : onlyServed s (touchSignals s r) := by
  have h : onlyServed s (if r.pv then hubUse s 0 r.pasid r.paddr.toNat else s) := by
    split
    · exact hubUse_only ..
    · exact .refl s
  rw [touchSignals]
  split
  · exact h.trans (coreTouch_only ..)
  · exact h

theorem setQueue_evaluated (s : State) (q : Nat) (x : Queue) : onlyEvaluated s (setQueue s q x) := rfl

theorem prio_of_recordErr {s : State} {r : Record} {q : Option Nat} (h : recordErr s r q = 0) : r.prio < 8 := by
  have hform : r.formOk = true := by
    refine Classical.byContradiction fun hno => ?_
    rw [recordErr, if_pos (by simpa using hno)] at h
    exact Nat.one_ne_zero h
  simp only [Record.formOk, Bool.and_eq_true, decide_eq_true_eq] at hform
  omega

/-- What evaluating a queue leaves, and where it finds its record ready: the record's form is right, and the queue is ready (R425, R426). -/
theorem evalQueue_effect (s : State) (q : Nat) :
    onlyEvaluated s (evalQueue s q).1
      ∧ ∀ rd, (evalQueue s q).2 = some rd → rd.queue = q ∧ rd.record.prio < 8 ∧ (evalQueue s q).1.queues = mset {} s.queues q { queueOf s q with st := 1 } := by
  rw [evalQueue]
  dsimp only
  by_cases hscan : (!(queueOf s q).scanned) = true
  · rw [if_pos hscan]
    exact ⟨rfl, fun _ h => nomatch h⟩
  rw [if_neg hscan]
  have hhead := headRecord_only s q
  cases hread : headRecord s q with
  | mk u found =>
    rw [hread] at hhead
    cases found with
    | held => exact ⟨hhead.evaluated, fun _ h => nomatch h⟩
    | failed => exact ⟨hhead.evaluated.trans (stopQueue_evaluated ..), fun _ h => nomatch h⟩
    | got r =>
      dsimp only
      have himage := hhead.trans (readImage_only u r.pasid r.image.toNat r.sz)
      split
      · next herr =>
        cases hir : readImage u r.pasid r.image.toNat r.sz with
        | mk v img =>
          rw [hir] at himage
          cases img with
          | held => exact ⟨himage.evaluated, fun _ h => nomatch h⟩
          | failed => exact ⟨himage.evaluated.trans (stopQueue_evaluated ..), fun _ h => nomatch h⟩
          | got im =>
            dsimp only
            have htouch := himage.trans (touchSignals_only v r)
            split
            · refine ⟨htouch.evaluated.trans (setQueue_evaluated ..), fun rd h => ?_⟩
              obtain rfl := Option.some.inj h
              have hqueues : (touchSignals v r).queues = s.queues := by
                unfold onlyServed at htouch
                rw [htouch]
              exact ⟨rfl, prio_of_recordErr herr, by rw [setQueue, hqueues]⟩
            · exact ⟨htouch.evaluated.trans (setQueue_evaluated ..), fun _ h => nomatch h⟩
      · exact ⟨hhead.evaluated.trans (stopQueue_evaluated ..), fun _ h => nomatch h⟩

theorem evalQueues_joins (s : State) : Joins s (evalQueues s).1 := by
  refine List.foldlRecOn (motive := fun (acc : State × List Ready) => Joins s acc.1) s.queues _ (.refl s) fun acc hacc p _ => ?_
  have heval := hacc.trans (evalQueue_effect acc.1 p.1).1.joins
  generalize evalQueue acc.1 p.1 = found at heval ⊢
  obtain ⟨u, _ | r⟩ := found <;> exact heval

/-! ### New gangs -/

/-- The gang that a member of a launch becomes (R34 to R36). -/
def memberGang (im : Image) (launch : Launch) (r : Record) (n id i : Nat) (p : Placement) : Gang :=
  entryGang im launch id r.pasid ((p.clusters.headD 0) / 32) ((p.slots.head?).getD (0, 0)).2 (p.slots.drop 1) p.clusters i n r.entry r.arg

/-- Create one member of a launch. -/
def addMember (im : Image) (launch : Launch) (r : Record) (n : Nat) (s : State) (p : Placement × Nat) : State :=
  createGang { s with nextGang := s.nextGang + 1 } im (memberGang im launch r n s.nextGang p.2 p.1)

theorem launchMembers_eq (s : State) (queue index : Nat) (r : Record) (im : Image) (ps : List Placement) :
    launchMembers s queue index r im ps = ps.zipIdx.foldl (addMember im (launchOf s queue index r) r ps.length) s := rfl

theorem loadSegment_only (g : Gang) (s : State) (x : Segment) : onlySpan s (loadSegment g s x) := by
  cases x with
  | data a bs => rfl
  | tag a t =>
    rw [loadSegment]
    split <;> rfl

/-- A new gang joins with its field loaded, and its start is on the agenda (R34). -/
theorem createGang_effect (s : State) (im : Image) (g : Gang) :
    ∃ u, onlySpan s u ∧ createGang s im g = addGang { u with agenda := s.agenda ++ [Instr.gangStart g.id] } g := by
  have hloaded : onlySpan s (im.segments.foldl (loadSegment g) (g.clusters.foldl clearCluster s)) :=
    List.foldlRecOn (motive := onlySpan s) im.segments _ (foldl_clearCluster_only ..) fun t ht x _ => ht.trans (loadSegment_only g t x)
  have hagenda : (im.segments.foldl (loadSegment g) (g.clusters.foldl clearCluster s)).agenda = s.agenda := by
    unfold onlySpan at hloaded
    rw [hloaded]
  refine ⟨_, hloaded, ?_⟩
  rw [createGang, hagenda]

/-- A gang joins as the selected one, or behind the others (R34). -/
theorem addGang_effect (s : State) (g : Gang) :
    addGang s g = { s with g := (addGang s g).g, others := (addGang s g).others } ∧ (g = (addGang s g).g ∨ g ∈ (addGang s g).others)
      ∧ (s.g.phase ≠ .none → (addGang s g).g = s.g) ∧ (s.g.phase = .none → (addGang s g).g = g) ∧ (∀ h ∈ s.others, h ∈ (addGang s g).others)
      ∧ (g.waits = false → resumeList s = [] → resumeList (addGang s g) = []) := by
  unfold addGang
  by_cases hnone : s.g.phase = .none
  · rw [if_pos hnone]
    refine ⟨rfl, .inl rfl, fun h => absurd hnone h, fun _ => rfl, fun _ h => h, fun hw ha => (resumeList_nil_iff _).mpr fun x hx => ?_⟩
    rcases List.mem_cons.mp hx with rfl | hx
    · exact hw
    · exact (resumeList_nil_iff s).mp ha x (List.mem_cons_of_mem _ hx)
  · rw [if_neg hnone]
    refine ⟨rfl, .inr (List.mem_append_right _ List.mem_cons_self), fun _ => rfl, fun h => absurd h hnone, fun _ h => List.mem_append_left _ h,
      fun hw ha => (resumeList_nil_iff _).mpr fun x hx => ?_⟩
    rcases List.mem_cons.mp hx with rfl | hx
    · exact (resumeList_nil_iff s).mp ha _ List.mem_cons_self
    · rcases List.mem_append.mp hx with hx | hx
      · exact (resumeList_nil_iff s).mp ha x (List.mem_cons_of_mem _ hx)
      · rw [List.mem_singleton.mp hx]
        exact hw

/-- A member of a launch joins (R34, R36). -/
theorem addMember_effect (im : Image) (launch : Launch) (r : Record) (n : Nat) (s : State) (p : Placement × Nat) :
    let t := addMember im launch r n s p
    let h := memberGang im launch r n s.nextGang p.2 p.1
    Joins s t ∧ t.nextGang = s.nextGang + 1 ∧ (h = t.g ∨ h ∈ t.others) ∧ (s.g.phase = .none → t.g = h)
      ∧ t.agenda = s.agenda ++ [Instr.gangStart s.nextGang] ∧ t.queues = s.queues ∧ t.startPtr = s.startPtr ∧ t.reservations = s.reservations
      ∧ t.directPorts = s.directPorts := by
  obtain ⟨u, hu, hcreate⟩ := createGang_effect { s with nextGang := s.nextGang + 1 } im (memberGang im launch r n s.nextGang p.2 p.1)
  dsimp only
  obtain ⟨v, hv⟩ : ∃ v, v = { u with agenda := s.agenda ++ [Instr.gangStart s.nextGang] } := ⟨_, rfl⟩
  have ht : addMember im launch r n s p = addGang v (memberGang im launch r n s.nextGang p.2 p.1) := by
    rw [hv]
    exact hcreate
  unfold onlySpan at hu
  rw [hu] at hv
  obtain ⟨honly, hjoined, hown, hfirst, hstays, hawake⟩ := addGang_effect v (memberGang im launch r n s.nextGang p.2 p.1)
  have hg : v.g = s.g := by rw [hv]
  have hothers : v.others = s.others := by rw [hv]
  rw [ht]
  refine ⟨⟨?_, fun h => ?_, fun x hx => hstays x (by rw [hothers]; exact hx), fun ha => hawake rfl ?_⟩, ?_, hjoined, fun h => hfirst (by rw [hg]; exact h), ?_, ?_, ?_, ?_, ?_⟩
  · unfold onlyScheduled
    rw [honly, hv]
  · rw [hown (by rw [hg]; exact h), hg]
  · rw [resumeList_nil_iff, hg, hothers, ← resumeList_nil_iff]
    exact ha
  all_goals rw [honly, hv]

/-- The members of a launch join, each at its placement (R34, R36, R430). -/
theorem foldl_addMember (im : Image) (launch : Launch) (r : Record) (n : Nat) (ps : List Placement) (k : Nat) (s : State) :
    let t := (ps.zipIdx k).foldl (addMember im launch r n) s
    Joins s t ∧ t.nextGang = s.nextGang + ps.length ∧ t.queues = s.queues ∧ t.startPtr = s.startPtr ∧ t.reservations = s.reservations
      ∧ t.directPorts = s.directPorts ∧ (∀ i ∈ s.agenda, i ∈ t.agenda)
      ∧ ∀ i p, ps[i]? = some p → (memberGang im launch r n (s.nextGang + i) (k + i) p = t.g ∨ memberGang im launch r n (s.nextGang + i) (k + i) p ∈ t.others)
          ∧ Instr.gangStart (s.nextGang + i) ∈ t.agenda := by
  induction ps generalizing k s with
  | nil => exact ⟨.refl s, rfl, rfl, rfl, rfl, rfl, fun _ h => h, fun i p h => by simp at h⟩
  | cons p ps ih =>
    obtain ⟨hjoins, hnext, hjoined, -, hagenda, hqueues, hptr, hres, hports⟩ := addMember_effect im launch r n s (p, k)
    obtain ⟨hjoins', hnext', hqueues', hptr', hres', hports', hagenda', hmembers⟩ := ih (k + 1) (addMember im launch r n s (p, k))
    dsimp only at *
    rw [List.zipIdx_cons, List.foldl_cons]
    refine ⟨hjoins.trans hjoins', ?_, hqueues'.trans hqueues, hptr'.trans hptr, hres'.trans hres, hports'.trans hports, fun i hi => hagenda' i ?_, fun i x hx => ?_⟩
    · rw [hnext', hnext, List.length_cons]
      omega
    · rw [hagenda]
      exact List.mem_append_left _ hi
    · cases i with
      | zero =>
        obtain rfl : p = x := by simpa using hx
        refine ⟨?_, hagenda' _ ?_⟩
        · rcases hjoined with h | h
          · refine .inl (h.trans (hjoins'.own ?_).symm)
            rw [← h]
            exact fun h => nomatch h
          · exact .inr (hjoins'.stays _ h)
        · rw [hagenda]
          exact List.mem_append_right _ List.mem_cons_self
      | succ i =>
        have h := hmembers i x (by simpa using hx)
        rw [hnext] at h
        rw [show s.nextGang + (i + 1) = s.nextGang + 1 + i by omega, show k + (i + 1) = k + 1 + i by omega]
        exact h

theorem launchMembers_joins (s : State) (queue index : Nat) (r : Record) (im : Image) (ps : List Placement) :
    Joins s (launchMembers s queue index r im ps) := (foldl_addMember ..).1

theorem placeAll_length (s : State) (q : Option Nat) (cands : List (List (List Nat))) (taken ps : List Placement)
    (h : placeAll s q cands taken = some ps) : ps.length = taken.length + cands.length := by
  induction cands generalizing taken with
  | nil =>
    obtain rfl := Option.some.inj h
    rfl
  | cons c cands ih =>
    rw [placeAll] at h
    split at h
    · exact nomatch h
    · have hlen := ih _ h
      rw [hlen, List.length_append, List.length_cons, List.length_cons, List.length_nil]
      omega

/-! ### A pass without halted gangs -/

theorem setQueue_joins (s : State) (q : Nat) (x : Queue) : Joins s (setQueue s q x) := (setQueue_evaluated s q x).joins

theorem launchReady_joins (s : State) (r : Ready) (ps : List Placement) : Joins s (launchReady s r ps) :=
  (launchMembers_joins ..).trans (setQueue_joins ..)

theorem advanceStart_joins (s : State) (r : Ready) : Joins s (advanceStart s r) := .of_gangs rfl rfl rfl

theorem reserve_joins (s : State) (r : Ready) : Joins s (reserve s r) := by
  unfold reserve
  split
  · exact .refl s
  · split
    · exact .refl s
    · exact .of_gangs rfl rfl rfl

theorem reservePass_joins (failed : List Ready) (s : State) : Joins s (reservePass failed s) := by
  refine Joins.trans ?_ (Joins.foldl reserve_joins _ _)
  split
  · split
    · exact reserve_joins ..
    · exact .refl s
  · exact .refl s

theorem staleReservations_joins (ready : List Ready) (s : State) : Joins s (staleReservations ready s) := .of_gangs rfl rfl rfl

theorem evictFor_awake {s : State} (h : resumeList s = []) (ready : List Ready) : evictFor ready s = s := by
  rw [evictFor, h]
  rfl

theorem reservedPass_joins (ready : List Ready) (s : State) : Joins s (reservedPass ready s).1 := by
  refine List.foldlRecOn (motive := fun (acc : State × List Nat) => Joins s acc.1) ready _ (.refl s) fun acc hacc r _ => ?_
  cases hv : reservationOf acc.1 r.queue with
  | none => exact hacc
  | some v =>
    dsimp only
    rw [launchReserved]
    generalize placeAll acc.1 _ _ [] = placed
    cases placed with
    | none => exact hacc
    | some ps => exact hacc.trans ((launchReady_joins acc.1 r ps).trans (.of_gangs (t := advanceStart (dropReservation (launchReady acc.1 r ps) r.queue) r) rfl rfl rfl))

theorem resumeLevel_awake {s : State} (h : resumeList s = []) (level : Nat) : resumeLevel level s = s := by
  rw [resumeLevel, h]
  rfl

theorem levelPass_joins (ready : List Ready) {acc : State × List Nat × List Ready} (h : resumeList acc.1 = []) (level : Nat) :
    Joins acc.1 (levelPass ready acc level).1 := by
  rw [levelPass, resumeLevel_awake h]
  refine List.foldlRecOn (motive := fun (x : State × List Nat × List Ready) => Joins acc.1 x.1) _ _ (.refl acc.1) fun x hx r _ => ?_
  obtain ⟨u, done, failed⟩ := x
  dsimp only at hx ⊢
  split
  · exact hx
  · split
    · exact hx
    · split
      · exact hx.trans ((launchReady_joins ..).trans (advanceStart_joins ..))
      · exact hx

theorem foldl_levelPass_joins (ready : List Ready) (levels : List Nat) (acc : State × List Nat × List Ready) (h : resumeList acc.1 = []) :
    Joins acc.1 (levels.foldl (levelPass ready) acc).1 :=
  List.foldlRecOn (motive := fun (x : State × List Nat × List Ready) => Joins acc.1 x.1) levels _ (.refl acc.1) fun _ hx level _ =>
    hx.trans (levelPass_joins ready (hx.awake h) level)

end Sys2Proof.Machine
end

section
/-! The scheduling pass as its phases follow one another, a halted gang that resumes, and the settlement (R26, R34 to R36, R44, R45, R427, R435). -/
namespace Sys2Proof.Machine

/-! ### The phases of a pass -/

/-- A pass from what its phases leave (R427). -/
theorem schedulingPass_phases {s u v w x : State} {ready failed : List Ready} {reserved done : List Nat} (hpower : s.power = .ready)
    (hfrozen : s.frozen = false) (hread : evalQueues { s with heartbeats := s.heartbeats + 1 } = (u, ready))
    (hevict : evictFor ready (staleReservations ready u) = v) (hres : reservedPass ready v = (w, reserved))
    (hlevels : [7, 6, 5, 4, 3, 2, 1, 0].foldl (levelPass ready) (w, reserved, []) = (x, done, failed)) :
    schedulingPass s = reservePass failed (if done = [] then x else failed.foldl ageQueue x) := by
  rw [schedulingPass, if_neg (Classical.not_not.mpr hpower), if_neg (by rw [hfrozen]; exact Bool.false_ne_true), hread]
  dsimp only
  rw [hevict, hres]
  dsimp only
  rw [hlevels]

theorem reservePass_nil (s : State) : reservePass [] s = s := rfl

theorem staleReservations_none {s : State} (h : s.reservations = []) (ready : List Ready) : staleReservations ready s = s := by
  cases s
  cases h
  rfl

theorem evalQueues_none {s : State} (h : s.queues = []) : evalQueues s = (s, []) := by
  rw [evalQueues, h]
  rfl

/-- Where no gang is halted, a pass changes no gang and no byte of memory: gangs only join (R427). -/
theorem schedulingPass_joins {s : State} (hpower : s.power = .ready) (hfrozen : s.frozen = false) (h : resumeList s = []) :
    Joins { s with heartbeats := s.heartbeats + 1 } (schedulingPass s) := by
  have hread := evalQueues_joins { s with heartbeats := s.heartbeats + 1 }
  obtain ⟨⟨u, ready⟩, hu⟩ : ∃ x, x = evalQueues { s with heartbeats := s.heartbeats + 1 } := ⟨_, rfl⟩
  rw [← hu] at hread
  have hstale := hread.trans (staleReservations_joins ready u)
  have hawake := hstale.awake h
  obtain ⟨⟨w, reserved⟩, hw⟩ : ∃ x, x = reservedPass ready (staleReservations ready u) := ⟨_, rfl⟩
  have hreserved := hstale.trans (reservedPass_joins ready (staleReservations ready u))
  rw [← hw] at hreserved
  obtain ⟨⟨x, done, failed⟩, hx⟩ : ∃ x, x = [7, 6, 5, 4, 3, 2, 1, 0].foldl (levelPass ready) (w, reserved, []) := ⟨_, rfl⟩
  have hlevels := hreserved.trans (foldl_levelPass_joins ready [7, 6, 5, 4, 3, 2, 1, 0] (w, reserved, []) (hreserved.awake h))
  rw [← hx] at hlevels
  rw [schedulingPass_phases hpower hfrozen hu.symm (evictFor_awake hawake ready) hw.symm hx.symm]
  refine hlevels.trans (Joins.trans ?_ (reservePass_joins ..))
  split
  · exact .refl x
  · exact .foldl (fun s r => setQueue_joins ..) ..

/-! ### A single queue that launches -/

theorem levelOrder_single (s : State) (rd : Ready) (level : Nat) : levelOrder s level [rd] = if rd.record.prio = level then [rd] else [] := by
  by_cases h : rd.record.prio = level
  · rw [if_pos h]
    by_cases hat : mget 0 s.startPtr level ≤ rd.queue
    · simp [levelOrder, h, hat]
    · simp [levelOrder, h, hat, Nat.lt_of_not_le hat]
  · simp [levelOrder, h]

/-- A level at which the only ready queue does not stand, or has launched, passes without effect (R427). -/
theorem levelPass_other {acc : State × List Nat × List Ready} {rd : Ready} {level : Nat} (hawake : resumeList acc.1 = [])
    (h : rd.record.prio ≠ level ∨ rd.queue ∈ acc.2.1) : levelPass [rd] acc level = acc := by
  obtain ⟨u, done, failed⟩ := acc
  rw [levelPass, resumeLevel_awake hawake, levelOrder_single]
  dsimp only at h ⊢
  rcases h with h | h
  · rw [if_neg h]
    rfl
  · split
    · rw [List.foldl_cons, List.foldl_nil]
      simp [h]
    · rfl

/-- The level of the only ready queue, which can be placed (R427, R430). -/
theorem levelPass_launches {s : State} {rd : Ready} {ps : List Placement} (hawake : resumeList s = []) (hst : (queueOf s rd.queue).st ≠ 3)
    (hres : s.reservations = []) (hplace : placeMembers s (some rd.queue) rd.record.sz rd.record.members = some ps) :
    levelPass [rd] (s, [], []) rd.record.prio = (advanceStart (launchReady s rd ps) rd, [rd.queue], []) := by
  rw [levelPass, resumeLevel_awake hawake, levelOrder_single, if_pos rfl, List.foldl_cons, List.foldl_nil]
  dsimp only
  have hnone : reservationOf s rd.queue = none := by rw [reservationOf, hres]; rfl
  rw [if_neg (by simpa [stoppedNow] using hst), if_neg (by rw [hnone]; exact Bool.false_ne_true), hplace]
  rfl

theorem foldl_levelPass_launched {rd : Ready} {u : State} {failed : List Ready} (hawake : resumeList u = []) (levels : List Nat) :
    levels.foldl (levelPass [rd]) (u, [rd.queue], failed) = (u, [rd.queue], failed) :=
  List.foldlRecOn (motive := fun x => x = (u, [rd.queue], failed)) levels _ rfl fun x hx level _ => by
    rw [hx]
    exact levelPass_other hawake (.inr List.mem_cons_self)

/-- The levels from any one down to the queue's: the queue launches once (R427). -/
theorem foldl_levelPass_launches {s : State} {rd : Ready} {ps : List Placement} (hawake : resumeList s = []) (hst : (queueOf s rd.queue).st ≠ 3)
    (hres : s.reservations = []) (hplace : placeMembers s (some rd.queue) rd.record.sz rd.record.members = some ps) (levels : List Nat)
    (hmem : rd.record.prio ∈ levels) :
    levels.foldl (levelPass [rd]) (s, [], []) = (advanceStart (launchReady s rd ps) rd, [rd.queue], []) := by
  induction levels with
  | nil => exact nomatch hmem
  | cons level levels ih =>
    rw [List.foldl_cons]
    by_cases h : rd.record.prio = level
    · rw [← h, levelPass_launches hawake hst hres hplace]
      exact foldl_levelPass_launched (((launchReady_joins s rd ps).trans (advanceStart_joins _ rd)).awake hawake) levels
    · rw [levelPass_other hawake (.inl h)]
      exact ih ((List.mem_cons.mp hmem).resolve_left h)

theorem reservedPass_none {s : State} (h : s.reservations = []) (rd : Ready) : reservedPass [rd] s = (s, []) := by
  have hnone : reservationOf s rd.queue = none := by rw [reservationOf, h]; rfl
  rw [reservedPass, List.foldl_cons, List.foldl_nil]
  dsimp only
  rw [hnone]

/-- A pass whose only queue has a ready record that can be placed launches it (R427, R430). -/
theorem schedulingPass_launches {s u : State} {q : Nat} {y : Queue} {rd : Ready} {ps : List Placement} (hpower : s.power = .ready)
    (hfrozen : s.frozen = false) (hqueues : s.queues = [(q, y)]) (hres : s.reservations = []) (hawake : resumeList s = [])
    (heval : evalQueue { s with heartbeats := s.heartbeats + 1 } q = (u, some rd))
    (hplace : placeMembers u (some q) rd.record.sz rd.record.members = some ps) :
    Joins { s with heartbeats := s.heartbeats + 1 } u ∧ rd.queue = q ∧ queueOf u q = { y with st := 1 }
      ∧ schedulingPass s = advanceStart (launchReady u rd ps) rd := by
  obtain ⟨v, hv⟩ : ∃ v : State, v = { s with heartbeats := s.heartbeats + 1 } := ⟨_, rfl⟩
  rw [← hv] at heval ⊢
  have hvqueues : v.queues = [(q, y)] := by rw [hv]; exact hqueues
  have hvres : v.reservations = [] := by rw [hv]; exact hres
  have hvawake : resumeList v = [] := by rw [hv]; exact hawake
  obtain ⟨hread, hready⟩ := evalQueue_effect v q
  rw [heval] at hread hready
  obtain ⟨hq, hprio, hu⟩ := hready rd rfl
  dsimp only at hread hu
  have hy : queueOf v q = y := by
    rw [queueOf, hvqueues]
    simp [mget]
  have hentry : queueOf u q = { y with st := 1 } := by
    rw [queueOf, hu, mget_mset_same, hy]
  have hread' : evalQueues { s with heartbeats := s.heartbeats + 1 } = (u, [rd]) := by
    rw [← hv, evalQueues, hvqueues, List.foldl_cons, List.foldl_nil]
    dsimp only
    rw [heval]
    rfl
  have hures : u.reservations = [] := by
    unfold onlyEvaluated at hread
    rw [hread]
    exact hvres
  have huawake := hread.joins.awake hvawake
  refine ⟨hread.joins, hq, hentry, ?_⟩
  have hlevels := foldl_levelPass_launches (s := u) (rd := rd) (ps := ps) huawake (by rw [hq, hentry]; exact (by decide : (1 : Nat) ≠ 3)) hures
    (by rw [hq]; exact hplace) [7, 6, 5, 4, 3, 2, 1, 0] (by simp only [List.mem_cons, List.not_mem_nil, or_false]; omega)
  rw [schedulingPass_phases hpower hfrozen hread' (by rw [staleReservations_none hures, evictFor_awake huawake]) (reservedPass_none hures rd) hlevels]
  rw [if_neg (List.cons_ne_nil _ _)]
  rfl

/-! ### A halted gang that resumes -/

/-- Re-issuing entries adds them to the queue, each with a fresh number, and reserves the read-queue entries that they fill (R206, R229). -/
theorem foldl_reissueEntry (words : Map Resume) (es : List (Entry × Nat)) (g : Gang) :
    let h := es.foldl (fun g p => reissueEntry g words p.2 p.1) g
    h = { g with bq := h.bq, nextSeq := h.nextSeq, rq := h.rq } ∧ h.bq.map Entry.instr = g.bq.map Entry.instr ++ es.map fun p => p.1.instr := by
  induction es generalizing g with
  | nil => exact ⟨rfl, by simp⟩
  | cons e es ih =>
    obtain ⟨honly, hinstr⟩ := ih (reissueEntry g words e.2 e.1)
    dsimp only at *
    rw [List.foldl_cons]
    refine ⟨honly, ?_⟩
    rw [hinstr]
    simp [reissueEntry, returnEntry]

theorem retagAll_instr (g : Gang) (earlier es : List Entry) : (retagAll g earlier es).map Entry.instr = es.map Entry.instr := by
  induction es generalizing earlier with
  | nil => rfl
  | cons e es ih => simp [retagAll, ih, tagEntry]

theorem reissueFrame_effect (s : State) (es : List Entry) (words : Map Resume) :
    let t := reissueFrame s es words
    t = { s with g := { s.g with bq := t.g.bq, nextSeq := t.g.nextSeq, rq := t.g.rq } }
      ∧ t.g.bq.map Entry.instr = s.g.bq.map Entry.instr ++ es.map Entry.instr := by
  obtain ⟨honly, hinstr⟩ := foldl_reissueEntry words es.zipIdx s.g
  have hes : es.zipIdx.map (fun p => p.1.instr) = es.map Entry.instr := by
    conv => rhs; rw [← List.zipIdx_map_fst 0 es, List.map_map]
    rfl
  rw [hes] at hinstr
  rw [reissueFrame]
  generalize es.zipIdx.foldl (fun g p => reissueEntry g words p.2 p.1) s.g = h at honly hinstr
  dsimp only at *
  refine ⟨by rw [honly], ?_⟩
  rw [retagAll_instr]
  exact hinstr

/-- What a gang without a kept cause is once it runs again (R44, R45, R228). -/
theorem wakeGang_effect {s : State} (hlockstep : s.lockstep = false) (hcause : s.g.savedCause = none) :
    let t := wakeGang s
    t = { s with g := t.g } ∧ t.g.phase = (if s.g.svkHeld = true then .svkStop else .running) ∧ t.g.pc = s.g.pc ∧ t.g.regs = s.g.regs
      ∧ t.g.clusters = s.g.clusters ∧ t.g.perf = [] ∧ t.g.lmem = s.g.lmem
      ∧ t.g.bq.map Entry.instr = s.g.bq.map Entry.instr ++ s.g.haltFrame.map Entry.instr := by
  have hnone : (if s.g.svkHeld = true then none else s.g.savedCause) = none := by rw [hcause, ite_self]
  rw [wakeGang, hnone]
  dsimp only
  generalize hv : ({ s with g := _ } : State) = v
  obtain ⟨honly, hinstr⟩ := reissueFrame_effect v s.g.haltFrame s.g.haltResume
  have hnolock : (reissueFrame v s.g.haltFrame s.g.haltResume).lockstep = false := by
    rw [honly, ← hv]
    exact hlockstep
  rw [hnolock, if_neg Bool.false_ne_true, proceed, hnolock, if_neg Bool.false_ne_true]
  obtain ⟨t, ht⟩ : ∃ t, t = reissueFrame v s.g.haltFrame s.g.haltResume := ⟨_, rfl⟩
  rw [← ht] at honly hinstr ⊢
  have hg : t.g = { v.g with bq := t.g.bq, nextSeq := t.g.nextSeq, rq := t.g.rq } := congrArg State.g honly
  have hbq : v.g.bq = s.g.bq := by rw [← hv]
  refine ⟨?_, ?_, ?_, ?_, ?_, ?_, ?_, hinstr.trans (by rw [hbq])⟩
  · rw [honly, ← hv]
  all_goals rw [hg, ← hv]

section Resumes
variable {s : State} (hothers : s.others = []) (hhalted : s.g.phase = .halted) (hres : s.reservations = [])

include hothers hhalted in
theorem resumeList_alone : resumeList s = [s.g] := by
  simp [resumeList, hothers, hhalted, sortBy, insertBy]

include hres in
theorem reservedAway_none (h : Gang) : reservedAway s h = false := by
  rw [reservedAway, hres]
  rfl

include hothers hhalted hres in
theorem evictFor_alone : evictFor [] s = s := by
  rw [evictFor, resumeList_alone hothers hhalted]
  simp [spanNeeded, reservedAway_none hres]

include hothers hhalted hres in
/-- A lone halted gang that has kept its span wakes (R44). -/
theorem resumeGang_alone (hspan : s.g.clusters ≠ []) : resumeGang s.g.id s = wakeGang s := by
  have hfind : findGang s s.g.id = some s.g := by simp [findGang]
  have hmembers : cohortHalted s s.g = [s.g] := by simp [cohortHalted, hothers, hhalted]
  rw [resumeGang, hfind]
  dsimp only
  rw [hmembers, if_neg (by simp [hhalted, reservedAway_none hres]), List.filter_cons_of_neg (by simpa using hspan), List.filter_nil]
  simp only [List.map_nil, placeAll, List.zip_nil_left, List.foldl_nil, List.foldl_cons, onGang_own]

include hothers hhalted hres in
theorem foldl_levelPass_wakes (hspan : s.g.clusters ≠ []) (hawake : resumeList (wakeGang s) = []) (levels : List Nat)
    (hmem : s.g.launch.prio ∈ levels) : levels.foldl (levelPass []) (s, [], []) = (wakeGang s, [], []) := by
  induction levels with
  | nil => exact nomatch hmem
  | cons level levels ih =>
    rw [List.foldl_cons]
    by_cases h : s.g.launch.prio = level
    · have hlevel : levelPass [] (s, [], []) level = (wakeGang s, [], []) := by
        rw [levelPass, resumeLevel, resumeList_alone hothers hhalted, List.filter_cons_of_pos (by simp [hhalted, h]), List.filter_nil,
          List.foldl_cons, List.foldl_nil, resumeGang_alone hothers hhalted hres hspan]
        rfl
      rw [hlevel]
      exact foldl_levelPass_idle hawake levels
    · have hlevel : levelPass [] (s, [], []) level = (s, [], []) := by
        rw [levelPass, resumeLevel, resumeList_alone hothers hhalted, List.filter_cons_of_neg (by simp [h]), List.filter_nil]
        rfl
      rw [hlevel]
      exact ih ((List.mem_cons.mp hmem).resolve_left h)

end Resumes

/-- A pass over a lone halted gang that has kept its span resumes it (R44, R427). -/
theorem schedulingPass_wakes {s : State} (hpower : s.power = .ready) (hfrozen : s.frozen = false) (hqueues : s.queues = [])
    (hres : s.reservations = []) (hothers : s.others = []) (hlockstep : s.lockstep = false) (hhalted : s.g.phase = .halted)
    (hspan : s.g.clusters ≠ []) (hcause : s.g.savedCause = none) (hprio : s.g.launch.prio < 8) :
    schedulingPass s = wakeGang { s with heartbeats := s.heartbeats + 1 } := by
  obtain ⟨u, hu⟩ : ∃ u : State, u = { s with heartbeats := s.heartbeats + 1 } := ⟨_, rfl⟩
  have huo : u.others = [] := by rw [hu]; exact hothers
  have hug : u.g = s.g := by rw [hu]
  have hur : u.reservations = [] := by rw [hu]; exact hres
  have huh : u.g.phase = .halted := by rw [hug]; exact hhalted
  obtain ⟨honly, hphase, -⟩ := wakeGang_effect (s := u) (by rw [hu]; exact hlockstep) (by rw [hug]; exact hcause)
  have hawake : resumeList (wakeGang u) = [] := by
    rw [resumeList_nil_iff]
    have hno : (wakeGang u).others = [] := by rw [honly]; exact huo
    intro h hh
    rw [hno, List.mem_singleton] at hh
    rw [hh, Gang.waits, hphase]
    split <;> rfl
  have hread : evalQueues { s with heartbeats := s.heartbeats + 1 } = (u, []) := by
    rw [← hu]
    exact evalQueues_none (by rw [hu]; exact hqueues)
  have hlevels := foldl_levelPass_wakes huo huh hur (by rw [hug]; exact hspan) hawake [7, 6, 5, 4, 3, 2, 1, 0]
    (by rw [hug]; simp only [List.mem_cons, List.not_mem_nil, or_false]; omega)
  have hpass := schedulingPass_phases hpower hfrozen hread (by rw [staleReservations_none hur, evictFor_alone huo huh hur]) rfl hlevels
  rw [hpass, ← hu]
  rfl

/-! ### Direct launches and the settlement -/

/-- The entry state of a gang (R35). -/
theorem memberGang_entered (im : Image) (launch : Launch) (r : Record) (n id i : Nat) (p : Placement) :
    let h := memberGang im launch r n id i p
    h.phase = .loading ∧ h.pc = r.entry ∧ h.reg 2 = 0x8000000000010000 ∧ h.reg 3 = r.arg ∧ h.reg 4 = w64 launch.queue
      ∧ (∀ k, k ≠ 2 → k ≠ 3 → k ≠ 4 → h.reg k = 0) ∧ h.pl = false ∧ h.gtvec = im.handler ∧ h.pasid = r.pasid := by
  have hregs : (memberGang im launch r n id i p).regs = mset 0 (mset 0 (mset 0 [] 2 0x8000000000010000) 3 r.arg) 4 (w64 launch.queue) := rfl
  have hreg : ∀ k : Reg, (memberGang im launch r n id i p).reg k = if k = 0 then 0 else
      if k.toNat = 4 then w64 launch.queue else if k.toNat = 3 then r.arg else if k.toNat = 2 then 0x8000000000010000 else 0 := fun k => by
    rw [Gang.reg, hregs, mget_mset, mget_mset, mget_mset]
    rfl
  refine ⟨rfl, rfl, hreg 2, hreg 3, hreg 4, fun k h2 h3 h4 => ?_, rfl, rfl, rfl⟩
  have hne : ∀ j : Reg, k ≠ j → k.toNat ≠ j.toNat := fun j h hj => h (BitVec.eq_of_toNat_eq hj)
  have hk4 : k.toNat ≠ 4 := hne 4 h4
  have hk3 : k.toNat ≠ 3 := hne 3 h3
  have hk2 : k.toNat ≠ 2 := hne 2 h2
  rw [hreg, if_neg hk4, if_neg hk3, if_neg hk2, ite_self]

theorem portStatus_effect (s : State) (p v : Nat) :
    portStatus s p v = { s with directPorts := (portStatus s p v).directPorts }
      ∧ (mget ({} : DirectPort) (portStatus s p v).directPorts p).status = w64 v := by
  refine ⟨rfl, ?_⟩
  rw [portStatus, mget_mset_same]

section DirectLaunch
variable {p : Nat} {s : State}

theorem directLaunch_open (hopen : s.frozen = true ∨ (mget ({} : DirectPort) s.directPorts p).status = 1) :
    ¬(!s.frozen && (mget ({} : DirectPort) s.directPorts p).status != 1) = true := by
  generalize (mget ({} : DirectPort) s.directPorts p).status = status at hopen ⊢
  rcases hopen with h | h <;> simp [h]

theorem directLaunch_refused (hopen : s.frozen = true ∨ (mget ({} : DirectPort) s.directPorts p).status = 1)
    (herr : recordErr s (recordOf (mget ({} : DirectPort) s.directPorts p).record) none ≠ 0) :
    directLaunch p s = portStatus s p (0x10 + recordErr s (recordOf (mget ({} : DirectPort) s.directPorts p).record) none) := by
  rw [directLaunch, if_neg (directLaunch_open hopen)]
  dsimp only
  split
  · next h => exact absurd h herr
  · rfl

/-- How a direct launch answers to what it reads of its image (R435). -/
def answerLaunch (p : Nat) (r : Record) (placement : Nat) : State × CoreRead Image → State
  | (u, .held) => portStatus u p 1
  | (u, .failed) => portStatus u p 0x14
  | (u, .got im) => match directPlaces u r placement with
    | none => portStatus u p 0x12
    | some ps => portStatus (launchMembers u (8192 + p) 0 r im ps) p 2

/-- A direct launch whose record is in form goes on to its image (R435). -/
theorem directLaunch_reads (hopen : s.frozen = true ∨ (mget ({} : DirectPort) s.directPorts p).status = 1)
    (herr : recordErr s (recordOf (mget ({} : DirectPort) s.directPorts p).record) none = 0) :
    directLaunch p s = answerLaunch p (recordOf (mget ({} : DirectPort) s.directPorts p).record) (mget ({} : DirectPort) s.directPorts p).placement.toNat
      (let r := recordOf (mget ({} : DirectPort) s.directPorts p).record
       readImage s r.pasid r.image.toNat r.sz) := by
  rw [directLaunch, if_neg (directLaunch_open hopen)]
  dsimp only
  split
  · generalize readImage s _ _ _ = found
    obtain ⟨u, _ | _ | _⟩ := found <;> rfl
  · next h => exact absurd herr h

end DirectLaunch

/-- What reading an image leaves: no gang and no byte changes (R361). -/
theorem readImage_leaves {s u : State} {pasid a sz : Nat} {x : CoreRead Image} (h : readImage s pasid a sz = (u, x)) :
    u.g = s.g ∧ u.others = s.others ∧ u.store = s.store := by
  have honly := readImage_only s pasid a sz
  rw [h] at honly
  have hstore : u.store = s.store := honly.store_eq
  unfold onlyServed at honly
  dsimp only at honly
  exact ⟨by rw [honly], by rw [honly], hstore⟩

/-- A port that reports over a state that differs from `s` in no gang and no byte. -/
theorem portStatus_leaves {s u : State} (p v : Nat) (h : u.g = s.g ∧ u.others = s.others ∧ u.store = s.store) :
    let t := portStatus u p v
    (mget ({} : DirectPort) t.directPorts p).status = w64 v ∧ t.g = s.g ∧ t.others = s.others ∧ sameBytes s t := by
  obtain ⟨hg, hothers, hstore⟩ := h
  have hstore' : (portStatus u p v).store = s.store := hstore
  have hg' : (portStatus u p v).g = s.g := hg
  exact ⟨(portStatus_effect u p v).2, hg', hothers, sameMem_of_store hstore', sameField_of_store hstore', fun a => by rw [hg']⟩

theorem directPlaces_length {s : State} {r : Record} {w : Nat} {ps : List Placement} (h : directPlaces s r w = some ps) :
    ps.length = 1 + (r.members - 1) := by
  rw [directPlaces] at h
  dsimp only at h
  split at h
  · exact nomatch h
  · split at h
    · exact nomatch h
    · rw [placeAll_length _ _ _ _ _ h, List.length_replicate]
      rfl

/-- Settles O50: the pass as its phases follow one another, and a direct launch by what it finds. -/
theorem gangsAreLaunchedAndStarted : Obligations.GangsAreLaunchedAndStarted := by
  unfold Obligations.GangsAreLaunchedAndStarted
  intro s p x r status entered
  refine ⟨fun h => occurs_of_eventOp (exec_gangStart s.g.id s) ?_, fun h => occurs_of_eventOp (exec_gangStart s.g.id s) ?_,
    fun hfrozen hqueues hres hawake hpower => occurs_of_eventOp (exec_schedulingPass s) (schedulingPass_idle hpower hfrozen hqueues hres hawake) hpower,
    fun hfrozen hawake hpower => occurs_of_eventOp (exec_schedulingPass s) ?_ hpower,
    fun q y u rd ps hfrozen hqueues hres hawake heval hplace hpower => occurs_of_eventOp (exec_schedulingPass s) ?_ hpower,
    fun hfrozen hqueues hres hothers hlockstep hhalted hspan hcause hprio hpower => occurs_of_eventOp (exec_schedulingPass s) ?_ hpower,
    fun hfrozen hstatus => occurs_of_eventOp (exec_directLaunch p s) ?_, fun hopen => ⟨fun herr => occurs_of_eventOp (exec_directLaunch p s) ?_,
      fun u herr hread => occurs_of_eventOp (exec_directLaunch p s) ?_, fun u herr hread => occurs_of_eventOp (exec_directLaunch p s) ?_,
      fun u im ps herr hread => ⟨fun hplaces => occurs_of_eventOp (exec_directLaunch p s) ?_,
        fun hplaces hmembers hnone => occurs_of_eventOp (exec_directLaunch p s) ?_⟩⟩⟩
  · rw [gangStart, updGang_own, if_pos h]
  · rw [gangStart, updGang_own, if_neg h]
  · have hjoins := schedulingPass_joins hpower hfrozen hawake
    exact ⟨hjoins.heartbeats, hjoins.sameMem, hjoins.own, hjoins.stays⟩
  · obtain ⟨hread, hq, hentry, hpass⟩ := schedulingPass_launches hpower hfrozen hqueues hres hawake heval hplace
    have hnext : u.nextGang = s.nextGang := by
      have h := (evalQueue_effect { s with heartbeats := s.heartbeats + 1 } q).1
      rw [heval] at h
      exact h.nextGang_eq
    have hlen : ps.length = rd.record.members := by
      rw [placeAll_length _ _ _ _ _ hplace, List.length_replicate]
      exact Nat.zero_add _
    obtain ⟨-, hnext', hqueues', -, -, -, -, hmembers⟩ :=
      foldl_addMember rd.img (launchOf u q (queueOf u q).head rd.record) rd.record ps.length ps 0 u
    rw [hpass, launchReady, hq, launchMembers_eq]
    generalize ps.zipIdx.foldl (addMember rd.img (launchOf u q (queueOf u q).head rd.record) rd.record ps.length) u = t at hnext' hqueues' hmembers ⊢
    have hentry' : queueOf t q = { y with st := 1 } := by rw [queueOf, hqueues']; exact hentry
    have hqueue : queueOf (advanceStart (consumeRecord t q) rd) q = _ := queueOf_setQueue_same t q _
    rw [hqueue, hentry']
    refine ⟨rfl, rfl, rfl, ?_, hlen, hnext'.trans (by rw [hnext]), fun i pl hi => ?_⟩
    · rw [advanceStart, mget_mset_same, hq]
    · obtain ⟨hjoined, hstart⟩ := hmembers i pl hi
      rw [hnext, Nat.zero_add] at hjoined
      rw [hnext] at hstart
      refine ⟨_, hjoined, rfl, memberGang_entered .., rfl, hlen, ?_, rfl, hstart⟩
      exact (congrArg Queue.head hentry).trans rfl
  · rw [schedulingPass_wakes hpower hfrozen hqueues hres hothers hlockstep hhalted hspan hcause hprio]
    obtain ⟨honly, hphase, hpc, hregs, hclusters, hperf, hlmem, hbq⟩ := wakeGang_effect (s := { s with heartbeats := s.heartbeats + 1 }) hlockstep hcause
    generalize wakeGang { s with heartbeats := s.heartbeats + 1 } = t at honly hphase hpc hregs hclusters hperf hlmem hbq ⊢
    have hstore : t.store = s.store := by
      rw [honly]
      rfl
    exact ⟨hphase, hpc, fun k _ => by rw [Gang.reg, Gang.reg, hregs], hclusters, hperf, hbq, sameMem_of_store hstore, sameField_of_store hstore,
      fun a => by rw [hlmem]⟩
  · rw [directLaunch, if_pos]
    rw [hfrozen]
    exact bne_iff_ne.mpr hstatus
  · rw [directLaunch_refused hopen herr]
    exact portStatus_leaves _ _ ⟨rfl, rfl, rfl⟩
  · rw [directLaunch_reads hopen herr, hread]
    exact portStatus_leaves _ _ (readImage_leaves hread)
  · rw [directLaunch_reads hopen herr, hread]
    exact portStatus_leaves _ _ (readImage_leaves hread)
  · rw [directLaunch_reads hopen herr, hread]
    have hans : answerLaunch p.toNat r x.placement.toNat (u, .got im) = portStatus u p.toNat 0x12 := by
      rw [answerLaunch, hplaces]
    rw [hans]
    obtain ⟨hstatus, hg, hothers, -⟩ := portStatus_leaves p.toNat 0x12 (readImage_leaves hread)
    exact ⟨hstatus, hg, hothers⟩
  · rw [directLaunch_reads hopen herr, hread]
    have hans : answerLaunch p.toNat r x.placement.toNat (u, .got im) = portStatus (launchMembers u (8192 + p.toNat) 0 r im ps) p.toNat 2 := by
      rw [answerLaunch, hplaces]
    rw [hans]
    obtain ⟨hug, -, hustore⟩ := readImage_leaves hread
    obtain ⟨pl, rfl⟩ : ∃ pl, ps = [pl] := List.length_eq_one_iff.mp (by rw [directPlaces_length hplaces, hmembers])
    obtain ⟨hjoins, -, -, hfirst, hagenda, -⟩ := addMember_effect im (launchOf u (8192 + p.toNat) 0 r) r 1 u (pl, 0)
    have ht : launchMembers u (8192 + p.toNat) 0 r im [pl] = addMember im (launchOf u (8192 + p.toNat) 0 r) r 1 u (pl, 0) := rfl
    rw [ht]
    dsimp only at hjoins hfirst hagenda
    generalize addMember im (launchOf u (8192 + p.toNat) 0 r) r 1 u (pl, 0) = t at hjoins hfirst hagenda ⊢
    have hg : (portStatus t p.toNat 2).g = memberGang im (launchOf u (8192 + p.toNat) 0 r) r 1 u.nextGang 0 pl := hfirst (by rw [hug]; exact hnone)
    refine ⟨(portStatus_effect t p.toNat 2).2, ?_, ?_, fun a => ?_⟩
    · rw [hg]
      exact memberGang_entered ..
    · rw [hg]
      have : (portStatus t p.toNat 2).agenda = u.agenda ++ [Instr.gangStart u.nextGang] := hagenda
      rw [this]
      exact List.mem_append_right _ List.mem_cons_self
    · have hmem : memByte (portStatus t p.toNat 2) a = memByte t a := sameMem_of_store (s := t) (t := portStatus t p.toNat 2) rfl a
      rw [hmem, hjoins.sameMem, sameMem_of_store hustore]

end Sys2Proof.Machine
end

section
/-! The method table and the block store (R288, R289, R303, R311 to R314). -/
namespace Sys2Proof.Machine

/-! ### Reads of the sequencer at commit, and the commit of a 64-bit instruction -/

/-- What the reads of an instruction at its commit leave besides their data (R361, R374, R377). -/
theorem countSource_only (s : State) (dir : BitVec 2) (n : Nat) (ea : Word) (k : Nat) : onlyServed s (countSource s dir n ea k) := by
  unfold countSource
  split
  · exact .refl s
  · refine onlyServed.foldl _ (fun t i => ?_) _ s
    dsimp only
    split
    · exact (hubUse_only ..).trans (physTouch_only ..)
    · exact .refl t

theorem countBlocks_only (s : State) (dir : BitVec 2) (a : Word) (es : List (Nat × Nat)) : onlyServed s (countBlocks s dir a es) :=
  onlyServed.foldl _ (fun t _ => countSource_only t ..) es s

/-- What is read of memory leaves the gang and every byte. -/
theorem onlyServed.kept {s t : State} (h : onlyServed s t) : t.g = s.g ∧ t.store = s.store :=
  ⟨by unfold onlyServed at h; rw [h], h.store_eq⟩

/-- An instruction of 64 bits that writes no register commits. -/
theorem sameProgress.commits {s u : State} (h : sameProgress s u) : sameRegsBut [] s u.commit8 ∧ committed (s.g.pc + 8) s u.commit8 := by
  obtain ⟨hregs, hpc, hretired, hstepping, hpl, hheld⟩ := h
  obtain ⟨-, -, hcommit, -, -⟩ := writesReg_commitAt u 0 0 (u.g.pc + 8)
  have hsame : (u.setReg 0 0).commitAt (u.g.pc + 8) = u.commit8 := rfl
  rw [hsame] at hcommit
  refine ⟨fun r _ => by rw [Gang.reg, Gang.reg, ← hregs]; rfl, ?_⟩
  unfold committed at hcommit ⊢
  rw [hpc, hretired, hstepping, hpl, hheld] at hcommit
  exact hcommit

/-- What remains to be said of an instruction of 64 bits whose effect lies in the gang, outside its registers and its memory. -/
theorem commit8_rest {s u : State} {g : Gang} (hstore : u.store = s.store) (hprogress : sameProgress s { u with g := g }) (hlmem : g.lmem = s.g.lmem) :
    let t := { u with g := g }.commit8
    sameRegsBut [] s t ∧ committed (s.g.pc + 8) s t ∧ sameBytes s t := by
  obtain ⟨hregs, hcommit⟩ := hprogress.commits
  have hkept : ({ u with g := g }.commit8).store = s.store := hstore
  have hlocal : ({ u with g := g }.commit8).g.lmem = s.g.lmem := hlmem
  exact ⟨hregs, hcommit, sameMem_of_store hkept, sameField_of_store hkept, fun a => by rw [hlocal]⟩

theorem writesReg_commit8 (s : State) (d : Reg) (v : Word) : writesReg d v (s.g.pc + 8) s (s.setReg d v).commit8 := by
  simpa [State.commit8, State.commitAt] using writesReg_commitAt s d v (s.g.pc + 8)

/-- An instruction that waits for the broadcast queue. -/
theorem bq_waits {s : State} (h : s.g.bq ≠ []) : (!s.g.bq.isEmpty) = true := by simpa using h

theorem bq_idle {s : State} (h : s.g.bq = []) : ¬(!s.g.bq.isEmpty) = true := by simp [h]

/-! ### The method table -/

theorem exec_mtload (f : CX) (s : State) : exec (.mtload f) s = userOp (.mtload f) s (loadMethods f) := rfl

/-- The gang without the methods that an MTINV names (R313). -/
def State.dropMethods (s : State) (lo hi : Nat) : State := { s with g := { s.g with methods := mclear s.g.methods lo hi } }

theorem exec_mtinv (f : CX) (s : State) : exec (.mtinv f) s = userOp (.mtinv f) s fun s =>
    if !s.g.bq.isEmpty then stall s
    else (s.dropMethods (s.reg f.a).toNat ((s.reg f.a).toNat + (s.reg f.b).toNat)).commit8 := rfl

theorem exec_mtquery (f : CX) (s : State) : exec (.mtquery f) s = userOp (.mtquery f) s fun s =>
    (s.setReg f.d (queryWord s.g (s.reg f.a).toNat (s.reg f.b).toNat (s.reg (f.b + 1)).toNat)).commit8 := rfl

/-- Store methods from a number on (R312). -/
def storeMethods (first : Nat) (t : Map Method) (ms : List (Method × Nat)) : Map Method :=
  ms.foldl (fun (t : Map Method) (p : Method × Nat) => mset {} t (first + p.2) p.1) t

theorem mget_storeMethods (first k : Nat) (ms : List Method) (t : Map Method) (j : Nat) :
    mget {} (storeMethods first t (ms.zipIdx k)) j =
      if first + k ≤ j ∧ j < first + k + ms.length then ms.getD (j - (first + k)) {} else mget {} t j := by
  induction ms generalizing k t with
  | nil =>
    rw [List.length_nil, if_neg (by omega)]
    rfl
  | cons m ms ih =>
    have hstep : storeMethods first t ((m :: ms).zipIdx k) = storeMethods first (mset {} t (first + k) m) (ms.zipIdx (k + 1)) := rfl
    rw [hstep, ih, mget_mset, List.length_cons]
    by_cases hj : j = first + k
    · rw [if_neg (by omega), if_pos hj, if_pos (by omega), hj, Nat.sub_self]
      rfl
    · by_cases hin : first + (k + 1) ≤ j ∧ j < first + (k + 1) + ms.length
      · have hsub : j - (first + k) = (j - (first + (k + 1))) + 1 := by omega
        rw [if_pos hin, if_pos (by omega), hsub, List.getD_cons_succ]
      · rw [if_neg hin, if_neg hj, if_neg (by omega)]

/-- The methods that an MTLOAD reads (R303). -/
def readMethods (n : Nat) (us : List (List Byte)) : List Method := (List.range n).map fun k => methodOf ((us.drop (4 * k)).take 4).flatten

theorem getD_readMethods {n k : Nat} (us : List (List Byte)) (h : k < n) : (readMethods n us).getD k {} = methodOf ((us.drop (4 * k)).take 4).flatten := by
  simp [readMethods, List.getD_eq_getElem?_getD, h]

section LoadMethods
variable {f : CX} {s : State} (hbq : s.g.bq = [])
include hbq

theorem loadMethods_range (h : (s.reg f.b).toNat = 0 ∨ 256 < f.opx.toNat % 256 + (s.reg f.b).toNat) :
    loadMethods f s = trapIllegal s (.mtload f) 12 := by
  rw [loadMethods, if_neg (bq_idle hbq), if_pos h]

variable (h0 : (s.reg f.b).toNat ≠ 0) (hle : f.opx.toNat % 256 + (s.reg f.b).toNat ≤ 256)
include h0 hle

theorem loadMethods_misaligned (ha : (s.reg f.a).toNat % 32 ≠ 0) : loadMethods f s = trapS s 3 (s.reg f.a) 0 := by
  rw [loadMethods, if_neg (bq_idle hbq), if_neg (by omega), if_pos ha]

theorem loadMethods_read (ha : (s.reg f.a).toNat % 32 = 0) {us : List (List Byte)}
    (hus : sourceUnits s f.dir 8 (s.reg f.a) (4 * (s.reg f.b).toNat) = .ok us) :
    loadMethods f s = if (readMethods (s.reg f.b).toNat us).all methodOk = true then
        (let u := countSource s f.dir 8 (s.reg f.a) (4 * (s.reg f.b).toNat)
         { u with g := { u.g with methods := storeMethods (f.opx.toNat % 256) u.g.methods (readMethods (s.reg f.b).toNat us).zipIdx } }.commit8)
      else trapIllegal s (.mtload f) 12 := by
  rw [loadMethods, if_neg (bq_idle hbq), if_neg (by omega), if_neg (Classical.not_not.mpr ha), hus]
  rfl

end LoadMethods

theorem all_methodOk_iff (n : Nat) (us : List (List Byte)) :
    (readMethods n us).all methodOk = true ↔ ∀ k < n, methodOk (methodOf ((us.drop (4 * k)).take 4).flatten) = true := by
  simp [readMethods]

theorem findUp_none {p : Nat → Bool} {i n : Nat} (h : ∀ j, i ≤ j → j < i + n → p j = false) : findUp p i n = none := by
  induction n generalizing i with
  | zero => rfl
  | succ n ih =>
    rw [findUp, h i (Nat.le_refl i) (by omega), if_neg Bool.false_ne_true]
    exact ih fun j hj hlt => h j (by omega) (by omega)

/-- The search ends at the first number that has the property. -/
theorem findUp_first {p : Nat → Bool} {i n e : Nat} (hi : i ≤ e) (hlt : e < i + n) (hp : p e = true) (hfirst : ∀ j, i ≤ j → j < e → p j = false) :
    findUp p i n = some e := by
  induction n generalizing i with
  | zero => omega
  | succ n ih =>
    by_cases h : i = e
    · rw [findUp, h, if_pos hp]
    · rw [findUp, hfirst i (Nat.le_refl i) (by omega), if_neg Bool.false_ne_true]
      exact ih (by omega) (by omega) fun j hj hlt => hfirst j (by omega) hlt

theorem queryWord_zero {g : Gang} {a b d : Nat} (h : (2 ^ 15 ≤ a ∨ 2 ^ 54 ≤ b ∨ 2 ^ 18 ≤ d)
    ∨ ∀ e < 256, methodMatches (mget {} g.methods e) (a % 256) (a / 256) ⟨d, bitsOf b 0 18, bitsOf b 18 18, bitsOf b 36 18⟩ = false) :
    queryWord g a b d = 0 := by
  rw [queryWord]
  split
  · rfl
  · next hno =>
    have hnone : searchMethods g.methods (a % 256) (a / 256) ⟨d, bitsOf b 0 18, bitsOf b 18 18, bitsOf b 36 18⟩ 0 = none :=
      findUp_none fun e _ he => h.resolve_left (by omega) e (by omega)
    rw [hnone]

theorem queryWord_found {g : Gang} {a b d e : Nat} (hwide : ¬(2 ^ 15 ≤ a ∨ 2 ^ 54 ≤ b ∨ 2 ^ 18 ≤ d)) (he : e < 256)
    (hmatch : methodMatches (mget {} g.methods e) (a % 256) (a / 256) ⟨d, bitsOf b 0 18, bitsOf b 18 18, bitsOf b 36 18⟩ = true)
    (hfirst : ∀ j < e, methodMatches (mget {} g.methods j) (a % 256) (a / 256) ⟨d, bitsOf b 0 18, bitsOf b 18 18, bitsOf b 36 18⟩ = false) :
    queryWord g a b d = w64 (e + 256 + 512 * mtKind (mget {} g.methods e)) := by
  have hfound : searchMethods g.methods (a % 256) (a / 256) ⟨d, bitsOf b 0 18, bitsOf b 18 18, bitsOf b 36 18⟩ 0 = some e :=
    findUp_first (Nat.zero_le e) (by omega) hmatch fun j _ hj => hfirst j hj
  rw [queryWord, if_neg (by omega), hfound]
  dsimp only
  rw [Nat.mul_comm 512]

/-- Settles O36: MTLOAD stores what it reads once all of it passes, MTINV clears its range, and MTQUERY searches from the lowest number on. -/
theorem methodTableInstructions : Obligations.MethodTableInstructions := by
  unfold Obligations.MethodTableInstructions
  intro s f a n first rest illegal
  refine ⟨fun hbq => ⟨completes_of_userOp (exec_mtload f s) ?_, completes_of_userOp (exec_mtinv f s) (if_pos (bq_waits hbq))⟩,
    fun hbq => ⟨fun h => ?_, fun h0 hle ha => ?_, fun us h0 hle ha hus => ⟨fun hbad => ?_, fun hok => completes_of_userOp (exec_mtload f s) ?_⟩,
      completes_of_userOp (exec_mtinv f s) ?_⟩, completes_of_userOp (exec_mtquery f s) ⟨_, writesReg_commit8 _ _ _, ?_⟩⟩
  · rw [loadMethods, if_pos (bq_waits hbq)]
  · exact trapsWith_of_userOp (exec_mtload f s) (loadMethods_range hbq h) rfl
  · exact trapsWith_of_userOp (exec_mtload f s) (loadMethods_misaligned hbq h0 hle ha) rfl
  · refine trapsWith_of_userOp (exec_mtload f s) ((loadMethods_read hbq h0 hle ha hus).trans (if_neg ?_)) rfl
    rw [all_methodOk_iff]
    obtain ⟨k, hk, hbad⟩ := hbad
    exact fun h => Bool.false_ne_true (hbad.symm.trans (h k hk))
  · rw [(loadMethods_read hbq h0 hle ha hus).trans (if_pos ((all_methodOk_iff ..).mpr hok))]
    obtain ⟨hg, hstore⟩ := (countSource_only s f.dir 8 a (4 * n)).kept
    have hlen : (readMethods n us).length = n := by simp [readMethods]
    dsimp only
    have hmethods : ∀ j, mget {} (storeMethods first s.g.methods (readMethods n us).zipIdx) j = _ := mget_storeMethods first 0 (readMethods n us) s.g.methods
    generalize countSource s f.dir 8 a (4 * n) = u at hg hstore ⊢
    rw [hg]
    refine ⟨commit8_rest hstore ⟨rfl, rfl, rfl, rfl, rfl, rfl⟩ rfl, fun k hk => ?_, fun k hk => ?_⟩
    · refine (hmethods (first + k)).trans ?_
      rw [if_pos (by rw [hlen]; omega), show first + k - (first + 0) = k by omega]
      exact getD_readMethods us hk
    · refine (hmethods k).trans (if_neg ?_)
      rw [hlen]
      omega
  · rw [if_neg (bq_idle hbq)]
    refine ⟨commit8_rest (u := s) rfl ⟨rfl, rfl, rfl, rfl, rfl, rfl⟩ rfl, fun k => ?_⟩
    have hmethods : (s.dropMethods a.toNat (a.toNat + n)).commit8.g.methods = mclear s.g.methods a.toNat (a.toNat + n) := rfl
    rw [hmethods, mget_mclear]
    by_cases hk : a.toNat ≤ k ∧ k < a.toNat + n
    · rw [if_pos hk, if_neg (by omega)]
    · rw [if_neg hk, if_pos (by omega)]
  · exact ⟨queryWord_zero, fun e he hwide hmatch hfirst => queryWord_found hwide he hmatch hfirst⟩

/-! ### The block store -/

theorem exec_bload (f : CX) (s : State) : exec (.bload f) s = userOp (.bload f) s (loadBlocks f) := rfl

/-- The gang with the block store that a BLOAD reads (R288, R289). -/
def Gang.withBlocks (g : Gang) (n : Nat) (table : List (List Byte)) (bs : List (Nat × List Byte)) : Gang :=
  { g with
    store := bs.foldl (fun (m : List Host.Cell) (b : Nat × List Byte) => wrBytes m b.1 b.2) (wrBytes [] 0 (table.map entryBytes).flatten)
    storeBad := []
    blktab := w64 n }

section LoadBlocks
variable {f : CX} {s : State} (hbq : s.g.bq = [])
include hbq

theorem loadBlocks_range (h : (s.reg f.b).toNat = 0 ∨ 4096 < (s.reg f.b).toNat) : loadBlocks f s = trapIllegal s (.bload f) 11 := by
  rw [loadBlocks, if_neg (bq_idle hbq), if_pos h]

variable (h0 : (s.reg f.b).toNat ≠ 0) (hle : (s.reg f.b).toNat ≤ 4096)
include h0 hle

theorem loadBlocks_misaligned (ha : (s.reg f.a).toNat % 8 ≠ 0) : loadBlocks f s = trapS s 3 (s.reg f.a) 0 := by
  rw [loadBlocks, if_neg (bq_idle hbq), if_neg (by omega), if_pos ha]

variable (ha : (s.reg f.a).toNat % 8 = 0) {table : List (List Byte)} (htable : sourceUnits s f.dir 8 (s.reg f.a) (s.reg f.b).toNat = .ok table)
include ha htable

theorem loadBlocks_refused (h : ∃ e ∈ table.map offLen, blockOk (s.reg f.b).toNat e.1 e.2 = false) :
    loadBlocks f s = trapIllegal s (.bload f) 11 := by
  rw [loadBlocks, if_neg (bq_idle hbq), if_neg (by omega), if_neg (Classical.not_not.mpr ha), htable]
  dsimp only
  rw [if_pos]
  obtain ⟨e, he, hbad⟩ := h
  rw [Bool.not_eq_true', List.all_eq_false]
  exact ⟨e, he, by rw [hbad]; exact Bool.false_ne_true⟩

theorem loadBlocks_loads (hok : ∀ e ∈ table.map offLen, blockOk (s.reg f.b).toNat e.1 e.2 = true) {bs : List (Nat × List Byte)}
    (hbs : readBlocks s f.dir (s.reg f.a) (table.map offLen) = .ok bs) :
    loadBlocks f s = (let u := countBlocks (countSource s f.dir 8 (s.reg f.a) (s.reg f.b).toNat) f.dir (s.reg f.a) (table.map offLen)
      { u with g := u.g.withBlocks (s.reg f.b).toNat table bs }.commit8) := by
  have hall : (table.map offLen).all (fun e => blockOk (s.reg f.b).toNat e.1 e.2) = true := List.all_eq_true.mpr hok
  rw [loadBlocks, if_neg (bq_idle hbq), if_neg (by omega), if_neg (Classical.not_not.mpr ha), htable]
  dsimp only
  rw [hall, Bool.not_true, if_neg Bool.false_ne_true, hbs]
  rfl

end LoadBlocks

theorem Gang.control_withBlocks (g : Gang) (n : Nat) (table : List (List Byte)) (bs : List (Nat × List Byte)) {m : Nat} (h : m ≠ 0x032) :
    (g.withBlocks n table bs).control m = g.control m := by
  unfold Gang.control
  split
  case h_24 => exact absurd rfl h
  all_goals rfl

/-- Settles O37: BLOAD replaces table and store whole, or traps before it reads a block. -/
theorem blockLoadReplacesTheStore : Obligations.BlockLoadReplacesTheStore := by
  unfold Obligations.BlockLoadReplacesTheStore
  intro s f a n illegal
  refine ⟨fun hbq => completes_of_userOp (exec_bload f s) ?_, fun hbq => ⟨fun h => trapsWith_of_userOp (exec_bload f s) (loadBlocks_range hbq h) rfl,
    fun h0 hle ha => trapsWith_of_userOp (exec_bload f s) (loadBlocks_misaligned hbq h0 hle ha) rfl,
    fun table h0 hle ha htable => ⟨fun hbad => trapsWith_of_userOp (exec_bload f s) (loadBlocks_refused hbq h0 hle ha htable hbad) rfl,
      fun bs hok hbs => completes_of_userOp (exec_bload f s) ?_⟩⟩⟩
  · rw [loadBlocks, if_pos (bq_waits hbq)]
  · rw [loadBlocks_loads hbq h0 hle ha htable hok hbs]
    obtain ⟨hg, hstore⟩ := ((countSource_only s f.dir 8 a n).trans (countBlocks_only _ f.dir a (table.map offLen))).kept
    dsimp only
    generalize countBlocks (countSource s f.dir 8 a n) f.dir a (table.map offLen) = u at hg hstore ⊢
    rw [hg]
    refine ⟨rfl, rfl, rfl, ?_⟩
    obtain ⟨hregs, hcommit, hbytes⟩ := commit8_rest (g := s.g.withBlocks n table bs) hstore ⟨rfl, rfl, rfl, rfl, rfl, rfl⟩ rfl
    exact ⟨hregs, hcommit, hbytes, fun m h32 h41 => (Gang.control_commit _ _ h41).trans (Gang.control_withBlocks _ _ _ _ h32)⟩

end Sys2Proof.Machine
end

section
/-! What the copy engine may change, and the canonical form of the memories under it (R341 to R358). -/
namespace Sys2Proof.Machine

/-- The canonical form of the memories lies in the store. -/
theorem memoriesOk_of_store {s t : State} (h : t.store = s.store) (hs : s.memoriesOk) : t.memoriesOk := by
  simp only [State.store, Prod.mk.injEq] at h
  obtain ⟨hmem, hpeer, -, -, -, hfield⟩ := h
  unfold State.memoriesOk
  rw [hmem, hpeer, hfield]
  exact hs

/-- All that the channels of a gang may change: memory, the field and their tags, what serving an access changes, the writes that await
their acknowledgement, and of the gangs the channels, the walk registers and the event bits (R341 to R358). -/
def onlyCopied (s t : State) : Prop :=
  t = { s with
    mem := t.mem, peerMem := t.peerMem, memBad := t.memBad, parityBad := t.parityBad, replaced := t.replaced, hbmTags := t.hbmTags
    field := t.field, fieldBad := t.fieldBad, ftags := t.ftags, ftagBad := t.ftagBad, hbmStat := t.hbmStat, remapBad := t.remapBad
    mirrorBad := t.mirrorBad, channelPower := t.channelPower, hubs := t.hubs, unacked := t.unacked, hotness := t.hotness, agenda := t.agenda
    others := t.others, g := { s.g with channels := t.g.channels, ev := t.g.ev, walks := t.g.walks } }

/-- A change that the channels make, under which the memories stay canonical. -/
structure Copied (s t : State) : Prop where
  only : onlyCopied s t
  canon : s.memoriesOk → t.memoriesOk

section Copied
variable {s t u : State}

theorem Copied.refl (s : State) : Copied s s := ⟨rfl, id⟩

theorem Copied.trans (h1 : Copied s t) (h2 : Copied t u) : Copied s u := by
  refine ⟨?_, fun h => h2.canon (h1.canon h)⟩
  have hst := h1.only
  have htu := h2.only
  unfold onlyCopied at hst htu ⊢
  rw [hst] at htu
  exact htu

/-- A fold of changes that the channels make. -/
theorem Copied.foldl {α β : Type} {proj : α → State} {f : α → β → α} (h : ∀ acc x, Copied (proj acc) (proj (f acc x))) (l : List β) (a : α) :
    Copied (proj a) (proj (l.foldl f a)) :=
  List.foldlRecOn (motive := fun acc => Copied (proj a) (proj acc)) l f (.refl _) fun acc hacc x _ => hacc.trans (h acc x)

theorem Copied.of_store (honly : onlyCopied s t) (hstore : t.store = s.store) : Copied s t := ⟨honly, memoriesOk_of_store hstore⟩

theorem onlyErrors.copied (h : onlyErrors s t) : Copied s t := by
  refine .of_store ?_ h.store_eq
  unfold onlyErrors at h
  unfold onlyCopied
  rw [h]

theorem onlyServed.copied (h : onlyServed s t) : Copied s t := h.errors.copied

theorem onlyMarked.copied {cs : List Nat} (h : onlyMarked cs s t) (hcanon : s.memoriesOk → t.memoriesOk) : Copied s t := by
  refine ⟨?_, hcanon⟩
  obtain ⟨h, -⟩ := h
  unfold onlyCopied
  rw [h]

end Copied

/-! ### Stores and tags -/

theorem physTouch_copied (s : State) (pa n : Nat) (write : Bool) : Copied s (physTouch s pa n write) := (physTouch_only ..).copied

theorem useG_copied (s : State) (va : Nat) : Copied s (useG s va) := onlyServed.copied (hubUse_only ..)

theorem physStore_canon (s : State) (pa : Nat) (bs : List Byte) (h : s.memoriesOk) : (physStore s pa bs).memoriesOk := setMemBytes_wf s pa bs h

theorem physStore_copied (s : State) (pa : Nat) (bs : List Byte) : Copied s (physStore s pa bs) :=
  (physStore_marked [] s pa bs).copied (physStore_canon s pa bs)

theorem physWrite_copied (s : State) (pa : Nat) (bs : List Byte) : Copied s (physWrite s pa bs) := (physTouch_copied ..).trans (physStore_copied ..)

theorem setMemBytes_copied (s : State) (pa : Nat) (bs : List Byte) : Copied s (setMemBytes s pa bs) :=
  ((setMemBytes_only s pa bs).marked (cs := [])).copied (setMemBytes_wf s pa bs)

theorem setHbmTag_copied (s : State) (f : Nat) (t : Word) : Copied s (setHbmTag s f t) := by
  unfold setHbmTag
  split
  · exact physTouch_copied ..
  · exact physWrite_copied ..

theorem putFrameTag_copied (s : State) (f : Nat) (t : Word) : Copied s (putFrameTag s f t) := by
  unfold putFrameTag
  split
  · exact .of_store rfl rfl
  · exact setHbmTag_copied ..

theorem staleFrames_copied (s : State) (c : Copy) (fs : List Nat) : Copied s (staleFrames s c fs).1 :=
  .foldl (proj := Prod.fst) (fun acc f => putFrameTag_copied acc.1 f _) _ (s, c)

theorem poisonTags_copied (s : State) (fs : List Nat) : Copied s (poisonTags s fs) := by
  refine .foldl (proj := id) (fun acc f => ?_) fs s
  dsimp only [id]
  split
  · exact putFrameTag_copied ..
  · exact .refl acc

theorem staleLeft_copied (s : State) (c : Copy) : Copied s (staleLeft s c) := by
  refine .foldl (proj := id) (fun acc d => ?_) _ s
  dsimp only [id]
  split
  · exact .refl acc
  · split
    · exact (staleFrames_copied ..).trans (poisonTags_copied ..)
    · exact staleFrames_copied ..

theorem remapLookup_copied (s : State) (k : Nat) : Copied s (remapLookup s k) := (remapLookup_only s k).copied

theorem foldl_remapLookup_copied (s : State) (ks : List Nat) : Copied s (ks.foldl remapLookup s) :=
  .foldl (proj := id) (fun acc k => remapLookup_copied acc k) ks s

theorem stripeComplete_copied (s : State) (p : Nat) : Copied s (stripeComplete s p) := .of_store rfl rfl

theorem withPower_copied (s : State) (power : Map Nat) : Copied s { s with channelPower := power } := .of_store rfl rfl

theorem withMarks_copied (s : State) (bad replaced : List Nat) : Copied s { s with memBad := bad, replaced := replaced } := .of_store rfl rfl

/-- Part of a full-stripe write, whatever stacks it wakes and whatever words of it were in error. -/
theorem physStripePart_copied (s : State) (pa : Nat) (bs : List Byte) (words : List Nat) (last : Bool) : Copied s (physStripePart s pa bs words last) := by
  rw [physStripePart]
  generalize (List.range 12).filter (fun k => !stackLost s k) = ks
  dsimp only
  generalize awake s ks (placeOf s.parity pa).pc = power
  have hmapped : Copied s (if sound { s with channelPower := power } then { s with channelPower := power }
      else ks.foldl remapLookup { s with channelPower := power }) := by
    split
    · exact withPower_copied s power
    · exact (withPower_copied s power).trans (foldl_remapLookup_copied ..)
  generalize (if sound { s with channelPower := power } then { s with channelPower := power }
      else ks.foldl remapLookup { s with channelPower := power }) = u at hmapped ⊢
  generalize u.memBad.filter _ = bad
  generalize u.replaced ++ _ = replaced
  have hstored := hmapped.trans ((withMarks_copied u bad replaced).trans (setMemBytes_copied _ pa bs))
  split
  · exact hstored.trans (stripeComplete_copied ..)
  · exact hstored

/-! ### Reads, translations and marks -/

theorem touchPage_copied (c : Copy) (s : State) (va : Nat) : Copied s (c.touchPage s va) := (useG_copied s va).trans (.of_store rfl rfl)

theorem refusedAt_copied (s : State) (addr : Int) (e : CopyStop) : Copied s (refusedAt s addr e) := by
  cases e with
  | hold => exact .refl s
  | fault b a code =>
    rw [refusedAt]
    split
    · exact .refl s
    · exact useG_copied ..

theorem copyReadPage_copied (s : State) (c : Copy) (addr : Int) (len : Nat) : Copied s (copyReadPage s c addr len).1 := by
  rw [copyReadPage]
  split
  · exact refusedAt_copied ..
  · split
    · exact .refl s
    · exact (touchPage_copied ..).trans (physTouch_copied ..)

theorem copyBytes_copied (s : State) (c : Copy) (isF : Bool) (addr : Int) (len : Nat) : Copied s (copyBytes s c isF addr len).1 := by
  rw [copyBytes]
  split
  · exact .refl s
  · refine .foldl (proj := Prod.fst) (fun acc x => ?_) _ (s, Except.ok [])
    obtain ⟨u, e | bs⟩ := acc
    · exact .refl u
    · exact copyReadPage_copied ..

theorem copyRead_copied (s : State) (c : Copy) (isF : Bool) (addr : Int) (len : Nat) : Copied s (copyRead s c isF addr len).1 := by
  have h := copyBytes_copied s c isF addr len
  rw [copyRead]
  split
  · next hread => rwa [hread] at h
  · next hread => rwa [hread] at h

theorem markUe_copied (s : State) (ch : Nat) : Copied s (markUe s ch) := .of_store rfl rfl

theorem touchSourceTag_copied (s : State) (c : Copy) (a : Nat) : Copied s (touchSourceTag s c a) := by
  unfold touchSourceTag
  split
  · exact .refl s
  · split
    · split
      · exact physTouch_copied ..
      · exact .refl s
    · exact .refl s

theorem foldl_putFrameTag_copied (s : State) (fs : List Nat) (t : Word) : Copied s (fs.foldl (fun s f => putFrameTag s f t) s) :=
  .foldl (proj := id) (fun acc f => putFrameTag_copied acc f t) fs s

theorem markIf_copied (s : State) (ch : Nat) (b : Bool) : Copied s (if b then markUe s ch else s) := by
  split
  · exact markUe_copied ..
  · exact .refl s

theorem frameTag_copied (s : State) (ch : Nat) (c : Copy) (d : Nat) : Copied s (frameTag s ch c d).1 := by
  rw [frameTag]
  split
  · exact .refl s
  · have htouched := touchSourceTag_copied s c (c.src + (8192 * d - c.dst))
    dsimp only
    split
    · exact htouched
    · have hmarked := htouched.trans (markIf_copied _ ch ((sourceTag s c (c.src + (8192 * d - c.dst))).getD none).isNone)
      generalize (if ((sourceTag s c (c.src + (8192 * d - c.dst))).getD none).isNone then markUe (touchSourceTag s c (c.src + (8192 * d - c.dst))) ch
        else touchSourceTag s c (c.src + (8192 * d - c.dst))) = u at hmarked ⊢
      split
      · exact hmarked
      · next l _ =>
        have hlost := hmarked.trans (markIf_copied u ch (l.frames.any (frameTagLost u)))
        split
        · exact hmarked
        · exact hlost.trans (foldl_putFrameTag_copied ..)

theorem signalEvents_copied (s : State) : Copied s (signalEvents s) := .of_store rfl rfl

theorem postSignal_copied (s : State) (c : Copy) : Copied s (postSignal s c).1 := by
  rw [postSignal]
  split
  · next b a code _ => exact refusedAt_copied s c.sigAddr (.fault b a code)
  · exact .refl s
  · next pa _ =>
    have hused := useG_copied s c.sigAddr
    dsimp only
    split
    · exact hused
    · have hread := hused.trans (physTouch_copied (useG s c.sigAddr) pa 8 false)
      split
      · next u bs h =>
        have hu : u = physTouch (useG s c.sigAddr) pa 8 false := (congrArg Prod.fst h).symm
        rw [hu]
        exact (hread.trans (physStore_copied ..)).trans (signalEvents_copied _)
      · next u h =>
        have hu : u = physTouch (useG s c.sigAddr) pa 8 false := (congrArg Prod.fst h).symm
        rw [hu]
        exact hread

theorem finishFrame_copied (s : State) (ch : Nat) (c : Copy) (d : Nat) : Copied s (finishFrame s ch c d).1 := by
  have htag := frameTag_copied s ch c d
  rw [finishFrame]
  split
  · exact .refl s
  · split
    · next h => rwa [h] at htag
    · next u c' _ h =>
      rw [h] at htag
      have hposted := Copied.trans htag (postSignal_copied u c')
      dsimp only
      split
      · split
        · next h' => rwa [h'] at hposted
        · next h' => rwa [h'] at hposted
        · next h' => rwa [h'] at hposted
      · exact htag

theorem finishFrames_copied (s : State) (ch : Nat) (c : Copy) (i : Nat) : Copied s (finishFrames s ch c i).1 := by
  rw [finishFrames]
  refine Copied.foldl (proj := Prod.fst) (fun acc d => ?_) (completedBy s c i) (s, c, Except.ok true)
  obtain ⟨u, c', e | all⟩ := acc
  · exact .refl u
  · have h := finishFrame_copied u ch c' d
    dsimp only
    generalize finishFrame u ch c' d = r at h ⊢
    obtain ⟨v, c'', e | one⟩ := r
    · cases e <;> exact h
    · exact h

/-! ### Elements -/

theorem wf_zeroWords {m : List Host.Cell} (h : Memory.wf m = true) (ws : List Nat) :
    Memory.wf (ws.foldl (fun m w => wrBytes m (8 * w) (List.replicate 8 0)) m) = true :=
  List.foldlRecOn (motive := fun m => Memory.wf m = true) ws _ h fun _ hm _ _ => Memory.wf_wrBytes _ _ _ hm

theorem copyWriteHome_copied (s : State) (c : Copy) (i : Nat) (addr : Int) (pa : Nat) (bs : List Byte) (whole : Bool) :
    Copied s (copyWriteHome s c i addr pa bs whole).1 := by
  rw [copyWriteHome]
  split
  · exact physStripePart_copied ..
  · by_cases hlost : storeLost s (if whole = true then pa / 8 * 8 else pa) (if whole = true then 8 else bs.length) = true
    · rw [if_pos hlost]
      exact physTouch_copied ..
    · rw [if_neg hlost]
      exact (physWrite_copied s pa bs).trans (withMarks_copied _ _ (physWrite s pa bs).replaced)

theorem copyWrite_copied (s : State) (ch : Nat) (c : Copy) (i : Nat) (addr : Int) (bs : List Byte) (whole : Bool) (l : Landing) :
    Copied s (copyWrite s ch c i addr bs whole l).1 := by
  cases l with
  | field ks =>
    rw [copyWrite]
    dsimp only
    split
    · exact .refl s
    · exact ⟨rfl, fun h => ⟨h.1, h.2.1, Memory.wf_foldl _ _ _ _ (wf_zeroWords h.2.2 _)⟩⟩
  | phys pa =>
    rw [copyWrite]
    split
    · exact (touchPage_copied c s addr.toNat).trans (copyWriteHome_copied ..)
    · exact (touchPage_copied c s addr.toNat).trans (.of_store rfl rfl)

theorem deliverElement_copied (s : State) (ch : Nat) (c : Copy) (i : Nat) (e : CopyElem) (bs : List Byte) (bad whole : Bool) :
    Copied s (deliverElement s ch c i e bs bad whole).1 := by
  rw [deliverElement]
  split
  · next err _ => exact refusedAt_copied s e.dst err
  · next l _ =>
    have hwrite := copyWrite_copied s ch c i e.dst bs whole l
    dsimp only
    generalize (if carriesTag s c (e.dst.toNat / 8192) = true then [] else l.frames) = fs
    generalize (fs.filter fun f => !c.staled.contains f).any (fun f => (frameTagNow s f).isNone) = lost
    split
    · exact .refl s
    · split
      · exact .refl s
      · split
        · next h => rwa [h] at hwrite
        · next u c' part h =>
          rw [h] at hwrite
          have hstaled := Copied.trans hwrite (staleFrames_copied u { c' with touched := (c'.touched ++ [e.dst.toNat / 8192]).eraseDups } fs)
          generalize staleFrames u { c' with touched := (c'.touched ++ [e.dst.toNat / 8192]).eraseDups } fs = r at hstaled ⊢
          obtain ⟨v, c''⟩ := r
          have hmarked := hstaled.trans (markIf_copied v ch (bad || part || lost))
          dsimp only at hmarked ⊢
          generalize (if (bad || part || lost) = true then markUe v ch else v) = w at hmarked ⊢
          split
          · refine Copied.trans ?_ (finishFrames_copied ..)
            split
            · exact hmarked
            · exact hmarked.trans (poisonTags_copied ..)
          · exact hmarked.trans (finishFrames_copied ..)

theorem copyElement_copied (s : State) (ch : Nat) (c : Copy) (i : Nat) (whole : Bool) : Copied s (copyElement s ch c i whole).1 := by
  rw [copyElement]
  split
  · exact finishFrames_copied ..
  · split
    · exact .refl s
    · next x badX _ =>
      have hread := copyRead_copied s c c.srcF (c.elem i x).src (c.elem i x).len
      dsimp only
      split
      · exact .refl s
      · split
        · next h => rwa [h] at hread
        · next h =>
          rw [h] at hread
          exact Copied.trans hread (deliverElement_copied ..)

theorem landAll_copied (ch : Nat) (whole : Nat → Bool) (ks : List Nat) (s : State) (c : Copy) : Copied s (landAll ch whole ks s c).1 := by
  induction ks generalizing s c with
  | nil => exact .refl s
  | cons k ks ih =>
    have h := copyElement_copied s ch c k (whole k)
    rw [landAll]
    split
    · next hx =>
      rw [hx] at h
      exact Copied.trans h (ih ..)
    · next hx => rwa [hx] at h

/-! ### Channels -/

theorem setChannel_copied (s : State) (ch : Nat) (x : Channel) : Copied s (setChannel s ch x) := .of_store rfl rfl

theorem withEvent_copied (s : State) : Copied s { s with g := { s.g with ev := true } } := .of_store rfl rfl

theorem putCopy_copied (s : State) (ch : Nat) (c : Copy) : Copied s (putCopy s ch c) := by
  rw [putCopy]
  dsimp only
  generalize (if c.outstanding = [] then _ else _ : List Copy) = q
  have hchannel := setChannel_copied s ch { s.g.channel ch with queue := q }
  split
  · exact hchannel.trans (withEvent_copied _)
  · exact hchannel

theorem stopChannel_copied (s : State) (ch : Nat) (c : Copy) (e bit : Nat) (addr : Int) (code : Nat) : Copied s (stopChannel s ch c e bit addr code) :=
  (brokenStripe_errors s c e).copied.trans (setChannel_copied ..)

theorem landOnly_copied {s t : State} {ch : Nat} {c : Copy} {i : Nat} {group : List Nat} (h : landOnly s ch c i group = some t) : Copied s t := by
  have hall := landAll_copied ch (unitWhole s c group) group s c
  rw [landOnly] at h
  split at h
  · next hx =>
    rw [hx] at hall
    rw [← Option.some.inj h]
    exact Copied.trans hall (putCopy_copied ..)
  · exact nomatch h
  · next hx =>
    rw [hx] at hall
    dsimp only at h
    split at h
    · split at h
      · rw [← Option.some.inj h]
        exact Copied.trans hall (stopChannel_copied ..)
      · exact nomatch h
    · split at h
      · rw [← Option.some.inj h]
        exact (landAll_copied ..).trans (putCopy_copied ..)
      · exact nomatch h

theorem landGroup_copied {s t : State} {ch : Nat} {c : Copy} {i : Nat} (h : landGroup s ch c i = some t) : Copied s t := by
  rw [landGroup] at h
  split at h
  · exact nomatch h
  · dsimp only at h
    split at h
    · exact landOnly_copied h
    · next group _ _ =>
      have hall := landAll_copied ch (unitWhole s c ((List.range c.elements).filter fun k => (group.flatMap (landedMates s c)).eraseDups.contains k || group.contains k))
        ((List.range c.elements).filter fun k => (group.flatMap (landedMates s c)).eraseDups.contains k || group.contains k) s c
      split at h
      · next hx =>
        rw [hx] at hall
        rw [← Option.some.inj h]
        exact Copied.trans hall (putCopy_copied ..)
      · exact nomatch h
      · exact landOnly_copied h

theorem landElements_copied (ch num : Nat) (is : List Nat) (s : State) : Copied s (landElements ch num is s) := by
  induction is generalizing s with
  | nil => exact .refl s
  | cons i is ih =>
    rw [landElements]
    split
    · exact .refl s
    · split
      · exact .refl s
      · split
        · exact ih s
        · split
          · next h => exact (landGroup_copied h).trans (ih _)
          · exact .refl s

theorem startCopy_copied (s : State) (ch num : Nat) : Copied s (startCopy s ch num) := setChannel_copied ..

theorem runChannel_copied (s : State) (ch : Nat) : Copied s (runChannel s ch) := by
  refine .foldl (proj := id) (fun acc num => ?_) _ s
  dsimp only [id]
  split
  · exact .refl acc
  · split
    · exact .refl acc
    · exact (startCopy_copied ..).trans (landElements_copied ..)

/-- What the channels of the selected gang change (R341 to R358). -/
theorem runChannels_copied (s : State) : Copied s (runChannels s) := .foldl (proj := id) runChannel_copied _ s

theorem waitCopies_copied (s : State) : Copied s (waitCopies s) := by
  unfold waitCopies
  split
  · exact runChannels_copied s
  · exact .refl s

theorem discardCopy_copied (s : State) (c : Copy) : Copied s (discardCopy s c) := (brokenStripe_errors s c c.position).copied.trans (staleLeft_copied ..)

theorem discardCopies_copied (s : State) : Copied s (discardCopies s) :=
  List.foldlRecOn (motive := Copied s) s.g.channels _ (.refl s) fun acc hacc p _ =>
    hacc.trans (Copied.foldl (proj := id) discardCopy_copied p.2.queue acc)

theorem cancelChannel_copied (s : State) (ch : Nat) : Copied s (cancelChannel s ch) := by
  rw [cancelChannel]
  dsimp only
  split
  · exact (Copied.foldl (proj := id) discardCopy_copied (s.g.channel ch).queue s).trans (.of_store rfl rfl)
  · exact .refl s

end Sys2Proof.Machine
end

section
/-! Copies queue on their channel, and DRAIN waits for it (R341, R345 to R349, R353, R354). -/
namespace Sys2Proof.Machine

/-- What every copy captures at its commit (R345). -/
def captures (s : State) (f : CX) (c : Copy) : Prop :=
  c.dst = (s.reg f.d).toNat ∧ c.src = (s.reg f.a).toNat ∧ c.dir = f.dir.toNat ∧ c.sig = (f.sig == 1) ∧ c.position = 0 ∧ c.started = false

theorem bind_ok {ε α β : Type} {x : Except ε α} {f : α → Except ε β} {r : β} (h : x >>= f = .ok r) : ∃ a, x = .ok a ∧ f a = .ok r := by
  cases x with
  | error e => exact nomatch h
  | ok a => exact ⟨a, rfl, h⟩

/-- A check that a capture has passed. -/
theorem check_ok {ε β : Type} {p : Prop} [Decidable p] {e : ε} {f : Unit → Except ε β} {r : β}
    (h : (if p then Except.error e >>= f else Except.ok () >>= f) = .ok r) : f () = .ok r := by
  by_cases hp : p
  · rw [if_pos hp] at h
    exact nomatch h
  · rw [if_neg hp] at h
    exact h

theorem captureCopy_captures {s : State} {f : CX} {c : Copy} (h : captureCopy s f = .ok c) : captures s f c := by
  rw [captureCopy] at h
  obtain ⟨-, -, h⟩ := bind_ok (check_ok h)
  rw [← Except.ok.inj h]
  exact ⟨rfl, rfl, rfl, rfl, rfl, rfl⟩

theorem captureIndexed_captures {s : State} {i : Instr} {f : CX} {kind : Nat} {c : Copy} (h : captureIndexed s i f kind = .ok c) : captures s f c := by
  rw [captureIndexed] at h
  obtain ⟨-, -, h⟩ := bind_ok (check_ok h)
  obtain ⟨-, -, h⟩ := bind_ok h
  obtain ⟨-, -, h⟩ := bind_ok h
  obtain ⟨-, -, h⟩ := bind_ok h
  rw [← Except.ok.inj h]
  exact ⟨rfl, rfl, rfl, rfl, rfl, rfl⟩

theorem captureCopynd_captures {s : State} {f : CX} {c : Copy} (h : captureCopynd s f = .ok c) : captures s f c := by
  rw [captureCopynd] at h
  obtain ⟨head, -, h⟩ := bind_ok (check_ok h)
  obtain ⟨body, -, h⟩ := bind_ok (check_ok h)
  obtain ⟨-, -, h⟩ := bind_ok (check_ok h)
  obtain ⟨-, -, h⟩ := bind_ok h
  obtain ⟨-, -, h⟩ := bind_ok h
  rw [← Except.ok.inj h]
  exact ⟨rfl, rfl, rfl, rfl, rfl, rfl⟩

/-- The four copies: their instruction, what it captures, and what it does (R345). -/
theorem exec_copies (s : State) (f : CX) :
    ∀ p ∈ [(Instr.copy f, captureCopy s f), (Instr.copynd f, captureCopynd s f), (Instr.gather f, captureIndexed s (.gather f) f 2),
        (Instr.scatter f, captureIndexed s (.scatter f) f 3)],
      (∃ cap : State → Except CommitStop Copy, cap s = p.2 ∧ exec p.1 s = userOp p.1 s (commitCopy p.1 f cap)) ∧ ∀ c, p.2 = .ok c → captures s f c := by
  intro p hp
  simp only [List.mem_cons, List.not_mem_nil, or_false] at hp
  obtain rfl | rfl | rfl | rfl := hp
  · exact ⟨⟨fun s => captureCopy s f, rfl, rfl⟩, fun c => captureCopy_captures⟩
  · exact ⟨⟨fun s => captureCopynd s f, rfl, rfl⟩, fun c => captureCopynd_captures⟩
  · exact ⟨⟨fun s => captureIndexed s (.gather f) f 2, rfl, rfl⟩, fun c => captureIndexed_captures⟩
  · exact ⟨⟨fun s => captureIndexed s (.scatter f) f 3, rfl, rfl⟩, fun c => captureIndexed_captures⟩

section CommitCopy
variable {i : Instr} {f : CX} {cap : State → Except CommitStop Copy} {s : State} (hrun : waitCopies s = s)
include hrun

theorem commitCopy_trap {code : Nat} {v v2 : Word} (h : cap s = .error (.trap code v v2)) : commitCopy i f cap s = trapS s code v v2 := by
  simp only [commitCopy, hrun, h]

theorem commitCopy_hold (h : cap s = .error .hold) : commitCopy i f cap s = stall s := by
  simp only [commitCopy, hrun, h]

theorem commitCopy_ok {c : Copy} (h : cap s = .ok c) :
    commitCopy i f cap s = if tooManyRuns s c then trapIllegal s i 13
      else if decide (16 ≤ (s.g.channel f.ch.toNat).queue.length) || scoreboardFull s c then stall s
      else (queueCopy s f.ch.toNat c).commit8 := by
  simp only [commitCopy, hrun, h]

end CommitCopy

theorem queueCopy_copied (s : State) (ch : Nat) (c : Copy) : Copied s (queueCopy s ch c) := by
  rw [queueCopy]
  dsimp only
  by_cases h : c.outstanding = []
  · rw [if_pos h]
    exact .refl s
  · rw [if_neg h]
    have hchannel := setChannel_copied s ch { s.g.channel ch with queue := (s.g.channel ch).queue ++ [c] }
    split
    · exact hchannel.trans (runChannels_copied _)
    · exact hchannel

/-- A copy that does not run at once, or has nothing to do, only joins its channel (R341). -/
theorem queueCopy_stepwise {s : State} {ch : Nat} {c : Copy} (h : s.lockstep = false ∨ c.outstanding = []) :
    let t := queueCopy s ch c
    t.store = s.store ∧ (∀ j, j ≠ ch → t.g.channel j = s.g.channel j)
      ∧ t.g.channel ch = { s.g.channel ch with queue := (s.g.channel ch).queue ++ (if c.outstanding = [] then [] else [c]) } := by
  rw [queueCopy]
  dsimp only
  by_cases hc : c.outstanding = []
  · rw [if_pos hc, if_pos hc, List.append_nil]
    exact ⟨rfl, fun _ _ => rfl, rfl⟩
  · have hlock : (setChannel s ch { s.g.channel ch with queue := (s.g.channel ch).queue ++ [c] }).lockstep = false := h.resolve_right hc
    rw [if_neg hc, if_neg hc, hlock, if_neg Bool.false_ne_true]
    exact ⟨rfl, fun j hj => (setChannel_channel ..).trans (if_neg hj), (setChannel_channel ..).trans (if_pos rfl)⟩

/-- What the commit of a copy says of its gang, however far the copy runs. -/
theorem Copied.commits {s u : State} (h : Copied s u) : sameRegsBut [] s u.commit8 ∧ sameLocal s u.commit8 ∧ committed (s.g.pc + 8) s u.commit8 := by
  have hg : u.g = { s.g with channels := u.g.channels, ev := u.g.ev, walks := u.g.walks } := by
    have honly := h.only
    unfold onlyCopied at honly
    rw [honly]
  obtain ⟨hregs, hcommit⟩ := sameProgress.commits (s := s) (u := u) (by unfold sameProgress; rw [hg]; exact ⟨rfl, rfl, rfl, rfl, rfl, rfl⟩)
  have hlmem : u.commit8.g.lmem = u.g.lmem := rfl
  exact ⟨hregs, fun a => by rw [hlmem, hg], hcommit⟩

theorem exec_drain (f : CX) (s : State) :
    exec (.drain f) s = userOp (.drain f) s (drainThen [f.ch.toNat] (channelsDrained · [f.ch.toNat]) fun s => s.commit8) := rfl

theorem onlyCommits_commit8 (s : State) : onlyCommits (s.g.pc + 8) s s.commit8 := onlyCommits_commitAt s (s.g.pc + 8)

theorem channelsDrained_done {s : State} (h : copiesDone s) (chs : List Nat) : channelsDrained s chs = true := by
  have hqueues : ∀ ch, (s.g.channel ch).queue = [] := mget_induction (P := fun x : Channel => x.queue = []) rfl fun p hp => (h.1 p hp).1
  simp [channelsDrained, hqueues, copiesUnseen_done h]

/-- Settles O38: a copy is queued as captured, refused at its commit, or waits; DRAIN waits for its channel. -/
theorem copiesQueueOnTheirChannel : Obligations.CopiesQueueOnTheirChannel := by
  unfold Obligations.CopiesQueueOnTheirChannel
  intro s f
  refine ⟨fun hready p hp => ?_, fun hdone => completes_of_userOp (exec_drain f s) ?_,
    fun hlock hpl hqueue => completes_of_userOp (exec_drain f s) ?_⟩
  · have hrun : waitCopies s = s := hready.elim (fun h => waitCopies_idle fun p hp => (h.1 p hp).1) waitCopies_stepwise
    obtain ⟨⟨cap, hcap, hexec⟩, hcaptures⟩ := exec_copies s f p hp
    rw [← hcap] at hcaptures ⊢
    refine ⟨fun code v v2 htrap hfirst => trapsWith_of_userOp hexec (commitCopy_trap hrun htrap) hfirst,
      fun hhold => completes_of_userOp hexec (commitCopy_hold hrun hhold), fun c hc => ?_⟩
    obtain ⟨hdst, hsrc, hdir, hsig, hposition, hstarted⟩ := hcaptures c hc
    have hcommit := commitCopy_ok (i := p.1) (f := f) hrun hc
    refine ⟨hdst, hsrc, hdir, hsig, hposition, hstarted, fun hmany => trapsWith_of_userOp hexec (hcommit.trans (if_pos hmany)) rfl,
      fun hfew hfull => completes_of_userOp hexec (hcommit.trans ?_), fun hfew hroom hboard => completes_of_userOp hexec ?_⟩
    · rw [hfew, if_neg Bool.false_ne_true, if_pos]
      simpa using hfull
    · have hqueued := queueCopy_copied s f.ch.toNat c
      obtain ⟨hregs, hlocal, hdone⟩ := hqueued.commits
      rw [hcommit, hfew, if_neg Bool.false_ne_true, hboard, Bool.or_false, if_neg (by simpa using hroom)]
      refine ⟨hregs, hlocal, hdone, fun hstep => ?_⟩
      obtain ⟨hstore, hothers, hchannel⟩ := queueCopy_stepwise (ch := f.ch.toNat) hstep
      have hkept : ((queueCopy s f.ch.toNat c).commit8).store = s.store := hstore
      exact ⟨⟨sameMem_of_store hkept, sameField_of_store hkept, hlocal⟩, hothers, hchannel⟩
  · rw [drainThen_done (waitCopies_idle fun p hp => (hdone.1 p hp).1) (fun _ p hp => (hdone.1 p hp).2) (channelsDrained_done hdone _)]
    exact onlyCommits_commit8 s
  · refine drainThen_waits (waitCopies_stepwise hlock) (fun h => absurd (hpl.symm.trans h) Bool.false_ne_true) ?_
    simp [channelsDrained, hqueue]

end Sys2Proof.Machine
end

section
/-! QSAVE and QLOAD (R227). -/
namespace Sys2Proof.Machine

/-! ### Words stored one after another -/

theorem physWrite_marked (cs : List Nat) (s : State) (pa : Nat) (bs : List Byte) : onlyMarked cs s (physWrite s pa bs) :=
  (physTouch_marked ..).trans (physStore_marked ..)

theorem physWrite_inside {s : State} {pa j : Nat} {bs : List Byte} (hpa : region pa = 0) (hj : j < bs.length) (hlen : bs.length ≤ 2 ^ 42) :
    memByte (physWrite s pa bs) (pa + j) = bs.getD j 0 := by
  rw [← List.getElem_eq_getD (h := hj)]
  exact physStore_inside hpa hj hlen

/-- In local HBM a write changes the bytes at its addresses alone. -/
theorem physWrite_local {s : State} {pa x : Nat} {bs : List Byte} (hpa : ∀ j < bs.length, region (pa + j) = 0) (hx : x < pa ∨ pa + bs.length ≤ x) :
    memByte (physWrite s pa bs) x = memByte s x := by
  refine (physStore_outside fun j hj => ?_).trans (memByte_of_store (physTouch_store ..) x)
  rw [← Bool.not_eq_true, sameCell_local (by rw [hpa j hj]; decide)]
  omega

/-- A run of words that lies in local HBM (R227). -/
theorem storeWords_effect (va pa : Nat) (ws : List Word) (k : Nat) (s : State) (hpa : ∀ j, 8 * k ≤ j → j < 8 * (k + ws.length) → region (pa + j) = 0) :
    let t := (ws.zipIdx k).foldl (fun s p => sendWrite s 0 (va + 8 * p.2) (pa + 8 * p.2) (leBytes 8 p.1.toNat)) s
    onlyMarked [] s t ∧ (∀ x, x < pa + 8 * k ∨ pa + 8 * (k + ws.length) ≤ x → memByte t x = memByte s x)
      ∧ ∀ j < ws.length, ∀ i < 8, memByte t (pa + 8 * (k + j) + i) = (leBytes 8 (ws.getD j 0).toNat).getD i 0 := by
  induction ws generalizing k s with
  | nil => exact ⟨.refl [] s, fun _ _ => rfl, fun j hj => absurd hj (Nat.not_lt_zero j)⟩
  | cons w ws ih =>
    rw [List.length_cons] at hpa
    have hlen : (leBytes 8 w.toNat).length = 8 := length_leBytes ..
    have hhere : ∀ j < (leBytes 8 w.toNat).length, region (pa + 8 * k + j) = 0 := fun j hj => by
      rw [Nat.add_assoc]
      exact hpa (8 * k + j) (by omega) (by omega)
    have hfirst : sendWrite s 0 (va + 8 * k) (pa + 8 * k) (leBytes 8 w.toNat) = physWrite s (pa + 8 * k) (leBytes 8 w.toNat) := if_pos (hhere 0 (by omega))
    obtain ⟨honly, houtside, hinside⟩ := ih (k + 1) (physWrite s (pa + 8 * k) (leBytes 8 w.toNat)) fun j hlo hhi => hpa j (by omega) (by omega)
    dsimp only at *
    rw [List.zipIdx_cons, List.foldl_cons, hfirst]
    refine ⟨(physWrite_marked ..).trans honly, fun x hx => ?_, fun j hj i hi => ?_⟩
    · rw [List.length_cons] at hx
      exact (houtside x (by omega)).trans (physWrite_local hhere (by omega))
    · cases j with
      | zero =>
        rw [houtside _ (by omega), Nat.add_zero]
        exact physWrite_inside (hhere 0 (by omega)) (by omega) (by omega)
      | succ j =>
        rw [show pa + 8 * (k + (j + 1)) + i = pa + 8 * (k + 1 + j) + i by omega]
        exact hinside j (by simpa using hj) i hi

/-- A number of local HBM that was stored byte by byte. -/
theorem memNat_of_leBytes {t : State} {pa n : Nat} (hn : n < 2 ^ 64) (h : ∀ i < 8, memByte t (pa + i) = (leBytes 8 n).getD i 0) : memNat t pa 8 = n := by
  have hlen : (leBytes 8 n).length = 8 := length_leBytes ..
  have hbytes : memBytes t pa 8 = leBytes 8 n := by
    refine List.ext_getElem (by rw [length_memBytes, hlen]) fun i hi hi' => ?_
    rw [length_memBytes] at hi
    rw [List.getElem_eq_getD (h := hi') 0, ← h i hi]
    simp [memBytes_eq]
  rw [memNat, hbytes, leNat_leBytes _ _ hn]

/-! ### The record of a queue frame -/

/-- An instruction of 32 bits that writes no register commits. -/
theorem sameProgress.commits4 {s u : State} (h : sameProgress s u) : sameRegsBut [] s u.commit4 ∧ committed (s.g.pc + 4) s u.commit4 := by
  obtain ⟨-, -, hcommit⟩ := h.answers 0 0
  have hsame : (u.setReg 0 0).commit4 = u.commit4 := rfl
  rw [hsame] at hcommit
  exact ⟨fun r _ => by rw [Gang.reg, Gang.reg, ← h.1]; rfl, hcommit⟩

/-- The record that QSAVE makes of the queue frame (R227; assumption log 11). -/
def State.frameRecord (s : State) : SavedFrame := ⟨(freeWords s 512).1, s.g.frame, s.g.resume, s.g.cohN, s.g.cohIx, s.g.clusters.length⟩

/-- The record in memory, and known to have been saved (R227). -/
def State.saveFrame (s : State) (ea : Word) (pa : Nat) : State :=
  { storeRecord (globalTouch { s with fresh := s.fresh + 512 } ea.toNat) ea.toNat pa (freeWords s 512).1 with
    savedFrames := s.savedFrames ++ [s.frameRecord] }

section QueueFrame
variable {s : State} {a : Reg} {pa : Nat} {P : State → Prop}

theorem completes_qsave (hbq : s.g.bq = []) (hpa : globalPa s (s.reg a) 4096 .write 1 = .ok pa) (hlost : storeLost s pa 4096 = false)
    (hP : P (s.saveFrame (s.reg a) pa).commit4) : completes (.qsave a) s P := fun hi => by
  have hexec : exec (.qsave a) s = .next (s.saveFrame (s.reg a) pa).commit4 := by
    have hqsave : exec (.qsave a) s = execQsave a s := rfl
    rw [hqsave, execQsave, userOp_of_issues hi, if_neg (Classical.not_not.mpr hbq)]
    simp only [recordPa, hpa, hlost, Bool.false_eq_true, if_false]
    rfl
  exact ⟨_, hexec, hP⟩

section Qload
variable {bs : List Byte} (hpa : globalPa s (s.reg a) 4096 .read 0 = .ok pa) (hwait : pendingWrite s pa 4096 = false)
  (htarget : targetRefuses s pa = false) (hread : (physRead (globalTouch s (s.reg a).toNat) pa 4096).2 = some bs)
include hpa hwait htarget hread

theorem completes_qload {x : SavedFrame} (hx : acceptedFrame s (wordsOf 512 bs) = some x)
    (hP : let u := (physRead (globalTouch s (s.reg a).toNat) pa 4096).1
      P { u with g := { u.g with frame := x.entries, fv := true } }.commit4) : completes (.qload a) s P := fun hi => by
  have hqload : exec (.qload a) s = execQload a s := rfl
  have hpair : physRead (globalTouch s (s.reg a).toNat) pa 4096 = ((physRead (globalTouch s (s.reg a).toNat) pa 4096).1, some bs) := Prod.ext rfl hread
  refine ⟨_, ?_, hP⟩
  rw [hqload, execQload, userOp_of_issues hi]
  simp only [recordPa, hpa, hwait, htarget, Bool.false_eq_true, if_false]
  rw [hpair]
  simp only [hx]

theorem completes_qload_refused (hx : acceptedFrame s (wordsOf 512 bs) = none) (hP : P (trapIllegal s (.qload a) 5)) :
    completes (.qload a) s P := fun hi => by
  have hqload : exec (.qload a) s = execQload a s := rfl
  have hpair : physRead (globalTouch s (s.reg a).toNat) pa 4096 = ((physRead (globalTouch s (s.reg a).toNat) pa 4096).1, some bs) := Prod.ext rfl hread
  refine ⟨_, ?_, hP⟩
  rw [hqload, execQload, userOp_of_issues hi]
  simp only [recordPa, hpa, hwait, htarget, Bool.false_eq_true, if_false]
  rw [hpair]
  simp only [hx]

end Qload
end QueueFrame

/-- Addresses between two of local HBM that lie a page apart are in local HBM. -/
theorem region_between {pa n j : Nat} (hn : n < 2 ^ 50) (hlo : region pa = 0) (hhi : region (pa + n) = 0) (hj : j ≤ n) : region (pa + j) = 0 := by
  simp only [region] at *
  omega

theorem acceptedFrame_spec {s : State} {ws : List Word} {x : SavedFrame} (h : acceptedFrame s ws = some x) :
    x ∈ s.savedFrames ∧ x.image = ws ∧ x.cohN = s.g.cohN ∧ x.cohIx = s.g.cohIx ∧ x.ncl = s.g.clusters.length ∧ x.resume = s.g.resume := by
  have hhit := List.find?_some h
  simp only [Bool.and_eq_true, beq_iff_eq] at hhit
  obtain ⟨⟨⟨⟨himage, hcohN⟩, hcohIx⟩, hncl⟩, hresume⟩ := hhit
  exact ⟨List.mem_of_find?_eq_some h, himage, hcohN, hcohIx, hncl, hresume⟩

/-- An address that names none of n bytes lies outside them. -/
theorem outside_of_cells {s : State} {pa n x : Nat} (h : ∀ j < n, sameCell s x (pa + j) = false) : x < pa ∨ pa + n ≤ x := by
  refine Classical.byContradiction fun hin => ?_
  have hcell := h (x - pa) (by omega)
  rw [show pa + (x - pa) = x by omega] at hcell
  simp [sameCell] at hcell

/-- Settles O30: QSAVE stores the record word by word and knows it again, and QLOAD takes back the frame of the record that it finds. -/
theorem queueFramesAreSavedAndLoaded : Obligations.QueueFramesAreSavedAndLoaded := by
  unfold Obligations.QueueFramesAreSavedAndLoaded
  intro s a pa
  refine ⟨fun hbq hpa hlo hhi hlost => completes_qsave hbq hpa hlost ⟨s.frameRecord, rfl, rfl, rfl, rfl, rfl, rfl, ?_, ?_⟩,
    fun bs hpa hwait htarget hread => ⟨fun hh => ?_, fun x hx => ?_, fun hnone => completes_qload_refused hpa hwait htarget hread hnone rfl⟩⟩
  · simp [State.frameRecord, freeWords]
  · have hlen : (freeWords s 512).1.length = 512 := by simp [freeWords]
    have htouch := globalTouch_only { s with fresh := s.fresh + 512 } (s.reg a).toNat
    obtain ⟨u, hu⟩ : ∃ u, u = globalTouch { s with fresh := s.fresh + 512 } (s.reg a).toNat := ⟨_, rfl⟩
    rw [← hu] at htouch
    obtain ⟨honly, houtside, hinside⟩ := storeWords_effect (s.reg a).toNat pa (freeWords s 512).1 0 u fun j _ hj =>
      region_between (by decide) hlo hhi (by omega)
    have hug := htouch.g_eq
    have hubyte : ∀ x, memByte u x = memByte s x := sameMem_of_store htouch.store_eq
    have hufield : u.field = s.field := by unfold onlyTouched at htouch; rw [htouch]
    have hsave : s.saveFrame (s.reg a) pa = { (freeWords s 512).1.zipIdx.foldl
        (fun s' p => sendWrite s' 0 ((s.reg a).toNat + 8 * p.2) (pa + 8 * p.2) (leBytes 8 p.1.toNat)) u with savedFrames := s.savedFrames ++ [s.frameRecord] } := by
      rw [State.saveFrame, ← hu]
      rfl
    rw [hsave]
    generalize (freeWords s 512).1.zipIdx.foldl
        (fun s' p => sendWrite s' 0 ((s.reg a).toNat + 8 * p.2) (pa + 8 * p.2) (leBytes 8 p.1.toNat)) u = t at honly houtside hinside ⊢
    have hg : t.g = { s.g with walks := u.g.walks } := honly.g_eq.trans hug
    have hlmem : t.g.lmem = s.g.lmem := by rw [hg]
    have hframe : t.g.frame = s.g.frame := by rw [hg]
    have hfv : t.g.fv = s.g.fv := by rw [hg]
    have hbytes : ∀ x, memByte ({ t with savedFrames := s.savedFrames ++ [s.frameRecord] }.commit4) x = memByte t x := fun _ => rfl
    obtain ⟨hregs, hcommit⟩ := sameProgress.commits4 (s := s) (u := { t with savedFrames := s.savedFrames ++ [s.frameRecord] })
      (by unfold sameProgress; dsimp only; rw [hg]; exact ⟨rfl, rfl, rfl, rfl, rfl, rfl⟩)
    refine ⟨fun j hj => memNat_of_leBytes (BitVec.isLt _) fun i hi => ?_, fun x hx => ?_, hregs, hcommit, fun x => ?_, fun x => ?_, ?_, ?_⟩
    · have himage : s.frameRecord.image = (freeWords s 512).1 := by rw [State.frameRecord]
      rw [hbytes, himage]
      have := hinside j (by rw [hlen]; exact hj) i hi
      rwa [Nat.zero_add] at this
    · have hout := outside_of_cells hx
      have hout' : x < pa + 8 * 0 ∨ pa + 8 * (0 + (freeWords s 512).1.length) ≤ x := by
        rw [hlen]
        omega
      exact (hbytes x).trans ((houtside x hout').trans (hubyte x))
    · exact congrArg (rdByte · x) (honly.field_eq.trans hufield)
    · exact congrArg (rdByte · x) hlmem
    · exact hframe
    · exact hfv
  · rw [physRead_snd_sound (globalTouch_sound hh.1 _), memBytes_of_store (globalTouch_store ..)] at hread
    exact (Option.some.inj hread).symm
  · obtain ⟨hmem, himage, hcohN, hcohIx, hncl, hresume⟩ := acceptedFrame_spec hx
    refine ⟨hmem, himage, hcohN, hcohIx, hncl, hresume, completes_qload hpa hwait htarget hread hx ?_⟩
    have htouch : onlyTouched s (physRead (globalTouch s (s.reg a).toNat) pa 4096).1 := (globalTouch_only s _).trans (physTouch_only ..).touched
    generalize (physRead (globalTouch s (s.reg a).toNat) pa 4096).1 = u at htouch ⊢
    have hg := htouch.g_eq
    have hresume' : u.g.resume = s.g.resume := by rw [hg]
    have hlmem : u.g.lmem = s.g.lmem := by rw [hg]
    have hstore := htouch.store_eq
    obtain ⟨hregs, hcommit⟩ := sameProgress.commits4 (s := s) (u := { u with g := { u.g with frame := x.entries, fv := true } })
      (by unfold sameProgress; dsimp only; rw [hg]; exact ⟨rfl, rfl, rfl, rfl, rfl, rfl⟩)
    have hkept : ({ u with g := { u.g with frame := x.entries, fv := true } }.commit4).store = s.store := hstore
    refine ⟨rfl, rfl, hresume', hregs, hcommit, sameMem_of_store hkept, sameField_of_store hkept, fun b => ?_⟩
    exact congrArg (rdByte · b) hlmem

end Sys2Proof.Machine
end

section
/-! HALT (R30, R47, R217). -/
namespace Sys2Proof.Machine

/-- The gang as HALT leaves it, before its span is released (R47). -/
def State.retired (s : State) : State :=
  { s with g := { s.g with
    phase := .retired, rq := [], rqAside := 0, ports := [], frame := [], resume := [], fv := false, held := none, fpDue := none
    stgNak := none, revoked := none, retired := s.g.retired + 1 } }

/-- HALT in a gang of which nothing is outstanding (R47). -/
def State.halts (s : State) : State :=
  rotate (postSignalOf s.g.launch (postTarget s) s.g.gangId s.g.pc s.g.lead (releaseSpan s.retired))

/-! ### Nothing is outstanding -/

section Idle
variable {s : State}

theorem channel_done (h : copiesDone s) (ch : Nat) : (s.g.channel ch).queue = [] ∧ (s.g.channel ch).stopped = false :=
  mget_induction (P := fun x : Channel => x.queue = [] ∧ x.stopped = false) ⟨rfl, rfl⟩ h.1 ch

theorem cancelStopped_idle (h : copiesDone s) : cancelStopped s = s :=
  List.foldlRecOn (motive := fun t => t = s) (List.range 8) cancelChannel rfl fun t ht ch _ => by
    rw [ht]
    exact cancelChannel_running (channel_done h ch).2

theorem copyFault_idle (h : copiesDone s) : s.g.copyFault = none := by
  have hnone : s.g.channels.find? (fun p => p.2.stopped && p.2.fault.isSome && !p.2.taken) = none :=
    List.find?_eq_none.mpr fun p hp => by simp [(h.1 p hp).2]
  rw [Gang.copyFault, hnone]
  rfl

theorem haltReady_idle (hbq : s.g.bq = []) (hloads : s.g.loads = []) (hengines : enginesDone s) (hcopies : copiesDone s)
    (hunacked : ∀ u ∈ s.unacked, u.gang ≠ s.g.id) : haltReady s = true := by
  have hports : portsDone s.g = true := List.all_eq_true.mpr fun p hp => by simp [hengines p hp]
  have hqueues : (s.g.channels.all fun p => p.2.queue.isEmpty) = true := List.all_eq_true.mpr fun p hp => by simp [(hcopies.1 p hp).1]
  have hseen : (s.unacked.any fun u => u.gang == s.g.id) = false := List.any_eq_false.mpr fun u hu => by simpa using hunacked u hu
  simp [haltReady, hbq, hloads, hports, hqueues, hseen]

/-- HALT where nothing of the gang is outstanding: it waits for a page that migrates, or retires the gang (R47, R360). -/
theorem completes_halt {P : State → Prop} (hbq : s.g.bq = []) (hloads : s.g.loads = []) (hengines : enginesDone s) (hcopies : copiesDone s)
    (hunacked : ∀ u ∈ s.unacked, u.gang ≠ s.g.id)
    (hP : P (if s.g.launch.pv && postTarget s == .held then stall { s with g := { s.g with frame := if s.g.pl then [] else s.g.frame } } else s.halts)) :
    completes .halt s P := fun hi => by
  obtain ⟨v, hv⟩ : ∃ v : State, v = { s with g := { s.g with frame := if s.g.pl then [] else s.g.frame } } := ⟨_, rfl⟩
  have hdone : copiesDone v := by rw [hv]; exact hcopies
  have hidle : runAllEngines (waitCopies (cancelStopped v)) = v := by
    rw [cancelStopped_idle hdone, waitCopies_idle fun p hp => (hdone.1 p hp).1, runAllEngines_idle (by rw [hv]; exact hengines)]
  have hready : haltReady v = true := by
    rw [hv]
    exact haltReady_idle hbq hloads hengines hcopies hunacked
  have hretire : retireGang v = s.halts := by
    rw [hv]
    rfl
  have htarget : (v.g.launch.pv && postTarget v == .held) = (s.g.launch.pv && postTarget s == .held) := by
    rw [hv]
    rfl
  have hhalt : exec .halt s = execHalt s := rfl
  refine ⟨_, ?_, hP⟩
  rw [hhalt, execHalt, userOp_of_issues hi]
  dsimp only
  rw [← hv, hidle, cancelStopped_idle hdone, copyFault_idle hdone, hready, htarget, hretire]
  simp

end Idle

/-! ### The retired gang -/

theorem released_only (s : State) :
    let t := releaseSpan s.retired
    t = { s with
      field := t.field, fieldBad := t.fieldBad, ftags := t.ftags, ftagBad := t.ftagBad, agenda := t.agenda
      g := { s.retired.g with clusters := [], followers := [] } } := releaseSpan_only s.retired

/-- What HALT says of its gang and its clusters, where the post-signal leaves the gangs and the field (R47). -/
theorem retired_gone {s u : State} (hid : ownId s) (hg : u.g = (releaseSpan s.retired).g) (hothers : u.others = s.others)
    (hfield : u.field = (releaseSpan s.retired).field) (hftags : ∀ f, mget rawTag u.ftags f = mget rawTag (releaseSpan s.retired).ftags f) :
    (∃ x, findGang (rotate u) s.g.id = some x ∧ x.phase = .retired ∧ x.clusters = [] ∧ x.frame = [] ∧ x.resume = []
      ∧ x.fv = false ∧ x.held = none ∧ x.stgNak = none ∧ x.revoked = none ∧ x.fpDue = none ∧ x.retired = s.g.retired + 1
      ∧ ∀ r, x.reg r = s.g.reg r) ∧ (∀ c ∈ s.g.clusters, clusterClear c (rotate u)) ∧ fieldKept s.g.clusters s (rotate u) := by
  have hrg : u.g = { s.retired.g with clusters := [], followers := [] } := by rw [hg, released_only]
  have hrid : u.g.id = s.g.id := by rw [hrg]; rfl
  have hown : ownId u := by
    unfold ownId
    rw [hrid, hothers]
    exact hid
  have hfind : findGang (rotate u) s.g.id = some u.g := hrid ▸ findGang_rotate hown
  obtain ⟨hclear, hkept⟩ := releaseSpan_field s.retired
  obtain ⟨hrtags, -⟩ := rotate_tags u
  have hrfield : (rotate u).field = u.field := field_of_store (rotate_store u)
  have hreads : ∀ x, rdByte (rotate u).field x = rdByte (releaseSpan s.retired).field x ∧ tagOfKey (rotate u) x = tagOfKey (releaseSpan s.retired) x :=
    fun x => ⟨by rw [hrfield, hfield], by rw [tagOfKey, hrtags]; exact hftags _⟩
  refine ⟨⟨u.g, hfind, ?_⟩, fun c hc x hx => ?_, fun x hx => ?_⟩
  · rw [hrg]
    exact ⟨rfl, rfl, rfl, rfl, rfl, rfl, rfl, rfl, rfl, rfl, fun _ => rfl⟩
  · obtain ⟨hbyte, htag⟩ := hreads x
    rw [hbyte, htag]
    exact hclear c hc x hx
  · obtain ⟨hbyte, htag⟩ := hreads x
    rw [hbyte, htag]
    exact hkept x hx

/-- Releasing a span changes no byte of memory. -/
theorem released_memByte (s : State) (a : Nat) : memByte (releaseSpan s.retired) a = memByte s a := by
  refine memByte_of_tagFrame ?_ ?_ ?_ ?_ ?_ <;> rw [released_only]

/-- The post-signal in local HBM (R47, R424). -/
theorem postSignal_at {l : Launch} {pa : Nat} {gangId pc : Word} {die : Nat} {s : State} (hpv : l.pv = true) :
    ∃ bs, onlyMarked [] s (postSignalOf l (.at pa) gangId pc die s) ∧ (postSignalOf l (.at pa) gangId pc die s).queues = s.queues
      ∧ (postSignalOf l (.at pa) gangId pc die s = physStore (physTouch (useG s l.paddr.toNat) pa 8) pa bs
          ∧ bs.length = 8 ∧ (sound s = true → bs = leBytes 8 (if l.postSet = true then l.pval.toNat else (memNat s pa 8 + l.pval.toNat) % 2 ^ 64))
        ∨ (postSignalOf l (.at pa) gangId pc die s).store = s.store ∧ sound s = false) := by
  have hused : onlyServed s (physTouch (useG s l.paddr.toNat) pa 8) := (hubUse_only ..).trans (physTouch_only ..)
  have husound : sound s = true → sound (useG s l.paddr.toNat) = true := fun hs => hubUse_sound hs _ _ _
  have hread : physRead (useG s l.paddr.toNat) pa 8 = (physTouch (useG s l.paddr.toNat) pa 8, physPeek (useG s l.paddr.toNat) pa 8) := rfl
  rw [postSignalOf, hpv, Bool.not_true, if_neg Bool.false_ne_true, hread]
  cases hpeek : physPeek (useG s l.paddr.toNat) pa 8 with
  | none =>
    refine ⟨[], hused.marked, (hused.marked (cs := [])).queues_eq, .inr ⟨hused.store_eq, ?_⟩⟩
    rw [← Bool.not_eq_true]
    intro hs
    rw [physPeek_sound (husound hs)] at hpeek
    exact nomatch hpeek
  | some bs =>
    have hstored := hused.marked (cs := []) |>.trans (physStore_marked [] _ pa (leBytes 8 (if l.postSet = true then l.pval.toNat else (leNat bs + l.pval.toNat) % 2 ^ 64)))
    refine ⟨_, hstored, hstored.queues_eq, .inl ⟨rfl, length_leBytes .., fun hs => ?_⟩⟩
    rw [physPeek_sound (husound hs)] at hpeek
    rw [memNat, ← memBytes_of_store (useG_store s l.paddr.toNat) pa 8, Option.some.inj hpeek]

theorem postTarget_at {s : State} {pa : Nat} (h : postTarget s = .at pa) : region pa = 0 := by
  unfold postTarget at h
  split at h
  · split at h
    · next hlocal =>
      rw [← PostTarget.at.inj h]
      simp only [Bool.and_eq_true, decide_eq_true_eq] at hlocal
      exact hlocal.1
    · exact nomatch h
  · exact nomatch h
  · exact nomatch h

/-- A post-signal that is dropped is told to the host, and stops the queue (R47, R425, R432). -/
theorem postSignal_dropped {l : Launch} {gangId pc : Word} {die : Nat} {s : State} (hpv : l.pv = true) (hq : l.queue < 8192) :
    let t := postSignalOf l .dropped gangId pc die s
    t = { s with queues := t.queues, eventFrames := t.eventFrames, cycles := t.cycles, fresh := t.fresh }
      ∧ (mget {} t.queues l.queue).st = 3 ∧ (mget {} t.queues l.queue).err = 5 ∧ ∃ f ∈ t.eventFrames, f.type = 2 := by
  obtain ⟨v, hv⟩ : ∃ v, v = sendFrame s 2 die [w64 l.queue, w64 l.index, gangId, 8, pc, l.paddr] := ⟨_, rfl⟩
  have ht : postSignalOf l .dropped gangId pc die s = stopQueue v l.queue 5 l.index := by
    simp only [postSignalOf, hpv, Bool.not_true, Bool.false_eq_true, if_false, hv]
  have honly := stopQueue_only v l.queue 5 l.index
  obtain ⟨hst, herr⟩ := stopQueue_entry (s := v) (q := l.queue) 5 l.index hq
  have htold : ∃ f ∈ v.eventFrames, f.type = 2 := by
    rw [hv]
    exact ⟨_, List.mem_append_right _ List.mem_cons_self, rfl⟩
  obtain ⟨f, hf, htype⟩ := htold
  dsimp only at honly ⊢
  rw [ht]
  refine ⟨?_, hst, herr, f, stopQueue_eventFrames _ _ _ _ hf, htype⟩
  rw [honly, hv]
  rfl

/-- Settles O31: with nothing outstanding HALT releases the span of its gang, and its post-signal is stored, told, or waited for. -/
theorem haltRetiresTheGang : Obligations.HaltRetiresTheGang := by
  unfold Obligations.HaltRetiresTheGang
  intro s hid hbq hloads hengines hcopies hunacked gone
  have hrothers : (releaseSpan s.retired).others = s.others := by rw [released_only]
  have hrqueues : (releaseSpan s.retired).queues = s.queues := by rw [released_only]
  refine ⟨fun hpv => completes_halt hbq hloads hengines hcopies hunacked ?_, fun pa hpv htarget => completes_halt hbq hloads hengines hcopies hunacked ?_,
    fun hpv htarget hpl => completes_halt hbq hloads hengines hcopies hunacked ?_,
    fun hpv htarget hq => completes_halt hbq hloads hengines hcopies hunacked ?_⟩
  · have hhalts : s.halts = rotate (releaseSpan s.retired) := by
      simp only [State.halts, postSignalOf, hpv, Bool.not_false, if_true]
    rw [hpv, Bool.false_and, if_neg Bool.false_ne_true, hhalts]
    refine ⟨retired_gone hid rfl hrothers rfl fun _ => rfl, fun a => ?_, ?_⟩
    · rw [memByte_of_store (rotate_store _), released_memByte]
    · rw [(rotate_tags _).2, hrqueues]
  · obtain ⟨bs, honly, hqueues, hstored⟩ := postSignal_at (pa := pa) (gangId := s.g.gangId) (pc := s.g.pc) (die := s.g.lead) (s := releaseSpan s.retired) hpv
    have hhalts : s.halts = rotate (postSignalOf s.g.launch (.at pa) s.g.gangId s.g.pc s.g.lead (releaseSpan s.retired)) := by
      rw [State.halts, htarget]
    rw [htarget, hhalts, if_neg (by simp [hpv])]
    generalize postSignalOf s.g.launch (.at pa) s.g.gangId s.g.pc s.g.lead (releaseSpan s.retired) = u at honly hqueues hstored ⊢
    have hused : onlyServed (releaseSpan s.retired) (physTouch (useG (releaseSpan s.retired) s.g.launch.paddr.toNat) pa 8) :=
      (hubUse_only ..).trans (physTouch_only ..)
    have hcell : ∀ x p, sameCell (physTouch (useG (releaseSpan s.retired) s.g.launch.paddr.toNat) pa 8) x p = sameCell s x p := fun x p => by
      rw [sameCell_of_store hused.store_eq]
      have hwindows : (releaseSpan s.retired).peerWindows = s.peerWindows := by rw [released_only]
      simp only [sameCell, peerCell, windowOfPeer, hwindows]
    have hsound : sound (releaseSpan s.retired) = sound s := by rw [released_only]; rfl
    refine ⟨retired_gone hid honly.g_eq (honly.others_eq.trans hrothers) honly.field_eq fun f => honly.2 f List.not_mem_nil, ?_, fun x hx => ?_, fun hh => ?_⟩
    · rw [(rotate_tags _).2, hqueues, hrqueues]
    · rw [memByte_of_store (rotate_store _), ← released_memByte s x]
      rcases hstored with ⟨hu, hlen, -⟩ | ⟨hstore, -⟩
      · rw [hu]
        refine (physStore_outside fun j hj => ?_).trans (memByte_of_store hused.store_eq x)
        rw [hcell]
        exact hx j (by omega)
      · exact memByte_of_store hstore x
    · rcases hstored with ⟨hu, hlen, hvalue⟩ | ⟨-, hunsound⟩
      · have hbs := hvalue (by rw [hsound]; exact hh.1)
        have hmem : memNat (releaseSpan s.retired) pa 8 = memNat s pa 8 := by
          rw [memNat, memNat, memBytes_eq, memBytes_eq]
          simp only [released_memByte]
        rw [hmem] at hbs
        refine memNat_of_leBytes ?_ fun i hi => ?_
        · split
          · exact BitVec.isLt _
          · exact Nat.mod_lt _ (by decide)
        · rw [memByte_of_store (rotate_store _), hu, ← hbs, ← List.getElem_eq_getD (h := by omega)]
          exact physStore_inside (postTarget_at htarget) (by omega) (by omega)
      · rw [hsound, hh.1] at hunsound
        exact nomatch hunsound
  · have hsame : { s with g := { s.g with frame := if s.g.pl then [] else s.g.frame } } = s := by rw [hpl]; rfl
    rw [htarget, hsame, if_pos (by simp [hpv])]
  · obtain ⟨honly, hst, herr, htold⟩ := postSignal_dropped (gangId := s.g.gangId) (pc := s.g.pc) (die := s.g.lead) (s := releaseSpan s.retired) hpv hq
    have hhalts : s.halts = rotate (postSignalOf s.g.launch .dropped s.g.gangId s.g.pc s.g.lead (releaseSpan s.retired)) := by
      rw [State.halts, htarget]
    rw [htarget, hhalts, if_neg (by simp [hpv])]
    generalize postSignalOf s.g.launch .dropped s.g.gangId s.g.pc s.g.lead (releaseSpan s.retired) = u at honly hst herr htold ⊢
    obtain ⟨f, hf, htype⟩ := htold
    refine ⟨retired_gone hid ?_ ?_ ?_ ?_, fun a => ?_, ?_, ?_, f, ?_, htype⟩
    · rw [honly]
    · rw [honly, ← hrothers]
    · rw [honly]
    · exact fun f => by rw [honly]
    · rw [memByte_of_store (rotate_store _), ← released_memByte s a, honly]
      rfl
    · rw [(rotate_tags _).2]
      exact hst
    · rw [(rotate_tags _).2]
      exact herr
    · rw [rotate_eventFrames]
      exact hf

end Sys2Proof.Machine
end

section
/-! The engine ports (R207 to R210). -/
namespace Sys2Proof.Machine

theorem setPort_port (s : State) (p j : Nat) (x : Port) : (setPort s p x).g.port j = if j = p then x else s.g.port j := mget_mset ..

theorem setPort_store (s : State) (p : Nat) (x : Port) : (setPort s p x).store = s.store := rfl

theorem discardOpen_store (s : State) (p : Nat) : (discardOpen s p).store = s.store :=
  setPort_store s p { s.g.port p with openWords := [], results := (s.g.port p).results ++ [discardWord], err := true }

/-- An instruction that stores a port and commits. -/
theorem port_commits {s : State} {k : Nat} {x : Port} :
    let t := (setPort s k x).commit4
    sameRegsBut [] s t ∧ committed (s.g.pc + 4) s t ∧ sameBytes s t ∧ (∀ j, j ≠ k → t.g.port j = s.g.port j) ∧ t.g.port k = x := by
  obtain ⟨hregs, hcommit⟩ := sameProgress.commits4 (s := s) (u := setPort s k x) ⟨rfl, rfl, rfl, rfl, rfl, rfl⟩
  exact ⟨hregs, hcommit, ⟨fun _ => rfl, fun _ => rfl, fun _ => rfl⟩, fun j hj => (setPort_port ..).trans (if_neg hj), (setPort_port ..).trans (if_pos rfl)⟩

theorem discard_commits (s : State) (k : Nat) :
    let t := (discardOpen s k).commit4
    (sameRegsBut [] s t ∧ committed (s.g.pc + 4) s t ∧ sameBytes s t ∧ ∀ j, j ≠ k → t.g.port j = s.g.port j) ∧ t.g.ev = true
      ∧ t.g.port k = { s.g.port k with openWords := [], results := (s.g.port k).results ++ [BitVec.allOnes 64], err := true } := by
  obtain ⟨hregs, hcommit⟩ := sameProgress.commits4 (s := s) (u := discardOpen s k) ⟨rfl, rfl, rfl, rfl, rfl, rfl⟩
  have hstore : ((discardOpen s k).commit4).store = s.store := (commit4_store _).trans (discardOpen_store s k)
  have hlmem : ((discardOpen s k).commit4).g.lmem = s.g.lmem := rfl
  have hports : ((discardOpen s k).commit4).g.ports =
      mset {} s.g.ports k { s.g.port k with openWords := [], results := (s.g.port k).results ++ [discardWord], err := true } := rfl
  refine ⟨⟨hregs, hcommit, ⟨sameMem_of_store hstore, sameField_of_store hstore, fun a => by rw [hlmem]⟩, fun j hj => ?_⟩, rfl, ?_⟩
  · rw [Gang.port, hports, mget_mset_other _ _ _ _ _ hj, Gang.port]
  · rw [Gang.port, hports, mget_mset_same, discardWord]

/-- An answer of a port in a register: the port is stored, and the instruction commits. -/
theorem port_answers {u : State} {k : Nat} {x : Port} (a : Reg) (v : Word) :
    let t := ((setPort u k x).setReg a v).commit4
    t.g.reg a = (if a = 0 then 0 else v) ∧ sameRegsBut [a] u t ∧ committed (u.g.pc + 4) u t ∧ sameBytes u t ∧ t.g.port k = x
      ∧ ∀ j, j ≠ k → t.g.port j = u.g.port j := by
  obtain ⟨hreg, hregs, hcommit⟩ := sameProgress.answers (s := u) (u := setPort u k x) ⟨rfl, rfl, rfl, rfl, rfl, rfl⟩ a v
  have hg : (((setPort u k x).setReg a v).commit4).g.port = (setPort u k x).g.port := by
    have h : ((setPort u k x).g.setReg a v).ports = (setPort u k x).g.ports := by
      unfold Gang.setReg
      split <;> rfl
    funext j
    exact congrArg (mget ({} : Port) · j) h
  have hlmem : (((setPort u k x).setReg a v).commit4).g.lmem = u.g.lmem := Gang.setReg_lmem ..
  have hstore : (((setPort u k x).setReg a v).commit4).store = u.store := (answer_store ..).trans (setPort_store u k x)
  refine ⟨hreg, hregs, hcommit, ⟨sameMem_of_store hstore, sameField_of_store hstore, fun b => by rw [hlmem]⟩, ?_, fun j hj => ?_⟩
  · rw [hg]
    exact (setPort_port ..).trans (if_pos rfl)
  · rw [hg]
    exact (setPort_port ..).trans (if_neg hj)

/-! ### The instructions -/

theorem exec_eqpush (a : Reg) (p : BitVec 5) (s : State) : exec (.eqpush a p) s = userOp (.eqpush a p) s fun s =>
    if (s.g.port p.toNat).openWords.length = 64 then
      (if 4 ≤ (s.g.port p.toNat).held then trapIllegal s (.eqpush a p) 3 else (discardOpen s p.toNat).commit4)
    else if 64 ≤ (s.g.port p.toNat).words then stall s
    else (setPort s p.toNat { s.g.port p.toNat with openWords := (s.g.port p.toNat).openWords ++ [s.reg a] }).commit4 := rfl

theorem exec_eqpushLast (a : Reg) (p : BitVec 5) (s : State) : exec (.eqpushLast a p) s = userOp (.eqpushLast a p) s fun s =>
    if 4 ≤ (s.g.port p.toNat).held then trapIllegal s (.eqpushLast a p) 3
    else if (s.g.port p.toNat).openWords.length = 64 then (discardOpen s p.toNat).commit4
    else if decide (64 ≤ (s.g.port p.toNat).words) || !releaseReady s 2 then stall s
    else (endCommand s p.toNat (s.reg a)).commit4 := rfl

theorem exec_eqstat (a : Reg) (p : BitVec 5) (s : State) : exec (.eqstat a p) s = userOp (.eqstat a p) s fun s =>
    let u := runEngines p.toNat s
    ((setPort u p.toNat { u.g.port p.toNat with err := false }).setReg a (u.g.port p.toNat).status).commit4 := rfl

/-- What EQPOP does once the engines have run (R209). -/
def popPort (d : Reg) (p : BitVec 5) (s : State) : State :=
  if (s.g.port p.toNat).results = [] then (if (s.g.port p.toNat).commands = [] then trapIllegal s (.eqpop d p) 4 else stall s)
  else if stgsPerformed s 2 then
    ((setPort s p.toNat { s.g.port p.toNat with results := (s.g.port p.toNat).results.tail }).setReg d ((s.g.port p.toNat).results.headD 0)).commit4
  else stall s

theorem exec_eqpop (d : Reg) (p : BitVec 5) (s : State) : exec (.eqpop d p) s = userOp (.eqpop d p) s fun s => popPort d p (runEngines p.toNat s) := by
  have hpop : exec (.eqpop d p) s = execEqpop d p s := rfl
  rw [hpop, execEqpop]
  congr 1
  funext s
  unfold popPort
  dsimp only
  cases ((runEngines p.toNat s).g.port p.toNat).results <;> rfl

/-- Settles O32: each form does what the port's limits and its open command say. -/
theorem enginePortsQueueCommandsAndResults : Obligations.EnginePortsQueueCommandsAndResults := by
  unfold Obligations.EnginePortsQueueCommandsAndResults
  intro s a p k x v w only discarded
  obtain ⟨u, hu⟩ : ∃ u, u = runEngines k s := ⟨_, rfl⟩
  rw [← hu]
  have hrun : runEngines p.toNat s = u := hu.symm
  refine ⟨fun hlen hroom => completes_of_userOp (exec_eqpush a p s) ?_, fun hlen hfull => completes_of_userOp (exec_eqpush a p s) ?_,
    fun hlen hheld => ⟨completes_of_userOp (exec_eqpush a p s) ?_, completes_of_userOp (exec_eqpushLast a p s) ?_⟩,
    fun hheld => ⟨trapsWith_of_userOp (exec_eqpushLast a p s) (if_pos hheld) rfl,
      fun hlen => trapsWith_of_userOp (exec_eqpush a p s) ((if_pos hlen).trans (if_pos hheld)) rfl⟩,
    fun hheld hlen hroom hreleased => ⟨fun hbad => completes_of_userOp (exec_eqpushLast a p s) ?_,
      fun hok => completes_of_userOp (exec_eqpushLast a p s) ?_⟩, ⟨fun r q hresults => ⟨fun hseen => completes_of_userOp (exec_eqpop a p s) ?_,
        fun hunseen => completes_of_userOp (exec_eqpop a p s) ?_⟩, completes_of_userOp (exec_eqstat a p s) ?_⟩,
    fun hidle => ⟨fun hnone => trapsWith_of_userOp (exec_eqpop a p s) ?_ rfl, hu.trans (runEngines_idle hidle)⟩⟩
  · rw [if_neg hlen, if_neg (Nat.not_le.mpr hroom)]
    obtain ⟨hregs, hcommit, hbytes, hothers, hport⟩ := port_commits (s := s) (k := k) (x := { x with openWords := w })
    exact ⟨⟨hregs, hcommit, hbytes, hothers⟩, hport⟩
  · rw [if_neg hlen, if_pos hfull]
  · rw [if_pos hlen, if_neg (Nat.not_le.mpr hheld)]
    exact discard_commits s k
  · rw [if_neg (Nat.not_le.mpr hheld), if_pos hlen]
    exact discard_commits s k
  · have hready : (decide (64 ≤ x.words) || !releaseReady s 2) = false := by simp [hroom, (releaseReady_iff ..).mpr hreleased]
    have hend : endCommand s p.toNat v = discardOpen s k := by
      rw [endCommand, if_neg (by rw [hbad]; exact Bool.false_ne_true)]
    rw [if_neg (Nat.not_le.mpr hheld), if_neg hlen, hready, if_neg Bool.false_ne_true, hend]
    exact discard_commits s k
  · have hready : (decide (64 ≤ x.words) || !releaseReady s 2) = false := by simp [hroom, (releaseReady_iff ..).mpr hreleased]
    rw [if_neg (Nat.not_le.mpr hheld), if_neg hlen, hready, if_neg Bool.false_ne_true, endCommand, if_pos hok]
    rfl
  · have hpop : popPort a p u = ((setPort u k { u.g.port k with results := q }).setReg a r).commit4 := by
      rw [popPort, if_neg (by rw [hresults]; exact List.cons_ne_nil _ _), (stgsPerformed_iff ..).mpr hseen, if_pos rfl, hresults]
      rfl
    rw [hrun, hpop]
    exact port_answers a r
  · rw [hrun, popPort, if_neg (by rw [hresults]; exact List.cons_ne_nil _ _), if_neg (by rw [stgsPerformed_iff]; exact hunseen)]
  · obtain ⟨hreg, hregs, hcommit, hbytes, hport, hothers⟩ := port_answers (u := u) (k := k) (x := { u.g.port k with err := false }) a (u.g.port k).status
    rw [hrun]
    refine ⟨_, hreg, hregs, hcommit, hbytes, hport, hothers, ?_⟩
    cases (u.g.port k).err <;> rfl
  · rw [runEngines_idle hidle, popPort, if_pos hnone, if_pos hidle]
    rfl

end Sys2Proof.Machine
end

section
/-! A return re-issues the frame (R206, R225, R242, R245). -/
namespace Sys2Proof.Machine

/-! ### What a re-issued entry keeps -/

/-- An entry as R225 and R245 speak of it: its instruction with its captures, where it starts, whether it is complete, and what it has delivered. -/
def Entry.shown (e : Entry) : Instr × Map Word × Capture × Nat × Bool × Option Word := (e.instr, e.regs, e.cap, e.start, e.skipped, e.delivered)

/-- The same of an entry once it is re-issued: only one that is complete has delivered, namely 0 (R206). -/
def Entry.reshown (e : Entry) : Instr × Map Word × Capture × Nat × Bool × Option Word :=
  (e.instr, e.regs, e.cap, e.start, e.skipped, if (e.skipped && toReadQueue e.instr) = true then some 0 else none)

theorem reissueEntry_shown (g : Gang) (words : Map Resume) (k : Nat) (e : Entry) :
    (reissueEntry g words k e).bq.map Entry.shown = g.bq.map Entry.shown ++ [e.reshown]
      ∧ (reissueEntry g words k e).rq = g.rq ++ (if toReadQueue e.instr = true then [none] else []) := by
  refine ⟨by simp [reissueEntry, returnEntry, Entry.shown, Entry.reshown], ?_⟩
  rw [reissueEntry]
  split <;> simp

/-- Re-issued entries keep their captures in order, and a read-queue entry is reserved for each that delivers (R206, R229). -/
theorem foldl_reissueEntry_shown (words : Map Resume) (es : List (Entry × Nat)) (g : Gang) :
    let h := es.foldl (fun g p => reissueEntry g words p.2 p.1) g
    h.bq.map Entry.shown = g.bq.map Entry.shown ++ es.map (fun p => p.1.reshown)
      ∧ h.rq = g.rq ++ ((es.map Prod.fst).filter fun e => toReadQueue e.instr).map fun _ => none := by
  induction es generalizing g with
  | nil => simp
  | cons e es ih =>
    obtain ⟨hbq, hrq⟩ := ih (reissueEntry g words e.2 e.1)
    obtain ⟨hbq1, hrq1⟩ := reissueEntry_shown g words e.2 e.1
    dsimp only at *
    rw [List.foldl_cons]
    refine ⟨by rw [hbq, hbq1]; simp, ?_⟩
    rw [hrq, hrq1]
    cases h : toReadQueue e.1.instr <;> simp [h]

theorem retagAll_shown (g : Gang) (earlier es : List Entry) : (retagAll g earlier es).map Entry.shown = es.map Entry.shown := by
  induction es generalizing earlier with
  | nil => rfl
  | cons e es ih => simp [retagAll, ih, tagEntry, Entry.shown]

theorem reissueFrame_shown (s : State) (es : List Entry) (words : Map Resume) :
    let t := reissueFrame s es words
    t.g.bq.map Entry.shown = s.g.bq.map Entry.shown ++ es.map Entry.reshown
      ∧ t.g.rq = s.g.rq ++ (es.filter fun e => toReadQueue e.instr).map fun _ => none := by
  obtain ⟨hbq, hrq⟩ := foldl_reissueEntry_shown words es.zipIdx s.g
  rw [List.zipIdx_map_fst] at hrq
  have hes : es.zipIdx.map (fun p => p.1.reshown) = es.map Entry.reshown := by
    conv => rhs; rw [← List.zipIdx_map_fst 0 es, List.map_map]
    rfl
  rw [hes] at hbq
  exact ⟨(retagAll_shown ..).trans hbq, hrq⟩

/-! ### The return -/

theorem Channel.resume_stopped {c : Channel} (h : (c.stopped && c.fault.isSome && !c.taken) = false) : c.resume.stopped = false := by
  rw [Channel.resume]
  split
  next hfault => simpa [hfault, Bool.and_assoc] using h
  next => rfl

theorem copyFault_none_iff (g : Gang) : g.copyFault = none ↔ ∀ p ∈ g.channels, (p.2.stopped && p.2.fault.isSome && !p.2.taken) = false := by
  simp only [Gang.copyFault, Option.bind_eq_none_iff, Option.map_eq_none_iff]
  constructor
  · intro h p hp
    cases hx : g.channels.find? (fun p => p.2.stopped && p.2.fault.isSome && !p.2.taken) with
    | none => simpa using List.find?_eq_none.mp hx p hp
    | some q =>
      have hq := List.find?_some hx
      simp [h q hx] at hq
  · intro h p hp
    have hq := List.find?_some hp
    rw [h p (List.mem_of_find?_eq_some hp)] at hq
    exact absurd hq Bool.false_ne_true

/-- The gang as a return leaves it before the frame is re-issued (R225). -/
def Gang.returned (g : Gang) (mode : Nat) : Gang := { g with
  pl := false, fv := false, frame := [], resume := [], rq := g.rq.take g.rqAside, rqAside := 0, bq := [], banks := [], pulls := [], tokens := []
  pc := g.gepc
  estart := if (decide (mode ≠ 2) && g.gqPos.isSome) = true then 0 else g.estart
  stepping := g.ss
  channels := g.channels.map fun p => (p.1, p.2.resume)
  retired := g.retired + 1 }

theorem returned_copyFault {g : Gang} (h : g.copyFault = none) (mode : Nat) : (g.returned mode).copyFault = none := by
  rw [copyFault_none_iff] at h ⊢
  intro p hp
  obtain ⟨q, hq, rfl⟩ := List.mem_map.mp hp
  rw [Channel.resume_stopped (h q hq)]
  rfl

/-- Nothing is pending at a gang without a held cause (R221). -/
theorem takePending_none {s : State} (hbanks : s.g.banks = []) (hfp : s.g.fpDue = none) (hheld : s.g.held = none) (hnak : s.g.stgNak = none)
    (hrevoked : s.g.revoked = none) (hcopy : s.g.copyFault = none) : takePending s = s := by
  have hbank : s.g.lowestBankFault = none := by rw [Gang.lowestBankFault, hbanks]; rfl
  rw [takePending, hbank, hfp, hheld, hnak, hcopy, hrevoked]
  simp

theorem eretFrame_nil {g : Gang} (h : g.frame = []) (mode : Nat) : eretFrame g mode = [] := by
  rw [eretFrame, h]
  cases g.gqPos <;> simp

section Returns
variable {s : State} (hfp : s.g.fpDue = none) (hheld : s.g.held = none) (hnak : s.g.stgNak = none) (hrevoked : s.g.revoked = none)
  (hcopy : s.g.copyFault = none)

include hfp hheld hnak hrevoked hcopy in
/-- A return without a held cause re-issues the frame, and nothing of it runs before the next step (R225). -/
theorem eretReturn_reissues (hrun : s.lockstep = false ∨ (s.g.frame = [] ∧ copiesDone s)) (mode : Nat) :
    eretReturn s mode = reissueFrame { s with g := s.g.returned mode } (eretFrame s.g mode) s.g.resume := by
  have hcopy' := returned_copyFault hcopy mode
  obtain ⟨v, hv⟩ : ∃ v, v = ({ s with g := s.g.returned mode } : State) := ⟨_, rfl⟩
  have hvg : v.g = s.g.returned mode := by rw [hv]
  have hunfold : eretReturn s mode = takePending (proceed (reissueFrame (if s.lockstep then runChannels v else v) (eretFrame s.g mode) s.g.resume)) := by
    have hpending : ¬((s.g.returned mode).stgNak.isSome || (s.g.returned mode).revoked.isSome || (s.g.returned mode).copyFault.isSome) = true := by
      rw [hcopy']
      simp [Gang.returned, hnak, hrevoked]
    rw [hv]
    unfold eretReturn
    exact if_neg hpending
  have hchannels : (if s.lockstep then runChannels v else v) = v := by
    split
    next hlock =>
      obtain ⟨-, hdone, -⟩ := hrun.resolve_left (by rw [hlock]; exact Bool.noConfusion)
      refine foldl_runChannel_idle (fun p hp => ?_) _
      rw [hvg] at hp
      obtain ⟨q, hq, rfl⟩ := List.mem_map.mp hp
      have hqueue := (hdone q hq).1
      dsimp only [Channel.resume]
      split <;> exact hqueue
    next => rfl
  obtain ⟨honly, -⟩ := reissueFrame_effect v (eretFrame s.g mode) s.g.resume
  have hproceed : proceed (reissueFrame v (eretFrame s.g mode) s.g.resume) = reissueFrame v (eretFrame s.g mode) s.g.resume := by
    rw [proceed]
    split
    next hlock =>
      have hlock' : s.lockstep = true := by rw [honly, hv] at hlock; exact hlock
      have hframe := (hrun.resolve_left (by rw [hlock']; exact Bool.noConfusion)).1
      rw [eretFrame_nil hframe, hv]
      rfl
    next => rfl
  rw [hunfold, hchannels, hproceed, ← hv]
  obtain ⟨t, ht⟩ : ∃ t, t = reissueFrame v (eretFrame s.g mode) s.g.resume := ⟨_, rfl⟩
  rw [← ht] at honly ⊢
  have hg : t.g = { s.g.returned mode with bq := t.g.bq, nextSeq := t.g.nextSeq, rq := t.g.rq } := by
    rw [← hvg]
    exact congrArg State.g honly
  exact takePending_none (by rw [hg, Gang.returned]) (by rw [hg, Gang.returned, hfp]) (by rw [hg, Gang.returned, hheld])
    (by rw [hg, Gang.returned, hnak]) (by rw [hg, Gang.returned, hrevoked]) (by rw [hg]; exact hcopy')

/-- A list of entries by some of what R225 speaks of. -/
theorem map_of_shown {β : Type} (f : Instr × Map Word × Capture × Nat × Bool × Option Word → β) {es fs : List Entry}
    (h : es.map Entry.shown = fs.map Entry.reshown) : es.map (fun e => f e.shown) = fs.map fun e => f e.reshown := by
  simpa only [List.map_map, Function.comp_def] using congrArg (List.map f) h

/-- An entry of the frame as a return that keeps it leaves it (R225). -/
def eretEntry (g : Gang) (mode : Nat) (p : Entry × Nat) : Entry :=
  if g.gqPos = some p.2 then (if mode = 1 then { p.1 with skipped := true, staged := false } else { p.1 with start := g.estart.toNat % 2 ^ 48 })
  else p.1

theorem eretFrame_eq (g : Gang) {mode : Nat} (h : mode ≠ 2) : eretFrame g mode = g.frame.zipIdx.map (eretEntry g mode) := by
  rw [eretFrame, if_neg h]
  cases hk : g.gqPos with
  | none =>
    have hid : eretEntry g mode = Prod.fst := funext fun p => by simp [eretEntry, hk]
    rw [hid, List.zipIdx_map_fst]
  | some k =>
    refine List.map_congr_left fun p _ => ?_
    simp only [eretEntry, hk, Option.some.injEq, ne_eq, ite_not, eq_comm (a := k)]

theorem eretFrame_kept (g : Gang) {mode : Nat} (h : mode ≠ 2) {β : Type} (f : Instr × Map Word × Capture → β) :
    (eretFrame g mode).map (fun e => f (e.instr, e.regs, e.cap)) = g.frame.map fun e => f (e.instr, e.regs, e.cap) := by
  conv => rhs; rw [← List.zipIdx_map_fst 0 g.frame]
  rw [eretFrame_eq g h, List.map_map, List.map_map]
  refine List.map_congr_left fun p _ => ?_
  dsimp only [Function.comp, eretEntry]
  split
  · split <;> rfl
  · rfl

/-- The entries that deliver, as a return re-issues them: as many as the frame holds (R206). -/
theorem eretFrame_deliveries (g : Gang) {mode : Nat} (h : mode ≠ 2) :
    ((eretFrame g mode).filter fun e => toReadQueue e.instr).map (fun _ => (none : Option Word))
      = (g.frame.filter fun e => toReadQueue e.instr).map fun _ => none := by
  have hcount := congrArg (List.countP id) (eretFrame_kept g h fun x => toReadQueue x.1)
  simp only [List.countP_map, Function.comp_def, id] at hcount
  simp only [List.map_const', ← List.countP_eq_length_filter, hcount]

end Returns

/-! ### The settlement -/

theorem exec_eretIn (i : Instr) (mode : Nat) (h : (i, mode) ∈ [(Instr.eret, 0), (Instr.eretSkip, 1), (Instr.eretDrop, 2)]) (s : State) :
    exec i s = userOp i s fun s =>
      if mode = 1 ∧ s.g.gqPos = none then trapIllegal s i 0 else if s.g.bq ≠ [] then stall s else eretReturn s mode := by
  simp only [List.mem_cons, List.not_mem_nil, or_false, Prod.mk.injEq] at h
  rcases h with ⟨rfl, rfl⟩ | ⟨rfl, rfl⟩ | ⟨rfl, rfl⟩ <;> rfl

/-- What a return does, mode by mode (R206, R225, R242, R245). -/
theorem eretIn_returns {s : State} (hbq : s.g.bq = []) (hfp : s.g.fpDue = none) (hheld : s.g.held = none) (hnak : s.g.stgNak = none)
    (hrevoked : s.g.revoked = none) (hcopy : s.g.copyFault = none) (hrun : s.lockstep = false ∨ (s.g.frame = [] ∧ copiesDone s))
    {i : Instr} {mode : Nat} (h : (i, mode) ∈ [(Instr.eret, 0), (Instr.eretSkip, 1), (Instr.eretDrop, 2)])
    (hskip : mode = 1 → s.g.gqPos ≠ none) :
    completes i s fun t =>
      t = { s with g := { s.g.returned mode with bq := t.g.bq, nextSeq := t.g.nextSeq, rq := t.g.rq } }
        ∧ t.g.bq.map Entry.shown = (eretFrame s.g mode).map Entry.reshown
        ∧ t.g.rq = s.g.rq.take s.g.rqAside ++ ((eretFrame s.g mode).filter fun e => toReadQueue e.instr).map fun _ => none := by
  refine completes_of_userOp (exec_eretIn i mode h s) ?_
  rw [if_neg (fun h => hskip h.1 h.2), if_neg (Classical.not_not.mpr hbq), eretReturn_reissues hfp hheld hnak hrevoked hcopy hrun]
  obtain ⟨honly, -⟩ := reissueFrame_effect { s with g := s.g.returned mode } (eretFrame s.g mode) s.g.resume
  obtain ⟨hshown, hrq⟩ := reissueFrame_shown { s with g := s.g.returned mode } (eretFrame s.g mode) s.g.resume
  exact ⟨honly, hshown, hrq⟩

theorem gqPos_ne_none (g : Gang) : g.gqPos ≠ none ↔ bit g.gqpos 7 = true := by
  rw [Gang.gqPos]
  split <;> simp [*]

theorem gqPos_eq_some (g : Gang) (k : Nat) : g.gqPos = some k ↔ bit g.gqpos 7 = true ∧ k = g.gqpos.toNat % 64 := by
  rw [Gang.gqPos]
  split <;> simp [*, eq_comm]

/-- Settles O27: a return is the frame re-issued with its captures, each entry by its position, and nothing else pending. -/
theorem returnsReissueTheFrame : Obligations.ReturnsReissueTheFrame := by
  unfold Obligations.ReturnsReissueTheFrame
  intro s hbq hfp hheld hnak hrevoked hcopy hrun p hp hgq
  obtain ⟨mode, hmem, hmode, hdrop, heret, hskip⟩ : ∃ mode, (p.1, mode) ∈ [(Instr.eret, 0), (Instr.eretSkip, 1), (Instr.eretDrop, 2)] ∧ mode < 3
      ∧ (p.2 = true ↔ mode = 2) ∧ (p.1 = .eret ↔ mode = 0) ∧ (p.1 = .eretSkip ↔ mode = 1) := by
    simp only [List.mem_cons, List.not_mem_nil, or_false] at hp
    rcases hp with rfl | rfl | rfl
    · exact ⟨0, by simp⟩
    · exact ⟨1, by simp⟩
    · exact ⟨2, by simp⟩
  intro hi
  obtain ⟨t, hexec, honly, hshown, hrq⟩ := eretIn_returns hbq hfp hheld hnak hrevoked hcopy hrun hmem
    (fun h => (gqPos_ne_none s.g).mpr (hgq (hskip.mpr h))) hi
  have hg : t.g = { s.g.returned mode with bq := t.g.bq, nextSeq := t.g.nextSeq, rq := t.g.rq } := congrArg State.g honly
  have hstore : t.store = s.store := by rw [honly]; rfl
  have hestart : (s.g.returned mode).estart = if p.2 = false ∧ bit s.g.gqpos 7 = true then 0 else s.g.estart := by
    rw [Gang.returned]
    simp [← hdrop, ← gqPos_ne_none, Option.isSome_iff_ne_none]
  refine ⟨t, hexec, ?_, ?_, ?_, ?_, ?_, ?_, ?_, ?_, ?_, ?_, ?_, ?_, fun r _ => ?_, ⟨sameMem_of_store hstore, sameField_of_store hstore, fun a => ?_⟩, ?_⟩
  case refine_9 =>
    have h := map_of_shown (fun x => (x.1, x.2.1, x.2.2.1)) hshown
    refine h.trans ?_
    by_cases hm : mode = 2
    · rw [if_pos (hdrop.mpr hm), hm]
      rfl
    · rw [if_neg (mt hdrop.mp hm)]
      exact eretFrame_kept s.g hm id
  case refine_10 =>
    have h := map_of_shown (fun x => (x.2.2.2.1, x.2.2.2.2.1, x.2.2.2.2.2)) hshown
    refine h.trans ?_
    by_cases hm : mode = 2
    · rw [if_pos (hdrop.mpr hm), hm]
      rfl
    · rw [if_neg (mt hdrop.mp hm), eretFrame_eq s.g hm, List.map_map]
      refine List.map_congr_left fun q _ => ?_
      have hkept : mode = 1 ∨ mode = 0 := by omega
      simp only [Function.comp, eretEntry, gqPos_eq_some, heret, hskip]
      by_cases hhere : bit s.g.gqpos 7 = true ∧ q.2 = s.g.gqpos.toNat % 64
      · rcases hkept with hm1 | hm0
        · simp [hhere, hm1, Entry.reshown]
        · simp [hhere, hm0, Entry.reshown]
      · simp [hhere, Entry.reshown]
  case refine_11 =>
    rw [hrq]
    by_cases hm : mode = 2
    · rw [if_pos (hdrop.mpr hm), hm]
      rfl
    · rw [if_neg (mt hdrop.mp hm), eretFrame_deliveries s.g hm]
  case refine_12 => rw [hg, ← hestart]
  case refine_15 =>
    intro n hn
    rw [hg]
    simp only [List.mem_cons, List.not_mem_nil, or_false] at hn
    (repeat' rcases hn with rfl | hn) <;> rfl
  all_goals rw [hg]; rfl

end Sys2Proof.Machine
end

section
/-! Causes that enter the handler, and halts: what becomes of two unretired entries under one sequence number (R220, R228, R335). -/
namespace Sys2Proof.Machine

theorem exec_trapEntry (s : State) : exec .trapEntry s = eventOp s trapEntry := rfl
theorem exec_preemptionHalt (id : Nat) (s : State) : exec (.preemptionHalt id) s = eventOp s (preemptionHalt id) := rfl

/-- An unretired entry with nothing captured, under sequence number 0. -/
def plainEntry (i : Instr) : Entry where
  seq := 0
  ord := 0
  instr := i
  regs := []
  cap := ⟨0, 0, 0, 0, 0, 0, 0⟩
  producers := []
  gate := none
  staged := false
  handler := false
  flags := {}
  start := 0
  bounds := []
  written := []
  skipped := false
  delivered := none
  poison := []

/-- The fields of a tile instruction of two steps with O = 1, so that a TMMA of them holds its rows back (R335). -/
def twoSteps : TX := ⟨0, 0, 0, 0, 1, 0, 0, 0, 1, 0, 0⟩

/-- A gang whose queue holds a TMMA that holds its rows back, and a TTRN under the same sequence number. It has an FP trap due, and is asked to
halt. -/
def twinEntries : State :=
  { State.reset with
    power := .ready
    g := { State.reset.g with
      phase := .running, preempt := true, pl := false, gtvec := 4, cohN := 1, fpDue := some 0, banks := []
      bq := [plainEntry (.tmma twoSteps), plainEntry (.ttrn twoSteps)] } }

theorem twinEntries_frame : (trapEntry twinEntries).g.frame.map (fun e => e.instr) = [.tmma twoSteps, .tmma twoSteps] := by decide

theorem twinEntries_haltFrame :
    (findGang (preemptionHalt twinEntries.g.id twinEntries) twinEntries.g.id).map (fun x => x.haltFrame.map fun e => e.instr)
      = some [.tmma twoSteps, .tmma twoSteps] := by decide

/-- Refutes O28: rows that a TMMA holds back are written under its sequence number, so that a second entry under that number joins the frame as a
second TMMA. -/
theorem not_pendingCausesEnterTheHandlerInOrder : ¬ Obligations.PendingCausesEnterTheHandlerInOrder := by
  unfold Obligations.PendingCausesEnterTheHandlerInOrder
  intro h
  obtain ⟨-, hfp, -⟩ := h twinEntries rfl rfl (by decide)
  obtain ⟨-, -, -, -, -, -, -, hframe, -⟩ := eventOp_of_occurs (exec_trapEntry twinEntries) rfl (hfp 0 rfl rfl)
  rw [twinEntries_frame] at hframe
  exact absurd hframe (by decide)

/-- Refutes O29: a halt keeps the same two entries as two TMMAs. -/
theorem not_haltsEvictionsAndPageReplies : ¬ Obligations.HaltsEvictionsAndPageReplies := by
  unfold Obligations.HaltsEvictionsAndPageReplies
  intro h
  obtain ⟨hhalt, -⟩ := h twinEntries (fun x hx => absurd hx List.not_mem_nil) rfl
  obtain ⟨x, hfound, -, -, -, -, hkept, -⟩ := eventOp_of_occurs (exec_preemptionHalt twinEntries.g.id twinEntries) rfl (hhalt rfl rfl)
  have hinstr := congrArg (List.map fun e => e.1) hkept
  simp only [List.map_map, Function.comp_def] at hinstr
  have hframe := twinEntries_haltFrame
  rw [hfound, Option.map_some, hinstr] at hframe
  exact absurd hframe (by decide)

end Sys2Proof.Machine
end

section
/-! The staged writes of an instruction whose destination lies beyond the F-space (R239). -/
namespace Sys2Proof.Machine

theorem exec_stagedWritePhase (s : State) : exec .stagedWritePhase s = eventOp s stagedWritePhase := rfl

/-- A staged entry under sequence number 0. -/
def lateEntry : Entry := { plainEntry (.ttrn twoSteps) with staged := true }

/-- A bank that stands behind the staged entry. -/
def pastBank : Bank := { next := 1 }

/-- A gang of one cluster whose window 0 begins at F-address 2^32. Bank 0 has staged one byte for that address; the other banks own nothing of
the entry. -/
def stagedBeyond : State :=
  { State.reset with
    power := .ready
    g := { State.reset.g with
      clusters := [0], pl := false, fpDue := none, bq := [lateEntry]
      windows := [(0, { base := 2 ^ 32, size := 4096, first := 0, count := 1, gran := 12, valid := true })]
      banks := (0, { next := 0, ready := true, stagedWrites := [⟨2 ^ 32, 255, 1⟩] })
        :: [1, 2, 3, 4, 5, 6, 7, 8, 9, 10, 11, 12, 13, 14, 15].map fun b => (b, pastBank) } }

theorem stagedBeyond_field : rdByte (stagedWritePhase stagedBeyond).field 0 = 0 := by decide

theorem stagedBeyond_writes :
    rdByte ((((List.range stagedBeyond.g.banksInSpan).flatMap fun b =>
      if (stagedBeyond.g.bankAt b).next = lateEntry.seq then (stagedBeyond.g.bankAt b).stagedWrites else []).foldl applyWrite stagedBeyond).field) 0
      = 1 := by decide

/-- Refutes O40: the staged write of an address that a window places beyond the F-space is not made. -/
theorem not_banksBeginAndStagedWritesWait : ¬ Obligations.BanksBeginAndStagedWritesWait := by
  unfold Obligations.BanksBeginAndStagedWritesWait
  intro h
  obtain ⟨-, -, -, -, hstaged⟩ := h stagedBeyond 0 lateEntry
  obtain ⟨-, -, hwrites⟩ := hstaged [] rfl (fun y hy => absurd hy List.not_mem_nil) rfl rfl rfl
  obtain ⟨hfield, -⟩ := eventOp_of_occurs (exec_stagedWritePhase stagedBeyond) rfl
    (hwrites (by decide) (by decide) ⟨0, by decide, by decide⟩)
  have hread := stagedBeyond_field
  rw [hfield, stagedBeyond_writes] at hread
  exact absurd hread (by decide)

end Sys2Proof.Machine
end

section
/-! What the banks may change when they perform instructions (R230 to R247), and that the memories stay canonical under it. -/
namespace Sys2Proof.Machine

/-- All that the banks may change: the field and its tags, free values, and of the gang its window of the broadcast stream, the read queue with
EV, the flags, the FP trap that is due, and the counts. -/
def onlyPerformed (s t : State) : Prop :=
  t = { s with
    field := t.field, fieldBad := t.fieldBad, ftags := t.ftags, ftagBad := t.ftagBad, fresh := t.fresh
    g := { s.g with
      bq := t.g.bq, banks := t.g.banks, pulls := t.g.pulls, tokens := t.g.tokens, linkBad := t.g.linkBad, rq := t.g.rq, ev := t.g.ev
      eflags := t.g.eflags, fxnv := t.g.fxnv, fxdz := t.g.fxdz, fxof := t.g.fxof, fxuf := t.g.fxuf, fxnx := t.g.fxnx, fpDue := t.g.fpDue
      gated := t.g.gated, confl := t.g.confl, merged := t.g.merged, perf := t.g.perf } }

/-- A change that the banks make, under which the memories stay canonical. -/
structure Performed (s t : State) : Prop where
  only : onlyPerformed s t
  canon : s.memoriesOk → t.memoriesOk

section Performed
variable {s t u : State}

theorem Performed.refl (s : State) : Performed s s := ⟨rfl, id⟩

theorem Performed.trans (h1 : Performed s t) (h2 : Performed t u) : Performed s u := by
  refine ⟨?_, fun h => h2.canon (h1.canon h)⟩
  have hst := h1.only
  have htu := h2.only
  unfold onlyPerformed at hst htu ⊢
  rw [hst] at htu
  exact htu

theorem Performed.foldl {β : Type} {f : State → β → State} (h : ∀ s x, Performed s (f s x)) (l : List β) (s : State) : Performed s (l.foldl f s) :=
  List.foldlRecOn (motive := Performed s) l f (.refl s) fun t ht x _ => ht.trans (h t x)

theorem Performed.ite {p : Prop} [Decidable p] (h1 : Performed s t) (h2 : Performed s u) : Performed s (if p then t else u) := by
  split
  · exact h1
  · exact h2

theorem Performed.of_store (honly : onlyPerformed s t) (hstore : t.store = s.store) : Performed s t := ⟨honly, memoriesOk_of_store hstore⟩

/-- Where only the field changes, the other memories stay as they are. -/
theorem Performed.of_field (honly : onlyPerformed s t) (hfield : Memory.wf s.field = true → Memory.wf t.field = true) : Performed s t := by
  refine ⟨honly, fun ⟨hmem, hpeer, hwf⟩ => ?_⟩
  unfold onlyPerformed at honly
  refine ⟨?_, ?_, hfield hwf⟩
  · rw [honly]
    exact hmem
  · rw [honly]
    exact hpeer

theorem Performed.sameMem (h : Performed s t) : sameMem s t := fun a => by
  have honly := h.only
  unfold onlyPerformed at honly
  rw [honly]
  rfl

theorem Performed.lmem_eq (h : Performed s t) : t.g.lmem = s.g.lmem := by
  have honly := h.only
  unfold onlyPerformed at honly
  rw [honly]

theorem Performed.regs_eq (h : Performed s t) : t.g.regs = s.g.regs := by
  have honly := h.only
  unfold onlyPerformed at honly
  rw [honly]

theorem Performed.sameLocal (h : Performed s t) : sameLocal s t := fun a => by rw [h.lmem_eq]

theorem Performed.sameRegs (h : Performed s t) : sameRegsBut [] s t := fun r _ => by rw [Gang.reg, Gang.reg, h.regs_eq]

end Performed

/-! ### Places in the window -/

theorem setBank_performed (s : State) (b : Nat) (x : Bank) : Performed s (setBank s b x) := .of_store rfl rfl

theorem traffic_performed (s : State) (ps : List Pull) (ts : List Token) (bad : List Nat) :
    Performed s { s with g := { s.g with pulls := ps, tokens := ts, linkBad := bad } } := .of_store rfl rfl

theorem flow_performed (s : State) : Performed s (flow s) := .foldl (fun s _ => traffic_performed s _ _ _) _ s

theorem updateEntry_performed (s : State) (e : Entry) : Performed s (updateEntry s e) := .of_store rfl rfl

theorem useToken_performed (s : State) (b : Nat) (e : Entry) (p : Nat) : Performed s (useToken s b e p) := .of_store rfl rfl

theorem passToken_performed (s : State) (b own : Nat) (e : Entry) (p : Nat) : Performed s (passToken s b own e p) :=
  .ite ((traffic_performed s _ _ _).trans (flow_performed _)) (.refl s)

theorem sendPull_performed (s : State) (e : Entry) (b op : Nat) (array : Bool) (idx addr len : Nat) (tag : Bool) :
    Performed s (sendPull s e b op array idx addr len tag) :=
  (traffic_performed s _ _ _).trans (flow_performed _)

theorem bankStop_performed (s : State) (b : Nat) (e : Entry) (p : Nat) (x : Stop) : Performed s (bankStop s b e p x) := by
  cases x with
  | miss op arr idx a len tag => exact (setBank_performed ..).trans (sendPull_performed ..)
  | await => exact setBank_performed ..
  | fault c => exact setBank_performed ..

/-! ### Counts -/

theorem countGated_performed (s : State) (b : Nat) : Performed s (countGated s b) := .of_store rfl rfl

theorem countWordPath_performed (s : State) (b : Nat) : Performed s (countWordPath s b) := .of_store rfl rfl

theorem countEntry_performed (s : State) (e : Entry) : Performed s (countEntry s e) := by
  refine .foldl (fun s b => ?_) _ s
  dsimp only
  exact .ite ((countWordPath_performed s b).trans (countGated_performed _ b)) (countWordPath_performed s b)

/-! ### Results and tags -/

theorem freshWord_performed (s : State) (k : Nat) : Performed s (freshWord s k) :=
  .ite (.of_field rfl (Memory.wf_wrBytes _ _ _)) (.refl s)

theorem applyWrite_performed (s : State) (w : Wr) : Performed s (applyWrite s w) := by
  unfold applyWrite
  split
  · exact .refl s
  · exact (freshWord_performed ..).trans (.of_field rfl (Memory.wf_wrByte _ _ _))

theorem applyTag_performed (s : State) (p : Nat × Word) : Performed s (applyTag s p) := by
  unfold applyTag
  split
  · exact .refl s
  · exact .of_store rfl rfl

theorem noteLater_performed (s : State) (e : Entry) (o : Out) : Performed s (noteLater s e o) := .of_store rfl rfl

theorem applyOut_performed (s : State) (e : Entry) (o : Out) : Performed s (applyOut s e o).1 :=
  ((Performed.foldl applyWrite_performed _ s).trans (.foldl applyTag_performed _ _)).trans (noteLater_performed _ e o)

theorem writeHeld_performed (below : Nat) (s : State) (e : Entry) : Performed s (writeHeld below s e) :=
  (applyOut_performed _ _ _).trans (updateEntry_performed _ _)

theorem showRows_performed (seq : Nat) (s : State) : Performed s (showRows seq s) := by
  unfold showRows
  split
  · exact .ite (writeHeld_performed ..) (.refl s)
  · exact .refl s

theorem upkeepFrame_performed (e : Entry) (s : State) (fr : Nat) : Performed s (upkeepFrame e s fr) := by
  unfold upkeepFrame
  exact .ite (.refl s) (.of_store rfl rfl)

theorem settleTags_performed (words : Map Resume) (l : List (Entry × Nat)) (s : State) : Performed s (settleTags s words l).1 := by
  induction l generalizing s with
  | nil => exact .refl s
  | cons x l ih => exact (Performed.foldl (upkeepFrame_performed _) _ s).trans (ih _)

/-- The stop of the banks (R220, R243, R244). -/
theorem stopBanks_performed (s : State) : Performed s (stopBanks s).1 := by
  have hshown := Performed.foldl (f := fun s (e : Entry) => showRows e.seq s) (fun s e => showRows_performed e.seq s) s.g.bq s
  have hsettled := settleTags_performed (resumeWords s) (s.g.bq.foldl (fun s e => showRows e.seq s) s).g.bq.zipIdx
    (s.g.bq.foldl (fun s e => showRows e.seq s) s)
  exact (hshown.trans hsettled).trans (.of_store rfl rfl)

/-! ### Retirement -/

theorem retireEntry_performed (s : State) (e : Entry) : Performed s (retireEntry s e) := by
  have h := (Performed.foldl (upkeepFrame_performed e) (upkeepList e) s).trans (countEntry_performed _ e)
  unfold retireEntry
  generalize countEntry ((upkeepList e).foldl (upkeepFrame e) s) e = u at h ⊢
  dsimp only
  cases e.delivered with
  | none => exact h.trans (.of_store rfl rfl)
  | some v => exact h.trans (.of_store rfl rfl)

theorem retireReady_performed (es : List Entry) (s : State) : Performed s (retireReady es s) := by
  induction es generalizing s with
  | nil => exact .refl s
  | cons e es ih => exact .ite ((retireEntry_performed s e).trans (ih _)) (.refl s)

theorem passOver_performed (b : Nat) (es : List Entry) (s : State) : Performed s (passOver b es s) := by
  induction es generalizing s with
  | nil => exact .refl s
  | cons e es ih => exact .ite (ih s) (.ite ((setBank_performed ..).trans (ih _)) (.refl s))

theorem bankUpkeep_performed (s : State) (b : Nat) (e : Entry) : Performed s (bankUpkeep s b e) :=
  (Performed.foldl (upkeepFrame_performed e) _ s).trans (updateEntry_performed ..)

theorem finishBank_performed (s : State) (b : Nat) (e : Entry) : Performed s (finishBank s b e) :=
  (((bankUpkeep_performed s b e).trans (setBank_performed ..)).trans (passOver_performed ..)).trans (retireReady_performed ..)

/-! ### The steps of a bank -/

theorem advanceBank_performed (b : Nat) (ps : List Nat) (s : State) (e : Entry) : Performed s (advanceBank b ps s e) := by
  induction ps generalizing s e with
  | nil => exact .ite (setBank_performed ..) (finishBank_performed ..)
  | cons p ps ih =>
    rw [advanceBank]
    dsimp only
    refine .ite (ih ..) ?_
    split
    · exact bankStop_performed ..
    · have hbegun : Performed s (if isSparse e.instr then setBank s b { s.g.bankAt b with begun := true, position := p, headers := true } else s) :=
        .ite (setBank_performed ..) (.refl s)
      generalize (if isSparse e.instr then setBank s b { s.g.bankAt b with begun := true, position := p, headers := true } else s) = u at hbegun ⊢
      refine hbegun.trans (.ite (countGated_performed ..) ?_)
      split
      · exact bankStop_performed ..
      · refine .ite ((passToken_performed ..).trans (ih ..)) ?_
        split
        · exact bankStop_performed ..
        · refine .ite (((updateEntry_performed ..).trans (setBank_performed ..)).trans (ih ..)) (.ite (bankStop_performed ..) ?_)
          exact (((applyOut_performed ..).trans (useToken_performed ..)).trans (updateEntry_performed ..)).trans (ih ..)

theorem bankBegin_performed (s : State) (b : Nat) : Performed s (bankBegin s b) := by
  have hflow := flow_performed s
  unfold bankBegin
  generalize flow s = u at hflow ⊢
  dsimp only
  refine hflow.trans (.ite (.refl u) ?_)
  split
  · exact .refl u
  next e _ =>
    have hbegin : Performed u (advanceBank b (units e) (setBank u b { u.g.bankAt b with begun := true }) e) :=
      (setBank_performed ..).trans (advanceBank_performed ..)
    refine .ite (advanceBank_performed ..) (.ite (.refl u) (.ite (finishBank_performed ..) (.ite (.refl u) ?_)))
    split
    · exact .ite (countGated_performed ..) hbegin
    · exact hbegin

theorem pullArrival_performed (s : State) (b : Nat) : Performed s (pullArrival s b) :=
  ((flow_performed s).trans (traffic_performed _ _ _ _)).trans (flow_performed _)

theorem pullServe_performed (s : State) (b : Nat) : Performed s (pullServe s b) := by
  have hflow := flow_performed s
  unfold pullServe
  generalize flow s = u at hflow ⊢
  dsimp only
  refine hflow.trans ?_
  split
  · exact .refl u
  · exact (traffic_performed u _ _ _).trans (flow_performed _)

theorem pullResponse_performed (s : State) (b : Nat) : Performed s (pullResponse s b) := by
  have hflow := flow_performed s
  unfold pullResponse
  generalize flow s = u at hflow ⊢
  dsimp only
  refine hflow.trans ?_
  split
  · exact .refl u
  next q _ =>
    have hv := (traffic_performed u (u.g.pulls.erase q) u.g.tokens (u.g.linkBad.erase b)).trans (flow_performed _)
    generalize flow { u with g := { u.g with pulls := u.g.pulls.erase q, linkBad := u.g.linkBad.erase b } } = v at hv ⊢
    refine hv.trans (.ite (.refl v) ?_)
    split
    · exact setBank_performed ..
    · exact .ite (setBank_performed ..) ((setBank_performed ..).trans (advanceBank_performed ..))

theorem stagedWritePhase_performed (s : State) : Performed s (stagedWritePhase s) := by
  unfold stagedWritePhase
  split
  · exact .refl s
  next e _ _ =>
    dsimp only
    refine .ite (.refl s) (.ite ?_ (.foldl countGated_performed _ s))
    refine (writeHeld_performed ..).trans (.foldl (fun s b => ?_) _ _)
    refine .ite ?_ (.refl s)
    split
    · exact finishBank_performed ..
    · exact .refl s

/-! ### Entries that complete at once -/

theorem runEntry_performed (s : State) (e : Entry) : Performed s (runEntry s e) := by
  unfold runEntry
  generalize runUnits s (snapshotSrc s e) e (units e) {} = r
  obtain ⟨o, stop⟩ := r
  have hlinks : Performed s { s with g := { s.g with linkBad := spendLinks s (snapshotSrc s e) e } } := .of_store rfl rfl
  generalize ({ s with g := { s.g with linkBad := spendLinks s (snapshotSrc s e) e } } : State) = u at hlinks ⊢
  cases stop with
  | none => exact (hlinks.trans (applyOut_performed ..)).trans (retireEntry_performed ..)
  | some x =>
    obtain ⟨p, c, own⟩ := x
    dsimp only
    refine hlinks.trans (.trans (t := (if e.staged || restartsWhole e.instr then (u, e) else applyOut u (rememberOld u e _) _).1) ?_ (.of_store rfl rfl))
    split
    · exact .refl u
    · exact applyOut_performed ..

theorem runQueue_performed (es : List Entry) (s : State) : Performed s (runQueue es s) := by
  induction es generalizing s with
  | nil => exact .refl s
  | cons e es ih => exact .ite (.refl s) ((runEntry_performed s e).trans (ih _))

theorem proceed_performed (s : State) : Performed s (proceed s) := .ite (runQueue_performed ..) (.refl s)

end Sys2Proof.Machine
end

section
/-! The life of a pull (R104, R232 to R237). -/
namespace Sys2Proof.Machine

theorem exec_pullArrival (b : Nat) (s : State) : exec (.pullArrival b) s = eventOp s fun s => pullArrival s b := rfl
theorem exec_pullServe (b : Nat) (s : State) : exec (.pullServe b) s = eventOp s fun s => pullServe s b := rfl
theorem exec_pullResponse (b : Nat) (s : State) : exec (.pullResponse b) s = eventOp s fun s => pullResponse s b := rfl

/-! ### The first pull that is changed -/

section Change
variable {p : Pull → Bool} (f : Pull → Pull)

theorem changePull_none {l : List Pull} (h : ∀ r ∈ l, p r = false) : changePull p f l = l := by
  induction l with
  | nil => rfl
  | cons r l ih =>
    obtain ⟨hr, hl⟩ := List.forall_mem_cons.mp h
    rw [changePull, hr, if_neg Bool.false_ne_true, ih hl]

theorem changePull_first {pre post : List Pull} {q : Pull} (hq : p q = true) (h : ∀ r ∈ pre, p r = false) :
    changePull p f (pre ++ q :: post) = pre ++ f q :: post := by
  induction pre with
  | nil => exact if_pos hq
  | cons r pre ih =>
    obtain ⟨hr, hpre⟩ := List.forall_mem_cons.mp h
    rw [List.cons_append, changePull, hr, if_neg Bool.false_ne_true, ih hpre]
    rfl

end Change

/-! ### Which pull is served -/

/-- The earlier of two pulls, the first of equal ones. -/
def earlierPull (x y : Pull) : Pull := if y.seq < x.seq then y else x

theorem foldl_earlierPull_kept {q : Pull} {l : List Pull} (h : ∀ r ∈ l, q.seq ≤ r.seq) : l.foldl earlierPull q = q :=
  List.foldlRecOn (motive := fun x => x = q) l earlierPull rfl fun x hx r hr => by
    rw [hx, earlierPull, if_neg (Nat.not_lt.mpr (h r hr))]

theorem foldl_earlierPull_first {q x : Pull} {pre post : List Pull} (hx : q.seq < x.seq) (hpre : ∀ r ∈ pre, q.seq < r.seq)
    (hpost : ∀ r ∈ post, q.seq ≤ r.seq) : (pre ++ q :: post).foldl earlierPull x = q := by
  induction pre generalizing x with
  | nil =>
    rw [List.nil_append, List.foldl_cons, earlierPull, if_pos hx]
    exact foldl_earlierPull_kept hpost
  | cons r pre ih =>
    obtain ⟨hr, hrest⟩ := List.forall_mem_cons.mp hpre
    rw [List.cons_append, List.foldl_cons]
    refine ih ?_ hrest
    rw [earlierPull]
    split
    · exact hr
    · exact hx

/-- Whether the owner may serve a pull now (R234 to R236). -/
def servable (u : State) (b : Nat) (q : Pull) : Bool :=
  q.owner == b && q.place == .table && pullEligible u q && pullRoom u.g u.g.pulls q .responseQueue

theorem pullServe_waits {s : State} {b : Nat} (h : ∀ r ∈ (flow s).g.pulls, servable (flow s) b r = false) : pullServe s b = flow s := by
  have hnone : (flow s).g.pulls.filter (servable (flow s) b) = [] := List.filter_eq_nil_iff.mpr fun r hr => by simp [h r hr]
  rw [pullServe]
  dsimp only
  rw [show ((flow s).g.pulls.filter fun q => q.owner == b && q.place == .table && pullEligible (flow s) q
    && pullRoom (flow s).g (flow s).g.pulls q .responseQueue) = [] from hnone]

theorem pullServe_serves {s : State} {b : Nat} {pre post : List Pull} {q : Pull} (hpulls : (flow s).g.pulls = pre ++ q :: post)
    (hq : servable (flow s) b q = true) (hpre : ∀ r ∈ pre, servable (flow s) b r = true → q.seq < r.seq)
    (hpost : ∀ r ∈ post, servable (flow s) b r = true → q.seq ≤ r.seq) :
    pullServe s b = flow { flow s with g := { (flow s).g with pulls := pre ++ servePull (flow s) q :: post } } := by
  have hfilter : (flow s).g.pulls.filter (servable (flow s) b) = pre.filter (servable (flow s) b) ++ q :: post.filter (servable (flow s) b) := by
    rw [hpulls, List.filter_append, List.filter_cons_of_pos hq]
  have hother : ∀ r ∈ pre, (r == q) = false := fun r hr => Bool.eq_false_iff.mpr fun hsame => by
    have hrq : r = q := by simpa using hsame
    exact Nat.lt_irrefl _ (hpre q (hrq ▸ hr) hq)
  have hpost' : ∀ r ∈ post.filter (servable (flow s) b), q.seq ≤ r.seq := fun r hr =>
    hpost r (List.mem_filter.mp hr).1 (List.mem_filter.mp hr).2
  rw [pullServe]
  dsimp only
  rw [show ((flow s).g.pulls.filter fun q => q.owner == b && q.place == .table && pullEligible (flow s) q
    && pullRoom (flow s).g (flow s).g.pulls q .responseQueue) = _ from hfilter]
  have hbest : ∀ x l, pre.filter (servable (flow s) b) ++ q :: post.filter (servable (flow s) b) = x :: l → l.foldl earlierPull x = q := by
    intro x l hxl
    cases hp : pre.filter (servable (flow s) b) with
    | nil =>
      rw [hp, List.nil_append, List.cons.injEq] at hxl
      rw [← hxl.1, ← hxl.2]
      exact foldl_earlierPull_kept hpost'
    | cons y ys =>
      rw [hp, List.cons_append, List.cons.injEq] at hxl
      have hmem : ∀ r ∈ y :: ys, q.seq < r.seq := fun r hr => by
        rw [← hp] at hr
        exact hpre r (List.mem_filter.mp hr).1 (List.mem_filter.mp hr).2
      rw [← hxl.1, ← hxl.2]
      exact foldl_earlierPull_first (hmem y List.mem_cons_self) (fun r hr => hmem r (List.mem_cons_of_mem _ hr)) hpost'
  split
  next h => exact absurd h (by simp)
  next x l h =>
    rw [show l.foldl (fun x y => if y.seq < x.seq then y else x) x = q from hbest x l h, hpulls]
    rw [changePull_first (p := fun y => y == q) (servePull (flow s)) (beq_self_eq_true q) hother]

/-! ### What a served pull carries -/

theorem servePull_length (s : State) (q : Pull) : (servePull s q).bytes.length = q.len := by simp [servePull]

/-- A byte as the owner of a pull reads it: as its instruction finds it, where that is unretired (R104). -/
def ownerByte (s : State) (q : Pull) (k : Nat) : Option Byte :=
  (s.g.pullEntry q).elim (if s.fieldBad.contains (k / 8) then none else some (rdByte s.field k)) fun e => entryByte s e k

theorem servePull_byte {s : State} {q : Pull} {j k : Nat} (hj : j < q.len) (hk : fieldAt s (q.addr + j) false = .ok k) :
    (servePull s q).bytes.getD j 0 = (ownerByte s q k).getD 0 := by
  have hkey : ((fieldAt s (q.addr + j) false).toOption).getD 0 = k := by rw [hk]; rfl
  simp only [servePull, ownerByte, List.map_map, List.getD_eq_getElem?_getD, List.getElem?_map, List.getElem?_range hj, Option.map_some,
    Function.comp, hkey, Option.getD_some]
  cases s.g.pullEntry q <;> rfl

theorem entryByte_old {s : State} {e : Entry} {k v : Nat} (h : mfind e.old k = some v) (hv : v < 256) : entryByte s e k = some (BitVec.ofNat 8 v) := by
  rw [entryByte, h]
  exact if_pos hv

theorem entryByte_present {s : State} {e : Entry} {k : Nat} (h : mfind e.old k = none) (hbad : k / 8 ∉ s.fieldBad) :
    entryByte s e k = some (rdByte s.field k) := by
  rw [entryByte, h]
  exact if_neg (by simpa using hbad)

/-- A byte that the instruction has not overwritten is read as it stands. -/
theorem ownerByte_present {s : State} {q : Pull} {k : Nat} (h : ∀ e, s.g.pullEntry q = some e → mfind e.old k = none) (hbad : k / 8 ∉ s.fieldBad) :
    ownerByte s q k = some (rdByte s.field k) := by
  rw [ownerByte]
  cases hq : s.g.pullEntry q with
  | none => exact if_neg (by simpa using hbad)
  | some e => exact entryByte_present (h e hq) hbad

theorem ownerByte_old {s : State} {q : Pull} {e : Entry} {k v : Nat} (hq : s.g.pullEntry q = some e) (h : mfind e.old k = some v) (hv : v < 256) :
    ownerByte s q k = some (BitVec.ofNat 8 v) := by
  rw [ownerByte, hq]
  exact entryByte_old h hv

/-! ### Arrival -/

theorem buffer_table (g : Gang) (r : Pull) (b : Nat) : (r.buffer g r.place == some (.table b)) = (r.place == .table && r.owner == b) := by
  rw [Bool.eq_iff_iff, Bool.and_eq_true, beq_iff_eq, beq_iff_eq, beq_iff_eq]
  cases r.place with
  | table => simp [Pull.buffer]
  | request n => cases h : (g.path r.requester r.owner)[n]? <;> simp [Pull.buffer, h]
  | response n => cases h : (g.path r.owner r.requester)[n]? <;> simp [Pull.buffer, h]
  | waiting | sendQueue | responseQueue | staging => simp [Pull.buffer]

/-- The table of an owner takes a pull while it has a slot, the last one for the eldest instruction (R236, R237). -/
theorem pullRoom_table (g : Gang) (pulls : List Pull) (r : Pull) :
    let held := (pulls.filter fun x => x.place == .table && x.owner == r.owner).length
    pullRoom g pulls r .table = true ↔ held < 63 ∨ (held < 64 ∧ r.seq = g.lowWater) := by
  have hcount : (fun x : Pull => x.buffer g x.place == some (.table r.owner)) = fun x => x.place == .table && x.owner == r.owner :=
    funext fun x => buffer_table g x r.owner
  have hroom : pullRoom g pulls r .table
      = slotFor 64 (pulls.filter fun x => x.buffer g x.place == some (.table r.owner)).length g.lowWater r.seq := rfl
  dsimp only
  rw [hroom, hcount, slotFor, Bool.or_eq_true, Bool.and_eq_true, decide_eq_true_iff, decide_eq_true_iff, beq_iff_eq, Nat.lt_sub_iff_add_lt (b := 1) (c := 64)]

/-- A pull on its last hop to bank b that the table takes. -/
def comesIn (u : State) (b : Nat) (q : Pull) : Bool := q.owner == b && q.place == q.lastHop u.g && pullRoom u.g u.g.pulls q .table

theorem comesIn_iff (u : State) (b : Nat) (q : Pull) :
    let held := (u.g.pulls.filter fun r => r.place == .table && r.owner == b).length
    comesIn u b q = true ↔ q.owner = b ∧ q.place = q.lastHop u.g ∧ (held < 63 ∨ (held < 64 ∧ q.seq = u.g.lowWater)) := by
  dsimp only
  have hroom := pullRoom_table u.g u.g.pulls q
  dsimp only at hroom
  rw [comesIn, Bool.and_eq_true, Bool.and_eq_true, hroom, beq_iff_eq, beq_iff_eq, and_assoc]
  constructor
  · rintro ⟨rfl, h⟩
    exact ⟨rfl, h⟩
  · rintro ⟨rfl, h⟩
    exact ⟨rfl, h⟩

theorem servable_iff (u : State) (b : Nat) (q : Pull) : servable u b q = true ↔
    q.owner = b ∧ q.place = .table ∧ pullEligible u q = true ∧ pullRoom u.g u.g.pulls q .responseQueue = true := by
  simp [servable, and_assoc]

/-! ### Responses -/

/-- Whether bank b takes a response from its staging. -/
def awaits (b : Nat) (q : Pull) : Bool := q.requester == b && q.place == .staging

theorem awaits_iff (b : Nat) (q : Pull) : awaits b q = true ↔ q.requester = b ∧ q.place = .staging := by simp [awaits]

/-- The bank once it has taken a response. -/
def Bank.takes (x : Bank) (q : Pull) : Bank := { x with
  got := (q.bytes.zipIdx.map fun p => (q.addr + p.2, p.1)) ++ x.got
  gotBad := q.bad ++ x.gotBad
  tagsGot := q.tag.elim x.tagsGot (mput x.tagsGot q.addr)
  tagsBad := if q.tagBad then q.addr :: x.tagsBad else x.tagsBad }

theorem pullResponse_none {s : State} {b : Nat} (h : ∀ r ∈ (flow s).g.pulls, awaits b r = false) : pullResponse s b = flow s := by
  have hnone : (flow s).g.pulls.find? (awaits b) = none := List.find?_eq_none.mpr fun r hr => by simp [h r hr]
  rw [pullResponse]
  dsimp only
  rw [show ((flow s).g.pulls.find? fun q => q.requester == b && q.place == .staging) = none from hnone]

/-- The first response in the staging of a bank leaves it, and reaches the bank if it still waits for it (R232, R244). -/
theorem pullResponse_first {s v : State} {b : Nat} {pre post : List Pull} {q : Pull} (hpulls : (flow s).g.pulls = pre ++ q :: post)
    (hq : awaits b q = true) (hpre : ∀ r ∈ pre, awaits b r = false) (hlink : b ∉ (flow s).g.linkBad)
    (hv : flow { flow s with g := { (flow s).g with pulls := (flow s).g.pulls.erase q } } = v) :
    ((v.g.bankAt b).next ≠ q.seq ∨ (v.g.bankAt b).begun = false → pullResponse s b = v)
      ∧ ((v.g.bankAt b).next = q.seq → (v.g.bankAt b).begun = true → (∃ r ∈ v.g.pulls, r.requester = b ∧ r.seq = (v.g.bankAt b).next) →
          pullResponse s b = setBank v b ((v.g.bankAt b).takes q)) := by
  have hfind : (flow s).g.pulls.find? (awaits b) = some q := by
    rw [hpulls, List.find?_append, List.find?_eq_none.mpr (fun r hr => by simp [hpre r hr]), List.find?_cons_of_pos hq]
    rfl
  have hbad : (flow s).g.linkBad.contains b = false := by simpa using hlink
  have hover : q.over ((flow s).g.linkBad.contains b) = q := by rw [hbad]; rfl
  have herase : (flow s).g.linkBad.erase b = (flow s).g.linkBad := List.erase_of_not_mem hlink
  have hstep : pullResponse s b = if (v.g.bankAt b).next ≠ q.seq ∨ (v.g.bankAt b).begun = false then v
      else ((v.g.bq.find? fun e => e.seq == q.seq).elim (setBank v b ((v.g.bankAt b).takes q)) fun e =>
        if (v.g.bankAt b).cause.isSome || (v.g.bankAt b).ready || (v.g.pulls.any fun r => r.requester == b && r.seq == (v.g.bankAt b).next)
          then setBank v b ((v.g.bankAt b).takes q)
        else advanceBank b (unitsFrom e (v.g.bankAt b).position) (setBank v b ((v.g.bankAt b).takes q)) e) := by
    rw [pullResponse]
    dsimp only
    rw [show ((flow s).g.pulls.find? fun q => q.requester == b && q.place == .staging) = some q from hfind]
    dsimp only
    rw [hover, herase, hv]
    have hbq : ∀ x, (setBank v b x).g.bq = v.g.bq := fun _ => rfl
    have hpulls : ∀ x, (setBank v b x).g.pulls = v.g.pulls := fun _ => rfl
    rw [hbq, hpulls, Bank.takes]
    cases v.g.bq.find? fun e => e.seq == q.seq <;> cases q.tag <;> rfl
  refine ⟨fun h => hstep.trans (if_pos h), fun hnext hbegun hmore => ?_⟩
  have hany : (v.g.pulls.any fun r => r.requester == b && r.seq == (v.g.bankAt b).next) = true := by
    obtain ⟨r, hr, hreq, hseq⟩ := hmore
    exact List.any_eq_true.mpr ⟨r, hr, by simp [hreq, hseq]⟩
  rw [hstep, if_neg (by simp [hnext, hbegun]), hany, Bool.or_true]
  cases v.g.bq.find? fun e => e.seq == q.seq <;> rfl

/-- Settles O41: each step moves the first pull that may move, and none where none may. -/
theorem pullsArriveAreServedAndAnswered : Obligations.PullsArriveAreServedAndAnswered := by
  unfold Obligations.PullsArriveAreServedAndAnswered
  intro s b pre post q u held enters ready arrived becomes
  have hcomes : ∀ r, comesIn u b r = true ↔ enters r := comesIn_iff u b
  have hready : ∀ r, servable u b r = true ↔ ready r := servable_iff u b
  have harrived : ∀ r, awaits b r = true ↔ arrived r := awaits_iff b
  have hne : ∀ {p : Pull → Bool} {P : Pull → Prop}, (∀ r, p r = true ↔ P r) → ∀ r, ¬ P r → p r = false := fun h r hr =>
    Bool.eq_false_iff.mpr (mt (h r).mp hr)
  refine ⟨fun h => occurs_of_eventOp (exec_pullArrival b s) ?_, fun h => occurs_of_eventOp (exec_pullServe b s) ?_,
    fun h => occurs_of_eventOp (exec_pullResponse b s) ?_, fun hpulls => ⟨fun hq hpre => occurs_of_eventOp (exec_pullArrival b s) ?_,
      fun hq hpre hpost => occurs_of_eventOp (exec_pullServe b s) ?_, fun hq hpre hlink => ?_⟩⟩
  · have hsame := changePull_none (p := comesIn u b) (fun q => { q with place := .table }) fun r hr => hne hcomes r (h r hr)
    exact congrArg (fun ps => flow { u with g := { u.g with pulls := ps } }) hsame
  · exact pullServe_waits fun r hr => hne hready r (h r hr)
  · exact pullResponse_none fun r hr => hne harrived r (h r hr)
  · have hmoved := changePull_first (p := comesIn u b) (post := post) (fun q => { q with place := .table }) ((hcomes q).mpr hq)
      fun r hr => hne hcomes r (hpre r hr)
    rw [← hpulls] at hmoved
    exact congrArg (fun ps => flow { u with g := { u.g with pulls := ps } }) hmoved
  · refine ⟨servePull u q, ?_, rfl, rfl, rfl, rfl, servePull_length u q, fun j hj k hk => ⟨fun hold hbad => ?_, fun e v he hold hv => ?_⟩⟩
    · exact pullServe_serves hpulls ((hready q).mpr hq) (fun r hr h => hpre r hr ((hready r).mp h)) fun r hr h => hpost r hr ((hready r).mp h)
    · rw [servePull_byte hj hk, ownerByte_present hold hbad, Option.getD_some]
    · rw [servePull_byte hj hk, ownerByte_old he hold hv, Option.getD_some]
  · intro v x
    obtain ⟨hgone, hmore⟩ := pullResponse_first (v := v) hpulls ((harrived q).mpr hq) (fun r hr => hne harrived r (hpre r hr)) hlink rfl
    refine ⟨fun h => occurs_of_eventOp (exec_pullResponse b s) (hgone h), fun hnext hbegun => occurs_of_eventOp (exec_pullResponse b s) ?_⟩
    have hperf := pullResponse_performed s b
    exact ⟨hperf.sameMem, hperf.sameLocal, hperf.sameRegs, fun hwaits => ⟨_, hmore hnext hbegun hwaits, rfl, rfl, rfl⟩⟩

end Sys2Proof.Machine
end

section
/-! Broadcast and tile instructions join the queue (R101, R193, R194, R229, R240, R242). -/
namespace Sys2Proof.Machine

theorem mget_foldl_mset (v : Nat → Word) (ns : List Nat) (m : Map Word) (n : Nat) :
    mget 0 (ns.foldl (fun m n => mset 0 m n (v n)) m) n = if n ∈ ns then v n else mget 0 m n := by
  induction ns generalizing m with
  | nil => simp
  | cons k ns ih =>
    rw [List.foldl_cons, ih, mget_mset]
    by_cases hk : n = k
    · simp [hk]
    · simp [hk]

/-- The registers that an entry captures at its commit (R101). -/
theorem newEntry_regs (g : Gang) (i : Instr) (n : Nat) (h : n ∈ capturedRegs i) : mget 0 (newEntry g i).regs n = g.reg (BitVec.ofNat 5 n) :=
  (mget_foldl_mset (fun n => g.reg (BitVec.ofNat 5 n)) (capturedRegs i) [] n).trans (if_pos h)

/-- The machine with an entry in the queue, its instruction committed. -/
def State.pushed (s : State) (e : Entry) : State := { s with g := s.g.push e }.commit8

theorem pushed_commits (s : State) (e : Entry) : sameRegsBut [] s (s.pushed e) ∧ committed (s.g.pc + 8) s (s.pushed e) :=
  sameProgress.commits (u := { s with g := s.g.push e }) ⟨rfl, rfl, rfl, rfl, rfl, rfl⟩

theorem Performed.committed {s t u : State} {pc : Word} (h : Performed t u) (hs : committed pc s t) : committed pc s u := by
  have honly := h.only
  unfold onlyPerformed at honly
  unfold Machine.committed at hs ⊢
  rw [honly]
  exact hs

theorem commitEntry_joins {i : Instr} {s : State} (hrefusal : commitRefusal s.g (stagedEntry s.g i) = none)
    (hroom : queueFull s.g (stagedEntry s.g i) = false) : commitEntry i s = proceed (s.pushed (stagedEntry s.g i)) := by
  rw [commitEntry, hrefusal]
  exact if_neg (by rw [hroom]; exact Bool.false_ne_true)

/-- The commit of a broadcast or tile instruction, by what stands against it. -/
theorem joinsQueue_of_exec {i : Instr} {s : State} (h : exec i s = broadcast i s) : joinsQueue i s := by
  refine ⟨fun r hr => trapsWith_of_userOp (val2 := w64 r) h ?_ rfl, fun hr hfull => completes_of_userOp h ?_, fun hr hroom => completes_of_userOp h ?_⟩
  · rw [commitEntry, hr]
    rfl
  · rw [commitEntry, hr]
    exact if_pos hfull
  · rw [commitEntry_joins hr hroom]
    obtain ⟨hregs, hcommit⟩ := pushed_commits s (stagedEntry s.g i)
    have hrun := proceed_performed (s.pushed (stagedEntry s.g i))
    have honly := hrun.only
    unfold onlyPerformed at honly
    refine ⟨fun r hr => (hrun.sameRegs r hr).trans (hregs r hr), hrun.sameMem, hrun.sameLocal, ?_, ?_, hrun.committed hcommit, fun hlock => ?_,
      fun hlock => ?_⟩
    · rw [honly]
      rfl
    · rw [honly]
      rfl
    · exact ⟨s.pushed (stagedEntry s.g i), rfl, ⟨fun _ => rfl, fun _ => rfl, fun _ => rfl⟩, if_pos hlock⟩
    · have hstay : proceed (s.pushed (stagedEntry s.g i)) = s.pushed (stagedEntry s.g i) := if_neg (by
        rw [show (s.pushed (stagedEntry s.g i)).lockstep = s.lockstep from rfl, hlock]
        exact Bool.false_ne_true)
      rw [hstay]
      exact ⟨fun _ => rfl, tagEntry s.g s.g.bq (stagedEntry s.g i), rfl, rfl, rfl, rfl, rfl, newEntry_regs s.g i, rfl, rfl⟩

/-- Settles O34: every one of these instructions is a broadcast, and so its commit one and the same. -/
theorem broadcastAndTileInstructionsJoinTheQueue : Obligations.BroadcastAndTileInstructionsJoinTheQueue := by
  unfold Obligations.BroadcastAndTileInstructionsJoinTheQueue
  intro s f x
  refine ⟨fun i hi => joinsQueue_of_exec ?_, fun i hi => joinsQueue_of_exec ?_, fun i hi => joinsQueue_of_exec ?_⟩
  all_goals
    simp only [List.mem_cons, List.not_mem_nil, or_false] at hi
    (repeat' rcases hi with rfl | hi) <;> rfl

end Sys2Proof.Machine
end

section
/-! What the engines may change in memory (R393 to R420), and that the memories stay canonical under it. -/
namespace Sys2Proof.Machine

/-- All that an engine's accesses may change: memory, the field, what serving an access changes, the writes that await their acknowledgement, and
the free values and buffer errors of the engine. -/
def onlyEngaged (s t : State) : Prop :=
  t = { s with
    mem := t.mem, peerMem := t.peerMem, memBad := t.memBad, parityBad := t.parityBad, replaced := t.replaced, hbmTags := t.hbmTags
    field := t.field, fieldBad := t.fieldBad, ftags := t.ftags, ftagBad := t.ftagBad, hbmStat := t.hbmStat, remapBad := t.remapBad
    mirrorBad := t.mirrorBad, channelPower := t.channelPower, hubs := t.hubs, unacked := t.unacked, agenda := t.agenda, fresh := t.fresh
    engineBad := t.engineBad }

/-- A change that an engine's accesses make, under which the memories stay canonical; with `near` it leaves the field as it is. -/
structure Engaged (near : Bool) (s t : State) : Prop where
  only : onlyEngaged s t
  canon : s.memoriesOk → t.memoriesOk
  field : near = true → t.field = s.field

section Engaged
variable {near : Bool} {s t u : State}

theorem Engaged.refl (near : Bool) (s : State) : Engaged near s s := ⟨rfl, id, fun _ => rfl⟩

theorem Engaged.trans (h1 : Engaged near s t) (h2 : Engaged near t u) : Engaged near s u := by
  refine ⟨?_, fun h => h2.canon (h1.canon h), fun h => (h2.field h).trans (h1.field h)⟩
  have hst := h1.only
  have htu := h2.only
  unfold onlyEngaged at hst htu ⊢
  rw [hst] at htu
  exact htu

theorem Engaged.foldl {β : Type} {f : State → β → State} (h : ∀ s x, Engaged near s (f s x)) (l : List β) (s : State) :
    Engaged near s (l.foldl f s) :=
  List.foldlRecOn (motive := Engaged near s) l f (.refl near s) fun t ht x _ => ht.trans (h t x)

theorem Engaged.ite {p : Prop} [Decidable p] (h1 : Engaged near s t) (h2 : Engaged near s u) : Engaged near s (if p then t else u) := by
  split
  · exact h1
  · exact h2

theorem Engaged.of_store (honly : onlyEngaged s t) (hstore : t.store = s.store) : Engaged near s t :=
  ⟨honly, memoriesOk_of_store hstore, fun _ => field_of_store hstore⟩

theorem Engaged.gang_eq (h : Engaged near s t) : t.g = s.g := by
  have honly := h.only
  unfold onlyEngaged at honly
  rw [honly]

theorem Engaged.sameLocal (h : Engaged near s t) : sameLocal s t := fun a => by rw [h.gang_eq]

theorem Engaged.sameField (h : Engaged true s t) : sameField s t := fun a => by rw [h.field rfl]

theorem onlyServed.engaged (h : onlyServed s t) : Engaged near s t := by
  refine .of_store ?_ h.store_eq
  unfold onlyServed at h
  unfold onlyEngaged
  rw [h]

theorem onlyMarked.engaged (h : onlyMarked [] s t) (hcanon : s.memoriesOk → t.memoriesOk) : Engaged near s t := by
  obtain ⟨h, -⟩ := h
  refine ⟨?_, hcanon, fun _ => by rw [h]⟩
  unfold onlyEngaged
  rw [h]

end Engaged

/-! ### Accesses of local HBM -/

section Accesses
variable {near : Bool}

theorem useG_engaged (s : State) (va : Nat) : Engaged near s (useG s va) := onlyServed.engaged (hubUse_only ..)

theorem physTouch_engaged (s : State) (pa n : Nat) (write : Bool) : Engaged near s (physTouch s pa n write) := (physTouch_only ..).engaged

theorem physStore_engaged (s : State) (pa : Nat) (bs : List Byte) : Engaged near s (physStore s pa bs) :=
  (physStore_marked [] s pa bs).engaged (physStore_canon s pa bs)

theorem physWrite_engaged (s : State) (pa : Nat) (bs : List Byte) : Engaged near s (physWrite s pa bs) :=
  (physTouch_engaged ..).trans (physStore_engaged ..)

theorem engTouch_engaged (s : State) (va n : Nat) : Engaged near s (engTouch s va n) := by
  unfold engTouch
  split
  · exact (useG_engaged ..).trans (physTouch_engaged ..)
  · exact useG_engaged ..

theorem engWrite_engaged {s t : State} {va : Nat} {bs : List Byte} (h : engWrite s va bs = .ok t) : Engaged near s t := by
  unfold engWrite at h
  split at h
  · cases h
  · split at h
    · cases h
    · cases h
      exact (useG_engaged ..).trans (physWrite_engaged ..)

theorem engRefused_engaged (s : State) (va n : Nat) : Engaged near s (engRefused s va n) := by
  unfold engRefused
  split
  · exact (useG_engaged ..).trans (physTouch_engaged ..)
  · exact useG_engaged ..

theorem used_engaged (s : State) : Engaged near s s.used := .of_store rfl rfl

theorem spendBuffer_engaged (s : State) (w : List Word) : Engaged near s (spendBuffer s w) := .of_store rfl rfl

/-! ### Reductions -/

theorem readUnits_engaged (s : State) (src z n : Nat) : Engaged near s (readUnits s src z n) :=
  (Engaged.foldl (fun s j => useG_engaged s (src + j * z)) _ s).trans (.foldl (fun s u => physTouch_engaged s (u * 512) 512 false) _ _)

/-- The machine as an element of a reduction leaves it. -/
def ElemEnd.after (s : State) : ElemEnd → State
  | .done t _ => t
  | .failed t _ _ _ => t
  | .held => s

theorem reduceElement_engaged (read s : State) (c : Reduce) (j : Nat) : Engaged near s ((reduceElement read s c j).after s) := by
  unfold reduceElement
  dsimp only
  split
  · exact .refl near s
  · exact .refl near s
  · split
    · exact engRefused_engaged ..
    · exact .refl near s
    next h => exact engWrite_engaged h

theorem reduceElements_engaged {read : State} {c : Reduce} {js : List Nat} {s u : State} {f f' : Fl} {err err' : Option (Nat × Nat × Nat)}
    (h : reduceElements read c js s f err = some (u, f', err')) : Engaged near s u := by
  induction js generalizing s f err with
  | nil =>
    cases h
    exact .refl near _
  | cons j js ih =>
    have helem := reduceElement_engaged (near := near) read s c j
    rw [reduceElements] at h
    generalize reduceElement read s c j = r at h helem
    cases r with
    | held => cases h
    | done t f1 => exact helem.trans (ih h)
    | failed t f1 which status => exact helem.trans (ih h)

theorem reduceRun_engaged {s u : State} {w : List Word} {word : Word} {ok : Bool} (h : reduceRun s w = some (u, word, ok)) : Engaged near s u := by
  have hbegin : Engaged near s ((reduceOf w).srcs.foldl (fun s b => readUnits s b (efBits (reduceOf w).ef / 8) (reduceOf w).n)
      (if (reduceStart s w (reduceOf w).n).2.isSome then spendBuffer s w else s)) :=
    (Engaged.ite (spendBuffer_engaged s w) (.refl near s)).trans
      (.foldl (f := fun (s : State) (b : Nat) => readUnits s b (efBits (reduceOf w).ef / 8) (reduceOf w).n) (fun s b => readUnits_engaged s b _ _) _ _)
  unfold reduceRun at h
  split at h
  · dsimp only at h
    split at h
    · cases h
    next hrun =>
      cases h
      exact hbegin.trans (reduceElements_engaged hrun)
    next hrun =>
      cases h
      exact hbegin.trans (reduceElements_engaged hrun)
  · cases h
    exact .refl near s

end Accesses

/-! ### Merges -/

theorem writeKeys_engaged (s : State) (ks : List Nat) (bs : List Byte) : Engaged false s (writeKeys s ks bs) := by
  refine ⟨rfl, fun ⟨hmem, hpeer, hfield⟩ => ⟨hmem, hpeer, ?_⟩, fun h => absurd h Bool.false_ne_true⟩
  exact List.foldlRecOn (motive := fun m => Memory.wf m = true) (ks.zip bs) _ hfield fun m hm p _ => Memory.wf_wrByte m p.1 p.2 hm

theorem mergeWrite_engaged {s t : State} {a off : Nat} {bs : List Byte} (h : mergeWrite s a off bs = .ok t) : Engaged false s t := by
  unfold mergeWrite at h
  split at h
  · exact engWrite_engaged h
  · split at h
    · cases h
    · split at h
      · cases h
      · cases h
        exact writeKeys_engaged ..

theorem mergeRefused_engaged (s : State) (a off n : Nat) : Engaged false s (mergeRefused s a off n) := .ite (engRefused_engaged ..) (.refl _ s)

/-- The machine as a row that is written leaves it. -/
def rowAfter : Except (State × Nat × EngStop) State → State
  | .ok t => t
  | .error x => x.1

theorem writeRow_engaged (w : List Word) (z : Nat) (l : List (Nat × Nat)) (s : State) (p : Nat) : Engaged false s (rowAfter (writeRow s w z p l)) := by
  induction l generalizing s p with
  | nil => exact .refl _ s
  | cons x l ih =>
    obtain ⟨j, v⟩ := x
    rw [writeRow]
    split
    · exact mergeRefused_engaged ..
    next h =>
      have hcol := mergeWrite_engaged h
      split
      · exact hcol.trans (mergeRefused_engaged ..)
      next h' => exact (hcol.trans (mergeWrite_engaged h')).trans (ih _ _)

/-- The machine as a pass leaves it. -/
def PassEnd.after (s : State) : PassEnd → State
  | .held => s
  | .ended t _ _ _ _ => t

theorem passStop_engaged {s t : State} (h : Engaged false s t) (f : Fl) (which index : Nat) (e : EngStop) :
    Engaged false s ((passStop t f which index e).after s) := by
  cases e with
  | hold => exact .refl _ s
  | status n => exact h

theorem PassEnd.after_engaged {s t : State} {e : PassEnd} (h : Engaged false s t) (he : Engaged false t (e.after t)) : Engaged false s (e.after s) := by
  cases e with
  | held => exact .refl _ s
  | ended u status f which index => exact h.trans he

theorem mergeRows_engaged (w : List Word) (c : Merge) (pa pb pc : List (Except EngStop Nat)) (rs : List Nat) (s : State) (f : Fl) (total : Nat) :
    Engaged false s ((mergeRows w c pa pb pc rs s f total).after s) := by
  induction rs generalizing s f total with
  | nil =>
    rw [mergeRows]
    split
    · exact .refl _ s
    · split
      next h => exact mergeWrite_engaged h
      · exact passStop_engaged (mergeRefused_engaged ..) ..
  | cons r rs ih =>
    rw [mergeRows]
    split
    · exact passStop_engaged (.refl _ s) ..
    next as bs _ =>
      dsimp only
      split
      · split
        · exact passStop_engaged (.refl _ s) ..
        next p q _ =>
          have hrow := writeRow_engaged w (efBits c.ef / 8) (mergeRow c as bs).1 s p
          split
          · exact .refl _ s
          · split
            next h =>
              rw [h] at hrow
              exact passStop_engaged hrow ..
            next h =>
              rw [h] at hrow
              exact PassEnd.after_engaged hrow (ih ..)
      · split
        · exact passStop_engaged (mergeRefused_engaged ..) ..
        next h => exact PassEnd.after_engaged (mergeWrite_engaged h) (ih ..)

theorem mergePass_engaged (s : State) (w : List Word) : Engaged false s ((mergePass s w).after s) := by
  unfold mergePass
  split
  · dsimp only
    split
    · exact .refl _ s
    · split
      · exact .refl _ s
      · split
        · exact .refl _ s
        · split
          · exact passStop_engaged (.refl _ s) ..
          · exact mergeRows_engaged ..
  · exact .refl _ s

theorem countReads_engaged {near : Bool} (s : State) (reads : List (Nat × Nat)) : Engaged near s (countReads s reads) :=
  .foldl (f := fun s (x : Nat × Nat) => engTouch s x.1 x.2) (fun s x => engTouch_engaged s x.1 x.2) _ s

/-! ### Collectives -/

section Collectives
variable {near : Bool}

/-- The machine as a step of a collective engine leaves it, whether it went on or stopped. -/
def collAfter : Except CollStop State → State
  | .ok t => t
  | .error x => x.after

theorem foldlM_engaged {β : Type} {f : State → β → Except CollStop State} (h : ∀ s x, Engaged near s (collAfter (f s x))) (l : List β) (s : State) :
    Engaged near s (collAfter (l.foldlM f s)) := by
  induction l generalizing s with
  | nil => exact .refl near s
  | cons x l ih =>
    have hx := h s x
    rw [List.foldlM_cons]
    cases hr : f s x with
    | error e =>
      rw [hr] at hx
      exact hx
    | ok t =>
      rw [hr] at hx
      exact hx.trans (ih t)

theorem sendWrite_engaged (s : State) (origin va pa : Nat) (bs : List Byte) : Engaged near s (sendWrite s origin va pa bs) :=
  .ite (physWrite_engaged ..) (.of_store rfl rfl)

theorem touchTable_engaged (s : State) (c : Coll) : Engaged near s (touchTable s c) :=
  .foldl (f := fun (s : State) (k : Nat) => engTouch s (c.group + 8 * k) 8) (fun s _ => engTouch_engaged s ..) _ s

theorem touchTerms_engaged (s : State) (c : Coll) (land j : Nat) : Engaged near s (touchTerms s c land j) :=
  .foldl (f := fun (s : State) (q : Nat) => engTouch s (land + q * c.slot + j * c.z) c.z) (fun s _ => engTouch_engaged s ..) _ s

theorem collElement_engaged (p : Nat) (c : Coll) (land q j : Nat) (s : State) : Engaged near s (collAfter (collElement p c land q j s)) := by
  unfold collElement
  dsimp only
  split
  · exact engTouch_engaged ..
  · split
    · exact (engTouch_engaged ..).trans (useG_engaged ..)
    · split
      · exact ((engTouch_engaged ..).trans (useG_engaged ..)).trans (physTouch_engaged ..)
      · exact ((engTouch_engaged ..).trans (useG_engaged ..)).trans (sendWrite_engaged ..)

theorem collSend_engaged (p : Nat) (c : Coll) (t : List (Nat × Nat)) (s : State) : Engaged near s (collAfter (collSend p c t s)) :=
  foldlM_engaged (f := fun s (e : (Nat × Nat) × Nat) => (List.range c.n).foldlM (fun s j => collElement p c e.1.1 e.2 j s) s)
    (fun s e => foldlM_engaged (f := fun s j => collElement p c e.1.1 e.2 j s) (fun s j => collElement_engaged p c e.1.1 e.2 j s) _ s) _ s

theorem collCount_engaged (p : Nat) (c : Coll) (cmd : Command) (cnt q : Nat) (s : State) : Engaged near s (collAfter (collCount p c cmd cnt q s)) := by
  unfold collCount
  split
  · exact .refl near s
  · split
    · exact useG_engaged ..
    · split
      · exact useG_engaged ..
      · split
        · exact (useG_engaged ..).trans (.of_store rfl rfl)
        · split
          · exact ((useG_engaged ..).trans (physTouch_engaged ..)).trans (physStore_engaged ..)
          · exact (useG_engaged ..).trans (physTouch_engaged ..)

theorem collCounts_engaged (p : Nat) (c : Coll) (cmd : Command) (t : List (Nat × Nat)) (s : State) :
    Engaged near s (collAfter (collCounts p c cmd t s)) :=
  foldlM_engaged (f := fun s (e : (Nat × Nat) × Nat) => collCount p c cmd e.1.2 e.2 s) (fun s e => collCount_engaged p c cmd e.1.2 e.2 s) _ s

theorem collResult_engaged (s : State) (status : Nat) (f : Fl) (place : CollPlace) : Engaged near s (collResult s status f place).2 := by
  cases place with
  | source j => exact .of_store rfl rfl
  | destination j => exact .refl near s
  | flag => exact .refl near s
  | other => exact .of_store rfl rfl

end Collectives

end Sys2Proof.Machine
end

section
/-! The engines answer (R393 to R407, R417 to R420). -/
namespace Sys2Proof.Machine

/-! ### A port's commands -/

/-- A command at the port has been replaced: memory, the field and local memory stay. -/
theorem setPort_replaces (s : State) (p : Nat) (x : Port) : (setPort s p x).g.port p = x ∧ sameBytes s (setPort s p x) :=
  ⟨(setPort_port ..).trans (if_pos rfl), fun _ => rfl, fun _ => rfl, fun _ => rfl⟩

/-- A command's result reaches its port, with EV, and no byte changes (R209, R216). -/
theorem finishCommand_answers (s : State) (p : Nat) (c : Command) (r : Word) :
    ((finishCommand s p c r).g.ev = true
      ∧ (finishCommand s p c r).g.port p = { s.g.port p with commands := (s.g.port p).commands.erase c, results := (s.g.port p).results ++ [r] })
      ∧ (finishCommand s p c r).store = s.store ∧ sameBytes s (finishCommand s p c r) :=
  ⟨⟨rfl, (setPort_port ..).trans (if_pos rfl)⟩, rfl, fun _ => rfl, fun _ => rfl, fun _ => rfl⟩

/-- What an engine's step leaves a gang's port with, from what the engine does. -/
theorem occurs_engine {i : Instr} {s : State} {f : State → State} {P : State → Prop} (h : exec i s = eventOp s (engineStep s.g.id f)) (hP : P (f s)) :
    occurs i s P :=
  occurs_of_eventOp h (by rwa [engineStep, onGang_own])

theorem Engaged.port_eq {near : Bool} {s t : State} (h : Engaged near s t) (p : Nat) : t.g.port p = s.g.port p := by rw [h.gang_eq]

theorem sameBytes_of_served {s t : State} (h : onlyServed s t) : sameBytes s t := by
  have hg : t.g = s.g := by
    unfold onlyServed at h
    rw [h]
  exact ⟨sameMem_of_store h.store_eq, sameField_of_store h.store_eq, fun a => by rw [hg]⟩

theorem sameBytes.trans {s t u : State} (h1 : sameBytes s t) (h2 : sameBytes t u) : sameBytes s u := by
  obtain ⟨hmem, hfield, hlocal⟩ := h1
  obtain ⟨hmem', hfield', hlocal'⟩ := h2
  exact ⟨fun a => (hmem' a).trans (hmem a), fun a => (hfield' a).trans (hfield a), fun a => (hlocal' a).trans (hlocal a)⟩

/-! ### Accesses of the engines -/

theorem useG_only (s : State) (va : Nat) : onlyServed s (useG s va) := hubUse_only ..

theorem engTouch_only (s : State) (va n : Nat) : onlyServed s (engTouch s va n) := by
  unfold engTouch
  split
  · exact (useG_only ..).trans (physTouch_only ..)
  · exact useG_only ..

theorem engRefused_only (s : State) (va n : Nat) : onlyServed s (engRefused s va n) := by
  unfold engRefused
  split
  · exact (useG_only ..).trans (physTouch_only ..)
  · exact useG_only ..

theorem countReads_only (s : State) (reads : List (Nat × Nat)) : onlyServed s (countReads s reads) :=
  onlyServed.foldl (fun s (x : Nat × Nat) => engTouch s x.1 x.2) (fun s x => engTouch_only s x.1 x.2) reads s

/-- An engine's translation for local HBM gives an address there (R394). -/
theorem region_of_engTranslate {s : State} {va pa : Nat} {write : Bool} (h : engTranslate s va write true = .ok pa) : region pa = 0 := by
  unfold engTranslate at h
  split at h
  · split at h
    · cases h
    next hnear =>
      cases h
      simpa using hnear
  · cases h
  · cases h

/-- Eight bytes that an engine writes stand in local HBM, and no other byte has changed (R372). -/
theorem engWrite_effect {s u : State} {va pa : Nat} (v : Nat) (h : onlyServed s u) (hpa : engTranslate u va true true = .ok pa)
    (hkept : storeLost u pa 8 = false) :
    ∃ t, engWrite u va (leBytes 8 v) = .ok t ∧ memNat t pa 8 = v % 2 ^ 64 ∧ keepsOthers pa 8 s t := by
  have hlen : (leBytes 8 v).length = 8 := length_leBytes ..
  refine ⟨physWrite (useG u va) pa (leBytes 8 v), ?_, ?_⟩
  · rw [engWrite, hpa]
    dsimp only
    rw [hlen, if_neg (by rw [hkept]; exact Bool.false_ne_true)]
  · have hserved : onlyServed s (physTouch (useG u va) pa 8 true) := (h.trans (useG_only ..)).trans (physTouch_only ..)
    obtain ⟨hbytes, hkeeps⟩ := physStore_home hserved v (region_of_engTranslate hpa) (Nat.le_refl 8)
    rw [physWrite, hlen]
    exact ⟨(congrArg leNat hbytes).trans (leNat_leBytes_mod 8 v), hkeeps⟩

/-! ### Reductions -/

/-- A command that fails its checks is answered with its status, and no access is made (R394). -/
theorem reduceRun_refused {s : State} {w : List Word} (h : reduceCheck w ≠ 0) : reduceRun s w = some (s, resultWord (reduceCheck w) 0 0 0, false) := by
  unfold reduceRun
  split
  next hok => exact absurd hok h
  · rfl

theorem reductionCommand_eq {s u : State} {p : Nat} {c : Command} {word : Word} {ok : Bool} (hfind : findCommand s p 1 0 = some c)
    (hrun : reduceRun s.used c.words = some (u, word, ok)) :
    reductionCommand p s = setPort u p (replaceCommand (u.g.port p) c { c with stage := 1, result := word, doneOk := ok }) := by
  rw [reductionCommand, hfind]
  dsimp only
  rw [hrun]

theorem reductionComplete_plain {s : State} {p : Nat} {c : Command} (hfind : findCommand s p 1 1 = some c)
    (h : (reduceOf c.words).flag = 0 ∨ c.doneOk = false) : reductionComplete p s = finishCommand s.used p c c.result := by
  rw [reductionComplete, hfind]
  exact if_neg (by rcases h with h | h <;> simp [h])

theorem reductionComplete_flag {s : State} {p : Nat} {c : Command} (hfind : findCommand s p 1 1 = some c)
    (hflag : (reduceOf c.words).flag ≠ 0) (hdone : c.doneOk = true) :
    (∀ t, writeFlag s.used (reduceOf c.words).flag (reduceOf c.words).fval = .ok t → reductionComplete p s = finishCommand t p c c.result)
    ∧ ∀ n, writeFlag s.used (reduceOf c.words).flag (reduceOf c.words).fval = .error (.status n) →
      reductionComplete p s
        = finishCommand (engRefused s.used (reduceOf c.words).flag 8) p c (resultWord n (bitsOf c.result.toNat 8 5) 17 0) := by
  have hguard : (c.doneOk && (reduceOf c.words).flag != 0) = true := by simp [hdone, hflag]
  constructor
  · intro t ht
    rw [reductionComplete, hfind]
    dsimp only
    rw [if_pos hguard, ht]
  · intro n hn
    rw [reductionComplete, hfind]
    dsimp only
    rw [if_pos hguard, hn]

/-! ### Merges -/

theorem mergePass_refused {s u : State} {w : List Word} {status which index : Nat} {f : Fl} (h : (mergeCheck w).1 ≠ 0)
    (hpass : mergePass s w = .ended u status f which index) : u = s ∧ status = (mergeCheck w).1 := by
  unfold mergePass at hpass
  split at hpass
  next hok => exact absurd (congrArg Prod.fst hok) h
  next hbad =>
    cases hpass
    exact ⟨rfl, (congrArg Prod.fst hbad).symm⟩

/-- The machine once the accesses of a pass have been counted (R406, R444). -/
def passCounted (w : List Word) (u : State) (reads : List (Nat × Nat)) : State :=
  if (mergeCheck w).1 = 0 then spendBuffer (countReads u reads) w else countReads u reads

theorem passCounted_keeps (w : List Word) (u : State) (reads : List (Nat × Nat)) :
    (passCounted w u reads).g = u.g ∧ sameBytes u (passCounted w u reads) := by
  have hcount := countReads_only u reads
  have hg : (countReads u reads).g = u.g := by
    unfold onlyServed at hcount
    rw [hcount]
  unfold passCounted
  split
  · exact ⟨hg, (sameBytes_of_served hcount).trans ⟨fun _ => rfl, fun _ => rfl, fun _ => rfl⟩⟩
  · exact ⟨hg, sameBytes_of_served hcount⟩

theorem mergeCommand_eq {s u : State} {p status which index : Nat} {c : Command} {f : Fl} (hfind : findCommand s p 2 0 = some c)
    (hfree : unitBusy s.g (bitsOf (cmdWord c.words 0) 4 12) < 4) (hpass : mergePass s.used c.words = .ended u status f which index) :
    ∃ v, v.g = u.g ∧ sameBytes u v ∧ mergeCommand (mergeOf c.words).write p s
      = setPort v p (replaceCommand (v.g.port p) c
          { c with stage := 1, result := resultWord status f.toNat which index, doneOk := status == 0 }) := by
  obtain ⟨hg, hbytes⟩ := passCounted_keeps c.words u (mergeReads s.used c.words status index)
  refine ⟨passCounted c.words u (mergeReads s.used c.words status index), hg, hbytes, ?_⟩
  have hbusy : ¬ ((mergeOf c.words).write ≠ (mergeOf c.words).write ∨ 4 ≤ unitBusy s.used.g (bitsOf (cmdWord c.words 0) 4 12)) :=
    not_or.mpr ⟨fun h => h rfl, Nat.not_le.mpr hfree⟩
  rw [mergeCommand, hfind]
  dsimp only
  rw [if_neg hbusy, hpass]
  rfl

theorem mergeComplete_plain {s : State} {p : Nat} {c : Command} (hfind : findCommand s p 2 1 = some c)
    (h : c.doneOk = false ∨ cmdWord c.words 12 = 0) : mergeComplete p s = finishCommand s.used p c c.result := by
  rw [mergeComplete, hfind]
  exact if_neg (by rcases h with h | h <;> simp [h])

theorem mergeComplete_done {s : State} {p : Nat} {c : Command} (hfind : findCommand s p 2 1 = some c) (hdone : c.doneOk = true)
    (hword : cmdWord c.words 12 ≠ 0) :
    (∀ t, mergeDone s.used (cmdWord c.words 12) = .ok t → mergeComplete p s = finishCommand t p c c.result)
    ∧ ∀ n, mergeDone s.used (cmdWord c.words 12) = .error (.status n) → ∃ u, onlyServed s.used u
      ∧ mergeComplete p s = finishCommand u p c (resultWord n (bitsOf c.result.toNat 8 5) 9 0) := by
  have hguard : (c.doneOk && cmdWord c.words 12 != 0) = true := by simp [hdone, hword]
  constructor
  · intro t ht
    rw [mergeComplete, hfind]
    dsimp only
    rw [if_pos hguard, ht]
  · intro n hn
    refine ⟨if addrIsG (cmdWord c.words 12) then engTouch s.used (addrOf (cmdWord c.words 12)) 8 else s.used, ?_, ?_⟩
    · split
      · exact engTouch_only ..
      · exact .refl _
    · rw [mergeComplete, hfind]
      dsimp only
      rw [if_pos hguard, hn]

/-- The add at DONE in local HBM (R407). -/
theorem mergeDone_global {s : State} {done pa : Nat} (hG : 2 ^ 63 ≤ done) (hread : engTranslate s (done % 2 ^ 48) false true = .ok pa)
    (hwrite : engTranslate s (done % 2 ^ 48) true true = .ok pa) (hsound : sound s = true) :
    ∃ t, mergeDone s done = .ok t ∧ memNat t pa 8 = (memNat s pa 8 + 1) % 2 ^ 64 ∧ keepsOthers pa 8 s t := by
  have haddr : addrIsG done = true := decide_eq_true hG
  have hof : addrOf done = done % 2 ^ 48 := if_pos haddr
  have hbytes : mergeRead s done 0 8 = .ok (memBytes s pa 8) := by
    rw [mergeRead, if_pos haddr, hof, Nat.add_zero, engRead, hread]
    show (match physPeek s pa 8 with | some bs => Except.ok bs | none => .error (EngStop.status 4)) = _
    rw [physPeek_sound hsound]
  have hserved : onlyServed s (physTouch (useG s (done % 2 ^ 48)) pa 8 true) := (useG_only ..).trans (physTouch_only ..)
  obtain ⟨hnew, hkeeps⟩ := physStore_home hserved ((memNat s pa 8 + 1) % 2 ^ 64) (region_of_engTranslate hwrite) (Nat.le_refl 8)
  refine ⟨_, ?_, (congrArg leNat hnew).trans (leNat_leBytes 8 _ (Nat.mod_lt _ (by decide))), hkeeps⟩
  rw [mergeDone, hbytes]
  show (if addrIsG done = true then _ else _) = _
  rw [if_pos haddr, hof, hwrite]
  rfl

/-- The add at DONE in the field (R407). -/
theorem mergeDone_field {s : State} {done : Nat} {ks : List Nat} (hF : done < 2 ^ 63) (hread : fieldKeys s false (done % 2 ^ 32) 8 = some ks)
    (hwrite : fieldKeys s true (done % 2 ^ 32) 8 = some ks) (hgood : keysBad s ks = false) :
    mergeDone s done = .ok (writeKeys s ks (leBytes 8 ((leNat (ks.map (rdByte s.field)) + 1) % 2 ^ 64))) := by
  have haddr : addrIsG done = false := decide_eq_false (Nat.not_le.mpr hF)
  have hof : addrOf done = done % 2 ^ 32 := if_neg (by rw [haddr]; exact Bool.false_ne_true)
  have hpart : keysPart s ks = false := by
    rw [keysBad_eq_false] at hgood
    simp only [keysPart, List.any_eq_false, Bool.and_eq_true, List.contains_iff_mem, not_and]
    exact fun k hk hbad => absurd hbad (hgood k hk)
  have hbytes : mergeRead s done 0 8 = .ok (ks.map (rdByte s.field)) := by
    rw [mergeRead, haddr, if_neg Bool.false_ne_true, hof, Nat.add_zero, hread]
    exact if_neg (by rw [hgood]; exact Bool.false_ne_true)
  have hlen : (leBytes 8 ((leNat (ks.map (rdByte s.field)) + 1) % 2 ^ 64)).length = 8 := length_leBytes ..
  rw [mergeDone, hbytes]
  show (if addrIsG done = true then _ else mergeWrite s done 0 _) = _
  rw [haddr, if_neg Bool.false_ne_true, mergeWrite, haddr, if_neg Bool.false_ne_true, hof, Nat.add_zero, hlen, hwrite]
  exact if_neg (by rw [hpart]; exact Bool.false_ne_true)

/-! ### Collectives -/

theorem collCommand_refused {s : State} {p : Nat} {c : Command} (hfind : (commandsAt (s.g.port p) 3 0).head? = some c)
    (hidle : collBegun (s.g.port p) = none) (hbad : collWords c.words ≠ 0) :
    collCommand (collOf c.words).scatter p s
      = setPort s p (replaceCommand (s.g.port p) c { c with stage := 2, result := resultWord (collWords c.words) 0 0 0 }) := by
  have hbegin : ¬ ((collOf c.words).scatter ≠ (collOf c.words).scatter ∨ (collBegun (s.g.port p)).isSome = true) := by simp [hidle]
  rw [collCommand, hfind]
  dsimp only
  rw [if_neg hbegin]
  split
  next hok => exact absurd hok hbad
  · rfl

theorem collCommand_sends {s u : State} {p : Nat} {c : Command} {tb : List (Nat × Nat)} (hfind : (commandsAt (s.g.port p) 3 0).head? = some c)
    (hidle : collBegun (s.g.port p) = none) (hok : collWords c.words = 0) (hbuffer : bufferBad s c.words = false)
    (htable : groupTable s (collOf c.words) = .ok tb) (hcheck : collTable (collOf c.words) tb = 0)
    (hsend : collSend p (collOf c.words) tb (touchTable s (collOf c.words)) = .ok u) :
    collCommand (collOf c.words).scatter p s = setPort u p (replaceCommand (u.g.port p) c { c with stage := 1 }) := by
  have hbegin : ¬ ((collOf c.words).scatter ≠ (collOf c.words).scatter ∨ (collBegun (s.g.port p)).isSome = true) := by simp [hidle]
  rw [collCommand, hfind]
  dsimp only
  rw [if_neg hbegin, hok, hbuffer, if_neg Bool.false_ne_true, htable]
  dsimp only
  rw [hcheck, hsend]
  rfl

theorem collGive_eq (s : State) (p : Nat) (c : Command) : collGive s p c = if collUnacked s p = true then s else finishCommand s p c c.result := rfl

/-- A command that has ended gives its result (R136). -/
theorem collectiveWaitComplete_ended {s : State} {p : Nat} {c : Command} (hbegun : collBegun (s.g.port p) = some c) (hstage : c.stage = 2) :
    collectiveWaitComplete p s = collGive s p c := by
  rw [collectiveWaitComplete, hbegun]
  exact if_pos hstage

/-- What a step makes of a command that has not ended: its wait, and the result of a command that the wait ended (R417, R420). -/
def afterWait (p : Nat) (t : State) : State :=
  (collBegun (t.g.port p)).elim t fun c => if c.stage = 2 then collGive t p c else t

theorem collectiveWaitComplete_waits {s : State} {p : Nat} {c : Command} (hbegun : collBegun (s.g.port p) = some c) (hstage : c.stage ≠ 2) :
    collectiveWaitComplete p s = afterWait p (collWait p c s) := by
  rw [collectiveWaitComplete, hbegun]
  dsimp only
  rw [if_neg hstage, afterWait]
  cases collBegun ((collWait p c s).g.port p) <;> rfl

theorem afterWait_unacked {t : State} {p : Nat} (h : collUnacked t p = true) : afterWait p t = t := by
  unfold afterWait
  cases collBegun (t.g.port p) with
  | none => rfl
  | some c =>
    show (if c.stage = 2 then collGive t p c else t) = t
    rw [collGive_eq, if_pos h, ite_self]

theorem afterWait_none {t : State} {p : Nat} (h : collBegun (t.g.port p) = none) : afterWait p t = t := by
  rw [afterWait, h]
  rfl

theorem afterWait_going {t : State} {p : Nat} {c : Command} (h : collBegun (t.g.port p) = some c) (hstage : c.stage ≠ 2) : afterWait p t = t := by
  rw [afterWait, h]
  exact if_neg hstage

/-- The own counter of a collective command (R417). -/
def ownCounter (tb : List (Nat × Nat)) (c : Coll) : Nat := ((tb[c.rank]?).getD (0, 0)).2

section Wait
variable {s : State} {p : Nat} {c : Command} {tb : List (Nat × Nat)} (hperformed : collUnacked s p = false)
  (htable : groupTable s (collOf c.words) = .ok tb)
include hperformed htable

theorem collWait_adds {u : State} (hdone : c.doneOk = false) (hcounts : collCounts p (collOf c.words) c tb s = .ok u)
    (hunacked : collUnacked u p = true) :
    collWait p c s = setPort u p (replaceCommand (u.g.port p) c { c with doneOk := true }) := by
  have hadd : collAdd p c (collOf c.words) tb s = setPort u p (replaceCommand (u.g.port p) c { c with doneOk := true }) := by
    rw [collAdd, hcounts]
  have hwaits : collUnacked (setPort u p (replaceCommand (u.g.port p) c { c with doneOk := true })) p = true := hunacked
  rw [collWait]
  dsimp only
  rw [hperformed, if_neg Bool.false_ne_true, htable]
  dsimp only
  rw [hdone, if_neg Bool.false_ne_true, hadd, if_pos hwaits]

theorem collWait_rest (hdone : c.doneOk = true) : collWait p c s = collRest p c (collOf c.words) tb s := by
  rw [collWait]
  dsimp only
  rw [hperformed, if_neg Bool.false_ne_true, htable]
  exact if_pos hdone

end Wait

theorem collRest_waits {s : State} {p : Nat} {c : Command} {k : Coll} {tb : List (Nat × Nat)} (h : collArrived s k tb = .ok false) :
    collRest p c k tb s = s := by
  rw [collRest, h]

theorem collRest_arrived {s u : State} {p : Nat} {c : Command} {k : Coll} {tb : List (Nat × Nat)} (h : collArrived s k tb = .ok true)
    (hfinish : collFinish p c k tb (engTouch s (ownCounter tb k) 8) = .ok u) : collRest p c k tb s = u := by
  unfold ownCounter at hfinish
  rw [collRest, h]
  dsimp only
  rw [hfinish]

section Finish
variable {s : State} {p : Nat} {c : Command} {k : Coll} {tb : List (Nat × Nat)} (hgather : k.scatter = false)
include hgather

theorem collFinish_nak {r : Nat} {rs : List Nat} (h : c.nak = r :: rs) :
    collFinish p c k tb s = .ok (finishCommand s p c (resultWord 9 0 0 (rs.foldl min r))) := by
  unfold collFinish
  rw [hgather, h]
  rfl

theorem collFinish_plain (h : c.nak = []) (hflag : k.flag = 0) : collFinish p c k tb s = .ok (finishCommand s p c (resultWord 0 0 0 0)) := by
  unfold collFinish
  rw [hgather, h, hflag]
  rfl

theorem collFinish_flag {t : State} (h : c.nak = []) (hflag : k.flag ≠ 0) (hwrite : writeFlag s k.flag k.fval = .ok t) :
    collFinish p c k tb s = .ok (finishCommand t p c (resultWord 0 0 0 0)) := by
  unfold collFinish
  rw [hgather, h]
  show ((if k.flag = 0 then Except.ok s else match writeFlag s k.flag k.fval with
      | .ok t => .ok t
      | .error e => .error { after := engRefused s k.flag 8, flags := 0, stop := e, place := .flag }) >>= fun t =>
        Except.ok (finishCommand t p c (resultWord 0 0 0 0)) : Except CollStop State) = _
  rw [if_neg hflag, hwrite]
  rfl

end Finish

/-! ### The steps -/

theorem exec_reductionCommand (gang : Nat) (p : BitVec 4) (s : State) :
    exec (.reductionCommand gang p) s = eventOp s (engineStep gang (reductionCommand p.toNat)) := rfl

theorem exec_reductionComplete (gang : Nat) (p : BitVec 4) (s : State) :
    exec (.reductionComplete gang p) s = eventOp s (engineStep gang (reductionComplete p.toNat)) := rfl

theorem exec_mergePasses (gang : Nat) (p : BitVec 4) (s : State) (write : Bool) :
    exec (if write = true then .mergeWritePass gang p else .mergeCountPass gang p) s = eventOp s (engineStep gang (mergeCommand write p.toNat)) := by
  cases write <;> rfl

theorem exec_mergeComplete (gang : Nat) (p : BitVec 4) (s : State) :
    exec (.mergeComplete gang p) s = eventOp s (engineStep gang (mergeComplete p.toNat)) := rfl

theorem exec_collectives (gang : Nat) (p : BitVec 4) (s : State) (scatter : Bool) :
    exec (if scatter = true then .reduceScatter gang p else .allGather gang p) s = eventOp s (engineStep gang (collCommand scatter p.toNat)) := by
  cases scatter <;> rfl

theorem exec_collectiveWaitComplete (gang : Nat) (p : BitVec 4) (s : State) :
    exec (.collectiveWaitComplete gang p) s = eventOp s (engineStep gang (collectiveWaitComplete p.toNat)) := rfl

/-- A finished command: what stands at the port, and the bytes of the machine that the result met. -/
theorem finishCommand_of_served {s u : State} (h : onlyServed s u) (p : Nat) (c : Command) (r : Word) :
    sameBytes s (finishCommand u p c r) ∧ (finishCommand u p c r).g.ev = true
      ∧ (finishCommand u p c r).g.port p = { s.g.port p with commands := (s.g.port p).commands.erase c, results := (s.g.port p).results ++ [r] } := by
  obtain ⟨⟨hev, hport⟩, -, hbytes⟩ := finishCommand_answers u p c r
  exact ⟨(sameBytes_of_served h).trans hbytes, hev, hport.trans (by rw [(h.engaged (near := true)).port_eq])⟩

/-- A finished command whose engine has written eight bytes. -/
theorem finishCommand_of_written {s u : State} {pa v : Nat} (hvalue : memNat u pa 8 = v) (hkeeps : keepsOthers pa 8 s u) (p : Nat) (c : Command)
    (r : Word) :
    let t := finishCommand u p c r
    (t.g.ev = true ∧ t.g.port p = { s.g.port p with commands := (s.g.port p).commands.erase c, results := (s.g.port p).results ++ [r] })
      ∧ memNat t pa 8 = v ∧ memKept pa 8 s t ∧ sameField s t := by
  obtain ⟨⟨hev, hport⟩, hstore, hmem, hfield, -⟩ := finishCommand_answers u p c r
  obtain ⟨hkept, hg, hsame⟩ := hkeeps
  refine ⟨⟨hev, hport.trans (by rw [hg])⟩, ?_, fun x hx => (hmem x).trans (hkept x hx), fun a => (hfield a).trans (hsame a)⟩
  rw [memNat, memBytes_of_store hstore]
  exact hvalue

/-- A command that stays at its port while its engine's accesses are performed. -/
theorem setPort_of_engaged {s u : State} (h : Engaged true s u) (p : Nat) (x : Port) :
    sameMem u (setPort u p x) ∧ sameField s (setPort u p x) ∧ sameLocal s (setPort u p x) ∧ (setPort u p x).g.port p = x := by
  obtain ⟨hport, hmem, hfield, hlocal⟩ := setPort_replaces u p x
  exact ⟨hmem, fun a => (hfield a).trans (h.sameField a), fun a => (hlocal a).trans (h.sameLocal a), hport⟩

/-- Settles O33: each engine's step does what its command and its accesses say. -/
theorem enginesAnswerEveryCommandOnce : Obligations.EnginesAnswerEveryCommandOnce := by
  unfold Obligations.EnginesAnswerEveryCommandOnce
  intro s q p id x begun answered
  have hused : onlyServed s.used s.used := .refl s.used
  refine ⟨fun c hfind => ⟨fun hbad => occurs_engine (exec_reductionCommand ..) ?_, fun u word ok hrun => occurs_engine (exec_reductionCommand ..) ?_⟩,
    fun c hfind => ?_, fun c u status f which index hfind hfree hpass => occurs_engine (exec_mergePasses ..) ?_, fun c hfind => ?_,
    fun c hfind hidle => ?_, fun c hbegun hstage => ?_, fun c tb hbegun hstage htable hperformed => ?_⟩
  · rw [reductionCommand_eq hfind (reduceRun_refused hbad)]
    exact setPort_replaces ..
  · have hengaged : Engaged true s u := (used_engaged s).trans (reduceRun_engaged hrun)
    rw [reductionCommand_eq hfind hrun, hengaged.port_eq]
    obtain ⟨hmem, hfield, hlocal, hport⟩ := setPort_of_engaged hengaged p (replaceCommand x c { c with stage := 1, result := word, doneOk := ok })
    exact ⟨hport, hmem, hfield, hlocal⟩
  · refine ⟨fun h => occurs_engine (exec_reductionComplete ..) ?_, fun hflag hdone => ?_⟩
    · rw [reductionComplete_plain hfind h]
      exact finishCommand_of_served hused ..
    · obtain ⟨hwritten, hrefused⟩ := reductionComplete_flag hfind hflag hdone
      refine ⟨fun pa hpa hkept => occurs_engine (exec_reductionComplete ..) ?_, fun n hn => occurs_engine (exec_reductionComplete ..) ?_⟩
      · obtain ⟨t, hwrite, hvalue, hkeeps⟩ := engWrite_effect (reduceOf c.words).fval hused hpa hkept
        rw [hwritten t hwrite]
        obtain ⟨hanswer, hflagged, hothers, -⟩ := finishCommand_of_written hvalue hkeeps p c c.result
        exact ⟨hanswer, hflagged, hothers⟩
      · rw [hrefused n hn]
        exact (finishCommand_of_served (engRefused_only s.used (reduceOf c.words).flag 8) ..).symm
  · obtain ⟨v, hg, ⟨hmem, hfield, hlocal⟩, heq⟩ := mergeCommand_eq hfind hfree hpass
    have hengaged : Engaged false s u := by
      have h := mergePass_engaged s.used c.words
      rw [hpass] at h
      exact (used_engaged s).trans h
    rw [heq, hg, hengaged.port_eq]
    obtain ⟨hport, hmem', hfield', hlocal'⟩ := setPort_replaces v p (replaceCommand x c
      { c with stage := 1, result := resultWord status f.toNat which index, doneOk := status == 0 })
    refine ⟨hport, fun a => (hmem' a).trans (hmem a), fun a => (hfield' a).trans (hfield a), fun hbad => ?_⟩
    obtain ⟨rfl, hstatus⟩ := mergePass_refused hbad hpass
    exact ⟨hstatus, fun a => (hmem' a).trans (hmem a), fun a => (hfield' a).trans (hfield a), fun a => (hlocal' a).trans (hlocal a)⟩
  · refine ⟨fun h => occurs_engine (exec_mergeComplete ..) ?_, fun hdone hword => ?_⟩
    · rw [mergeComplete_plain hfind h]
      exact finishCommand_of_served hused ..
    · obtain ⟨hadded, hrefused⟩ := mergeComplete_done hfind hdone hword
      refine ⟨fun pa hG hread hwrite hhealthy => occurs_engine (exec_mergeComplete ..) ?_,
        fun ks hF hread hwrite hnodup hgood => occurs_engine (exec_mergeComplete ..) ?_, fun n hn => occurs_engine (exec_mergeComplete ..) ?_⟩
      · obtain ⟨hsound, -⟩ := hhealthy
        obtain ⟨t, hadd, hvalue, hkeeps⟩ := mergeDone_global hG hread hwrite hsound
        rw [hadded t hadd]
        obtain ⟨hanswer, hsum, hothers, hfield⟩ := finishCommand_of_written hvalue hkeeps p c c.result
        exact ⟨hanswer, hfield, hsum, hothers⟩
      · rw [hadded _ (mergeDone_field hF hread hwrite hgood)]
        obtain ⟨hanswer, -, hmem, hfield, -⟩ := finishCommand_answers
          (writeKeys s.used ks (leBytes 8 ((leNat (ks.map (rdByte s.field)) + 1) % 2 ^ 64))) p c c.result
        refine ⟨hanswer, hmem, fun j hj => ?_, fun k hk => (hfield k).trans (rdByte_writeKeys_notMem _ _ _ hk)⟩
        have hlen : ks.length = 8 := length_of_fieldKeys hread
        have hkey : (ks.getD j 0, j) ∈ ks.zipIdx := by
          rw [List.mem_zipIdx_iff_getElem?, List.getD_eq_getElem?_getD, List.getElem?_eq_getElem (hlen ▸ hj)]
          rfl
        refine (hfield _).trans ((rdByte_writeKeys_mem (hlen.trans (length_leBytes ..).symm) hnodup hkey).trans ?_)
        rw [getElem_leBytes, byteOf, w64, BitVec.toNat_ofNat]
      · obtain ⟨u, hserved, heq⟩ := hrefused n hn
        rw [heq]
        exact (finishCommand_of_served hserved p c (resultWord n (bitsOf c.result.toNat 8 5) 9 0)).symm
  · refine ⟨fun hbad => occurs_engine (exec_collectives ..) ?_,
      fun tb u hok hbuffer htable hcheck hsend => occurs_engine (exec_collectives ..) ?_⟩
    · rw [collCommand_refused hfind hidle hbad]
      exact (setPort_replaces ..).symm
    · have hengaged : Engaged true s u := by
        have h := collSend_engaged (near := true) p (collOf c.words) tb (touchTable s (collOf c.words))
        rw [hsend] at h
        exact (touchTable_engaged ..).trans h
      rw [collCommand_sends hfind hidle hok hbuffer htable hcheck hsend, hengaged.port_eq]
      obtain ⟨hmem, hfield, -, hport⟩ := setPort_of_engaged hengaged p (replaceCommand x c { c with stage := 1 })
      exact ⟨hmem, hfield, rfl, hport⟩
  · have heq := collectiveWaitComplete_ended hbegun hstage
    rw [collGive_eq] at heq
    refine ⟨fun hperformed => occurs_engine (exec_collectiveWaitComplete ..) ?_, fun hunacked => occurs_engine (exec_collectiveWaitComplete ..) ?_⟩
    · rw [heq, if_neg (by rw [hperformed]; exact Bool.false_ne_true)]
      exact finishCommand_of_served (.refl s) ..
    · rw [heq, if_pos hunacked]
  · intro own flag
    have heq := collectiveWaitComplete_waits hbegun hstage
    refine ⟨fun u hdone hcounts hunacked => occurs_engine (exec_collectiveWaitComplete ..) ?_,
      fun hdone harrived => occurs_engine (exec_collectiveWaitComplete ..) ?_, fun hdone harrived hgather hlast => ?_⟩
    · have hengaged : Engaged true s u := by
        have h := collCounts_engaged (near := true) p (collOf c.words) c tb s
        rw [hcounts] at h
        exact h
      have hwaits : collUnacked (setPort u p (replaceCommand (u.g.port p) c { c with doneOk := true })) p = true := hunacked
      rw [heq, collWait_adds hperformed htable hdone hcounts hunacked, afterWait_unacked hwaits, hengaged.port_eq]
      obtain ⟨hmem, hfield, -, hport⟩ := setPort_of_engaged hengaged p (replaceCommand x c { c with doneOk := true })
      exact ⟨hmem, hfield, rfl, hport⟩
    · rw [heq, collWait_rest hperformed htable hdone, collRest_waits harrived, afterWait_going hbegun hstage]
    · have hserved : onlyServed s (engTouch s own 8) := engTouch_only ..
      have hfinal : ∀ u r, u.g = s.g → collFinish p c (collOf c.words) tb (engTouch s own 8) = .ok (finishCommand u p c r) →
          collectiveWaitComplete p s = finishCommand u p c r := by
        intro u r hg hfinish
        rw [heq, collWait_rest hperformed htable hdone, collRest_arrived harrived hfinish]
        obtain ⟨⟨-, hport⟩, -⟩ := finishCommand_answers u p c r
        exact afterWait_none (by rw [hport, hg]; exact hlast)
      have htouch : (engTouch s own 8).g = s.g := (engTouch_engaged (near := true) ..).gang_eq
      refine ⟨fun r rs hnak => occurs_engine (exec_collectiveWaitComplete ..) ?_,
        fun hnak hflag => occurs_engine (exec_collectiveWaitComplete ..) ?_,
        fun pa hnak hflag hpa hkept => occurs_engine (exec_collectiveWaitComplete ..) ?_⟩
      · rw [hfinal _ _ htouch (collFinish_nak hgather hnak)]
        exact finishCommand_of_served hserved ..
      · rw [hfinal _ _ htouch (collFinish_plain hgather hnak hflag)]
        exact finishCommand_of_served hserved ..
      · obtain ⟨t, hwrite, hvalue, hkeeps⟩ := engWrite_effect (collOf c.words).fval hserved hpa hkept
        obtain ⟨hothers, hg, hfield⟩ := hkeeps
        rw [hfinal _ _ hg (collFinish_flag hgather hnak hflag hwrite)]
        obtain ⟨hanswer, hflagged, hkeep, -⟩ := finishCommand_of_written hvalue ⟨hothers, hg, hfield⟩ p c (resultWord 0 0 0 0)
        exact ⟨hanswer, hflagged, hkeep⟩

end Sys2Proof.Machine
end

section
/-! How an element of a copy is read, and what its delivery leaves besides its own bytes (R346 to R353). -/
namespace Sys2Proof.Machine

/-! ### Reading the source -/

/-- What reading for a copy leaves of the machine: its data, its words in error, its clusters, and a healthy package. -/
structure OnlyRead (s t : State) : Prop where
  store : t.store = s.store
  bad : t.fieldBad = s.fieldBad
  clusters : t.g.clusters = s.g.clusters
  health : healthy s → healthy t

section OnlyRead
variable {s t u : State}

theorem OnlyRead.refl (s : State) : OnlyRead s s := ⟨rfl, rfl, rfl, id⟩

theorem OnlyRead.trans (h1 : OnlyRead s t) (h2 : OnlyRead t u) : OnlyRead s u :=
  ⟨h2.store.trans h1.store, h2.bad.trans h1.bad, h2.clusters.trans h1.clusters, fun h => h2.health (h1.health h)⟩

theorem onlyServed.onlyRead (h : onlyServed s t) (hhealth : healthy s → healthy t) : OnlyRead s t := by
  refine ⟨h.store_eq, ?_, ?_, hhealth⟩
  · unfold onlyServed at h
    rw [h]
  · unfold onlyServed at h
    rw [h]

end OnlyRead

theorem physTouch_healthy {s : State} (h : healthy s) (pa n : Nat) (write : Bool) : healthy (physTouch s pa n write) := by
  rw [physTouch_sound h.1]
  exact h

theorem hubUse_healthy {s : State} (h : healthy s) (die pasid va : Nat) : healthy (hubUse s die pasid va) := by
  have hfold : ∀ l : List Nat, healthy (l.foldl (fun s a => physTouch s a 8) s) := fun l =>
    List.foldlRecOn (motive := healthy) l _ h fun t ht a _ => physTouch_healthy ht a 8 false
  unfold hubUse
  split
  · exact h
  · dsimp only
    split
    · exact hfold _
    · exact hfold _

theorem physTouch_onlyRead (s : State) (pa n : Nat) (write : Bool) : OnlyRead s (physTouch s pa n write) :=
  (physTouch_only ..).onlyRead fun h => physTouch_healthy h ..

theorem useG_onlyRead (s : State) (va : Nat) : OnlyRead s (useG s va) := onlyServed.onlyRead (hubUse_only ..) fun h => hubUse_healthy h ..

theorem touchPage_onlyRead (c : Copy) (s : State) (va : Nat) : OnlyRead s (c.touchPage s va) := (useG_onlyRead s va).trans ⟨rfl, rfl, rfl, id⟩

theorem refusedAt_onlyRead (s : State) (addr : Int) (e : CopyStop) : OnlyRead s (refusedAt s addr e) := by
  cases e with
  | hold => exact .refl s
  | fault b a code =>
    rw [refusedAt]
    split
    · exact .refl s
    · exact useG_onlyRead ..

theorem copyReadPage_onlyRead (s : State) (c : Copy) (addr : Int) (len : Nat) : OnlyRead s (copyReadPage s c addr len).1 := by
  rw [copyReadPage]
  split
  · exact refusedAt_onlyRead ..
  · split
    · exact .refl s
    · exact (touchPage_onlyRead ..).trans (physTouch_onlyRead ..)

theorem copyBytes_onlyRead (s : State) (c : Copy) (isF : Bool) (addr : Int) (len : Nat) : OnlyRead s (copyBytes s c isF addr len).1 := by
  rw [copyBytes]
  split
  · exact .refl s
  · refine List.foldlRecOn (motive := fun acc : State × Except CopyStop (List (Option Byte)) => OnlyRead s acc.1) (pagePieces addr len) _ (.refl s)
      fun acc hacc x _ => ?_
    obtain ⟨u, e | bs⟩ := acc
    · exact hacc
    · exact OnlyRead.trans hacc (copyReadPage_onlyRead ..)

theorem copyRead_onlyRead (s : State) (c : Copy) (isF : Bool) (addr : Int) (len : Nat) : OnlyRead s (copyRead s c isF addr len).1 := by
  have h := copyBytes_onlyRead s c isF addr len
  rw [copyRead]
  split
  · next hread => rwa [hread] at h
  · next hread => rwa [hread] at h

/-! ### How many bytes are read -/

theorem copyKeys_length {s : State} {addr : Int} {len : Nat} {write : Bool} {ks : List Nat} (h : copyKeys s addr len write = .ok ks) :
    ks.length = len := by
  unfold copyKeys at h
  induction len generalizing ks with
  | zero =>
    cases h
    rfl
  | succ n ih =>
    rw [List.range_succ, List.foldl_append, List.foldl_cons, List.foldl_nil] at h
    split at h
    · cases h
    next ks' hks =>
      dsimp only at h
      split at h
      · cases h
      · split at h
        · cases h
        · cases h
          rw [List.length_append, ih hks, List.length_singleton]

theorem copyReadPage_length {s u : State} {c : Copy} {addr : Int} {len : Nat} {bs : List (Option Byte)}
    (h : copyReadPage s c addr len = (u, .ok bs)) : bs.length = len := by
  rw [copyReadPage] at h
  split at h
  · cases h
  · split at h
    · cases h
    · cases h
      rw [List.length_map, List.length_range]

theorem pagePieces_length (addr : Int) (len : Nat) : ((pagePieces addr len).map Prod.snd).sum = len := by
  unfold pagePieces
  dsimp only
  split
  · simp
  · simp
    omega

theorem copyBytes_length {s u : State} {c : Copy} {isF : Bool} {addr : Int} {len : Nat} {bs : List (Option Byte)}
    (h : copyBytes s c isF addr len = (u, .ok bs)) : bs.length = len := by
  rw [copyBytes] at h
  split at h
  · simp only [Prod.mk.injEq] at h
    obtain ⟨-, h⟩ := h
    cases hk : copyKeys s addr len false with
    | error e =>
      rw [hk] at h
      cases h
    | ok ks =>
      rw [hk] at h
      cases h
      rw [List.length_map, copyKeys_length hk]
  · rw [← pagePieces_length addr len]
    suffices hall : ∀ (l : List (Int × Nat)) (acc : State × Except CopyStop (List (Option Byte))) (n : Nat),
        (∀ bs, acc.2 = .ok bs → bs.length = n) →
        ∀ bs, (l.foldl (fun (acc : State × Except CopyStop (List (Option Byte))) x => match acc with
          | (s, .error e) => (s, .error e)
          | (s, .ok bs) => (let (s, r) := copyReadPage s c x.1 x.2; (s, r.map (bs ++ ·)))) acc).2 = .ok bs →
        bs.length = n + (l.map Prod.snd).sum by
      have h' := hall (pagePieces addr len) (s, .ok []) 0 (fun bs hbs => by cases hbs; rfl) bs (congrArg Prod.snd h)
      rwa [Nat.zero_add] at h'
    intro l
    induction l with
    | nil => exact fun acc n hacc bs h => by simpa using hacc bs h
    | cons x l ih =>
      intro acc n hacc bs h
      have hstep := ih _ (n + x.2) ?_ bs h
      · rw [hstep, List.map_cons, List.sum_cons]
        omega
      · obtain ⟨t, e | now⟩ := acc
        · exact fun bs' h' => nomatch h'
        · intro bs' h'
          dsimp only at h'
          cases hpage : copyReadPage t c x.1 x.2 with
          | mk v r =>
            rw [hpage] at h'
            cases r with
            | error e => cases h'
            | ok more =>
              cases h'
              rw [List.length_append, hacc now rfl, copyReadPage_length hpage]

theorem copyRead_length {s u : State} {c : Copy} {isF bad : Bool} {addr : Int} {len : Nat} {bs : List Byte}
    (h : copyRead s c isF addr len = (u, .ok (bs, bad))) : bs.length = len := by
  rw [copyRead] at h
  split at h
  · cases h
  next hread =>
    simp only [Prod.mk.injEq] at h
    obtain ⟨-, h⟩ := h
    split at h
    · cases h
    · cases h
      rw [List.length_map, copyBytes_length hread]

/-! ### What the ends of an element leave -/

/-- Outside the places that the layouts give the tag plane (R72, R382). -/
def clearOfPlane (y : Nat) : Prop := y < contractLimit ∨ 2 ^ 50 ≤ y

/-- What the tag marks and the ends of frames leave as it was: the field, and the bytes of memory in a set. -/
structure Ended (P : Nat → Prop) (a b : State × Copy) : Prop where
  field : b.1.field = a.1.field
  mem : ∀ y, P y → memByte b.1 y = memByte a.1 y
  clusters : b.1.g.clusters = a.1.g.clusters
  dir : b.2.dir = a.2.dir
  sig : b.2.sig = a.2.sig

/-- Bytes that no tag mark and no signal of a copy reaches: none where it signals, and those clear of the tag plane where it writes memory. -/
structure Untouched (P : Nat → Prop) (a : State × Copy) : Prop where
  quiet : a.2.sig = true → ∀ y, ¬ P y
  clusters : ∀ p ∈ a.1.g.clusters, p < 128
  plane : a.2.dstF = true ∨ ∀ y, P y → clearOfPlane y

section Ended
variable {P : Nat → Prop} {a b d : State × Copy}

theorem Ended.refl (P : Nat → Prop) (a : State × Copy) : Ended P a a := ⟨rfl, fun _ _ => rfl, rfl, rfl, rfl⟩

theorem Ended.trans (h1 : Ended P a b) (h2 : Ended P b d) : Ended P a d :=
  ⟨h2.field.trans h1.field, fun y hy => (h2.mem y hy).trans (h1.mem y hy), h2.clusters.trans h1.clusters, h2.dir.trans h1.dir, h2.sig.trans h1.sig⟩

theorem Untouched.of_ended (h : Untouched P a) (he : Ended P a b) : Untouched P b where
  quiet hsig := h.quiet (he.sig ▸ hsig)
  clusters p hp := h.clusters p (he.clusters ▸ hp)
  plane := by
    have hdst : b.2.dstF = a.2.dstF := by rw [Copy.dstF, Copy.dstF, he.dir]
    exact hdst ▸ h.plane

theorem Ended.of_store {s t : State} {c : Copy} (hstore : t.store = s.store) (hclusters : t.g.clusters = s.g.clusters) : Ended P (s, c) (t, c) :=
  ⟨field_of_store hstore, fun y _ => memByte_of_store hstore y, hclusters, rfl, rfl⟩

/-- A fold of steps, each of which leaves these bytes. -/
theorem Ended.foldl {α β : Type} {proj : α → State × Copy} {f : α → β → α} (l : List β)
    (h : ∀ acc, Untouched P (proj acc) → ∀ x ∈ l, Ended P (proj acc) (proj (f acc x))) (acc : α) (hacc : Untouched P (proj acc)) :
    Ended P (proj acc) (proj (l.foldl f acc)) :=
  List.foldlRecOn (motive := fun r => Ended P (proj acc) (proj r)) l f (.refl P _) fun r hr x hx => hr.trans (h r (hacc.of_ended hr) x hx)

/-- The state moved on and the copy's record changed. -/
theorem Ended.withCopy {s : State} {c c' : Copy} (hdir : c'.dir = c.dir) (hsig : c'.sig = c.sig) : Ended P (s, c) (s, c') :=
  ⟨rfl, fun _ _ => rfl, rfl, hdir, hsig⟩

end Ended

/-- A frame whose tag lies outside a set of bytes: one of the field, or one of local HBM where the set is clear of the tag plane. -/
def tagApart (P : Nat → Prop) (f : Nat) : Prop := f < 2 ^ 32 ∨ f - 2 ^ 32 < 2 ^ 41 ∧ ∀ y, P y → clearOfPlane y

theorem tagHome_bounds (q : Parity) {f : Nat} (hf : f < 2 ^ 41) : contractLimit ≤ tagHome q f ∧ tagHome q f + 8 ≤ 2 ^ 50 := by
  have h1 : contractLimit = 0x77E2000000 := rfl
  have h2 : tagBase11 = 0x83DF000000 := rfl
  unfold tagHome
  dsimp only
  split
  · omega
  · omega

theorem clearOfPlane_apart {s : State} {f y j : Nat} (hf : f < 2 ^ 41) (hy : clearOfPlane y) (hj : j < 8) :
    sameCell s y (tagHome s.parity f + j) = false := by
  obtain ⟨hlow, hhigh⟩ := tagHome_bounds s.parity hf
  have hregion : region (tagHome s.parity f + j) ≠ 1 := by
    unfold region
    omega
  rw [Bool.eq_false_iff]
  intro h
  have heq := (sameCell_local hregion).mp h
  unfold clearOfPlane at hy
  omega

theorem setHbmTag_mem {s : State} {f y : Nat} (t : Word) (hf : f < 2 ^ 41) (hy : clearOfPlane y) : memByte (setHbmTag s f t) y = memByte s y := by
  unfold setHbmTag
  split
  · exact memByte_of_store (physTouch_store ..) y
  · rw [physWrite]
    refine (physStore_outside fun j hj => ?_).trans (memByte_of_store (physTouch_store ..) y)
    rw [sameCell_of_store (physTouch_store ..)]
    exact clearOfPlane_apart hf hy (length_leBytes 8 t.toNat ▸ hj)

theorem setHbmTag_field (s : State) (f : Nat) (t : Word) : (setHbmTag s f t).field = s.field := by
  unfold setHbmTag
  split
  · exact field_of_store (physTouch_store ..)
  · exact (physWrite_engaged (near := true) ..).field rfl

theorem Copied.clusters_eq {s t : State} (h : Copied s t) : t.g.clusters = s.g.clusters := by
  have honly := h.only
  unfold onlyCopied at honly
  rw [honly]

section Ends
variable {P : Nat → Prop}

theorem putFrameTag_ended {f : Nat} (h : tagApart P f) (s : State) (c : Copy) (t : Word) : Ended P (s, c) (putFrameTag s f t, c) := by
  refine ⟨?_, fun y hy => ?_, (putFrameTag_copied ..).clusters_eq, rfl, rfl⟩
  · dsimp only
    unfold putFrameTag
    split
    · rfl
    · exact setHbmTag_field ..
  · dsimp only
    unfold putFrameTag
    split
    · rfl
    next hfar =>
      obtain ⟨hf, hplane⟩ := h.resolve_left hfar
      exact setHbmTag_mem t hf (hplane y hy)

/-- Where a translation leads, whatever the tables say (R70, R360). -/
theorem translate_lt {s : State} {die pasid va pa : Nat} {acc : Access} {leaf : Word} (h : translate s die pasid va acc = .ok pa leaf) :
    pa < 2 ^ 53 := by
  unfold translate at h
  split at h
  · simp at h
  · split at h
    · simp at h
    next e size _ =>
      have hmod : va % size ≤ va := Nat.mod_le ..
      have hentry : entryPa e < 2 ^ 52 := by
        unfold entryPa bitsOf
        omega
      split at h
      · simp at h
      · split at h
        · simp at h
        · split at h
          · simp at h
          · simp only [Trans.ok.injEq] at h
            omega

theorem translateFull_lt {s : State} {die pasid va pa : Nat} {acc : Access} {leaf : Word} (h : translateFull s die pasid va acc = .ok pa leaf) :
    pa < 2 ^ 53 := by
  unfold translateFull at h
  cases htr : translate s die pasid va acc with
  | ok pa' leaf' =>
    rw [htr] at h
    simp only at h
    split at h
    · simp at h
    · simp only [Trans.ok.injEq] at h
      exact h.1 ▸ translate_lt htr
  | _ => simp [htr] at h

theorem copyTranslate_lt {s : State} {addr : Int} {write : Bool} {pa : Nat} (h : copyTranslate s addr write = .ok pa) : pa < 2 ^ 53 := by
  unfold copyTranslate at h
  dsimp only at h
  split at h
  · cases h
  · split at h
    next hfull =>
      cases h
      exact translateFull_lt hfull
    all_goals cases h

/-- No tag of a landing's frames lies among the bytes that the copy leaves. -/
theorem landing_tagApart {s : State} {c : Copy} {addr : Int} {len : Nat} {l : Landing} (h : Untouched P (s, c)) (hl : copyLanding s c addr len = .ok l) :
    ∀ f ∈ l.frames, tagApart P f := by
  unfold copyLanding at hl
  split at hl
  · cases hk : copyKeys s addr len true with
    | error e =>
      rw [hk] at hl
      cases hl
    | ok ks =>
      rw [hk] at hl
      cases hl
      intro f hf
      obtain ⟨k, hk', rfl⟩ := List.mem_map.mp (List.mem_eraseDups.mp hf)
      have hcluster := h.clusters _ (copyKeys_cluster hk k hk')
      exact .inl (by omega)
  next hdst =>
    cases hpa : copyTranslate s addr true with
    | error e =>
      rw [hpa] at hl
      cases hl
    | ok pa =>
      rw [hpa] at hl
      cases hl
      intro f hf
      have hlt := copyTranslate_lt hpa
      rw [Landing.frames] at hf
      split at hf
      · rw [List.mem_singleton] at hf
        exact .inr ⟨by omega, h.plane.resolve_left hdst⟩
      · cases hf

theorem saveTag_fields (c : Copy) (s : State) (f : Nat) : (c.saveTag s f).dir = c.dir ∧ (c.saveTag s f).sig = c.sig := by
  unfold Copy.saveTag
  split <;> exact ⟨rfl, rfl⟩

theorem saveBytes_fields (c : Copy) (ks : List Nat) (now : Nat → Option Byte) :
    (c.saveBytes ks now).dir = c.dir ∧ (c.saveBytes ks now).sig = c.sig := by
  unfold Copy.saveBytes
  split <;> exact ⟨rfl, rfl⟩

theorem staleFrames_ended {s : State} {c : Copy} (h : Untouched P (s, c)) {fs : List Nat} (hfs : ∀ f ∈ fs, tagApart P f) :
    Ended P (s, c) (staleFrames s c fs) := by
  refine Ended.foldl (proj := id) _ (fun acc _ f hf => ?_) (s, c) h
  obtain ⟨hdir, hsig⟩ := saveTag_fields acc.2 acc.1 f
  exact (putFrameTag_ended (hfs f (List.mem_filter.mp hf).1) acc.1 acc.2 _).trans (.withCopy hdir hsig)

theorem poisonTags_ended {s : State} {c : Copy} (h : Untouched P (s, c)) {fs : List Nat} (hfs : ∀ f ∈ fs, tagApart P f) :
    Ended P (s, c) (poisonTags s fs, c) := by
  refine Ended.foldl (proj := fun t => (t, c)) fs (fun acc _ f hf => ?_) s h
  split
  · exact putFrameTag_ended (hfs f hf) ..
  · exact .refl P _

theorem markUe_ended (s : State) (c : Copy) (ch : Nat) : Ended P (s, c) (markUe s ch, c) := .of_store rfl rfl

theorem markIf_ended (s : State) (c : Copy) (ch : Nat) (b : Bool) : Ended P (s, c) (if b then markUe s ch else s, c) := by
  split
  · exact markUe_ended ..
  · exact .refl P _

theorem touchSourceTag_store (s : State) (c : Copy) (a : Nat) : (touchSourceTag s c a).store = s.store := by
  unfold touchSourceTag
  split
  · rfl
  · split
    · split
      · exact physTouch_store ..
      · rfl
    · rfl

theorem touchSourceTag_ended (s : State) (c : Copy) (a : Nat) : Ended P (s, c) (touchSourceTag s c a, c) :=
  .of_store (touchSourceTag_store ..) (touchSourceTag_copied ..).clusters_eq

theorem putFrameTags_ended {s : State} {c : Copy} (h : Untouched P (s, c)) {fs : List Nat} (hfs : ∀ f ∈ fs, tagApart P f) (t : Word) :
    Ended P (s, c) (fs.foldl (fun s f => putFrameTag s f t) s, c) :=
  Ended.foldl (proj := fun t => (t, c)) fs (fun acc _ f hf => putFrameTag_ended (hfs f hf) acc c t) s h

theorem saveTags_fields (c : Copy) (s : State) (fs : List Nat) :
    (fs.foldl (fun c f => c.saveTag s f) c).dir = c.dir ∧ (fs.foldl (fun c f => c.saveTag s f) c).sig = c.sig :=
  List.foldlRecOn (motive := fun d : Copy => d.dir = c.dir ∧ d.sig = c.sig) fs _ ⟨rfl, rfl⟩ fun d hd f _ => by
    obtain ⟨hdir, hsig⟩ := saveTag_fields d s f
    exact ⟨hdir.trans hd.1, hsig.trans hd.2⟩

/-- The tag of a completed frame (R351). -/
theorem frameTag_ended {s : State} {c : Copy} (h : Untouched P (s, c)) (ch d : Nat) :
    Ended P (s, c) ((frameTag s ch c d).1, (frameTag s ch c d).2.1) := by
  rw [frameTag]
  split
  · exact .refl P _
  · have htouched := touchSourceTag_ended (P := P) s c (c.src + (8192 * d - c.dst))
    dsimp only
    split
    · exact htouched
    · have hmarked := htouched.trans (markIf_ended _ c ch ((sourceTag s c (c.src + (8192 * d - c.dst))).getD none).isNone)
      generalize (if ((sourceTag s c (c.src + (8192 * d - c.dst))).getD none).isNone then markUe (touchSourceTag s c (c.src + (8192 * d - c.dst))) ch
        else touchSourceTag s c (c.src + (8192 * d - c.dst))) = u at hmarked ⊢
      split
      · exact hmarked
      next l hl =>
        have hlost := hmarked.trans (markIf_ended u c ch (l.frames.any (frameTagLost u)))
        split
        · exact hmarked
        · have hapart := landing_tagApart (h.of_ended hmarked) hl
          obtain ⟨hdir, hsig⟩ := saveTags_fields c (if l.frames.any (frameTagLost u) = true then markUe u ch else u) l.frames
          exact (hlost.trans (putFrameTags_ended (h.of_ended hlost) hapart _)).trans (.withCopy hdir hsig)

theorem postSignal_field (s : State) (c : Copy) : (postSignal s c).1.field = s.field := by
  have hused : ∀ a, (useG s a).field = s.field := fun a => field_of_store (useG_store s a)
  rw [postSignal]
  split
  · exact field_of_store (refusedAt_onlyRead ..).store
  · rfl
  next pa _ =>
    have hread : (physTouch (useG s c.sigAddr) pa 8).field = s.field := (field_of_store (physTouch_store ..)).trans (hused _)
    dsimp only
    split
    · exact hused _
    · split
      next u bs h =>
        have hu : u = physTouch (useG s c.sigAddr) pa 8 false := (congrArg Prod.fst h).symm
        have hstored : ∀ v w, (physStore v pa w).field = v.field := fun v w => (physStore_engaged (near := true) v pa w).field rfl
        rw [hu]
        exact (hstored _ _).trans hread
      next u h =>
        have hu : u = physTouch (useG s c.sigAddr) pa 8 false := (congrArg Prod.fst h).symm
        rw [hu]
        exact hread

theorem postSignal_ended {s : State} {c : Copy} (h : Untouched P (s, c)) (hsig : c.sig = true) : Ended P (s, c) ((postSignal s c).1, c) :=
  ⟨postSignal_field s c, fun y hy => absurd hy (h.quiet hsig y), (postSignal_copied ..).clusters_eq, rfl, rfl⟩

/-- The end of a frame: its tag, then its signal (R351, R352). -/
theorem finishFrame_ended {s : State} {c : Copy} (h : Untouched P (s, c)) (ch d : Nat) :
    Ended P (s, c) ((finishFrame s ch c d).1, (finishFrame s ch c d).2.1) := by
  have htag := frameTag_ended h ch d
  rw [finishFrame]
  split
  · exact .refl P _
  · split
    next heq => rwa [heq] at htag
    next u c' _ heq =>
      rw [heq] at htag
      have hdone : Ended P (u, c') (u, { c' with posted := c'.posted ++ [d] }) := .withCopy rfl rfl
      dsimp only
      split
      next hsig =>
        have hposted := Ended.trans htag (postSignal_ended (h.of_ended htag) hsig)
        split
        next heq' => rwa [heq'] at hposted
        next heq' => rwa [heq'] at hposted
        next heq' =>
          rw [heq'] at hposted
          exact Ended.trans hposted (.withCopy rfl rfl)
      · exact Ended.trans htag hdone

/-- The ends of the frames that an element completes (R346). -/
theorem finishFrames_ended {s : State} {c : Copy} (h : Untouched P (s, c)) (ch i : Nat) :
    Ended P (s, c) ((finishFrames s ch c i).1, (finishFrames s ch c i).2.1) := by
  have hfold := Ended.foldl (P := P) (proj := fun acc : State × Copy × Except CopyStop Bool => (acc.1, acc.2.1)) (f := fun acc d => match acc with
    | (s, c, .error e) => (s, c, .error e)
    | (s, c, .ok all) => match finishFrame s ch c d with
      | (s, c, .error .hold) => (s, c, .ok false)
      | (s, c, .error e) => (s, c, .error e)
      | (s, c, .ok one) => (s, c, .ok (all && one))) (completedBy s c i) (fun acc hacc d _ => ?_) (s, c, .ok true) h
  · rw [finishFrames]
    refine Ended.trans hfold (.withCopy ?_ ?_)
    · dsimp only
      split <;> rfl
    · dsimp only
      split <;> rfl
  · obtain ⟨u, c', e | all⟩ := acc
    · exact .refl P _
    · have hstep := finishFrame_ended hacc ch d
      dsimp only at hstep ⊢
      generalize finishFrame u ch c' d = r at hstep ⊢
      obtain ⟨v, c'', e | one⟩ := r
      · cases e <;> exact hstep
      · exact hstep

end Ends

end Sys2Proof.Machine
end

section
/-! The steps of a channel (R342, R346 to R356, R391). -/
namespace Sys2Proof.Machine

/-! ### What an element writes -/

theorem Copied.frame {s t : State} (h : Copied s t) : sameLocal s t ∧ sameRegsBut [] s t := by
  have hg : t.g = { s.g with channels := t.g.channels, ev := t.g.ev, walks := t.g.walks } := by
    have honly := h.only
    unfold onlyCopied at honly
    rw [honly]
  exact ⟨fun a => by rw [hg], fun r _ => by rw [hg]; rfl⟩

/-- Bytes stand in memory from an address on, and every other byte stands as it did. -/
def storesBytes (pa : Nat) (bs : List Byte) (s t : State) : Prop :=
  (∀ j (hj : j < bs.length), memByte t (pa + j) = bs[j]) ∧ ∀ y, y < pa ∨ pa + bs.length ≤ y → memByte t y = memByte s y

theorem storesBytes.of_store {pa : Nat} {bs : List Byte} {s t u : State} (h : storesBytes pa bs s t) (hu : u.store = t.store) : storesBytes pa bs s u := by
  obtain ⟨hin, hout⟩ := h
  exact ⟨fun j hj => (memByte_of_store hu _).trans (hin j hj), fun y hy => (memByte_of_store hu y).trans (hout y hy)⟩

theorem storesBytes.from_store {pa : Nat} {bs : List Byte} {s t u : State} (h : storesBytes pa bs t u) (ht : t.store = s.store) :
    storesBytes pa bs s u := by
  obtain ⟨hin, hout⟩ := h
  exact ⟨hin, fun y hy => (hout y hy).trans (memByte_of_store ht y)⟩

/-- Bytes stored in local HBM (R4). -/
theorem setMemBytes_storesBytes (s : State) {pa : Nat} {bs : List Byte} (hr : region pa = 0) (hlen : pa % 2 ^ 50 + bs.length ≤ 2 ^ 50) :
    storesBytes pa bs s (setMemBytes s pa bs) := by
  have hnear : ∀ j < bs.length, region (pa + j) ≠ 1 := by
    intro j hj
    unfold region at hr ⊢
    omega
  refine ⟨fun j hj => memByte_setMemBytes_inside s pa j bs hj fun k hk hjk => ?_, fun y hy => memByte_setMemBytes_outside s pa y bs fun j hj => ?_⟩
  · rw [Bool.eq_false_iff]
    intro h
    have := (sameCell_local (hnear k hk)).mp h
    omega
  · rw [Bool.eq_false_iff]
    intro h
    have := (sameCell_local (hnear j hj)).mp h
    omega

theorem foldl_remapLookup_store (s : State) (ks : List Nat) : (ks.foldl remapLookup s).store = s.store :=
  (onlyServed.foldl remapLookup remapLookup_only ks s).store_eq

theorem stripeComplete_store (s : State) (pa : Nat) : (stripeComplete s pa).store = s.store := rfl

theorem physStripePart_storesBytes (s : State) {pa : Nat} {bs : List Byte} (words : List Nat) (last : Bool) (hr : region pa = 0)
    (hlen : pa % 2 ^ 50 + bs.length ≤ 2 ^ 50) : storesBytes pa bs s (physStripePart s pa bs words last) := by
  rw [physStripePart]
  generalize (List.range 12).filter (fun k => !stackLost s k) = ks
  dsimp only
  generalize awake s ks (placeOf s.parity pa).pc = power
  have hmapped : (if sound { s with channelPower := power } then { s with channelPower := power }
      else ks.foldl remapLookup { s with channelPower := power }).store = s.store := by
    split
    · rfl
    · exact (foldl_remapLookup_store ..).trans rfl
  generalize (if sound { s with channelPower := power } then { s with channelPower := power }
      else ks.foldl remapLookup { s with channelPower := power }) = u at hmapped ⊢
  generalize u.memBad.filter _ = bad
  generalize u.replaced ++ _ = replaced
  have hstored := (setMemBytes_storesBytes { u with replaced := replaced, memBad := bad } hr hlen).from_store (s := s) hmapped
  split
  · exact hstored.of_store (stripeComplete_store ..)
  · exact hstored

/-- An element written in local HBM of a healthy package (R372, R373). -/
theorem copyWriteHome_storesBytes {s : State} (hs : healthy s) (c : Copy) (i : Nat) (addr : Int) {pa : Nat} {bs : List Byte} (whole : Bool)
    (hr : region pa = 0) (hlen : pa % 2 ^ 50 + bs.length ≤ 2 ^ 50) : storesBytes pa bs s (copyWriteHome s c i addr pa bs whole).1 := by
  rw [copyWriteHome]
  split
  · exact physStripePart_storesBytes s _ _ hr hlen
  · rw [storeLost_healthy hs, if_neg Bool.false_ne_true]
    have hstore : (physStore (physTouch s pa bs.length true) pa bs).store = (setMemBytes (physTouch s pa bs.length true) pa bs).store :=
      physStore_store ..
    exact ((setMemBytes_storesBytes _ hr hlen).of_store hstore).from_store (physTouch_store ..)

theorem physStripePart_field (s : State) (pa : Nat) (bs : List Byte) (words : List Nat) (last : Bool) :
    (physStripePart s pa bs words last).field = s.field := by
  rw [physStripePart]
  dsimp only
  generalize (List.range 12).filter (fun k => !stackLost s k) = ks
  generalize awake s ks (placeOf s.parity pa).pc = power
  have hmapped : (if sound { s with channelPower := power } then { s with channelPower := power }
      else ks.foldl remapLookup { s with channelPower := power }).field = s.field := by
    split
    · rfl
    · exact field_of_store (foldl_remapLookup_store ..)
  split
  · exact (setMemBytes_field ..).trans hmapped
  · exact (setMemBytes_field ..).trans hmapped

theorem copyWriteHome_field (s : State) (c : Copy) (i : Nat) (addr : Int) (pa : Nat) (bs : List Byte) (whole : Bool) :
    (copyWriteHome s c i addr pa bs whole).1.field = s.field := by
  rw [copyWriteHome]
  split
  · exact physStripePart_field ..
  · by_cases hlost : storeLost s (if whole = true then pa / 8 * 8 else pa) (if whole = true then 8 else bs.length) = true
    · rw [if_pos hlost]
      exact field_of_store (physTouch_store ..)
    · rw [if_neg hlost]
      exact (physWrite_engaged (near := true) s pa bs).field rfl

/-- An element that lands in the field, where no word is in error (R459). -/
theorem copyWrite_field {s : State} {ks : List Nat} (hgood : ∀ y ∈ ks, y / 8 ∉ s.fieldBad) (ch : Nat) (c : Copy) (i : Nat) (addr : Int)
    (bs : List Byte) (whole : Bool) :
    let t := (copyWrite s ch c i addr bs whole (.field ks)).1
    t.field = (writeKeys s ks bs).field ∧ sameMem s t := by
  have hhit : (ks.map (· / 8)).eraseDups.filter (fun w => s.fieldBad.contains w) = [] := by
    rw [List.filter_eq_nil_iff]
    intro w hw
    obtain ⟨k, hk, rfl⟩ := List.mem_map.mp (List.mem_eraseDups.mp hw)
    simpa using hgood k hk
  rw [copyWrite, hhit]
  simp only [List.any_nil, Bool.and_false, Bool.false_and, if_neg Bool.false_ne_true]
  exact ⟨rfl, fun _ => rfl⟩

/-- An element that lands in local HBM. -/
theorem copyWrite_phys {s : State} (hs : healthy s) {pa : Nat} {bs : List Byte} (hr : region pa = 0) (hlen : pa % 2 ^ 50 + bs.length ≤ 2 ^ 50) (ch : Nat)
    (c : Copy) (i : Nat) (addr : Int) (whole : Bool) :
    let t := (copyWrite s ch c i addr bs whole (.phys pa)).1
    storesBytes pa bs s t ∧ t.field = s.field := by
  have htouch := touchPage_onlyRead c s addr.toNat
  rw [copyWrite, if_pos hr]
  exact ⟨(copyWriteHome_storesBytes (htouch.health hs) c i addr whole hr hlen).from_store htouch.store,
    (copyWriteHome_field ..).trans (field_of_store htouch.store)⟩

theorem copyWriteHome_clusters (s : State) (ch : Nat) (c : Copy) (i : Nat) (addr : Int) (bs : List Byte) (whole : Bool) (l : Landing) :
    (copyWrite s ch c i addr bs whole l).1.g.clusters = s.g.clusters := (copyWrite_copied ..).clusters_eq

theorem copyWrite_record (s : State) (ch : Nat) (c : Copy) (i : Nat) (addr : Int) (bs : List Byte) (whole : Bool) (l : Landing) :
    (copyWrite s ch c i addr bs whole l).2.1.dir = c.dir ∧ (copyWrite s ch c i addr bs whole l).2.1.sig = c.sig := by
  cases l with
  | field ks =>
    rw [copyWrite]
    dsimp only
    split
    · exact ⟨rfl, rfl⟩
    · exact saveBytes_fields ..
  | phys pa =>
    rw [copyWrite]
    split
    · exact saveBytes_fields ..
    · exact saveBytes_fields ..

/-- The delivery of an element is its write, and after it the marks and ends that leave its own bytes (R351). -/
theorem deliverElement_written {P : Nat → Prop} {s v : State} {c c' : Copy} {ch i : Nat} {e : CopyElem} {bs : List Byte} {whole b : Bool} {l : Landing}
    (h : Untouched P (s, c)) (hl : copyLanding s c e.dst e.len = .ok l) (heq : deliverElement s ch c i e bs false whole = (v, c', .ok b)) :
    ∃ d, Ended P ((copyWrite s ch c i e.dst bs whole l).1, d) (v, c') := by
  obtain ⟨hdir, hsig⟩ := copyWrite_record s ch c i e.dst bs whole l
  have hclusters := copyWriteHome_clusters s ch c i e.dst bs whole l
  have hwrote : Untouched P ((copyWrite s ch c i e.dst bs whole l).1, (copyWrite s ch c i e.dst bs whole l).2.1) := by
    obtain ⟨hquiet, hcl, hplane⟩ := h
    refine ⟨fun hs => hquiet (hsig ▸ hs), fun p hp => hcl p (hclusters ▸ hp), ?_⟩
    have hdst : (copyWrite s ch c i e.dst bs whole l).2.1.dstF = c.dstF := by rw [Copy.dstF, Copy.dstF, hdir]
    exact hdst ▸ hplane
  have hapart : ∀ f ∈ (if carriesTag s c (e.dst.toNat / 8192) = true then [] else l.frames), tagApart P f := by
    split
    · exact fun f hf => absurd hf List.not_mem_nil
    · exact landing_tagApart h hl
  rw [deliverElement, hl] at heq
  dsimp only at heq
  generalize (if carriesTag s c (e.dst.toNat / 8192) = true then [] else l.frames) = fs at heq hapart
  generalize (fs.filter fun f => !c.staled.contains f).any (fun f => (frameTagNow s f).isNone) = lost at heq
  split at heq
  · cases heq
  · split at heq
    · cases heq
    · generalize copyWrite s ch c i e.dst bs whole l = r at heq hwrote
      obtain ⟨u, d, err | part⟩ := r
      · cases heq
      · refine ⟨d, ?_⟩
        dsimp only at heq hwrote ⊢
        have htouched : Ended P (u, d) (u, { d with touched := (d.touched ++ [e.dst.toNat / 8192]).eraseDups }) := .withCopy rfl rfl
        have hstaled := htouched.trans (staleFrames_ended (hwrote.of_ended htouched) hapart)
        generalize staleFrames u { d with touched := (d.touched ++ [e.dst.toNat / 8192]).eraseDups } fs = r at heq hstaled
        obtain ⟨w, d'⟩ := r
        have hmarked := hstaled.trans (markIf_ended w d' ch (false || part || lost))
        dsimp only at heq
        generalize (if (false || part || lost) = true then markUe w ch else w) = w' at heq hmarked
        split at heq
        · have hpoisoned : Ended P (u, d) (if d'.zeroed.contains (e.dst.toNat / 8192) = true then w' else poisonTags w' fs, d') := by
            split
            · exact hmarked
            · exact hmarked.trans (poisonTags_ended (hwrote.of_ended hmarked) hapart)
          have hzeroed := hpoisoned.trans (.withCopy (c' := { d' with zeroed := (d'.zeroed ++ [e.dst.toNat / 8192]).eraseDups }) rfl rfl)
          have hends := hzeroed.trans (finishFrames_ended (hwrote.of_ended hzeroed) ch i)
          rwa [heq] at hends
        · have hends := hmarked.trans (finishFrames_ended (hwrote.of_ended hmarked) ch i)
          rwa [heq] at hends

end Sys2Proof.Machine
end

section
/-! The steps of a channel: starts, landings, stops and pieces (R342, R353, R356, R391). -/
namespace Sys2Proof.Machine

theorem exec_copyStart (k : BitVec 3) (s : State) : exec (.copyStart k) s = eventOp s fun s => copyStart s k.toNat := rfl
theorem exec_copyElementLand (k : BitVec 3) (n : Nat) (s : State) : exec (.copyElementLand k n) s = eventOp s fun s => copyLand s k.toNat n := rfl
theorem exec_copyFaultStop (k : BitVec 3) (s : State) : exec (.copyFaultStop k) s = eventOp s fun s => copyFaultStop s k.toNat := rfl
theorem exec_gatherPiece (k : BitVec 3) (s : State) : exec (.gatherPiece k) s = eventOp s fun s => gatherPiece s k.toNat := rfl

/-! ### Channels that do not move -/

section Idle
variable {s : State} {ch : Nat} (h : s.g.copiesRun = false ∨ (s.g.channel ch).stopped = true)
include h

theorem copyStart_idle : copyStart s ch = s := if_pos (by rcases h with h | h <;> simp [h])

theorem not_moving : (!(s.g.channel ch).stopped && s.g.copiesRun) = false := by rcases h with h | h <;> simp [h]

theorem copyLand_idle (n : Nat) : copyLand s ch n = s := by
  rw [copyLand]
  split
  · rw [not_moving h, Bool.false_and, if_neg Bool.false_ne_true]
  · rfl

theorem copyFaultStop_idle : copyFaultStop s ch = s := by
  rw [copyFaultStop]
  split
  · rw [not_moving h, Bool.false_and, if_neg Bool.false_ne_true]
  · rfl

theorem gatherPiece_idle : gatherPiece s ch = s := by
  rw [gatherPiece]
  split
  · rw [not_moving h, if_neg Bool.false_ne_true]
  · rfl

end Idle

/-! ### Starts -/

section Start
variable {s : State} {ch : Nat} {pre post : List Copy} {c : Copy} (hqueue : (s.g.channel ch).queue = pre ++ c :: post)
  (hnums : (s.g.channel ch).queue.Pairwise fun a b => a.num ≠ b.num)
include hqueue hnums

theorem mayStart_eq : mayStart s ch c.num = pre.all Copy.issued := by
  rw [hqueue] at hnums
  have hpre : ∀ d ∈ pre, (d.num != c.num) = true := fun d hd =>
    bne_iff_ne.mpr ((List.pairwise_append.mp hnums).2.2 d hd c List.mem_cons_self)
  rw [mayStart, hqueue, List.takeWhile_append_of_pos hpre, List.takeWhile_cons_of_neg (by simp), List.append_nil]

theorem startCopy_eq : startCopy s ch c.num = setChannel s ch { s.g.channel ch with queue := pre ++ { c with started := true } :: post } := by
  rw [hqueue] at hnums
  obtain ⟨-, hrest, hacross⟩ := List.pairwise_append.mp hnums
  have hpre : pre.map (fun d => if d.num = c.num then { d with started := true } else d) = pre :=
    (List.map_congr_left (g := id) fun d hd => if_neg (hacross d hd c List.mem_cons_self)).trans (List.map_id _)
  have hpost : post.map (fun d => if d.num = c.num then { d with started := true } else d) = post :=
    (List.map_congr_left (g := id) fun d hd => if_neg (Ne.symm ((List.pairwise_cons.mp hrest).1 d hd))).trans (List.map_id _)
  rw [startCopy, hqueue, List.map_append, List.map_cons, hpre, hpost, if_pos rfl]

end Start

/-- A channel whose oldest copy has something left keeps its copies. -/
theorem dropEmpty_of_head {s : State} {ch : Nat} {c : Copy} {r : List Copy} (hqueue : (s.g.channel ch).queue = c :: r) (h : c.outstanding ≠ []) :
    dropEmpty s ch = s := by
  rw [dropEmpty, hqueue]
  exact if_neg h

theorem copyStart_eq {s : State} {ch : Nat} {c : Copy} (hrun : s.g.copiesRun = true) (hgoes : (s.g.channel ch).stopped = false)
    (hfind : (s.g.channel ch).queue.find? (fun c => !c.started) = some c) :
    copyStart s ch = if mayStart s ch c.num then dropEmpty (startCopy s ch c.num) ch else s := by
  rw [copyStart, hgoes, hrun, if_neg (by decide), hfind]

/-! ### Landings -/

/-- One listed element of a copy that has it outstanding. -/
theorem landElements_single {s : State} {ch num n : Nat} {c : Copy} (hnamed : copyNamed s ch num = some c) (hgoes : (s.g.channel ch).stopped = false)
    (hout : n ∈ c.outstanding) : landElements ch num [n] s = (landGroup s ch c n).getD s := by
  rw [landElements, hnamed]
  dsimp only
  rw [hgoes, if_neg Bool.false_ne_true, List.contains_iff_mem.mpr hout, Bool.not_true, if_neg Bool.false_ne_true]
  cases landGroup s ch c n <;> rfl

/-- Elements that a stop has not parted from others. -/
theorem landGroup_plain {s : State} {ch n : Nat} {c : Copy} {g : List Nat} (hset : landSet s c n = some g) (hmates : ∀ k ∈ g, landedMates s c k = []) :
    landGroup s ch c n = landOnly s ch c n g := by
  have hagain : (g.flatMap (landedMates s c)).eraseDups = [] := by
    rw [List.flatMap_eq_nil_iff.mpr hmates, List.eraseDups_nil]
  rw [landGroup, hset]
  dsimp only
  rw [hagain, if_pos rfl]

theorem landOnly_one {s v : State} {ch n : Nat} {c c' : Copy} {b : Bool} (hcopy : copyElement s ch c n (unitWhole s c [n] n) = (v, c', .ok b)) :
    ∃ d, landOnly s ch c n [n] = some (putCopy v ch d) := by
  refine ⟨if b && !c'.hasLanded n then c'.land n else c', ?_⟩
  rw [landOnly, landAll, hcopy]
  rfl

theorem landOnly_fault {s u : State} {ch n b code : Nat} {a : Int} {c c' : Copy} {r : List Copy} {g : List Nat}
    (hqueue : (s.g.channel ch).queue = c :: r) (hlow : c.outstanding.head? = some n) (hhead : g.head? = some n)
    (hcopy : copyElement s ch c n (unitWhole s c g n) = (u, c', .error (.fault b a code))) :
    landOnly s ch c n g = some (stopChannel u ch c' n b a code) := by
  cases g with
  | nil => cases hhead
  | cons k g =>
    obtain rfl : k = n := Option.some.inj hhead
    rw [landOnly, landAll, hcopy]
    dsimp only
    rw [List.takeWhile_cons_of_neg (by simp), if_pos rfl]
    exact if_pos ⟨rfl, hlow, by rw [hqueue]; rfl⟩

theorem putCopy_store (s : State) (ch : Nat) (c : Copy) : (putCopy s ch c).store = s.store := by
  rw [putCopy]
  dsimp only
  generalize (if c.outstanding = [] then _ else _ : List Copy) = q
  split <;> rfl

/-- The step of an element that is outstanding in the channel's oldest copy. -/
theorem copyLand_eq {s : State} {ch n : Nat} {c : Copy} {r : List Copy} (hrun : s.g.copiesRun = true) (hgoes : (s.g.channel ch).stopped = false)
    (hqueue : (s.g.channel ch).queue = c :: r) (hstarted : c.started = true) (hout : n ∈ c.outstanding) (hsent : c.sent.contains n = false)
    (hfollow : mustFollow s c n = false) : copyLand s ch n = landElements ch c.num [n] s := by
  have hhere : (c.started && c.outstanding.contains n) = true := by rw [hstarted, List.contains_iff_mem.mpr hout]; rfl
  rw [copyLand, hqueue, List.filter_cons_of_pos (p := fun c : Copy => c.started && c.outstanding.contains n) hhere,
    List.find?_cons_of_pos (p := fun c : Copy => !c.sent.contains n) (by rw [hsent]; rfl)]
  exact if_pos (by rw [hgoes, hrun, hfollow]; rfl)

theorem copyNamed_head {s : State} {ch : Nat} {c : Copy} {r : List Copy} (hqueue : (s.g.channel ch).queue = c :: r) : copyNamed s ch c.num = some c := by
  rw [copyNamed, hqueue]
  exact List.find?_cons_of_pos (by simp)

/-- An element that is read and delivered. -/
theorem copyElement_delivers {s u v : State} {ch n ix : Nat} {c c' : Copy} {bs : List Byte} {whole b : Bool} (hsent : c.sent.contains n = false)
    (hindex : copyIndex s c n = .ok (ix, false)) (hread : copyRead s c c.srcF (c.elem n ix).src (c.elem n ix).len = (u, .ok (bs, false)))
    (hcopy : copyElement s ch c n whole = (v, c', .ok b)) : deliverElement u ch c n (c.elem n ix) bs false whole = (v, c', .ok b) := by
  rw [copyElement, hsent, if_neg Bool.false_ne_true, hindex] at hcopy
  dsimp only at hcopy
  split at hcopy
  · cases hcopy
  · rw [hread] at hcopy
    exact hcopy

/-- The landing of one element alone. -/
theorem landing_alone {P : Nat → Prop} {s u v : State} {ch n ix : Nat} {c c' : Copy} {r : List Copy} {bs : List Byte} {b : Bool} {l : Landing}
    (hrun : s.g.copiesRun = true) (hgoes : (s.g.channel ch).stopped = false) (hqueue : (s.g.channel ch).queue = c :: r) (hstarted : c.started = true)
    (hout : n ∈ c.outstanding) (hsent : c.sent.contains n = false) (hfollow : mustFollow s c n = false)
    (hindex : copyIndex s c n = .ok (ix, false)) (hset : landSet s c n = some [n]) (hmates : landedMates s c n = [])
    (hread : copyRead s c c.srcF (c.elem n ix).src (c.elem n ix).len = (u, .ok (bs, false)))
    (hl : copyLanding u c (c.elem n ix).dst (c.elem n ix).len = .ok l) (hcopy : copyElement s ch c n (unitWhole s c [n] n) = (v, c', .ok b))
    (huntouched : Untouched P (u, c)) :
    (sameLocal s (copyLand s ch n) ∧ sameRegsBut [] s (copyLand s ch n))
      ∧ ∃ w, w = (copyWrite u ch c n (c.elem n ix).dst bs (unitWhole s c [n] n) l).1 ∧ (copyLand s ch n).field = w.field
        ∧ ∀ y, P y → memByte (copyLand s ch n) y = memByte w y := by
  have heq : copyLand s ch n = landElements ch c.num [n] s := copyLand_eq hrun hgoes hqueue hstarted hout hsent hfollow
  have hframe : Copied s (copyLand s ch n) := heq ▸ landElements_copied ch c.num [n] s
  obtain ⟨d, hone⟩ := landOnly_one hcopy
  have hgroup : landGroup s ch c n = some (putCopy v ch d) := (landGroup_plain hset (by simpa using hmates)).trans hone
  have hlands : copyLand s ch n = putCopy v ch d := by
    rw [heq, landElements_single (copyNamed_head hqueue) hgoes hout, hgroup]
    rfl
  obtain ⟨d', hended⟩ := deliverElement_written huntouched hl (copyElement_delivers hsent hindex hread hcopy)
  refine ⟨hframe.frame, _, rfl, ?_, fun y hy => ?_⟩
  · rw [hlands]
    exact (field_of_store (putCopy_store v ch d)).trans hended.field
  · rw [hlands]
    exact (memByte_of_store (putCopy_store v ch d) y).trans (hended.mem y hy)

/-! ### Stops -/

theorem or_and_right_self {w : Nat} (e m : BitVec w) : (e ||| m) &&& m = m := by
  ext j hj
  rw [BitVec.getElem_and, BitVec.getElem_or]
  cases e[j] <;> cases m[j] <;> rfl

/-- What a channel that stops at an element holds (R356, R357). -/
theorem stopChannel_stops (s : State) (ch : Nat) (c : Copy) (n b : Nat) (a : Int) (code : Nat) :
    let y := (stopChannel s ch c n b a code).g.channel ch
    y.stopped = true ∧ y.taken = false ∧ y.queue.head? = some (c.stopAt n) ∧ y.errors &&& BitVec.ofNat 7 (2 ^ b) = BitVec.ofNat 7 (2 ^ b)
      ∧ y.fault = some ⟨9, w64 (lowBits a 64), w64 (ch + code), 0, 0, 0⟩ := by
  have hchannel : (stopChannel s ch c n b a code).g.channel ch = { (brokenStripe s c n).g.channel ch with
      queue := c.stopAt n :: ((brokenStripe s c n).g.channel ch).queue.drop 1, stopped := true
      errors := ((brokenStripe s c n).g.channel ch).errors ||| BitVec.ofNat 7 (2 ^ b)
      fault := some ⟨9, w64 (lowBits a 64), w64 (ch + code), 0, 0, 0⟩, taken := false } := by
    rw [stopChannel]
    exact (setChannel_channel ..).trans (if_pos rfl)
  dsimp only
  rw [hchannel]
  exact ⟨rfl, rfl, rfl, or_and_right_self .., rfl⟩

/-- Settles O39: each step of a channel does what its copies, its landing and its stop say. -/
theorem copyStepsStartLandAndStop : Obligations.CopyStepsStartLandAndStop := by
  unfold Obligations.CopyStepsStartLandAndStop
  intro s k ch x
  refine ⟨fun hidle n i hi => ?_, fun hrun hgoes => ⟨fun pre c post hqueue hnums hwaits hpre => ?_, ?_, ?_, fun c n hfind hlow => ?_⟩⟩
  · simp only [List.mem_cons, List.not_mem_nil, or_false] at hi
    obtain rfl | rfl | rfl | rfl := hi
    · exact occurs_of_eventOp (exec_copyStart ..) (copyStart_idle hidle)
    · exact occurs_of_eventOp (exec_copyElementLand ..) (copyLand_idle hidle n)
    · exact occurs_of_eventOp (exec_copyFaultStop ..) (copyFaultStop_idle hidle)
    · exact occurs_of_eventOp (exec_gatherPiece ..) (gatherPiece_idle hidle)
  · have hfind : (s.g.channel ch).queue.find? (fun c => !c.started) = some c := by
      show x.queue.find? (fun c => !c.started) = some c
      have hnone : pre.find? (fun c => !c.started) = none := List.find?_eq_none.mpr fun d hd => by simp [(hpre d hd).1]
      rw [hqueue, List.find?_append, hnone, Option.none_or]
      exact List.find?_cons_of_pos (p := fun c : Copy => !c.started) (by rw [hwaits]; rfl)
    have heq := copyStart_eq hrun hgoes hfind
    rw [mayStart_eq hqueue hnums] at heq
    refine ⟨fun hissued hleft => occurs_of_eventOp (exec_copyStart ..) ?_, fun hlate => occurs_of_eventOp (exec_copyStart ..) ?_⟩
    · have hstart := startCopy_eq hqueue hnums
      have hchannel : (startCopy s ch c.num).g.channel ch = { x with queue := pre ++ { c with started := true } :: post } := by
        rw [hstart]
        exact (setChannel_channel ..).trans (if_pos rfl)
      have hkept : dropEmpty (startCopy s ch c.num) ch = startCopy s ch c.num := by
        cases pre with
        | nil => exact dropEmpty_of_head (c := { c with started := true }) (by rw [hchannel]; rfl) hleft
        | cons d pre => exact dropEmpty_of_head (c := d) (by rw [hchannel]; rfl) (hpre d List.mem_cons_self).2
      rw [heq, if_pos (List.all_eq_true.mpr hissued), hkept]
      obtain ⟨hlocal, hregs⟩ := (startCopy_copied s ch c.num).frame
      refine ⟨⟨fun a => rfl, fun a => rfl, hlocal⟩, hregs, hchannel, fun j hj => ?_⟩
      rw [hstart]
      exact (setChannel_channel ..).trans (if_neg hj)
    · obtain ⟨d, hd, hissued⟩ := hlate
      rw [heq, if_neg]
      rw [List.all_eq_true]
      exact fun hall => Bool.false_ne_true (hissued.symm.trans (hall d hd))
  · intro c r n ix u v c' bs l b hqueue hstarted hout hsent hfollow hclusters hindex e hset hmates hread hl hcopy
    have hu := copyRead_onlyRead s c c.srcF e.src e.len
    rw [hread] at hu
    have hcl : ∀ p ∈ u.g.clusters, p < 128 := hu.clusters ▸ hclusters
    refine ⟨fun ks hks hgood hnodup => occurs_of_eventOp (exec_copyElementLand ..) ?_,
      fun pa hpa hr hlen hquiet hhealthy => occurs_of_eventOp (exec_copyElementLand ..) ?_⟩
    · subst hks
      have hdst : c.dstF = true ∧ copyKeys u e.dst e.len true = .ok ks := by
        rw [copyLanding] at hl
        split at hl
        next hdst =>
          cases hk : copyKeys u e.dst e.len true with
          | error err =>
            rw [hk] at hl
            cases hl
          | ok ks' =>
            rw [hk] at hl
            cases hl
            exact ⟨hdst, rfl⟩
        · cases hpa : copyTranslate u e.dst true with
          | error err =>
            rw [hpa] at hl
            cases hl
          | ok pa =>
            rw [hpa] at hl
            cases hl
      obtain ⟨⟨hlocal, hregs⟩, w, hw, hfield, hmem⟩ := landing_alone (P := fun _ => c.sig = false) hrun hgoes hqueue hstarted hout hsent hfollow
        hindex hset hmates hread hl hcopy ⟨fun h _ h' => Bool.false_ne_true (h'.symm.trans h), hcl, .inl hdst.1⟩
      obtain ⟨hwfield, hwmem⟩ := copyWrite_field (s := u) (hu.bad ▸ hgood) ch c n e.dst bs (unitWhole s c [n] n)
      have hlen : ks.length = bs.length := (copyKeys_length hdst.2).trans (copyRead_length hread).symm
      refine ⟨hlocal, hregs, fun hsig a => ?_, fun p hp => ?_, fun y hy => ?_⟩
      · rw [hmem a hsig, hw]
        exact (hwmem a).trans (memByte_of_store hu.store a)
      · rw [hfield, hw, hwfield, rdByte_writeKeys_mem hlen hnodup (j := p.2) hp]
        exact List.getElem_eq_getD _
      · rw [hfield, hw, hwfield, rdByte_writeKeys_notMem u ks bs hy, field_of_store hu.store]
    · subst hpa
      obtain ⟨⟨hlocal, hregs⟩, w, hw, hfield, hmem⟩ := landing_alone (P := clearOfPlane) hrun hgoes hqueue hstarted hout hsent hfollow
        hindex hset hmates hread hl hcopy ⟨fun h => absurd (hquiet.symm.trans h) Bool.false_ne_true, hcl, .inr fun _ h => h⟩
      obtain ⟨⟨hin, houtside⟩, hwfield⟩ := copyWrite_phys (s := u) (hu.health hhealthy) hr hlen ch c n e.dst (unitWhole s c [n] n)
      refine ⟨hlocal, hregs, fun a => ?_, fun hlow j hj => ?_, fun y hy hclear => ?_⟩
      · rw [hfield, hw, hwfield, field_of_store hu.store]
      · rw [hmem _ (.inl (by omega)), hw, hin j hj]
        exact List.getElem_eq_getD _
      · rw [hmem y hclear, hw, houtside y hy]
        exact memByte_of_store hu.store y
  · intro c r n g u c' b a code hqueue hstarted hlow hset hhead hmates hcopy
    have hout : n ∈ c.outstanding := List.mem_of_mem_head? hlow
    have hstop : copyFaultStop s ch = stopChannel u ch c' n b a code := by
      have htake : c.outstanding.take 1 = [n] := by
        cases hlist : c.outstanding with
        | nil =>
          rw [hlist] at hlow
          cases hlow
        | cons m ms =>
          rw [hlist] at hlow
          cases hlow
          rfl
      rw [copyFaultStop, hqueue]
      dsimp only
      rw [hgoes, hrun, hstarted, if_pos (by decide), htake, landElements_single (copyNamed_head hqueue) hgoes hout,
        landGroup_plain hset hmates, landOnly_fault hqueue hlow hhead hcopy]
      rfl
    refine occurs_of_eventOp (exec_copyFaultStop ..) ?_
    rw [hstop]
    exact stopChannel_stops u ch c' n b a code
  · refine occurs_of_eventOp (exec_gatherPiece ..) ?_
    have hunwritten : ∃ ms, c.unwritten = n :: ms := by
      unfold Copy.unwritten
      cases hlist : c.outstanding.filter fun k => !c.sent.contains k with
      | nil =>
        rw [hlist] at hlow
        cases hlow
      | cons m ms =>
        rw [hlist] at hlow
        cases hlow
        exact ⟨ms, rfl⟩
    obtain ⟨ms, hms⟩ := hunwritten
    show gatherPiece s ch = _
    rw [gatherPiece, hfind]
    dsimp only
    rw [hgoes, hrun, if_pos (by decide), hms]

end Sys2Proof.Machine
end

section
/-! Changes under which the memories stay canonical, and the shared operations of a boundary (R198, R219 to R228, R245). -/
namespace Sys2Proof.Machine

/-- Under a change the memories stay canonical. -/
structure Canon (s t : State) : Prop where
  keeps : s.memoriesOk → t.memoriesOk

/-- What the canonical form is about. -/
def State.memories (s : State) : List Host.Cell × List Host.Cell × List Host.Cell := (s.mem, s.peerMem, s.field)

section Canon
variable {s t u : State}

theorem Canon.refl (s : State) : Canon s s := ⟨id⟩

theorem Canon.trans (h1 : Canon s t) (h2 : Canon t u) : Canon s u := ⟨fun h => h2.keeps (h1.keeps h)⟩

theorem Canon.of_memories (h : t.memories = s.memories) : Canon s t := by
  simp only [State.memories, Prod.mk.injEq] at h
  obtain ⟨hmem, hpeer, hfield⟩ := h
  refine ⟨fun h => ?_⟩
  unfold State.memoriesOk
  rw [hmem, hpeer, hfield]
  exact h

theorem Canon.of_field (hmem : t.mem = s.mem) (hpeer : t.peerMem = s.peerMem) (hfield : Memory.wf s.field = true → Memory.wf t.field = true) :
    Canon s t :=
  ⟨fun ⟨h1, h2, h3⟩ => ⟨hmem ▸ h1, hpeer ▸ h2, hfield h3⟩⟩

theorem Canon.foldl {β : Type} {f : State → β → State} (h : ∀ s x, Canon s (f s x)) (l : List β) (s : State) : Canon s (l.foldl f s) :=
  List.foldlRecOn (motive := Canon s) l f (.refl s) fun t ht x _ => ht.trans (h t x)

theorem Canon.ite {p : Prop} [Decidable p] (h1 : Canon s t) (h2 : Canon s u) : Canon s (if p then t else u) := by
  split
  · exact h1
  · exact h2

theorem onlyServed.canonical (h : onlyServed s t) : Canon s t := ⟨memoriesOk_of_store h.store_eq⟩

theorem onlyScheduled.canonical (h : onlyScheduled s t) (hfield : Memory.wf s.field = true → Memory.wf t.field = true) : Canon s t := by
  unfold onlyScheduled at h
  refine .of_field ?_ ?_ hfield
  · rw [h]
  · rw [h]

theorem onlyEvaluated.canonical (h : onlyEvaluated s t) : Canon s t := by
  unfold onlyEvaluated at h
  refine .of_memories ?_
  rw [h]
  rfl

end Canon

/-! ### Turns and gangs -/

theorem rotate_canon (s : State) : Canon s (rotate s) := by
  unfold rotate
  split
  · exact .refl s
  · exact .of_memories rfl

theorem stall_canon (s : State) : Canon s (stall s) := rotate_canon s

theorem updGang_canon (s : State) (id : Nat) (f : Gang → Gang) : Canon s (updGang s id f) := by
  unfold updGang
  split <;> exact .of_memories rfl

theorem focus_canon (s : State) (id : Nat) : Canon s (focus s id) := ⟨memoriesOk_of_store (focus_store s id).1⟩

theorem onGang_canon {f : State → State} (hf : ∀ s, Canon s (f s)) (s : State) (id : Nat) : Canon s (onGang s id f) := by
  unfold onGang
  split
  · exact hf s
  · split
    · exact ((focus_canon s id).trans (hf _)).trans (focus_canon ..)
    · exact .refl s

theorem sendFrame_canon (s : State) (type die : Nat) (payload : List Word) : Canon s (sendFrame s type die payload) := .of_memories rfl

theorem stopQueue_canon (s : State) (q err ix : Nat) : Canon s (stopQueue s q err ix) := (stopQueue_evaluated s q err ix).canonical

theorem requestPass_canon (s : State) : Canon s (requestPass s) := .ite (.refl s) (.of_memories rfl)

theorem clearCluster_canon (s : State) (c : Nat) : Canon s (clearCluster s c) := .of_field rfl rfl (Memory.wf_mclear _ _ _)

theorem releaseSpan_canon (s : State) : Canon s (releaseSpan s) :=
  ((Canon.foldl clearCluster_canon s.g.clusters s).trans (requestPass_canon _)).trans (.of_memories rfl)

theorem discardCopies_canon (s : State) : Canon s (discardCopies s) := ⟨(discardCopies_copied s).canon⟩

theorem stopBanks_canon (s : State) : Canon s (stopBanks s).1 := ⟨(stopBanks_performed s).canon⟩

theorem haltSelected_canon (phase : Phase) (s : State) (es : List Entry) (words : Map Resume) : Canon s (haltSelected phase s es words) :=
  .of_memories rfl

theorem haltGang_canon (phase : Phase) (s : State) : Canon s (haltGang phase s) := by
  have hstopped := stopBanks_canon s
  unfold haltGang
  generalize stopBanks s = r at hstopped ⊢
  obtain ⟨u, es, words⟩ := r
  have hshown : Canon u (if es = [] then u
      else { u with g := { u.g with heldStart := some u.g.estart, estart := w64 (stopStart es words 0 % 2 ^ 48) } }) :=
    .ite (.refl u) (.of_memories rfl)
  exact (Canon.trans hstopped hshown).trans (haltSelected_canon ..)

/-! ### Causes -/

theorem failGang_canon (s : State) (c : Cause) (imp : Bool) (gepc : Word) : Canon s (failGang s c imp gepc) := by
  unfold failGang
  exact (((((haltGang_canon .failed s).trans (discardCopies_canon _)).trans (sendFrame_canon ..)).trans (stopQueue_canon ..)).trans
    (releaseSpan_canon _)).trans (rotate_canon _)

theorem enterHandler_canon (s : State) (c : Cause) (imp : Bool) (gepc : Word) (fault : Option Nat) : Canon s (enterHandler s c imp gepc fault) := by
  have hstopped := stopBanks_canon s
  unfold enterHandler
  split
  · exact failGang_canon ..
  · generalize stopBanks s = r at hstopped ⊢
    obtain ⟨u, es, words⟩ := r
    exact Canon.trans hstopped (.of_memories rfl)

theorem haltCohort_canon (s : State) : Canon s (haltCohort s) :=
  .foldl (f := fun s (id : Nat) => onGang s id (haltGang .halted)) (fun s id => onGang_canon (haltGang_canon .halted) s id) _ s

theorem pageRequest_canon (s : State) (c : Cause) (imp : Bool) (gepc : Word) : Canon s (pageRequest s c imp gepc) := by
  unfold pageRequest
  have hsaved : Canon s { s with g := { s.g with savedCause := some (c, imp, gepc) } } := .of_memories rfl
  exact (((hsaved.trans (haltGang_canon .pageWait _)).trans (sendFrame_canon ..)).trans (haltCohort_canon _)).trans (rotate_canon _)

theorem takeCause_canon (s : State) (c : Cause) (imp : Bool) (gepc : Word) (fault : Option Nat) : Canon s (takeCause s c imp gepc fault) :=
  .ite (pageRequest_canon ..) (enterHandler_canon ..)

/-- A cause that is taken once a gang's record of it is cleared. -/
theorem Canon.withGang_takes {s : State} {g : Gang} (f : State → State) (hf : ∀ s, Canon s (f s)) : Canon s (f { s with g := g }) :=
  Canon.trans (t := { s with g := g }) (.of_memories rfl) (hf _)

theorem takeStep_canon (s : State) : Canon s (takeStep s) := by
  unfold takeStep
  dsimp only
  split
  · exact .withGang_takes rotate rotate_canon
  · exact .withGang_takes _ fun s => takeCause_canon s ..

theorem takeCopy_canon (s : State) : Canon s (takeCopy s) := by
  unfold takeCopy
  split
  · exact .withGang_takes (fun u => takeCause u _ true s.g.pc none) fun s => takeCause_canon s ..
  · exact .refl s

theorem takePending_canon (s : State) : Canon s (takePending s) := by
  unfold takePending
  split
  · exact .ite (takeCause_canon ..) (stall_canon s)
  · split
    · exact .refl s
    · split
      · exact .withGang_takes (fun u => enterHandler u _ true s.g.pc none) fun s => enterHandler_canon s ..
      · split
        · exact .ite (takeStep_canon s) (.ite (takeCopy_canon s) (stall_canon s))
        · split
          · exact .withGang_takes (fun u => takeCause u _ true s.g.pc none) fun s => takeCause_canon s ..
          · split
            · exact takeCopy_canon s
            · split
              · exact .withGang_takes (fun u => takeCause u _ true s.g.pc none) fun s => takeCause_canon s ..
              · exact .refl s

theorem afterWaits_canon {take : State → State} (h : ∀ s, Canon s (take s)) (s : State) : Canon s (afterWaits s take) := by
  unfold afterWaits
  split
  · exact takePending_canon s
  · split
    · exact .ite (takeCopy_canon s) (stall_canon s)
    · exact h s

theorem trapAt_canon (s : State) (c : Cause) (gepc : Word) : Canon s (trapAt s c gepc) := afterWaits_canon (fun s => takeCause_canon s ..) s

theorem trapS_canon (s : State) (code : Nat) (val val2 : Word) : Canon s (trapS s code val val2) := trapAt_canon ..

theorem trapIllegal_canon (s : State) (i : Instr) (reason : Nat) : Canon s (trapIllegal s i reason) := trapS_canon ..

/-! ### Returns -/

theorem reissueFrame_canon (s : State) (es : List Entry) (words : Map Resume) : Canon s (reissueFrame s es words) := .of_memories rfl

theorem proceed_canon (s : State) : Canon s (proceed s) := ⟨(proceed_performed s).canon⟩

theorem runChannels_canon (s : State) : Canon s (runChannels s) := ⟨(runChannels_copied s).canon⟩

theorem eretReturn_canon (s : State) (mode : Nat) : Canon s (eretReturn s mode) := by
  unfold eretReturn
  refine .ite (.withGang_takes takePending takePending_canon) (Canon.trans ?_ (takePending_canon _))
  refine Canon.trans (Canon.trans ?_ (reissueFrame_canon ..)) (proceed_canon _)
  exact .ite (.withGang_takes runChannels runChannels_canon) (.of_memories rfl)

/-! ### Instructions and events -/

theorem registerParity_canon (s : State) : Canon s (registerParity s) := by
  unfold registerParity
  exact Canon.trans (t := (freeWords s 1).2) (.of_memories rfl) (failGang_canon ..)

/-- An instruction keeps the memories canonical if its own effect does. -/
theorem userOp_canon {i : Instr} {k : State → State} (hk : ∀ s, Canon s (k s)) {s t : State} (h : userOp i s k = .next t) : Canon s t := by
  unfold userOp at h
  cases h
  exact .ite (trapIllegal_canon ..) (.ite (trapS_canon ..) (.ite (stall_canon s) (.ite (registerParity_canon s) (hk s))))

/-- An event keeps the memories canonical if its effect does. -/
theorem eventOp_canon {k : State → State} (hk : ∀ s, Canon s (k s)) {s t : State} (h : eventOp s k = .next t) : Canon s t := by
  unfold eventOp at h
  cases h
  exact .ite (hk s) (.refl s)

end Sys2Proof.Machine
end

section
/-! The memories stay canonical under the memory instructions and the parity homes (R176 to R188, R369 to R390). -/
namespace Sys2Proof.Machine

/-! ### Commits and traps -/

section Commits
variable {s t : State}

theorem Canon.commit4 (h : Canon s t) : Canon s t.commit4 := h.trans (.of_memories rfl)

theorem Canon.commit8 (h : Canon s t) : Canon s t.commit8 := h.trans (.of_memories rfl)

theorem Canon.commitAt (h : Canon s t) (pc : Word) : Canon s (t.commitAt pc) := h.trans (.of_memories rfl)

theorem Canon.setReg (h : Canon s t) (d : Reg) (v : Word) : Canon s (t.setReg d v) := h.trans (.of_memories rfl)

/-- An instruction that answers in a register and commits. -/
theorem Canon.answer (h : Canon s t) (d : Reg) (v : Word) : Canon s (t.setReg d v).commit4 := (h.setReg d v).commit4

theorem Canon.withGang (h : Canon s t) (g : Gang) : Canon s { t with g := g } := h.trans (.of_memories rfl)

end Commits

theorem useG_canon (s : State) (va : Nat) : Canon s (useG s va) := onlyServed.canonical (hubUse_only ..)

theorem physTouch_canon (s : State) (pa n : Nat) (write : Bool) : Canon s (physTouch s pa n write) := (physTouch_only ..).canonical

theorem physStore_canonical (s : State) (pa : Nat) (bs : List Byte) : Canon s (physStore s pa bs) := ⟨physStore_canon s pa bs⟩

theorem physWrite_canon (s : State) (pa : Nat) (bs : List Byte) : Canon s (physWrite s pa bs) := (physTouch_canon ..).trans (physStore_canonical ..)

theorem writeKeys_canon (s : State) (ks : List Nat) (bs : List Byte) : Canon s (writeKeys s ks bs) := ⟨(writeKeys_engaged s ks bs).canon⟩

theorem writeLocal_canon (s : State) (off : Nat) (bs : List Byte) : Canon s (writeLocal s off bs) := .of_memories rfl

theorem trapG_canon (s : State) (ea : Word) (code val2 : Nat) : Canon s (trapG s ea code val2) :=
  afterWaits_canon (fun _ => (useG_canon ..).trans (takeCause_canon ..)) s

theorem trapLost_canon (s : State) (ea : Word) (val2 pa n : Nat) (write : Bool) : Canon s (trapLost s ea val2 pa n write) :=
  afterWaits_canon (fun _ => ((useG_canon ..).trans (physTouch_canon ..)).trans (takeCause_canon ..)) s

theorem globalStop_canon (s : State) (ea : Word) (e : GStop) : Canon s (globalStop s ea e) := by
  unfold globalStop
  split
  · exact trapG_canon ..
  · exact trapS_canon ..
  · exact stall_canon s

theorem atomicTouch_canon (s : State) (ea : Nat) : Canon s (atomicTouch s ea) := (useG_canon s ea).trans (.of_memories rfl)

theorem globalTouch_canon (s : State) (ea : Nat) : Canon s (globalTouch s ea) := (atomicTouch_canon s ea).trans (.of_memories rfl)

theorem answerLoad_canon (s : State) (d : Reg) (v : Word) (hold : Bool) : Canon s (answerLoad s d v hold) := .ite (.of_memories rfl) (.of_memories rfl)

/-! ### Broadcast and tile instructions -/

theorem commitEntry_canon (i : Instr) (s : State) : Canon s (commitEntry i s) := by
  unfold commitEntry
  dsimp only
  split
  · exact trapIllegal_canon ..
  · exact .ite (stall_canon s) (Canon.trans (((Canon.refl s).withGang _).commit8) (proceed_canon _))

theorem broadcast_canon {i : Instr} {s t : State} (h : broadcast i s = .next t) : Canon s t := userOp_canon (commitEntry_canon i) h

/-! ### Loads, stores and atomics -/

theorem scalarLoad_canon {i : Instr} {d a : Reg} {imm : BitVec 15} {n : Nat} {signed : Bool} {s t : State}
    (h : scalarLoad i d a imm n signed s = .next t) : Canon s t := by
  refine userOp_canon (fun s => ?_) h
  refine .ite (trapS_canon ..) ?_
  split
  · exact trapS_canon ..
  · exact .ite (trapS_canon ..) ((Canon.refl s).answer ..)
  · refine .ite (stall_canon s) ?_
    split
    · exact trapS_canon ..
    · exact .ite (trapS_canon ..) ((Canon.refl s).answer ..)

theorem scalarStore_canon {i : Instr} {v a : Reg} {imm : BitVec 15} {n : Nat} {s t : State} (h : scalarStore i v a imm n s = .next t) : Canon s t := by
  refine userOp_canon (fun s => ?_) h
  refine .ite (trapS_canon ..) ?_
  split
  · exact trapS_canon ..
  · exact .ite (trapS_canon ..) (writeLocal_canon ..).commit4
  · refine .ite (stall_canon s) ?_
    split
    · exact trapS_canon ..
    · exact .ite (trapS_canon ..) (writeKeys_canon ..).commit4

theorem physRead_canon {s u : State} {pa n : Nat} {r : Option (List Byte)} (h : physRead s pa n = (u, r)) : Canon s u := by
  have hu : u = (physRead s pa n).1 := by rw [h]
  rw [hu]
  exact (physRead_only s pa n).canonical

theorem execLdg_canon {d a b : Reg} {z : BitVec 3} {o c : BitVec 2} {s t : State} (h : execLdg d a b z o c s = .next t) : Canon s t := by
  refine userOp_canon (fun s => ?_) h
  dsimp only
  split
  · exact globalStop_canon ..
  · refine .ite (stall_canon s) (.ite (trapG_canon ..) ?_)
    split
    · exact trapLost_canon ..
    next hread => exact (((globalTouch_canon ..).trans (physRead_canon hread)).trans (answerLoad_canon ..)).commit4

theorem sendWrite_canon (s : State) (origin va pa : Nat) (bs : List Byte) : Canon s (sendWrite s origin va pa bs) :=
  .ite (physWrite_canon ..) (.of_memories rfl)

theorem execStg_canon {d a b : Reg} {z : BitVec 3} {o c : BitVec 2} {s t : State} (h : execStg d a b z o c s = .next t) : Canon s t := by
  refine userOp_canon (fun s => ?_) h
  dsimp only
  split
  · exact globalStop_canon ..
  · exact .ite (stall_canon s) (.ite (trapLost_canon ..) ((globalTouch_canon ..).trans (sendWrite_canon ..)).commit4)

theorem amoHome_canon (s : State) (pa op n y c : Nat) : Canon s (amoHome s pa op n y c).1 := by
  unfold amoHome
  split
  · exact physTouch_canon ..
  · split
    · exact (physTouch_canon ..).trans (physStore_canonical ..)
    · exact physTouch_canon ..

theorem amoNear_canon (s : State) (d : Reg) (op n y c : Nat) (m : Word) : Canon s (amoNear s d op n y c m) := by
  unfold amoNear
  split
  · exact trapS_canon ..
  · refine .ite (trapS_canon ..) (Canon.answer ?_ ..)
    split
    · exact writeLocal_canon ..
    · exact .refl s
  · refine .ite (stall_canon s) (.ite (trapS_canon ..) ?_)
    split
    · exact trapS_canon ..
    · refine .ite (trapS_canon ..) (Canon.answer ?_ ..)
      split
      · exact writeKeys_canon ..
      · exact .refl s

theorem amoFar_canon (s : State) (d : Reg) (op n y c : Nat) (acq : Bool) (m : Word) : Canon s (amoFar s d op n y c acq m) := by
  unfold amoFar
  split
  · exact trapG_canon ..
  · exact globalStop_canon ..
  · refine .ite (trapG_canon ..) (.ite (stall_canon s) (.ite (trapG_canon ..) ?_))
    next pa _ =>
      have hhome := (atomicTouch_canon s m.toNat).trans (amoHome_canon (atomicTouch s m.toNat) pa op n y c)
      split
      · exact trapLost_canon ..
      next heq =>
        rw [heq] at hhome
        exact (Canon.trans hhome (answerLoad_canon ..)).commit4

theorem execAmo_canon {d a b : Reg} {n : BitVec 4} {z : BitVec 1} {o c : BitVec 2} {g : BitVec 1} {s t : State}
    (h : execAmo d a b n z o c g s = .next t) : Canon s t :=
  userOp_canon (fun s => .ite (trapS_canon ..) (.ite (stall_canon s) (.ite (amoNear_canon ..) (amoFar_canon ..)))) h

theorem loadResponse_canon (s : State) (d : Reg) : Canon s (loadResponse s d) := by
  unfold loadResponse
  split
  · exact .refl s
  · exact .of_memories rfl

/-! ### The parity homes -/

theorem parityFrame_canon (s : State) (k : Nat) : Canon s (parityFrame s k) := sendFrame_canon ..

theorem homeAccess_canon (s : State) (kind : HomeKind) (pa size : Nat) (val cmp : Word) : Canon s (homeAccess s kind pa size val cmp).1 := by
  cases kind with
  | read =>
    rw [homeAccess]
    split
    next hread => exact physRead_canon hread
    next hread => exact physRead_canon hread
  | write =>
    rw [homeAccess]
    split
    · exact physTouch_canon ..
    · exact physWrite_canon ..
  | amo op => exact amoHome_canon ..

theorem parityHomeAccess_canon (x : HomeAccess) (s : State) : Canon s (parityHomeAccess x s) := by
  unfold parityHomeAccess
  refine .ite (.refl s) ?_
  have hmet : Canon s (meetError s x) := .of_memories rfl
  exact (hmet.trans (homeAccess_canon ..)).trans (.of_memories rfl)

theorem loseStack_canon (k why : Nat) (s : State) : Canon s (loseStack k why s) := by
  unfold loseStack
  exact .ite (.refl s) (.ite (.of_memories rfl) (.of_memories rfl))

theorem contractionStart_canon (s : State) : Canon s (contractionStart s) := by
  unfold contractionStart
  exact .ite (.of_memories rfl) (.refl s)

theorem contractionComplete_canon (s : State) : Canon s (contractionComplete s) := by
  unfold contractionComplete
  refine Canon.trans ?_ (parityFrame_canon ..)
  exact ⟨fun ⟨hmem, hpeer, hfield⟩ => ⟨Memory.wf_mclear _ _ _ hmem, hpeer, hfield⟩⟩

theorem remapLookup_canon (s : State) (k : Nat) : Canon s (remapLookup s k) := (remapLookup_only s k).canonical

theorem withParity_canon (s : State) (q : Parity) : Canon s { s with parity := q } := .of_memories rfl

theorem contractionStripeMove_canon (s : State) : Canon s (contractionStripeMove s) := by
  by_cases hgo : s.parity.state ≠ 2 ∨ s.parity.boundary = 0
  · rw [contractionStripeMove, if_pos hgo]
    exact .refl s
  · rw [contractionStripeMove_eq hgo]
    have hmoved : Canon s (stripeMoved s) := (stripeMoved_only s).canonical
    exact .ite (hmoved.trans (contractionComplete_canon _)) (hmoved.trans (withParity_canon ..))

theorem withRemap_canon (s : State) (m : Map Nat) : Canon s { s with remap := m } := .of_memories rfl

theorem rowRemapUpdate_canon (k row spare : Nat) (s : State) : Canon s (rowRemapUpdate k row spare s) := by
  have hmirror : Canon s (if (mirrorOf s k).isSome then { s with remapMirror := mset 0 s.remapMirror (row * 12 + k) spare } else s) :=
    .ite (.of_memories rfl) (.refl s)
  exact .ite (.refl s) ((hmirror.trans (withRemap_canon ..)).trans (remapLookup_canon ..))

theorem allocationTableUpdate_canon (second : Bool) (g d : Nat) (s : State) : Canon s (allocationTableUpdate second g d s) :=
  .ite (.refl s) (.ite (.of_memories rfl) (.of_memories rfl))

theorem channelIdle_canon (field level k pc : Nat) (s : State) : Canon s (channelIdle field level k pc s) := .ite (.refl s) (.of_memories rfl)

end Sys2Proof.Machine
end

section
/-! The memories stay canonical under control registers, spans, windows, copies, the tables and images (R195 to R206, R289, R312, R341 to R358,
R458). -/
namespace Sys2Proof.Machine

/-! ### Control registers -/

theorem waitCopies_canon (s : State) : Canon s (waitCopies s) := ⟨(waitCopies_copied s).canon⟩

theorem clearFrames_canon (s : State) (lo hi : Nat) : Canon s (clearFrames s lo hi) := by
  unfold clearFrames
  refine Canon.foldl (fun u b => ?_) _ s
  exact .of_field rfl rfl (Memory.wf_mclear _ _ _)

theorem storeConvres_canon (s : State) (v : Word) : Canon s (storeConvres s v) := (clearFrames_canon s _ _).withGang _

theorem cancelChannel_canon (s : State) (ch : Nat) : Canon s (cancelChannel s ch) := ⟨(cancelChannel_copied s ch).canon⟩

theorem setChannel_canon (s : State) (ch : Nat) (x : Channel) : Canon s (setChannel s ch x) := .of_memories rfl

theorem storeChstat_canon (s : State) (ch : Nat) (v : Word) : Canon s (storeChstat s ch v) :=
  .ite (((setChannel_canon ..).trans (cancelChannel_canon ..)).trans (proceed_canon _)) (setChannel_canon ..)

theorem storeControl_canon (s : State) (n : Nat) (v : Word) : Canon s (storeControl s n v) :=
  .ite (storeConvres_canon ..) (.ite (storeChstat_canon ..) (.of_memories rfl))

theorem readControl_canon (s : State) (n : Nat) : Canon s (readControl s n).2 := by
  unfold readControl
  split <;> exact .of_memories rfl

theorem execCrd_canon {d : Reg} {n : BitVec 12} {s t : State} (h : execCrd d n s = .next t) : Canon s t :=
  userOp_canon (fun s => .ite (stall_canon s) ((readControl_canon s n.toNat).answer ..)) h

theorem crxWrite_canon {i : Instr} {d a : Reg} {n : BitVec 12} {f : Word → Word → Word} {clears : Bool} {s t : State}
    (h : crxWrite i d a n f clears s = .next t) : Canon s t := by
  refine userOp_canon (fun s => ?_) h
  have hwaited : Canon s (if n.toNat = 0x030 then waitCopies s else s) := .ite (waitCopies_canon s) (.refl s)
  exact .ite (hwaited.trans (stall_canon _)) (((hwaited.trans (readControl_canon _ _)).trans (storeControl_canon ..)).answer ..)

/-! ### Spans and windows -/

theorem applySpan_canon (s : State) (n : Nat) (added : List Nat) : Canon s (applySpan s n added) :=
  (Canon.foldl clearCluster_canon (s.g.clusters.drop n) s).withGang _

theorem stuckOnChannel_canon (s : State) (k : Nat) (c : Channel) : Canon s (stuckOnChannel s k c) := by
  unfold stuckOnChannel
  split
  · refine .ite (Canon.trans ?_ (pageRequest_canon ..)) (failGang_canon ..)
    exact .of_memories rfl
  · exact stall_canon s

theorem execSetspan_canon {d a : Reg} {s t : State} (h : execSetspan d a s = .next t) : Canon s t := by
  refine userOp_canon (fun s => ?_) h
  have hwaited := waitCopies_canon s
  generalize waitCopies s = u at hwaited
  dsimp only
  split
  · exact hwaited.trans (stuckOnChannel_canon ..)
  · refine .ite (hwaited.trans (stall_canon u)) ?_
    split
    · exact hwaited.answer ..
    · exact (hwaited.trans (applySpan_canon ..)).answer ..

theorem imageAt_canon {s u : State} {a : Word} {code : Nat} (h : imageAt s a code = .error u) : Canon s u := by
  unfold imageAt at h
  split at h
  · cases h
    exact trapS_canon ..
  · split at h
    · split at h
      · cases h
      · cases h
        exact trapS_canon ..
    · cases h
      exact trapS_canon ..

theorem execFwset_canon {d a b : Reg} {s t : State} (h : execFwset d a b s = .next t) : Canon s t := by
  refine userOp_canon (fun s => ?_) h
  have hwaited := waitCopies_canon s
  dsimp only
  split
  next hstop => exact imageAt_canon hstop
  · generalize waitCopies s = u at hwaited
    refine .ite (hwaited.trans (stall_canon u)) (.ite (hwaited.trans (trapS_canon ..)) (.ite (hwaited.answer ..) ?_))
    split
    · exact hwaited.answer ..
    · exact (hwaited.withGang _).answer ..

theorem execFwget_canon {d a b : Reg} {s t : State} (h : execFwget d a b s = .next t) : Canon s t := by
  refine userOp_canon (fun s => ?_) h
  dsimp only
  split
  next hstop => exact imageAt_canon hstop
  · exact .ite ((Canon.refl s).answer ..) (((Canon.refl s).withGang _).answer ..)

theorem execRqpop_canon {d : Reg} {s t : State} (h : execRqpop d s = .next t) : Canon s t := by
  refine userOp_canon (fun s => ?_) h
  split
  · exact trapIllegal_canon ..
  · exact stall_canon s
  · exact ((Canon.refl s).withGang _).answer ..

/-! ### Copies -/

theorem queueCopy_canon (s : State) (ch : Nat) (c : Copy) : Canon s (queueCopy s ch c) := ⟨(queueCopy_copied s ch c).canon⟩

theorem commitCopy_canon (i : Instr) (f : CX) (cap : State → Except CommitStop Copy) (s : State) : Canon s (commitCopy i f cap s) := by
  have hwaited := waitCopies_canon s
  unfold commitCopy
  generalize waitCopies s = u at hwaited ⊢
  dsimp only
  split
  · exact hwaited.trans (trapS_canon ..)
  · exact hwaited.trans (stall_canon u)
  · exact .ite (hwaited.trans (trapIllegal_canon ..)) (.ite (hwaited.trans (stall_canon u)) (hwaited.trans (queueCopy_canon ..)).commit8)

theorem drainThen_canon {chs : List Nat} {done : State → Bool} {k : State → State} (hk : ∀ s, Canon s (k s)) (s : State) :
    Canon s (drainThen chs done k s) := by
  have hwaited := waitCopies_canon s
  unfold drainThen
  generalize waitCopies s = u at hwaited ⊢
  dsimp only
  split
  · exact hwaited.trans (stuckOnChannel_canon ..)
  · exact .ite (hwaited.trans (hk u)) (hwaited.trans (stall_canon u))

theorem landElements_canon (ch num : Nat) (is : List Nat) (s : State) : Canon s (landElements ch num is s) := ⟨(landElements_copied ch num is s).canon⟩

theorem dropEmpty_canon (s : State) (ch : Nat) : Canon s (dropEmpty s ch) := by
  unfold dropEmpty
  dsimp only
  split
  · exact .ite (.of_memories rfl) (.refl s)
  · exact .refl s

theorem copyStart_canon (s : State) (ch : Nat) : Canon s (copyStart s ch) := by
  unfold copyStart
  refine .ite (.refl s) ?_
  split
  · exact .refl s
  · refine .ite (Canon.trans ?_ (dropEmpty_canon _ ch)) (.refl s)
    exact ⟨(startCopy_copied s ch _).canon⟩

theorem copyLand_canon (s : State) (ch n : Nat) : Canon s (copyLand s ch n) := by
  unfold copyLand
  dsimp only
  split
  · exact .ite (landElements_canon ..) (.refl s)
  · exact .refl s

theorem copyFaultStop_canon (s : State) (ch : Nat) : Canon s (copyFaultStop s ch) := by
  unfold copyFaultStop
  dsimp only
  split
  · exact .ite (landElements_canon ..) (.refl s)
  · exact .refl s

theorem gatherPiece_canon (s : State) (ch : Nat) : Canon s (gatherPiece s ch) := by
  unfold gatherPiece
  dsimp only
  split
  · refine .ite ?_ (.refl s)
    split
    · exact .refl s
    · exact landElements_canon ..
  · exact .refl s

/-! ### The method table and the block store -/

theorem countSource_canon (s : State) (dir : BitVec 2) (n : Nat) (ea : Word) (k : Nat) : Canon s (countSource s dir n ea k) :=
  (countSource_only ..).canonical

theorem countBlocks_canon (s : State) (dir : BitVec 2) (a : Word) (es : List (Nat × Nat)) : Canon s (countBlocks s dir a es) :=
  (countBlocks_only ..).canonical

theorem sourceStop_canon (s : State) (dir : BitVec 2) (n : Nat) (ea : Word) (e : CommitStop) : Canon s (sourceStop s dir n ea e) := by
  cases e with
  | hold => exact stall_canon s
  | trap c v v2 =>
    exact .ite (trapS_canon ..) (afterWaits_canon (fun s => ((countSource_canon ..).trans (useG_canon ..)).trans (takeCause_canon ..)) s)

theorem loadMethods_canon (f : CX) (s : State) : Canon s (loadMethods f s) := by
  unfold loadMethods
  refine .ite (stall_canon s) (.ite (trapIllegal_canon ..) (.ite (trapS_canon ..) ?_))
  split
  · exact sourceStop_canon ..
  · exact .ite ((countSource_canon ..).withGang _).commit8 (trapIllegal_canon ..)

theorem loadBlocks_canon (f : CX) (s : State) : Canon s (loadBlocks f s) := by
  unfold loadBlocks
  refine .ite (stall_canon s) (.ite (trapIllegal_canon ..) (.ite (trapS_canon ..) ?_))
  split
  · exact sourceStop_canon ..
  · refine .ite (trapIllegal_canon ..) ?_
    split
    · refine Canon.trans ?_ (sourceStop_canon ..)
      exact .ite (.refl s) ((countSource_canon ..).trans (countBlocks_canon ..))
    · exact (((countSource_canon ..).trans (countBlocks_canon ..)).withGang _).commit8

/-! ### Images -/

theorem loadByte_wf (g : Gang) (a : Nat) (m : List Host.Cell) (p : Byte × Nat) (h : Memory.wf m = true) : Memory.wf (loadByte g a m p) = true := by
  unfold loadByte
  split
  · exact Memory.wf_wrByte _ _ _ h
  · exact h

theorem loadSegment_canon (g : Gang) (s : State) (x : Segment) : Canon s (loadSegment g s x) := by
  cases x with
  | data a bs =>
    exact .of_field rfl rfl fun h =>
      List.foldlRecOn (motive := fun m => Memory.wf m = true) bs.zipIdx _ h fun m hm p _ => loadByte_wf g a m p hm
  | tag a t =>
    rw [loadSegment]
    split
    · exact .of_memories rfl
    · exact .refl s

theorem addGang_canon (s : State) (g : Gang) : Canon s (addGang s g) := .ite (.of_memories rfl) (.of_memories rfl)

theorem withAgenda_canon (s : State) (l : List Instr) : Canon s { s with agenda := l } := .of_memories rfl

theorem createGang_canon (s : State) (im : Image) (g : Gang) : Canon s (createGang s im g) :=
  (((Canon.foldl clearCluster_canon g.clusters s).trans (.foldl (loadSegment_canon g) im.segments _)).trans (withAgenda_canon ..)).trans
    (addGang_canon ..)

end Sys2Proof.Machine
end

section
/-! The memories stay canonical under the command core (R36 to R46, R216, R222, R421 to R436). -/
namespace Sys2Proof.Machine

/-! ### Records and launches -/

theorem evalQueue_canon (s : State) (q : Nat) : Canon s (evalQueue s q).1 := (evalQueue_effect s q).1.canonical

theorem evalQueues_canon (s : State) : Canon s (evalQueues s).1 := by
  refine List.foldlRecOn (motive := fun (acc : State × List Ready) => Canon s acc.1) s.queues _ (.refl s) fun acc hacc p _ => ?_
  have hnext := hacc.trans (evalQueue_canon acc.1 p.1)
  generalize evalQueue acc.1 p.1 = found at hnext ⊢
  obtain ⟨u, _ | r⟩ := found <;> exact hnext

theorem setQueue_canon (s : State) (q : Nat) (x : Queue) : Canon s (setQueue s q x) := .of_memories rfl

theorem addMember_canon (im : Image) (launch : Launch) (r : Record) (n : Nat) (s : State) (p : Placement × Nat) :
    Canon s (addMember im launch r n s p) :=
  Canon.trans (t := { s with nextGang := s.nextGang + 1 }) (.of_memories rfl) (createGang_canon ..)

theorem launchMembers_canon (s : State) (queue index : Nat) (r : Record) (im : Image) (ps : List Placement) :
    Canon s (launchMembers s queue index r im ps) := by
  rw [launchMembers_eq]
  exact .foldl (addMember_canon im _ r _) _ s

theorem launchReady_canon (s : State) (r : Ready) (ps : List Placement) : Canon s (launchReady s r ps) :=
  (launchMembers_canon ..).trans (setQueue_canon ..)

theorem advanceStart_canon (s : State) (r : Ready) : Canon s (advanceStart s r) := .of_memories rfl

theorem launchReserved_canon {s t : State} {r : Ready} {v : Reservation} (h : launchReserved s r v = some t) : Canon s t := by
  unfold launchReserved at h
  split at h
  · cases h
  · cases h
    exact (launchReady_canon ..).trans (.of_memories rfl)

theorem reservedPass_canon (ready : List Ready) (s : State) : Canon s (reservedPass ready s).1 := by
  refine List.foldlRecOn (motive := fun (acc : State × List Nat) => Canon s acc.1) ready _ (.refl s) fun acc hacc r _ => ?_
  split
  · exact hacc
  · split
    next hlaunch => exact (hacc.trans (launchReserved_canon hlaunch)).trans (advanceStart_canon ..)
    · exact hacc

/-! ### Resumption and eviction -/

/-- An evicted bank's bytes and tags are put back. -/
def restoreBank (s : State) (x : Nat × List Host.Cell × Map Word) : State :=
  let k := s.g.fieldKey x.1 0
  { s with
    field := x.2.1.foldl (fun m c => wrByte m (k + c.1) c.2) s.field
    ftags := x.2.2.foldl (fun m t => mset rawTag m (k / 8192 + t.1) t.2) s.ftags }

theorem restoreBank_canon (s : State) (x : Nat × List Host.Cell × Map Word) : Canon s (restoreBank s x) :=
  .of_field rfl rfl (Memory.wf_foldl (fun c : Host.Cell => s.g.fieldKey x.1 0 + c.1) (fun c => c.2) x.2.1 s.field)

theorem restoreField_canon (s : State) : Canon s (restoreField s) :=
  (Canon.foldl clearCluster_canon s.g.clusters s).trans (.foldl restoreBank_canon s.g.evicted _)

theorem seatGang_canon (p : Placement) (s : State) : Canon s (seatGang p s) := .withGang_takes restoreField restoreField_canon

theorem goOn_canon (s : State) : Canon s (proceed (if s.lockstep then runChannels s else s)) :=
  Canon.trans (.ite (runChannels_canon s) (.refl s)) (proceed_canon _)

theorem wakeGang_canon (s : State) : Canon s (wakeGang s) := by
  unfold wakeGang
  dsimp only
  split
  · exact .withGang_takes (fun u => enterHandler (reissueFrame u _ _) _ _ _ none) fun u => (reissueFrame_canon ..).trans (enterHandler_canon ..)
  · exact .withGang_takes (fun u => proceed (if (reissueFrame u _ _).lockstep then runChannels (reissueFrame u _ _) else reissueFrame u _ _))
      fun u => (reissueFrame_canon ..).trans (goOn_canon _)

theorem resumeGang_canon (id : Nat) (s : State) : Canon s (resumeGang id s) := by
  unfold resumeGang
  split
  · exact .refl s
  · refine .ite (.refl s) ?_
    dsimp only
    split
    · exact .refl s
    · exact Canon.trans (.foldl (fun s (x : Gang × Placement) => onGang_canon (seatGang_canon x.2) s x.1.id) _ s)
        (.foldl (fun s (h : Gang) => onGang_canon wakeGang_canon s h.id) _ _)

theorem resumeLevel_canon (level : Nat) (s : State) : Canon s (resumeLevel level s) := .foldl (fun s (h : Gang) => resumeGang_canon h.id s) _ s

theorem fieldEviction_canon (id : Nat) (s : State) : Canon s (fieldEviction id s) :=
  .ite (onGang_canon (fun _ => .withGang_takes releaseSpan releaseSpan_canon) s id) (.refl s)

theorem evictFor_canon (ready : List Ready) (s : State) : Canon s (evictFor ready s) :=
  .foldl (fun s (h : Gang) => .ite (fieldEviction_canon h.id s) (.refl s)) _ s

/-! ### A pass -/

theorem levelPass_canon (ready : List Ready) (acc : State × List Nat × List Ready) (level : Nat) : Canon acc.1 (levelPass ready acc level).1 := by
  refine List.foldlRecOn (motive := fun (x : State × List Nat × List Ready) => Canon acc.1 x.1) _ _ (resumeLevel_canon level acc.1) fun x hx r _ => ?_
  obtain ⟨u, done, failed⟩ := x
  dsimp only at hx ⊢
  split
  · exact hx
  · split
    · exact hx
    · split
      · exact hx.trans ((launchReady_canon ..).trans (advanceStart_canon ..))
      · exact hx

theorem reserve_canon (s : State) (r : Ready) : Canon s (reserve s r) := by
  unfold reserve
  refine .ite (.refl s) ?_
  split
  · exact .refl s
  · exact .of_memories rfl

theorem reservePass_canon (failed : List Ready) (s : State) : Canon s (reservePass failed s) := by
  refine Canon.trans ?_ (.foldl reserve_canon _ _)
  split
  · exact .ite (reserve_canon ..) (.refl s)
  · exact .refl s

theorem ageQueue_canon (s : State) (r : Ready) : Canon s (ageQueue s r) := .of_memories rfl

/-- What a pass places, once it has evaluated its queues (R427 to R431). -/
def placePass (ready : List Ready) (s : State) : State :=
  let (s, done) := reservedPass ready s
  let (s, done, failed) := [7, 6, 5, 4, 3, 2, 1, 0].foldl (levelPass ready) (s, done, [])
  let s := if done = [] then s else failed.foldl ageQueue s
  reservePass failed s

theorem placePass_canon (ready : List Ready) (s : State) : Canon s (placePass ready s) := by
  have hreserved := reservedPass_canon ready s
  have hlevels : Canon s ([7, 6, 5, 4, 3, 2, 1, 0].foldl (levelPass ready) ((reservedPass ready s).1, (reservedPass ready s).2, [])).1 :=
    List.foldlRecOn (motive := fun (x : State × List Nat × List Ready) => Canon s x.1) _ _ hreserved fun x hx level _ =>
      hx.trans (levelPass_canon ready x level)
  unfold placePass
  exact (hlevels.trans (.ite (.refl _) (.foldl ageQueue_canon _ _))).trans (reservePass_canon ..)

theorem schedulingPass_canon (s : State) : Canon s (schedulingPass s) := by
  have hbegun : Canon s { s with heartbeats := s.heartbeats + 1 } := .of_memories rfl
  have hstale : ∀ ready u, Canon u (staleReservations ready u) := fun _ _ => .of_memories rfl
  exact .ite (.refl s) (.ite (.of_memories rfl)
    ((((hbegun.trans (evalQueues_canon _)).trans (hstale _ _)).trans (evictFor_canon _ _)).trans (placePass_canon _ _)))

/-! ### Events of the host, the watchdog and the gangs -/

theorem gangStart_canon (id : Nat) (s : State) : Canon s (gangStart id s) := updGang_canon ..

theorem queueTailWrite_canon (q tail : Nat) (s : State) : Canon s (queueTailWrite q tail s) :=
  .ite (.refl s) (.ite ((setQueue_canon ..).trans (stopQueue_canon ..)) ((setQueue_canon ..).trans (requestPass_canon _)))

theorem queueErrorClear_canon (q m : Nat) (s : State) : Canon s (queueErrorClear q m s) :=
  .ite (.refl s) ((setQueue_canon ..).trans (requestPass_canon _))

theorem queueWatchFire_canon (q : Nat) (s : State) : Canon s (queueWatchFire q s) :=
  .ite ((evalQueue_canon s q).trans (requestPass_canon _)) (.refl s)

theorem haltStopped_canon (s : State) : Canon s (haltStopped s) := .ite ((haltGang_canon ..).trans (haltCohort_canon _)) (.refl s)

theorem askAll_canon (v : Reservation) (s : State) : Canon s (askAll v s) := .of_memories rfl

theorem reservationTimeout_canon (die : Nat) (s : State) : Canon s (reservationTimeout die s) := by
  cases hv : mfind s.reservations die with
  | none =>
    rw [reservationTimeout, hv]
    exact .refl s
  | some v =>
    rw [reservationTimeout_eq hv]
    exact .ite (.refl s) ((askAll_canon v s).trans (.foldl (f := fun s (id : Nat) => onGang s id haltStopped) (onGang_canon haltStopped_canon) _ _))

theorem preemptionHalt_canon (id : Nat) (s : State) : Canon s (preemptionHalt id s) := by
  unfold preemptionHalt
  split
  · exact .refl s
  · have hhalted : Canon s (onGang s id fun s => haltCohort (haltGang .halted s)) :=
      onGang_canon (fun s => (haltGang_canon ..).trans (haltCohort_canon _)) s id
    exact .ite (.ite hhalted (hhalted.trans (rotate_canon _))) (.refl s)

theorem pageReply_canon (id : Nat) (present : Bool) (s : State) : Canon s (pageReply id present s) := by
  unfold pageReply
  split
  · exact .refl s
  · exact .ite (.refl s) (.ite ((updGang_canon ..).trans (requestPass_canon _)) ((updGang_canon ..).trans (resumeGang_canon ..)))

theorem clusterOffline_canon (c : Nat) (s : State) : Canon s (clusterOffline c s) := .ite (.refl s) (.of_memories rfl)

theorem heartbeatTimeout_canon (s : State) : Canon s (heartbeatTimeout s) := .ite (.refl s) (.of_memories rfl)

theorem commandCoreRelease_canon (s : State) : Canon s (commandCoreRelease s) :=
  Canon.trans (t := { s with frozen := false }) (.of_memories rfl) (requestPass_canon _)

theorem portStatus_canon (s : State) (p v : Nat) : Canon s (portStatus s p v) := .of_memories rfl

theorem directLaunch_canon (p : Nat) (s : State) : Canon s (directLaunch p s) := by
  unfold directLaunch
  refine .ite (.refl s) ?_
  dsimp only
  split
  · have himage := (readImage_only s (recordOf (mget ({} : DirectPort) s.directPorts p).record).pasid
      (recordOf (mget ({} : DirectPort) s.directPorts p).record).image.toNat (recordOf (mget ({} : DirectPort) s.directPorts p).record).sz).canonical
    split
    next heq =>
      rw [heq] at himage
      exact Canon.trans himage (portStatus_canon ..)
    next heq =>
      rw [heq] at himage
      exact Canon.trans himage (portStatus_canon ..)
    next heq =>
      rw [heq] at himage
      split
      · exact Canon.trans himage (portStatus_canon ..)
      · exact Canon.trans himage ((launchMembers_canon ..).trans (portStatus_canon ..))
  · exact portStatus_canon ..

end Sys2Proof.Machine
end

section
/-! The memories stay canonical under the engines, their ports and the fabric (R129 to R136, R207 to R210, R393 to R420). -/
namespace Sys2Proof.Machine

/-! ### Commands -/

theorem Engaged.canonical {near : Bool} {s t : State} (h : Engaged near s t) : Canon s t := ⟨h.canon⟩

theorem setPort_canon (s : State) (p : Nat) (x : Port) : Canon s (setPort s p x) := .of_memories rfl

theorem finishCommand_canon (s : State) (p : Nat) (c : Command) (r : Word) : Canon s (finishCommand s p c r) := .of_memories rfl

theorem used_canon (s : State) : Canon s s.used := .of_memories rfl

theorem engRefused_canon (s : State) (va n : Nat) : Canon s (engRefused s va n) := (engRefused_engaged (near := false) s va n).canonical

theorem engTouch_canon (s : State) (va n : Nat) : Canon s (engTouch s va n) := (engTouch_engaged (near := false) s va n).canonical

theorem engWrite_canon {s t : State} {va : Nat} {bs : List Byte} (h : engWrite s va bs = .ok t) : Canon s t :=
  (engWrite_engaged (near := false) h).canonical

theorem writeFlag_canon {s t : State} {flag fval : Nat} (h : writeFlag s flag fval = .ok t) : Canon s t := engWrite_canon h

/-! ### Reductions and merges -/

theorem reductionCommand_canon (p : Nat) (s : State) : Canon s (reductionCommand p s) := by
  unfold reductionCommand
  split
  · exact .refl s
  · split
    · exact .refl s
    next hrun => exact ((used_canon s).trans (reduceRun_engaged (near := false) hrun).canonical).trans (setPort_canon ..)

theorem reductionComplete_canon (p : Nat) (s : State) : Canon s (reductionComplete p s) := by
  unfold reductionComplete
  split
  · exact .refl s
  · refine .ite ?_ ((used_canon s).trans (finishCommand_canon ..))
    split
    next hflag => exact ((used_canon s).trans (writeFlag_canon hflag)).trans (finishCommand_canon ..)
    · exact ((used_canon s).trans (engRefused_canon ..)).trans (finishCommand_canon ..)
    · exact used_canon s

theorem mergeCommand_canon (write : Bool) (p : Nat) (s : State) : Canon s (mergeCommand write p s) := by
  unfold mergeCommand
  split
  · exact .refl s
  next c _ =>
    refine .ite (used_canon s) ?_
    have hpass := (used_canon s).trans (mergePass_engaged s.used c.words).canonical
    dsimp only
    split
    · exact used_canon s
    next u status _ _ index heq =>
      rw [heq] at hpass
      have hpass : Canon s u := hpass
      refine Canon.trans (Canon.trans (Canon.trans hpass (countReads_engaged (near := false) u (mergeReads s.used c.words status index)).canonical)
        (.ite (spendBuffer_engaged (near := false) _ c.words).canonical (.refl _))) (setPort_canon ..)

theorem mergeDone_canon {s t : State} {a : Nat} (h : mergeDone s a = .ok t) : Canon s t := by
  unfold mergeDone at h
  cases hread : mergeRead s a 0 8 with
  | error e =>
    rw [hread] at h
    cases h
  | ok bs =>
    rw [hread] at h
    by_cases hG : addrIsG a = true
    · cases hpa : engTranslate s (addrOf a) true true with
      | error e =>
        simp only [bind, Except.bind, hG, hpa, if_true] at h
        cases h
      | ok pa =>
        simp only [bind, Except.bind, hG, hpa, if_true] at h
        cases h
        exact ((useG_canon ..).trans (physTouch_canon ..)).trans (physStore_canonical ..)
    · simp only [bind, Except.bind, hG] at h
      exact (mergeWrite_engaged h).canonical

theorem mergeComplete_canon (p : Nat) (s : State) : Canon s (mergeComplete p s) := by
  unfold mergeComplete
  split
  · exact .refl s
  · refine .ite ?_ ((used_canon s).trans (finishCommand_canon ..))
    split
    next hdone => exact ((used_canon s).trans (mergeDone_canon hdone)).trans (finishCommand_canon ..)
    · exact ((used_canon s).trans (.ite (engTouch_canon ..) (.refl _))).trans (finishCommand_canon ..)
    · exact used_canon s

/-! ### Collectives -/

theorem collGive_canon (s : State) (p : Nat) (c : Command) : Canon s (collGive s p c) := .ite (.refl s) (finishCommand_canon ..)

theorem collEnd_canon {s : State} {x : CollStop} (h : Canon s x.after) (p : Nat) (c : Command) : Canon s (collEnd p c s x) := by
  unfold collEnd
  split
  · exact .refl s
  next n _ =>
    exact (h.trans (collResult_engaged (near := false) x.after n x.flags x.place).canonical).trans (setPort_canon ..)

theorem touchTable_canon (s : State) (c : Coll) : Canon s (touchTable s c) := (touchTable_engaged (near := false) s c).canonical

theorem collCommand_canon (scatter : Bool) (p : Nat) (s : State) : Canon s (collCommand scatter p s) := by
  unfold collCommand
  split
  · exact .refl s
  next cmd _ =>
    refine .ite (.refl s) ?_
    dsimp only
    split
    · split
      · exact collEnd_canon ((touchTable_canon ..).trans (spendBuffer_engaged (near := false) _ _).canonical) ..
      next t _ =>
        split
        · have hsent := (touchTable_canon s (collOf cmd.words)).trans
            (collSend_engaged (near := false) p (collOf cmd.words) t (touchTable s (collOf cmd.words))).canonical
          split
          next heq =>
            rw [heq] at hsent
            exact Canon.trans hsent (setPort_canon ..)
          next heq =>
            rw [heq] at hsent
            exact collEnd_canon hsent ..
        · exact setPort_canon ..
    · exact setPort_canon ..

theorem collReceive_canon {c : Coll} {land j : Nat} {s : State} {f : Fl} :
    Canon s (collAfter ((collReceive c land j s f).map Prod.fst)) := by
  unfold collReceive
  have htouched : Canon s (touchTerms s c land j) := (touchTerms_engaged (near := false) s c land j).canonical
  dsimp only
  split
  · exact htouched
  · split
    · exact htouched.trans (engRefused_canon ..)
    next hwrite => exact htouched.trans (engWrite_canon hwrite)

theorem collReduce_canon (c : Coll) (land : Nat) (js : List Nat) (s : State) (f : Fl) :
    Canon s (collAfter ((collReduce c land js s f).map Prod.fst)) := by
  induction js generalizing s f with
  | nil => exact .refl s
  | cons j js ih =>
    have hj := collReceive_canon (c := c) (land := land) (j := j) (s := s) (f := f)
    rw [collReduce]
    split
    next heq =>
      rw [heq] at hj
      exact Canon.trans hj (ih ..)
    next heq =>
      rw [heq] at hj
      exact hj

/-- The reduction of a collective that has one, before its flag and its result (R417). -/
def collReduced (c : Coll) (t : List (Nat × Nat)) (s : State) : Except CollStop (State × Fl) :=
  if c.scatter then collReduce c ((t[c.rank]?).getD (0, 0)).1 (List.range c.n) s 0 else .ok (s, 0)

theorem collReduced_canon (c : Coll) (t : List (Nat × Nat)) (s : State) : Canon s (collAfter ((collReduced c t s).map Prod.fst)) := by
  unfold collReduced
  split
  · exact collReduce_canon ..
  · exact .refl s

theorem collFinish_canon (p : Nat) (cmd : Command) (c : Coll) (t : List (Nat × Nat)) (s : State) : Canon s (collAfter (collFinish p cmd c t s)) := by
  have hreduced := collReduced_canon c t s
  unfold collFinish
  change Canon s (collAfter (collReduced c t s >>= _))
  cases hr : collReduced c t s with
  | error x =>
    rw [hr] at hreduced
    exact hreduced
  | ok r =>
    rw [hr] at hreduced
    obtain ⟨u, f⟩ := r
    simp only [bind, Except.bind]
    split
    · exact Canon.trans hreduced (finishCommand_canon ..)
    · by_cases hflag : c.flag = 0
      · simp only [hflag, if_true]
        exact Canon.trans hreduced (finishCommand_canon ..)
      · simp only [hflag, if_false]
        cases hwrite : writeFlag u c.flag c.fval with
        | error e => exact Canon.trans hreduced (engRefused_canon ..)
        | ok v => exact Canon.trans hreduced ((writeFlag_canon hwrite).trans (finishCommand_canon ..))

theorem collAdd_canon (p : Nat) (cmd : Command) (c : Coll) (t : List (Nat × Nat)) (s : State) : Canon s (collAdd p cmd c t s) := by
  have hcounts := (collCounts_engaged (near := false) p c cmd t s).canonical
  unfold collAdd
  split
  next heq =>
    rw [heq] at hcounts
    exact collEnd_canon hcounts ..
  next heq =>
    rw [heq] at hcounts
    exact Canon.trans hcounts (setPort_canon ..)

theorem collRest_canon (p : Nat) (cmd : Command) (c : Coll) (t : List (Nat × Nat)) (s : State) : Canon s (collRest p cmd c t s) := by
  unfold collRest
  split
  · exact collEnd_canon (engTouch_canon ..) ..
  · exact .refl s
  · have hfinish := (engTouch_canon s ((t[c.rank]?).getD (0, 0)).2 8).trans
      (collFinish_canon p cmd c t (engTouch s ((t[c.rank]?).getD (0, 0)).2 8))
    split
    next heq =>
      rw [heq] at hfinish
      exact collEnd_canon hfinish ..
    next heq =>
      rw [heq] at hfinish
      exact hfinish

theorem collWait_canon (p : Nat) (cmd : Command) (s : State) : Canon s (collWait p cmd s) := by
  unfold collWait
  refine .ite (.refl s) ?_
  split
  · exact collEnd_canon (touchTable_canon ..) ..
  next t _ =>
    refine .ite (collRest_canon ..) ?_
    have hadded := collAdd_canon p cmd (collOf cmd.words) t s
    refine .ite hadded ?_
    split
    · exact hadded
    · exact .ite (hadded.trans (collRest_canon ..)) hadded

theorem collectiveWaitComplete_canon (p : Nat) (s : State) : Canon s (collectiveWaitComplete p s) := by
  unfold collectiveWaitComplete
  split
  · exact .refl s
  next cmd _ =>
    refine .ite (collGive_canon ..) ?_
    have hwaited := collWait_canon p cmd s
    dsimp only
    split
    · exact .ite (hwaited.trans (collGive_canon ..)) hwaited
    · exact hwaited

theorem collNak_canon (p q : Nat) (s : State) : Canon s (collNak p q s) := by
  unfold collNak
  split
  · exact .refl s
  · exact setPort_canon ..

/-! ### Ports -/

theorem enginePass_canon (p : Nat) (s : State) : Canon s (enginePass p s) :=
  (((((((reductionCommand_canon p s).trans (reductionComplete_canon ..)).trans (mergeCommand_canon ..)).trans (mergeCommand_canon ..)).trans
    (mergeComplete_canon ..)).trans (collCommand_canon ..)).trans (collCommand_canon ..)).trans (collectiveWaitComplete_canon ..)

theorem runEngines_canon (p : Nat) (s : State) : Canon s (runEngines p s) := .ite (enginePass_canon p s) (.refl s)

theorem runAllEngines_canon (s : State) : Canon s (runAllEngines s) :=
  .foldl (f := fun (u : State) (p : Nat) => runEngines p u) (fun u p => runEngines_canon p u) _ s

theorem discardOpen_canon (s : State) (p : Nat) : Canon s (discardOpen s p) := .of_memories rfl

theorem endCommand_canon (s : State) (p : Nat) (v : Word) : Canon s (endCommand s p v) :=
  .ite ((setPort_canon ..).trans (runEngines_canon ..)) (discardOpen_canon ..)

theorem execEqpush_canon {a : Reg} {p : BitVec 5} {s t : State} (h : execEqpush a p s = .next t) : Canon s t :=
  userOp_canon (fun s => .ite (.ite (trapIllegal_canon ..) (discardOpen_canon ..).commit4) (.ite (stall_canon s) (setPort_canon ..).commit4)) h

theorem execEqpushLast_canon {a : Reg} {p : BitVec 5} {s t : State} (h : execEqpushLast a p s = .next t) : Canon s t :=
  userOp_canon (fun s => .ite (trapIllegal_canon ..) (.ite (discardOpen_canon ..).commit4 (.ite (stall_canon s) (endCommand_canon ..).commit4))) h

theorem popPort_canon (d : Reg) (p : BitVec 5) (s : State) : Canon s (popPort d p s) :=
  .ite (.ite (trapIllegal_canon ..) (stall_canon s)) (.ite ((setPort_canon ..).answer ..) (stall_canon s))

theorem execEqpop_canon {d : Reg} {p : BitVec 5} {s t : State} (h : execEqpop d p s = .next t) : Canon s t :=
  userOp_canon (fun _ => (runEngines_canon ..).trans (popPort_canon d p _)) ((exec_eqpop d p s).symm.trans h)

theorem execEqstat_canon {d : Reg} {p : BitVec 5} {s t : State} (h : execEqstat d p s = .next t) : Canon s t :=
  userOp_canon (fun _ => ((runEngines_canon ..).trans (setPort_canon ..)).answer ..) h

theorem engineStep_canon {f : State → State} (hf : ∀ s, Canon s (f s)) (gang : Nat) (s : State) : Canon s (engineStep gang f s) :=
  onGang_canon hf s gang

/-! ### The fabric -/

theorem nakChannel_canon (c n d : Nat) (s : State) : Canon s (nakChannel c n d s) := setChannel_canon ..

theorem dropWrite_canon (s : State) (u : Unacked) : Canon s (dropWrite s u) :=
  .ite (updGang_canon ..) (.ite (onGang_canon (nakChannel_canon _ _ _) s _) (onGang_canon (collNak_canon _ _) s _))

theorem withUnacked_canon (s : State) (l : List Unacked) : Canon s { s with unacked := l } := .of_memories rfl

theorem writeAcknowledgement_canon (ok : Bool) (s : State) : Canon s (writeAcknowledgement ok s) := by
  unfold writeAcknowledgement
  split
  · exact .refl s
  · exact .ite ((withUnacked_canon ..).trans (physStore_canonical ..)) ((withUnacked_canon ..).trans (dropWrite_canon ..))

theorem stgNak_canon (gang a : Nat) (s : State) : Canon s (stgNak gang a s) := by
  unfold stgNak
  split
  · exact .refl s
  · exact (withUnacked_canon ..).trans (dropWrite_canon ..)

theorem withHomeData_canon (s : State) (d : Option Word) : Canon s { s with homeData := d } := .of_memories rfl

theorem forwardAccess_canon (s : State) (x : PeerAccess) (pa : Nat) : Canon s (forwardAccess s x pa) := by
  unfold forwardAccess
  split
  · exact withHomeData_canon ..
  · exact .of_memories rfl
  · exact .ite (withHomeData_canon ..) ((amoHome_canon ..).trans (withHomeData_canon ..))

theorem peerInboundAccess_canon (x : PeerAccess) (s : State) : Canon s (peerInboundAccess x s) := by
  unfold peerInboundAccess
  refine .ite (withHomeData_canon ..) ?_
  have hused : ∀ pasid va, Canon s (hubUse s 0 pasid va) := fun _ _ => onlyServed.canonical (hubUse_only ..)
  dsimp only
  split
  · exact .ite ((hused _ _).trans (forwardAccess_canon ..)) (((hused _ _).trans (homeAccess_canon ..)).trans (withHomeData_canon ..))
  · exact .refl s
  · exact withHomeData_canon ..

theorem peerWindowRemap_canon (w : Nat) (w0 w1 w2 : Word) (s : State) : Canon s (peerWindowRemap w w0 w1 w2 s) := .of_memories rfl

theorem portDown_canon (p : Nat) (s : State) : Canon s (portDown p s) := .ite (.refl s) (.of_memories rfl)

theorem portUp_canon (p : Nat) (s : State) : Canon s (portUp p s) := .of_memories rfl

theorem connectionSetup_canon (mode : DeliveryMode) (s : State) : Canon s (connectionSetup mode s) := .ite (.refl s) (.of_memories rfl)

end Sys2Proof.Machine
end

section
/-! The memories stay canonical under fences, signals, returns, the queue frame, translation, host writes and the start (R124 to R127, R211 to
R228, R359 to R367, R412, R437 to R447). -/
namespace Sys2Proof.Machine

/-! ### Fences, barriers and signals -/

theorem execFence_canon {sc k : BitVec 5} {s t : State} (h : execFence sc k s = .next t) : Canon s t := by
  refine userOp_canon (fun s => ?_) h
  exact .ite (stall_canon s) (.ite (drainThen_canon (fun s => (Canon.refl s).commit4) s) (Canon.refl s).commit4)

theorem arriveAt_canon (k : Nat) (s : State) : Canon s (arriveAt k s) := .ite (.of_memories rfl) (.of_memories rfl)

theorem barrierUsable_canon {f : State → State} (hf : ∀ s, Canon s (f s)) (i : Instr) (k : Nat) (s : State) : Canon s (barrierUsable i k s f) :=
  .ite (trapIllegal_canon ..) (.ite (trapS_canon ..) (hf s))

theorem execFenceb_canon {b c : BitVec 5} {s t : State} (h : execFenceb b c s = .next t) : Canon s t := by
  refine userOp_canon (fun s => barrierUsable_canon (fun s => .ite (stall_canon s) ?_) _ _ s) h
  exact .ite (drainThen_canon (fun s => .ite (arriveAt_canon ..).commit4 ((Canon.refl s).withGang _).commit4) s)
    (.ite (arriveAt_canon ..).commit4 ((Canon.refl s).withGang _).commit4)

theorem barrierArrival_canon (id : Nat) (b : BitVec 5) (s : State) : Canon s (barrierArrival id b s) := by
  refine onGang_canon (fun s => ?_) s id
  dsimp only
  split
  · exact .ite (((Canon.refl s).withGang _).trans (arriveAt_canon ..)) (.refl s)
  · exact .refl s

theorem execWaitb_canon {b : BitVec 5} {s t : State} (h : execWaitb b s = .next t) : Canon s t := by
  refine userOp_canon (fun s => barrierUsable_canon (fun s => .ite (stall_canon s) ?_) _ _ s) h
  split
  · exact trapIllegal_canon ..
  · exact .ite ((Canon.refl s).withGang _).commit4 (stall_canon s)

theorem setBarrier_canon (s : State) (k : Nat) (x : Barrier) : Canon s (setBarrier s k x) := .of_memories rfl

theorem execBarcfg_canon {d b n : BitVec 5} {s t : State} (h : execBarcfg d b n s = .next t) : Canon s t :=
  userOp_canon (fun s => .ite ((setBarrier_canon ..).answer ..) ((Canon.refl s).answer ..)) h

theorem signalEvents_canon (s : State) : Canon s (signalEvents s) := .of_memories rfl

theorem execSigwait_canon {c a b : BitVec 5} {s t : State} (h : execSigwait c a b s = .next t) : Canon s t := by
  refine userOp_canon (fun s => ?_) h
  have hwaited := waitCopies_canon s
  dsimp only
  split
  · exact hwaited.trans (globalStop_canon ..)
  · split
    · exact hwaited.trans (trapLost_canon ..)
    next hread => exact .ite ((hwaited.trans (useG_canon ..)).trans (physRead_canon hread)).commit4 (hwaited.trans (stall_canon _))

theorem execSigpost_canon {c a b : BitVec 5} {s t : State} (h : execSigpost c a b s = .next t) : Canon s t := by
  refine userOp_canon (fun s => ?_) h
  dsimp only
  split
  · exact globalStop_canon ..
  · refine .ite (stall_canon s) ?_
    split
    · exact trapLost_canon ..
    next hread => exact ((((useG_canon ..).trans (physRead_canon hread)).trans (physStore_canonical ..)).trans (signalEvents_canon _)).commit4

/-! ### Traps, returns, waits and the end -/

theorem execTrap_canon {l h : BitVec 5} {s t : State} (ht : execTrap l h s = .next t) : Canon s t :=
  userOp_canon (fun s => afterWaits_canon (fun s => ((Canon.refl s).withGang _).trans (takeCause_canon ..)) s) ht

theorem eretIn_canon {i : Instr} {mode : Nat} {s t : State} (h : eretIn i mode s = .next t) : Canon s t :=
  userOp_canon (fun s => .ite (trapIllegal_canon ..) (.ite (stall_canon s) (eretReturn_canon ..))) h

theorem execBrk_canon {s t : State} (h : execBrk s = .next t) : Canon s t :=
  userOp_canon (fun s => .ite (trapAt_canon ..) (afterWaits_canon (fun s => ((Canon.refl s).withGang _).trans (rotate_canon _)) s)) h

theorem execWfe_canon {s t : State} (h : execWfe s = .next t) : Canon s t := by
  refine userOp_canon (fun s => ?_) h
  have hrun := (waitCopies_canon s).trans (runAllEngines_canon _)
  exact .ite (hrun.withGang _).commit4 (hrun.trans (stall_canon _))

theorem askToHalt_canon (s : State) : Canon s s.askToHalt := .of_memories rfl

theorem execYield_canon {s t : State} (h : execYield s = .next t) : Canon s t :=
  userOp_canon (fun s => .ite (askToHalt_canon s).commit4 (Canon.refl s).commit4) h

theorem cancelStopped_canon (s : State) : Canon s (cancelStopped s) :=
  .foldl cancelChannel_canon _ s

theorem postSignalOf_canon (l : Launch) (t : PostTarget) (gangId pc : Word) (die : Nat) (s : State) : Canon s (postSignalOf l t gangId pc die s) := by
  unfold postSignalOf
  refine .ite (.refl s) ?_
  split
  · split
    next hread => exact ((useG_canon ..).trans (physRead_canon hread)).trans (physStore_canonical ..)
    next hread => exact (useG_canon ..).trans (physRead_canon hread)
  · exact (sendFrame_canon ..).trans (stopQueue_canon ..)

theorem retireGang_canon (s : State) : Canon s (retireGang s) :=
  ((((Canon.refl s).withGang _).trans (releaseSpan_canon _)).trans (postSignalOf_canon ..)).trans (rotate_canon _)

theorem execHalt_canon {s t : State} (h : execHalt s = .next t) : Canon s t := by
  refine userOp_canon (fun s => ?_) h
  have hrun := ((((Canon.refl s).withGang { s.g with frame := if s.g.pl then [] else s.g.frame }).trans (cancelStopped_canon _)).trans
    (waitCopies_canon _)).trans (runAllEngines_canon _)
  have hcancelled := hrun.trans (cancelStopped_canon _)
  exact .ite (hrun.trans (stall_canon _)) (.ite (hcancelled.trans (stall_canon _)) (hcancelled.trans (retireGang_canon _)))

theorem storeRecord_canon (s : State) (va pa : Nat) (ws : List Word) : Canon s (storeRecord s va pa ws) :=
  .foldl (fun s (p : Word × Nat) => sendWrite_canon s 0 (va + 8 * p.2) (pa + 8 * p.2) (leBytes 8 p.1.toNat)) _ s

theorem withSaved_canon (s : State) (l : List SavedFrame) : Canon s { s with savedFrames := l } := .of_memories rfl

theorem freeWords_canon (s : State) (n : Nat) : Canon s (freeWords s n).2 := .of_memories rfl

theorem execQsave_canon {a : Reg} {s t : State} (h : execQsave a s = .next t) : Canon s t := by
  refine userOp_canon (fun s => .ite (stall_canon s) ?_) h
  dsimp only
  split
  · exact globalStop_canon ..
  · exact .ite (trapLost_canon ..)
      ((((freeWords_canon s 512).trans (globalTouch_canon ..)).trans (storeRecord_canon ..)).trans (withSaved_canon ..)).commit4

theorem execQload_canon {a : Reg} {s t : State} (h : execQload a s = .next t) : Canon s t := by
  refine userOp_canon (fun s => ?_) h
  dsimp only
  split
  · exact globalStop_canon ..
  · refine .ite (stall_canon s) (.ite (trapG_canon ..) ?_)
    split
    · exact trapLost_canon ..
    next hread =>
      split
      · exact trapIllegal_canon ..
      · exact (((globalTouch_canon ..).trans (physRead_canon hread)).withGang _).commit4

/-! ### Register writes and the gang's units -/

theorem errorLimit_canon (s : State) (k : Nat) : Canon s (errorLimit s k) := .ite (.refl s) (.of_memories rfl)

theorem setErrc_canon (s : State) (k : Nat) (v : Word) : Canon s (setErrc s k v) := .ite (.refl s) (.of_memories rfl)

theorem setPcpwr_canon (s : State) (k : Nat) (v : Word) : Canon s (setPcpwr s k v) := by
  rw [setPcpwr_only]
  exact .of_memories rfl

theorem queueWrite_canon (q k : Nat) (v : Word) (s : State) : Canon s (queueWrite q k v s) := by
  unfold queueWrite
  refine .ite (.refl s) ?_
  split
  · exact setQueue_canon ..
  · exact setQueue_canon ..
  · exact queueTailWrite_canon ..
  · exact queueErrorClear_canon ..

theorem convresWrite_canon (v : Word) (s : State) : Canon s (convresWrite v s) := .ite (storeConvres_canon ..) (.refl s)

theorem registerWrite_canon (r : DevReg) (v : Word) (s : State) : Canon s (registerWrite r v s) := by
  cases r with
  | control n => exact .ite (convresWrite_canon ..) (storeControl_canon ..)
  | stkstat k => exact (setErrc_canon s k v).trans (errorLimit_canon ..)
  | parst => exact (withParity_canon s _).trans (.foldl errorLimit_canon _ _)
  | pcpwr k => exact setPcpwr_canon ..
  | queueWord q k => exact queueWrite_canon ..
  | peerWord w k => exact .of_memories rfl
  | grantWord p w k => exact .of_memories rfl
  | portRecord p k => exact .of_memories rfl
  | portPlacement p => exact .of_memories rfl
  | pasidRoot pasid => exact .of_memories rfl
  | pasidDomain pasid => exact .of_memories rfl
  | hotnessClear pasid page => exact .of_memories rfl

theorem clearErrors_canon (c : Nat) (m : BitVec 7) (s : State) : Canon s (clearErrors c m s) := setChannel_canon ..

theorem trapEntry_canon (s : State) : Canon s (trapEntry s) := .ite (takePending_canon s) (.refl s)

theorem shootDown_canon (pasid lo hi : Nat) (s : State) : Canon s (shootDown pasid lo hi s) := .of_memories rfl

theorem shootDownComplete_canon (s : State) : Canon s (shootDownComplete s) := by
  unfold shootDownComplete
  split
  · exact .refl s
  · exact .ite (.refl s) (.of_memories rfl)

theorem walkPrefetch_canon (w : Nat) (s : State) : Canon s (walkPrefetch w s) := .foldl useG_canon _ s

/-! ### Page migration -/

theorem wf_putCells (m : List Host.Cell) (a size : Nat) (cells : List Host.Cell) (h : Memory.wf m = true) :
    Memory.wf (cells.foldl (fun m c => wrByte m (a + c.1) c.2) (mclear m a (a + size))) = true :=
  Memory.wf_foldl (fun c : Host.Cell => a + c.1) (fun c => c.2) cells _ (Memory.wf_mclear _ _ _ h)

theorem putPage_canon (s : State) (pa size : Nat) (cells : List Host.Cell) : Canon s (putPage s pa size cells) := by
  unfold putPage
  exact .ite ⟨fun ⟨hmem, hpeer, hfield⟩ => ⟨hmem, wf_putCells _ _ _ _ hpeer, hfield⟩⟩
    ⟨fun ⟨hmem, hpeer, hfield⟩ => ⟨wf_putCells _ _ _ _ hmem, hpeer, hfield⟩⟩

theorem withMemBad_canon (s : State) (l : List Nat) : Canon s { s with memBad := l } := .of_memories rfl

theorem setHbmTag_canon (s : State) (f : Nat) (t : Word) : Canon s (setHbmTag s f t) := ⟨(setHbmTag_copied s f t).canon⟩

theorem moveTag_canon (s : State) (old : Option Nat) (new : Nat) : Canon s (moveTag s old new) := by
  unfold moveTag
  cases old with
  | none =>
    dsimp only
    exact .ite ((setHbmTag_canon ..).trans (withMemBad_canon ..)) (setHbmTag_canon ..)
  | some f =>
    have htouched : Canon s (touchHbmTag s f) := physTouch_canon ..
    dsimp only
    exact .ite ((htouched.trans (setHbmTag_canon ..)).trans (withMemBad_canon ..)) (htouched.trans (setHbmTag_canon ..))

theorem moveTags_canon (s : State) (old new size : Nat) : Canon s (moveTags s old new size) :=
  .ite (.refl s) (.foldl (f := fun s (i : Nat) => moveTag s (if region old = 0 then some (old / 8192 + i) else none) (new / 8192 + i))
    (fun s _ => moveTag_canon s ..) _ s)

theorem copyPage_canon (s : State) (old new size : Nat) : Canon s (copyPage s old new size) :=
  ((((physTouch_canon ..).trans (physTouch_canon ..)).trans (putPage_canon ..)).trans (withMemBad_canon ..)).trans (moveTags_canon ..)

theorem movePages_canon (s : State) (pasid old new size : Nat) : Canon s (movePages s pasid old new size) := .of_memories rfl

theorem withHotness_canon (s : State) (m : Map Hot) : Canon s { s with hotness := m } := .of_memories rfl

theorem pageMigration_canon (pasid va pa : Nat) (s : State) : Canon s (pageMigration pasid va pa s) := by
  unfold pageMigration
  split
  · exact .refl s
  next at_ leaf size _ =>
    refine .ite (.refl s) ?_
    have hmoved : Canon s (shootDownComplete (shootDown pasid (va / size * size) (va / size * size + size)
        (physWrite (movePages (copyPage s (entryPa leaf) pa size) pasid (entryPa leaf) pa size) at_
          (leBytes 8 (setBits (w64 leaf) 12 40 (pa / 4096)).toNat)))) :=
      ((((copyPage_canon ..).trans (movePages_canon ..)).trans (physWrite_canon ..)).trans (shootDown_canon ..)).trans (shootDownComplete_canon _)
    exact .ite ((hmoved.trans (withHotness_canon ..)).trans (sendFrame_canon ..)) (hmoved.trans (withHotness_canon ..))

/-! ### Teardown and host writes -/

theorem discardGang_canon (s : State) : Canon s (discardGang s) :=
  (((((Canon.refl s).withGang { s.g with loads := [] }).trans (haltGang_canon ..)).trans (discardCopies_canon _)).trans
    (releaseSpan_canon _)).withGang _

theorem tornDown_canon (pasid : Nat) (s : State) : Canon s (tornDown pasid s) := .of_memories rfl

theorem pasidTeardown_canon (pasid : Nat) (s : State) : Canon s (pasidTeardown pasid s) := by
  have hdown : ∀ ids : List Nat, Canon s (tornDown pasid (ids.foldl (fun s id => onGang s id discardGang) s)) := fun ids =>
    (Canon.foldl (f := fun s (id : Nat) => onGang s id discardGang) (onGang_canon discardGang_canon) ids s).trans (tornDown_canon ..)
  exact .ite (.refl s) (.ite (hdown _) ((hdown _).trans (rotate_canon _)))

theorem physWriteRun_canon (n : Nat) (s : State) (pa : Nat) (bs : List Byte) : Canon s (physWriteRun n s pa bs) := by
  induction n generalizing s pa bs with
  | zero => exact .refl s
  | succ n ih =>
    rw [physWriteRun]
    refine .ite (.refl s) (.ite (physWrite_canon ..) (.ite (Canon.trans ⟨(physStripePart_copied ..).canon⟩ (ih ..)) (Canon.trans ?_ (ih ..))))
    exact .foldl (fun s (x : Nat × Nat) => .ite (physTouch_canon ..) (physWrite_canon ..)) _ s

theorem rmaPiece_canon (pasid : Nat) (s : State) (a : Nat) (bs : List Byte) : Canon s (rmaPiece pasid s a bs) := by
  have hused : Canon s (hubUse s 0 pasid a) := onlyServed.canonical (hubUse_only ..)
  unfold rmaPiece
  split
  · exact hused.trans (physWriteRun_canon ..)
  · exact hused

theorem hostRmaWrite_canon (pasid a : Nat) (bytes : List Byte) (s : State) : Canon s (hostRmaWrite pasid a bytes s) :=
  .ite (.refl s) (.foldl (fun s (p : Nat × List Byte) => rmaPiece_canon pasid s p.1 p.2) _ s)

/-! ### The start -/

theorem coldState_canon (s : State) : Canon s (coldState s) := ⟨fun ⟨hmem, hpeer, _⟩ => ⟨Memory.wf_filter _ _ hmem, hpeer, rfl⟩⟩

theorem failStart_canon (why : Nat) (s : State) : Canon s (failStart why s) := .of_memories rfl

theorem becomeReady_canon (s : State) : Canon s (becomeReady s) := by
  have hcleared : Canon s { s with
      power := .ready, field := [], fieldBad := [], ftags := [], ftagBad := [], hbmTags := [], boot := { s.boot with fails := 0 } } :=
    .of_field rfl rfl fun _ => rfl
  exact hcleared.trans (schedulingPass_canon _)

theorem trainStacks_canon (x : StartInputs) (s : State) : Canon s (trainStacks x s) := by
  unfold trainStacks
  split
  · exact .refl s
  · exact loseStack_canon ..

theorem firmwareStart_canon (x : StartInputs) (s : State) : Canon s (firmwareStart x s) := by
  have htrained := trainStacks_canon x s
  exact .ite (failStart_canon ..) (.ite (failStart_canon ..) (.ite (htrained.trans (failStart_canon ..))
    (.ite (htrained.trans (.of_memories rfl)) (htrained.trans (becomeReady_canon _)))))

theorem freeValue_canon (s : State) : Canon s (freeValue s).2 := .of_memories rfl

theorem bootRom_canon (x : StartInputs) (s : State) : Canon s (bootRom x s) := by
  unfold bootRom
  refine .ite (failStart_canon ..) ?_
  split
  · exact (freeValue_canon s).trans (failStart_canon ..)
  next img _ =>
    refine .ite (failStart_canon ..) (.ite (failStart_canon ..) (Canon.trans ?_ (firmwareStart_canon ..)))
    exact .of_memories rfl

theorem powerOnReset_canon (x : StartInputs) (s : State) : Canon s (powerOnReset x s) :=
  .ite ((coldState_canon s).trans (.of_memories rfl)) ((coldState_canon s).trans (bootRom_canon ..))

theorem recoveryImagePush_canon (img : List Byte) (s : State) : Canon s (recoveryImagePush img s) :=
  .ite (.refl s) (.ite (.of_memories rfl) (.ite (.of_memories rfl) (.of_memories rfl)))

theorem firmwareHandover_canon (x : Handover) (s : State) : Canon s (firmwareHandover x s) := by
  unfold firmwareHandover
  split
  · exact .ite (.refl s) (.of_memories rfl)
  · split
    · exact .refl s
    · exact .of_memories rfl

theorem attestationRequest_canon (nonce : List Byte) (s : State) : Canon s (attestationRequest nonce s) := .ite (.refl s) (.of_memories rfl)

theorem powerInputRemoved_canon (midFlash : Bool) (s : State) : Canon s (powerInputRemoved midFlash s) :=
  (coldState_canon s).trans (.of_memories rfl)

end Sys2Proof.Machine
end

section
/-! Every step keeps the memories canonical. -/
namespace Sys2Proof.Machine

theorem Performed.canonical {s t : State} (h : Performed s t) : Canon s t := ⟨h.canon⟩

theorem next_canon {s t u : State} (h : Canon s u) (heq : Host.Outcome.next u = (.next t : Result)) : Canon s t := by
  cases heq
  exact h

theorem withClock_canon (s : State) (n : Nat) : Canon s { s with clockStep := n } := .of_memories rfl

theorem writeResult_canon (i : Instr) (s : State) : Canon s (writeResult i s) := by
  unfold writeResult
  split
  · exact ((Canon.refl s).setReg ..).commitAt _
  · exact .refl s

theorem pureResult_canon {i : Instr} {s t : State} {p : Reg × Word} (hp : pureResult i s.reg = some p) (h : exec i s = .next t) : Canon s t :=
  userOp_canon (writeResult_canon i) ((exec_eq_writeResult hp).symm.trans h)

theorem branch_canon {i : Instr} {a b : Reg} {l : BitVec 5} {hi : BitVec 10} {taken : Word → Word → Bool} {s t : State}
    (hexec : exec i s = branch i a b l hi taken s) (h : exec i s = .next t) : Canon s t :=
  userOp_canon (fun s => .ite ((Canon.refl s).commitAt _) (Canon.refl s).commit4) (hexec.symm.trans h)

theorem exec_canon {i : Instr} {s t : State} (h : exec i s = .next t) : Canon s t := by
  cases i with
  | add _ _ _ | sub _ _ _ | and _ _ _ | or _ _ _ | xor _ _ _ | andn _ _ _ | sll _ _ _ | srl _ _ _ | sra _ _ _ | rol _ _ _ | ror _ _ _ | slt _ _ _
  | sltu _ _ _ | min _ _ _ | max _ _ _ | minu _ _ _ | maxu _ _ _ | mul _ _ _ | mulh _ _ _ | mulhu _ _ _ | div _ _ _ | divu _ _ _ | rem _ _ _
  | remu _ _ _ | clmul _ _ _ | clmulh _ _ _ | clz _ _ | ctz _ _ | popc _ _ | sext _ _ _ | zext _ _ _ | addi _ _ _ | andi _ _ _ | ori _ _ _
  | xori _ _ _ | slli _ _ _ | srli _ _ _ | srai _ _ _ | slti _ _ _ | sltiu _ _ _ | lih _ _ | lim _ _ => exact pureResult_canon rfl h
  | lb _ _ _ | lbu _ _ _ | lh _ _ _ | lhu _ _ _ | lw _ _ _ | lwu _ _ _ | ld _ _ _ => exact scalarLoad_canon h
  | sb _ _ _ | sh _ _ _ | sw _ _ _ | sd _ _ _ => exact scalarStore_canon h
  | ldg _ _ _ _ _ _ => exact execLdg_canon h
  | stg _ _ _ _ _ _ => exact execStg_canon h
  | amo _ _ _ _ _ _ _ _ => exact execAmo_canon h
  | beq _ _ _ _ => exact branch_canon (taken := fun x y => x == y) rfl h
  | bne _ _ _ _ => exact branch_canon (taken := fun x y => x != y) rfl h
  | blt _ _ _ _ => exact branch_canon (taken := fun x y => x.slt y) rfl h
  | bge _ _ _ _ => exact branch_canon (taken := fun x y => !x.slt y) rfl h
  | bltu _ _ _ _ => exact branch_canon (taken := fun x y => x.ult y) rfl h
  | bgeu _ _ _ _ => exact branch_canon (taken := fun x y => !x.ult y) rfl h
  | jal _ _ => exact userOp_canon (fun s => ((Canon.refl s).setReg _ _).commitAt _) h
  | jalr _ _ _ => exact userOp_canon (fun s => .ite (trapS_canon ..) (((Canon.refl s).setReg _ _).commitAt _)) h
  | crd _ _ => exact execCrd_canon h
  | cwr _ _ _ => exact crxWrite_canon ((exec_cwr ..).symm.trans h)
  | cset _ _ _ => exact crxWrite_canon ((exec_cset ..).symm.trans h)
  | cclr _ _ _ => exact crxWrite_canon ((exec_cclr ..).symm.trans h)
  | registerWrite _ _ => exact eventOp_canon (registerWrite_canon _ _) h
  | chstatCancel _ => exact eventOp_canon (fun s => (cancelChannel_canon ..).trans (proceed_canon _)) h
  | chstatErrorClear _ _ => exact eventOp_canon (clearErrors_canon _ _) h
  | convresWrite _ => exact eventOp_canon (convresWrite_canon _) h
  | setec _ _ | setecT _ _ => exact userOp_canon (fun s => ((Canon.refl s).withGang _).answer _ _) h
  | setspan _ _ => exact execSetspan_canon h
  | fwset _ _ _ => exact execFwset_canon h
  | fwget _ _ _ => exact execFwget_canon h
  | owner _ _ | rqstat _ => exact userOp_canon (fun s => (Canon.refl s).answer _ _) h
  | rqpop _ => exact execRqpop_canon h
  | eqpush _ _ => exact execEqpush_canon h
  | eqpushLast _ _ => exact execEqpushLast_canon h
  | eqpop _ _ => exact execEqpop_canon h
  | eqstat _ _ => exact execEqstat_canon h
  | fence _ _ => exact execFence_canon h
  | fenceb _ _ => exact execFenceb_canon h
  | barrierArrival _ _ => exact eventOp_canon (barrierArrival_canon _ _) h
  | waitb _ => exact execWaitb_canon h
  | barcfg _ _ _ => exact execBarcfg_canon h
  | bqwait => exact userOp_canon (fun s => .ite (Canon.refl s).commit4 (stall_canon s)) h
  | sigwait _ _ _ => exact execSigwait_canon h
  | sigpost _ _ _ => exact execSigpost_canon h
  | awset _ _ _ => exact userOp_canon (fun s => ((Canon.refl s).withGang _).commit4) h
  | trap _ _ => exact execTrap_canon h
  | eret | eretSkip | eretDrop => exact eretIn_canon h
  | brk => exact execBrk_canon h
  | wfe => exact execWfe_canon h
  | yield => exact execYield_canon h
  | halt => exact execHalt_canon h
  | qsave _ => exact execQsave_canon h
  | qload _ => exact execQload_canon h
  | vadd _ | vsub _ | vmul _ | vfma _ | vfms _ | vfnma _ | vdiv _ | vsqrt _ | vmin _ | vmax _ | vabs _ | vneg _ | vcpys _ | vfun _ | vmulh _
  | vavg _ | vclass _ | vand _ | vor _ | vxor _ | vsll _ | vsrl _ | vsra _ | vclmul _ | vclmulh _ | vpopc _ | vclz _ | vcmp _ | vselm _ | vcvtn _
  | vcvtw _ | vcvti _ | vcvtf4 _ | vmov _ | viota _ | vrev _ | vreshape _ | vcompress _ | vexpand _ | vredsum _ | vredmax _ | vredmin _ | vredbit _
  | vscan _ | vfirst _ | vcount _ | vscatadd _ | vscatmax _ | vscatmin _ | vconfl _ | vspadd _ | vspmul _ | vrunb _ | tmma _ | tew _ | tact _
  | trowr _ | tsoft _ | ttrn _ | tcvt _ | tcpy _ | tfill _ | ttagr _ | ttagw _ => exact broadcast_canon h
  | bload _ => exact userOp_canon (loadBlocks_canon _) h
  | mtload _ => exact userOp_canon (loadMethods_canon _) h
  | mtinv _ => exact userOp_canon (fun s => .ite (stall_canon s) ((Canon.refl s).withGang _).commit8) h
  | mtquery _ => exact userOp_canon (fun s => ((Canon.refl s).setReg _ _).commit8) h
  | copy _ | copynd _ | gather _ | scatter _ => exact userOp_canon (commitCopy_canon _ _ _) h
  | drain _ => exact userOp_canon (drainThen_canon fun s => (Canon.refl s).commit8) h
  | bankBegin _ => exact eventOp_canon (fun s => (bankBegin_performed s _).canonical) h
  | pullArrival _ => exact eventOp_canon (fun s => (pullArrival_performed s _).canonical) h
  | pullServe _ => exact eventOp_canon (fun s => (pullServe_performed s _).canonical) h
  | pullResponse _ => exact eventOp_canon (fun s => (pullResponse_performed s _).canonical) h
  | stagedWritePhase => exact eventOp_canon (fun s => (stagedWritePhase_performed s).canonical) h
  | loadResponse _ => exact eventOp_canon (fun s => loadResponse_canon s _) h
  | stgNak _ _ => exact eventOp_canon (stgNak_canon _ _) h
  | trapEntry => exact eventOp_canon trapEntry_canon h
  | pageReply _ _ => exact eventOp_canon (pageReply_canon _ _) h
  | preemptionHalt _ => exact eventOp_canon (preemptionHalt_canon _) h
  | fieldEviction _ => exact eventOp_canon (fieldEviction_canon _) h
  | clusterOffline _ => exact eventOp_canon (clusterOffline_canon _) h
  | copyStart _ => exact eventOp_canon (fun s => copyStart_canon s _) h
  | copyElementLand _ _ => exact eventOp_canon (fun s => copyLand_canon s _ _) h
  | copyFaultStop _ => exact eventOp_canon (fun s => copyFaultStop_canon s _) h
  | gatherPiece _ => exact eventOp_canon (fun s => gatherPiece_canon s _) h
  | parityHomeAccess _ => exact eventOp_canon (parityHomeAccess_canon _) h
  | stackLost _ _ => exact eventOp_canon (loseStack_canon _ _) h
  | contractionStart => exact eventOp_canon contractionStart_canon h
  | contractionStripeMove => exact eventOp_canon contractionStripeMove_canon h
  | rowRemapUpdate _ _ _ => exact eventOp_canon (rowRemapUpdate_canon _ _ _) h
  | allocationTableUpdate _ _ _ => exact eventOp_canon (allocationTableUpdate_canon _ _ _) h
  | powerDownEntry _ _ | selfRefreshEntry _ _ => exact eventOp_canon (channelIdle_canon _ _ _ _) h
  | reductionCommand _ _ => exact eventOp_canon (engineStep_canon (reductionCommand_canon _) _) h
  | reductionComplete _ _ => exact eventOp_canon (engineStep_canon (reductionComplete_canon _) _) h
  | mergeCountPass _ _ | mergeWritePass _ _ => exact eventOp_canon (engineStep_canon (mergeCommand_canon _ _) _) h
  | mergeComplete _ _ => exact eventOp_canon (engineStep_canon (mergeComplete_canon _) _) h
  | allGather _ _ | reduceScatter _ _ => exact eventOp_canon (engineStep_canon (collCommand_canon _ _) _) h
  | collectiveWaitComplete _ _ => exact eventOp_canon (engineStep_canon (collectiveWaitComplete_canon _) _) h
  | peerInboundAccess _ => exact eventOp_canon (peerInboundAccess_canon _) h
  | peerWindowRemap _ _ _ _ => exact eventOp_canon (peerWindowRemap_canon _ _ _ _) h
  | shootDown _ _ _ => exact eventOp_canon (shootDown_canon _ _ _) h
  | shootDownComplete => exact eventOp_canon shootDownComplete_canon h
  | walkPrefetch _ => exact eventOp_canon (walkPrefetch_canon _) h
  | pageMigration _ _ _ => exact eventOp_canon (pageMigration_canon _ _ _) h
  | pasidTeardown _ => exact eventOp_canon (pasidTeardown_canon _) h
  | hostRmaWrite _ _ _ => exact eventOp_canon (hostRmaWrite_canon _ _ _) h
  | queueTailWrite _ _ => exact eventOp_canon (queueTailWrite_canon _ _) h
  | queueErrorClear _ _ => exact eventOp_canon (queueErrorClear_canon _ _) h
  | queueWatchFire _ => exact eventOp_canon (queueWatchFire_canon _) h
  | schedulingPass => exact eventOp_canon schedulingPass_canon h
  | gangStart _ => exact eventOp_canon (gangStart_canon _) h
  | reservationTimeout _ => exact eventOp_canon (reservationTimeout_canon _) h
  | eventPost _ | svkAttach _ _ | svkContinue _ => exact eventOp_canon (fun _ => updGang_canon ..) h
  | heartbeatTimeout => exact eventOp_canon heartbeatTimeout_canon h
  | commandCoreRelease => exact eventOp_canon commandCoreRelease_canon h
  | directLaunch _ => exact eventOp_canon (directLaunch_canon _) h
  | portDown _ => exact eventOp_canon (portDown_canon _) h
  | connectionSetup _ => exact eventOp_canon (connectionSetup_canon _) h
  | powerOnReset _ => exact next_canon (powerOnReset_canon _ s) h
  | startTimeout => exact next_canon (.ite (failStart_canon ..) (.refl s)) h
  | recoveryImagePush _ => exact next_canon (recoveryImagePush_canon _ s) h
  | firmwareHandover _ => exact eventOp_canon (firmwareHandover_canon _) h
  | attestationRequest _ => exact eventOp_canon (attestationRequest_canon _) h
  | powerLimitThrottle | clockRaise => exact eventOp_canon (fun s => withClock_canon s _) h
  | writeAcknowledgement _ => exact eventOp_canon (writeAcknowledgement_canon _) h
  | powerInputRemoved _ => exact next_canon (powerInputRemoved_canon _ s) h
  | portUp _ => exact eventOp_canon (portUp_canon _) h

/-! ### The turn -/

/-- The machine that a turn goes on from. -/
def Turn.after (s : State) : Turn → State
  | .run _ t => t
  | .idle t => t
  | .off => s

theorem fetchParcel_canon (s : State) (a : Word) : Canon s (fetchParcel s a).1 := by
  unfold fetchParcel
  split
  next pa _ _ =>
    have hread := (useG_canon s a.toNat).trans (physRead_only (useG s a.toNat) pa 4).canonical
    split
    next heq =>
      rw [heq] at hread
      exact hread
    next heq =>
      rw [heq] at hread
      exact hread
  · exact useG_canon ..
  · exact useG_canon ..
  · exact .refl s
  · exact .refl s

theorem fetchWord_canon (s : State) : Canon s (fetchWord s).1 := by
  have hfirst := fetchParcel_canon s s.g.pc
  unfold fetchWord
  split
  next u p heq =>
    rw [heq] at hfirst
    split
    · have hboth := hfirst.trans (fetchParcel_canon u (u.g.pc + 4))
      split
      next heq' =>
        rw [heq'] at hboth
        exact hboth
      · exact hboth
    · exact hfirst
  · exact hfirst

theorem fetchTurn_canon (s : State) : Canon s ((fetchTurn s).after s) := by
  have hfetched := fetchWord_canon s
  unfold fetchTurn
  split
  next heq =>
    rw [heq] at hfetched
    split
    · exact hfetched
    · exact Canon.trans hfetched (trapS_canon ..)
  next heq =>
    rw [heq] at hfetched
    exact Canon.trans hfetched (trapS_canon ..)
  next heq =>
    rw [heq] at hfetched
    exact Canon.trans hfetched (stall_canon _)

theorem causeTurn_canon (f : Exec) (s : State) : Canon s ((causeTurn f s).after s) := by
  unfold causeTurn
  split
  · exact .refl s
  · split
    · exact fetchTurn_canon s
    · exact .refl s

theorem gangTurn_canon (f : Exec) (s : State) : Canon s ((gangTurn f s).after s) := by
  unfold gangTurn
  split
  · split
    · exact .refl s
    · split
      · exact rotate_canon s
      · split
        · exact causeTurn_canon f s
        · exact fetchTurn_canon s
  · split
    · exact rotate_canon s
    · exact .refl s

theorem turn_canon (f : Exec) (s : State) : Canon s ((turn f s).after s) := by
  unfold turn
  split
  · split <;> exact withAgenda_canon ..
  · split
    · exact .refl s
    · split
      · exact .refl s
      · exact gangTurn_canon f s

/-- Settles O59: the turn keeps the memories canonical, and so does whatever it runs. -/
theorem stepsKeepTheMemoriesCanonical : Obligations.StepsKeepTheMemoriesCanonical := by
  unfold Obligations.StepsKeepTheMemoriesCanonical
  intro s t hs hstep
  have hturn := turn_canon exec s
  unfold step at hstep
  split at hstep
  next heq =>
    rw [heq] at hturn
    exact (Canon.trans hturn (exec_canon hstep)).keeps hs
  next heq =>
    rw [heq] at hturn
    exact (next_canon hturn hstep).keeps hs
  next => cases hstep

end Sys2Proof.Machine
end

section
/-! Exact values and the arithmetic on them (R8, R89, R258). -/
namespace Sys2Proof.Machine

/-- A magnitude with a sign. -/
def signed (neg : Bool) (n : Nat) : Int := if neg then -(n : Int) else n

@[simp] theorem signed_false (n : Nat) : signed false n = n := rfl
@[simp] theorem signed_true (n : Nat) : signed true n = -(n : Int) := rfl
@[simp] theorem signed_zero (neg : Bool) : signed neg 0 = 0 := by cases neg <;> rfl
@[simp] theorem natAbs_signed (neg : Bool) (n : Nat) : (signed neg n).natAbs = n := by cases neg <;> simp

theorem signed_mul (neg : Bool) (n k : Nat) : signed neg (n * k) = signed neg n * k := by
  cases neg <;> simp [Int.neg_mul]

theorem signed_not (neg : Bool) (n : Nat) : signed (!neg) n = -signed neg n := by cases neg <;> simp

theorem signed_mul_signed (x y : Bool) (n k : Nat) : signed (x != y) (n * k) = signed x n * signed y k := by
  cases x <;> cases y <;> simp [Int.neg_mul, Int.mul_neg]

theorem signed_natAbs (i : Int) : signed (decide (i < 0)) i.natAbs = i := by
  by_cases h : i < 0
  · rw [decide_eq_true h, signed_true]
    omega
  · rw [decide_eq_false h, signed_false]
    omega

/-- The number stands for v / 2^k, exactly. -/
def Exact (k : Nat) (x : Num) (v : Int) : Prop :=
  ∃ neg m e, x = .fin neg m e false ∧ -(k : Int) ≤ e ∧ v = signed neg (m * 2 ^ (e + k).toNat)

theorem scaledNum_eq_some {x : Num} {v : Int} : scaledNum x = some v ↔ Exact 320 x v := by
  constructor
  · intro h
    cases x with
    | nan => cases h
    | inf n => cases h
    | fin neg m e st =>
      cases st with
      | true => cases h
      | false =>
        simp only [scaledNum] at h
        split at h
        next he =>
          cases h
          exact ⟨neg, m, e, rfl, he, rfl⟩
        · cases h
  · rintro ⟨neg, m, e, rfl, he, rfl⟩
    exact if_pos he

section Arithmetic
variable {k l : Nat} {a b c : Num} {u v w : Int}

theorem toNat_add_natCast {e : Int} (he : -(k : Int) ≤ e) (l : Nat) : (e + ((k + l : Nat) : Int)).toNat = (e + k).toNat + l := by
  push_cast
  omega

theorem Exact.scale (h : Exact k a v) (l : Nat) : Exact (k + l) a (v * 2 ^ l) := by
  obtain ⟨neg, m, e, rfl, he, rfl⟩ := h
  refine ⟨neg, m, e, rfl, by push_cast; omega, ?_⟩
  rw [toNat_add_natCast he, Nat.pow_add, ← Nat.mul_assoc, signed_mul neg (m * 2 ^ (e + k).toNat)]
  push_cast
  rfl

theorem Exact.neg (h : Exact k a v) : Exact k (negNum a) (-v) := by
  obtain ⟨neg, m, e, rfl, he, rfl⟩ := h
  exact ⟨!neg, m, e, rfl, he, (signed_not ..).symm⟩

theorem Exact.half (h : Exact k a v) : Exact (k + 1) (halfNum a) v := by
  obtain ⟨neg, m, e, rfl, he, rfl⟩ := h
  refine ⟨neg, m, e - 1, rfl, by push_cast; omega, ?_⟩
  rw [show e - 1 + ((k + 1 : Nat) : Int) = e + k by push_cast; omega]

/-- The product of two exact values is exact. -/
theorem Exact.mul (ha : Exact k a u) (hb : Exact l b v) : (mulNum a b).2 = 0 ∧ Exact (k + l) (mulNum a b).1 (u * v) := by
  obtain ⟨na, ma, ea, rfl, hea, rfl⟩ := ha
  obtain ⟨nb, mb, eb, rfl, heb, rfl⟩ := hb
  refine ⟨rfl, na != nb, ma * mb, ea + eb, rfl, by push_cast; omega, ?_⟩
  rw [show (ea + eb + ((k + l : Nat) : Int)).toNat = (ea + k).toNat + (eb + l).toNat by push_cast; omega, Nat.pow_add, ← signed_mul_signed, Nat.mul_mul_mul_comm]

/-- A magnitude on the grid of a smaller exponent. -/
theorem signed_aligned (neg : Bool) (m : Nat) {e e' : Int} (he : -(k : Int) ≤ e') (hle : e' ≤ e) :
    signed neg (m * 2 ^ (e + k).toNat) = signed neg (m * 2 ^ (e - e').toNat) * 2 ^ (e' + k).toNat := by
  rw [show (e + k).toNat = (e - e').toNat + (e' + k).toNat by omega, Nat.pow_add, ← Nat.mul_assoc, signed_mul]
  push_cast
  rfl

/-- The sum of two exact values is exact, whatever sign a zero gets. -/
theorem Exact.add (mode : Mode) (ha : Exact k a u) (hb : Exact k b v) : (addNum mode a b).2 = 0 ∧ Exact k (addNum mode a b).1 (u + v) := by
  obtain ⟨na, ma, ea, rfl, hea, rfl⟩ := ha
  obtain ⟨nb, mb, eb, rfl, heb, rfl⟩ := hb
  obtain ⟨e, hdef⟩ : ∃ e, e = if ea ≤ eb then ea else eb := ⟨_, rfl⟩
  have he : -(k : Int) ≤ e ∧ e ≤ ea ∧ e ≤ eb := by
    rw [hdef]
    split <;> omega
  obtain ⟨hk, hle, hle'⟩ := he
  obtain ⟨s, hs⟩ : ∃ s, s = signed na (ma * 2 ^ (ea - e).toNat) + signed nb (mb * 2 ^ (eb - e).toNat) := ⟨_, rfl⟩
  have hsum : signed na (ma * 2 ^ (ea + k).toNat) + signed nb (mb * 2 ^ (eb + k).toNat) = s * 2 ^ (e + k).toNat := by
    rw [signed_aligned na ma hk hle, signed_aligned nb mb hk hle', hs, Int.add_mul]
  have hadd : addNum mode (.fin na ma ea false) (.fin nb mb eb false) = if s = 0 then
      (.fin (if ma = 0 ∧ mb = 0 ∧ na = nb then na else mode == .rdn) 0 0 false, 0) else (.fin (s < 0) s.natAbs e false, 0) := by
    rw [hs, hdef]
    rfl
  rw [hsum, hadd]
  by_cases hzero : s = 0
  · rw [if_pos hzero, hzero]
    refine ⟨rfl, _, 0, 0, rfl, by omega, ?_⟩
    simp
  · rw [if_neg hzero]
    refine ⟨rfl, _, s.natAbs, e, rfl, hk, ?_⟩
    rw [signed_mul, signed_natAbs]
    push_cast
    rfl

theorem Exact.fma (mode : Mode) (ha : Exact k a u) (hb : Exact l b v) (hc : Exact (k + l) c w) :
    (fmaNum mode a b c).2 = 0 ∧ Exact (k + l) (fmaNum mode a b c).1 (u * v + w) := by
  obtain ⟨hf, hp⟩ := ha.mul hb
  obtain ⟨hf', hs⟩ := hp.add mode hc
  refine ⟨?_, hs⟩
  change (mulNum a b).2 ||| (addNum mode (mulNum a b).1 c).2 = 0
  rw [hf, hf']
  rfl

end Arithmetic

/-! ### Comparisons -/

theorem magLt_iff {k : Nat} {m1 m2 : Nat} {e1 e2 : Int} (h1 : -(k : Int) ≤ e1) (h2 : -(k : Int) ≤ e2) :
    magLt m1 e1 m2 e2 = true ↔ m1 * 2 ^ (e1 + k).toNat < m2 * 2 ^ (e2 + k).toNat := by
  unfold magLt
  split
  next hle =>
    rw [decide_eq_true_eq, show (e2 + k).toNat = (e2 - e1).toNat + (e1 + k).toNat by omega, Nat.pow_add, ← Nat.mul_assoc]
    exact (Nat.mul_lt_mul_right (Nat.two_pow_pos _)).symm
  next hle =>
    rw [decide_eq_true_eq, show (e1 + k).toNat = (e1 - e2).toNat + (e2 + k).toNat by omega, Nat.pow_add, ← Nat.mul_assoc]
    exact (Nat.mul_lt_mul_right (Nat.two_pow_pos _)).symm

theorem Exact.not_nan {k : Nat} {a : Num} {u : Int} (h : Exact k a u) : isNan a = false := by
  obtain ⟨neg, m, e, rfl, -, -⟩ := h
  rfl

/-- The order of exact values (R262). -/
theorem Exact.ltNum_iff {k : Nat} {a b : Num} {u v : Int} (ha : Exact k a u) (hb : Exact k b v) : ltNum a b = true ↔ u < v := by
  obtain ⟨na, ma, ea, rfl, hea, rfl⟩ := ha
  obtain ⟨nb, mb, eb, rfl, heb, rfl⟩ := hb
  have hlt := magLt_iff (m1 := ma) (m2 := mb) hea heb
  have hgt := magLt_iff (m1 := mb) (m2 := ma) heb hea
  have hpa : ma ≠ 0 → 0 < ma * 2 ^ (ea + k).toNat := fun h => Nat.mul_pos (Nat.pos_of_ne_zero h) (Nat.two_pow_pos _)
  have hpb : mb ≠ 0 → 0 < mb * 2 ^ (eb + k).toNat := fun h => Nat.mul_pos (Nat.pos_of_ne_zero h) (Nat.two_pow_pos _)
  have hza : ma = 0 → ma * 2 ^ (ea + k).toNat = 0 := fun h => by rw [h, Nat.zero_mul]
  have hzb : mb = 0 → mb * 2 ^ (eb + k).toNat = 0 := fun h => by rw [h, Nat.zero_mul]
  generalize ma * 2 ^ (ea + k).toNat = x at *
  generalize mb * 2 ^ (eb + k).toNat = y at *
  rw [ltNum]
  by_cases h0 : ma = 0
  · rw [if_pos h0, hza h0]
    by_cases h0' : mb = 0
    · rw [hzb h0']
      simp [h0']
    · have := hpb h0'
      cases nb <;> simp [h0'] <;> omega
  · have := hpa h0
    rw [if_neg h0]
    by_cases h0' : mb = 0
    · rw [if_pos h0', hzb h0']
      cases na <;> simp <;> omega
    · have := hpb h0'
      rw [if_neg h0']
      cases na <;> cases nb
      · simp [hlt]
      · simp
      · simp
        omega
      · simp [hgt]

theorem Exact.eqNum_iff {k : Nat} {a b : Num} {u v : Int} (ha : Exact k a u) (hb : Exact k b v) : eqNum a b = true ↔ u = v := by
  have hab := ha.ltNum_iff hb
  have hba := hb.ltNum_iff ha
  rw [eqNum, ha.not_nan, hb.not_nan]
  simp only [Bool.not_false, Bool.true_and, Bool.and_eq_true, Bool.not_eq_true', ← Bool.not_eq_true, hab, hba]
  omega

/-- The smaller of two exact values is one of them (R256). -/
theorem Exact.minNum {k : Nat} {a b : Num} {u v : Int} (ha : Exact k a u) (hb : Exact k b v) :
    (minNum a b = a ∧ u ≤ v) ∨ (minNum a b = b ∧ v ≤ u) := by
  have hab := ha.ltNum_iff hb
  have hba := hb.ltNum_iff ha
  rw [Machine.minNum, ha.not_nan, hb.not_nan]
  simp only [Bool.false_eq_true, if_false, hab, hba]
  grind

theorem Exact.maxNum {k : Nat} {a b : Num} {u v : Int} (ha : Exact k a u) (hb : Exact k b v) :
    (maxNum a b = a ∧ v ≤ u) ∨ (maxNum a b = b ∧ u ≤ v) := by
  have hab := ha.ltNum_iff hb
  have hba := hb.ltNum_iff ha
  rw [Machine.maxNum, ha.not_nan, hb.not_nan]
  simp only [Bool.false_eq_true, if_false, hab, hba]
  grind

end Sys2Proof.Machine
end

section
/-! Rounding to one of two neighbours (R84, R87). -/
namespace Sys2Proof.Machine

/-- Whether a magnitude (n + t / Q) × Q, with t below Q, is rounded up. -/
def roundsUp (mode : Mode) (neg : Bool) (n t Q d : Nat) : Bool :=
  decide (t ≠ 0) && match mode with
    | .rne => decide (Q < 2 * t ∨ (2 * t = Q ∧ n % 2 = 1))
    | .rna => decide (Q ≤ 2 * t)
    | .rtz => false
    | .rup => !neg
    | .rdn => neg
    | .sr => decide (d * Q < t * 2 ^ 32)

theorem ite_succ (up : Bool) (n : Nat) : (if up = true then n + 1 else n) = n + b2n up := by cases up <;> rfl

theorem roundsUp_exact (mode : Mode) (neg : Bool) (n Q d : Nat) : roundsUp mode neg n 0 Q d = false := by simp [roundsUp]

/-- The model's rounding step chooses between the neighbours so. -/
theorem roundMag_eq {k : Nat} {e q : Int} (he : -(k : Int) ≤ e) (hq : -(k : Int) ≤ q) (mode : Mode) (neg : Bool) (m d : Nat) :
    roundMag mode neg m e false q d =
      (m * 2 ^ (e + k).toNat / 2 ^ (q + k).toNat
          + b2n (roundsUp mode neg (m * 2 ^ (e + k).toNat / 2 ^ (q + k).toNat) (m * 2 ^ (e + k).toNat % 2 ^ (q + k).toNat) (2 ^ (q + k).toNat) d),
        decide (m * 2 ^ (e + k).toNat % 2 ^ (q + k).toNat ≠ 0)) := by
  unfold roundMag
  by_cases hle : q ≤ e
  · rw [if_pos hle, show (e + k).toNat = (e - q).toNat + (q + k).toNat by omega, Nat.pow_add, ← Nat.mul_assoc, Nat.mul_mod_left,
      Nat.mul_div_cancel _ (Nat.two_pow_pos _), roundsUp_exact]
    rfl
  · rw [if_neg hle]
    obtain ⟨sh, hsh⟩ : ∃ sh, (q - e).toNat = sh + 1 := ⟨(q - e).toNat - 1, by omega⟩
    have hQ : 2 ^ (q + k).toNat = 2 ^ (sh + 1) * 2 ^ (e + k).toNat := by
      rw [← Nat.pow_add]
      congr 1
      omega
    have hP : 0 < 2 ^ (e + k).toNat := Nat.two_pow_pos _
    rw [hsh, hQ, Nat.mul_div_mul_right _ _ hP, Nat.mul_mod_mul_right]
    generalize 2 ^ (e + k).toNat = P at hP
    have hhalf : 2 ^ (sh + 1) = 2 * 2 ^ sh := Nat.pow_succ'
    simp only [Nat.add_sub_cancel, and_true]
    by_cases hr : m % 2 ^ (sh + 1) = 0
    · rw [if_pos hr, hr, Nat.zero_mul, roundsUp_exact]
      rfl
    · rw [if_neg hr]
      generalize m % 2 ^ (sh + 1) = r at hr ⊢
      have hne : r * P ≠ 0 := Nat.mul_ne_zero hr (Nat.ne_of_gt hP)
      have hlt : 2 ^ (sh + 1) * P < 2 * (r * P) ↔ 2 ^ sh < r := by
        rw [hhalf, Nat.mul_assoc, Nat.mul_lt_mul_left (by omega), Nat.mul_lt_mul_right hP]
      have heq : 2 * (r * P) = 2 ^ (sh + 1) * P ↔ r = 2 ^ sh := by
        rw [hhalf, Nat.mul_assoc, Nat.mul_right_inj (by omega), Nat.mul_left_inj (Nat.ne_of_gt hP)]
      have hsr : d * (2 ^ (sh + 1) * P) < r * P * 2 ^ 32 ↔ d * 2 ^ (sh + 1) < r * 2 ^ 32 := by
        rw [← Nat.mul_assoc, Nat.mul_right_comm r, Nat.mul_lt_mul_right hP]
      have hle : 2 ^ (sh + 1) * P ≤ 2 * (r * P) ↔ 2 ^ sh ≤ r := by
        rw [hhalf, Nat.mul_assoc, Nat.mul_le_mul_left_iff (by omega), Nat.mul_le_mul_right_iff hP]
      simp only [roundsUp, ne_eq, hne, not_false_eq_true, decide_true, Bool.true_and, hlt, heq, hsr, hle]
      rw [ite_succ]
      congr 3
      cases mode with
      | rne => grind
      | rna => grind
      | rtz => rfl
      | rup => rfl
      | rdn => rfl
      | sr => simp only [Bool.false_eq_true, if_false]


/-! ### The values of a format -/

/-- The value of a code, scaled by 2^640. -/
def formatVal (ef z : Nat) : Option Int := (scaledCode ef z).map (· * 2 ^ 320)

/-- The values of a format next to a magnitude: none lies between n × Q and (n + 1) × Q, the lower is a value of the sign in hand, and so is the
upper where any value lies beyond the lower. -/
structure Neighbours (ef : Nat) (neg : Bool) (n Q : Nat) : Prop where
  gap : ∀ z w, formatVal ef z = some w → w.natAbs ≤ n * Q ∨ (n + 1) * Q ≤ w.natAbs
  low : ∃ z, formatVal ef z = some (signed neg (n * Q))
  high : (∃ z w, formatVal ef z = some w ∧ (if neg then w < 0 else 0 < w) ∧ n * Q < w.natAbs) → ∃ z, formatVal ef z = some (signed neg ((n + 1) * Q))

theorem mul_self_nonneg_int (r : Int) : 0 ≤ r * r := by
  rw [← Int.natAbs_mul_self]
  exact Int.natCast_nonneg _

theorem roundsTo_exact {ef : Nat} {mode : Mode} {draw c : Nat} {r : Int} (h : formatVal ef c = some r) : roundsTo ef mode draw r c := by
  refine ⟨r, h, ?_⟩
  cases mode with
  | rdn => exact ⟨Int.le_refl r, fun _ _ _ h => h⟩
  | rup => exact ⟨Int.le_refl r, fun _ _ _ h => h⟩
  | rtz => exact ⟨Nat.le_refl _, mul_self_nonneg_int r, fun _ _ _ _ h => h⟩
  | rne => exact fun z w _ => ⟨by omega, by omega⟩
  | rna => exact fun z w _ => ⟨by omega, by omega⟩
  | sr =>
    refine ⟨fun _ _ => rfl, fun y z lo hi hy hz hlo hle hhi hlt hnone => ⟨mul_self_nonneg_int r, ?_⟩⟩
    have hr := hnone c r h (mul_self_nonneg_int r)
    have hsame : lo.natAbs = r.natAbs := by omega
    rw [hsame, Nat.sub_self, Nat.zero_mul, if_neg (Nat.not_lt_zero _)]

theorem signed_mul_nonneg (neg : Bool) (a b : Nat) : 0 ≤ signed neg a * signed neg b := by
  cases neg
  · exact Int.mul_nonneg (Int.natCast_nonneg a) (Int.natCast_nonneg b)
  · rw [signed_true, signed_true, Int.neg_mul_neg]
    exact Int.mul_nonneg (Int.natCast_nonneg a) (Int.natCast_nonneg b)

theorem sign_of_mul_signed {neg : Bool} {w : Int} {b : Nat} (h : 0 < w * signed neg b) : if neg then w < 0 else 0 < w := by
  have hb : (0 : Int) ≤ b := Int.natCast_nonneg b
  cases neg
  · exact Int.lt_of_not_ge fun hw => Int.not_lt.mpr (Int.mul_nonpos_of_nonpos_of_nonneg hw hb) h
  · rw [signed_true, Int.mul_neg] at h
    refine Int.lt_of_not_ge fun hw => Int.not_lt.mpr (Int.mul_nonneg hw hb) ?_
    omega

section Round
variable {ef n t Q draw c : Nat} {mode : Mode} {neg : Bool}

/-- A value that a magnitude is rounded to by the rule of its mode is the one that the mode asks for. -/
theorem roundsTo_of_neighbours (h : Neighbours ef neg n Q) (ht : t < Q)
    (hval : formatVal ef c = some (signed neg ((n + b2n (roundsUp mode neg n t Q draw)) * Q)))
    (hpar : c % 2 = (n + b2n (roundsUp mode neg n t Q draw)) % 2) : roundsTo ef mode draw (signed neg (n * Q + t)) c := by
  by_cases h0 : t = 0
  · subst h0
    rw [roundsUp_exact] at hval
    exact roundsTo_exact hval
  obtain ⟨hgap, hlow, hhigh⟩ := h
  refine ⟨_, hval, ?_⟩
  have hsucc : (n + 1) * Q = n * Q + Q := Nat.succ_mul n Q
  rw [hsucc] at hgap hhigh
  have hfactor : (n + b2n (roundsUp mode neg n t Q draw)) * Q = n * Q + b2n (roundsUp mode neg n t Q draw) * Q := Nat.add_mul ..
  rw [hfactor]
  generalize n * Q = A at hgap hlow hhigh ⊢
  cases mode with
  | rdn =>
    refine ⟨?_, fun z w hz hle => ?_⟩
    · cases neg <;> simp [roundsUp, h0, b2n] <;> omega
    · have := hgap z w hz
      cases neg <;> simp [roundsUp, h0, b2n] at hle ⊢ <;> omega
  | rup =>
    refine ⟨?_, fun z w hz hle => ?_⟩
    · cases neg <;> simp [roundsUp, h0, b2n] <;> omega
    · have := hgap z w hz
      cases neg <;> simp [roundsUp, h0, b2n] at hle ⊢ <;> omega
  | rtz =>
    refine ⟨?_, signed_mul_nonneg .., fun z w hz _ hle => ?_⟩
    · simp [roundsUp, b2n]
    · have := hgap z w hz
      rw [natAbs_signed] at hle ⊢
      simp only [roundsUp, Bool.and_false, b2n]
      omega
  | rne =>
    intro z w hz
    have := hgap z w hz
    by_cases hup : Q < 2 * t ∨ (2 * t = Q ∧ n % 2 = 1)
    · cases neg <;> simp [roundsUp, h0, b2n, hup] at hpar ⊢ <;> omega
    · cases neg <;> simp [roundsUp, h0, b2n, hup] at hpar ⊢ <;> omega
  | rna =>
    intro z w hz
    have := hgap z w hz
    by_cases hup : Q ≤ 2 * t
    · cases neg <;> simp [roundsUp, h0, b2n, hup] <;> omega
    · cases neg <;> simp [roundsUp, h0, b2n, hup] <;> omega
  | sr =>
    refine ⟨fun z hz => ?_, fun y z lo hi hy hz hlo hle hhi hlt hnone => ⟨signed_mul_nonneg .., ?_⟩⟩
    · have := hgap z _ hz
      rw [natAbs_signed] at this
      omega
    · rw [natAbs_signed] at hle hlt ⊢
      have hlo' := hgap y lo hy
      have hhi' := hgap z hi hz
      obtain ⟨x, hx⟩ := hlow
      have hx' := hnone x _ hx (signed_mul_nonneg ..)
      obtain ⟨x1, hx1⟩ := hhigh ⟨z, hi, hz, sign_of_mul_signed hhi, by omega⟩
      have hx1' := hnone x1 _ hx1 (signed_mul_nonneg ..)
      rw [natAbs_signed] at hx' hx1'
      have hA : lo.natAbs = A := by omega
      have hAQ : hi.natAbs = A + Q := by omega
      rw [hA, hAQ, natAbs_signed, Nat.add_sub_cancel_left, Nat.add_sub_cancel_left]
      by_cases hup : draw * Q < t * 2 ^ 32
      · simp only [if_pos hup, roundsUp, ne_eq, h0, not_false_eq_true, decide_true, Bool.true_and, decide_eq_true hup, b2n, if_true, Nat.one_mul]
      · simp only [if_neg hup, roundsUp, decide_eq_false hup, Bool.and_false, b2n, Bool.false_eq_true, if_false, Nat.zero_mul, Nat.add_zero]

end Round

end Sys2Proof.Machine
end

section
/-! Delivery into the integer formats (R74, R75, R90, R252). -/
namespace Sys2Proof.Machine

/-! ### The codes of an integer format -/

theorem lowBits_eq (i : Int) (w : Nat) : lowBits i w = (BitVec.ofInt w i).toNat := by
  rw [BitVec.toNat_ofInt]
  rfl

theorem lowBits_lt (i : Int) (w : Nat) : lowBits i w < 2 ^ w := by
  rw [lowBits_eq]
  exact BitVec.isLt _

theorem lowBits_mod_two {w : Nat} (hw : 0 < w) (i : Int) : lowBits i w % 2 = i.natAbs % 2 := by
  have hpos : (0 : Int) < (2 ^ w : Nat) := Int.natCast_pos.mpr (Nat.two_pow_pos w)
  have hcast : (lowBits i w : Int) = i % (2 ^ w : Nat) := Int.toNat_of_nonneg (Int.emod_nonneg i (Int.ne_of_gt hpos))
  have hdvd : (2 : Int) ∣ (2 ^ w : Nat) := by
    obtain ⟨k, rfl⟩ := Nat.exists_eq_succ_of_ne_zero (Nat.ne_of_gt hw)
    exact ⟨2 ^ k, by rw [Nat.pow_succ', Int.natCast_mul]; rfl⟩
  have hmod : i % ((2 ^ w : Nat) : Int) % 2 = i % 2 := Int.emod_emod_of_dvd i hdvd
  omega

section IntFormat
variable {ef : Nat}

theorem efInt_iff : efInt ef = true ↔ ef ≤ 9 := decide_eq_true_iff

theorem two_le_efBits (hef : efInt ef = true) : 2 ≤ efBits ef := by
  have hall : ∀ ef < 10, 2 ≤ efBits ef := by decide
  exact hall ef (Nat.lt_succ_of_le (efInt_iff.mp hef))

variable (hef : efInt ef = true)
include hef

theorem efBits_pos : 0 < efBits ef := Nat.lt_of_lt_of_le (by decide) (two_le_efBits hef)

/-- The integer of a code, by the signedness of its format. -/
theorem intOf_eq (z : Nat) : intOf ef z =
    if efSigned ef = true then (BitVec.ofNat (efBits ef) z).toInt else (BitVec.ofNat (efBits ef) z).toNat := by
  rw [intOf, signedNat_eq_toInt z (efBits_pos hef), BitVec.toNat_ofNat]
  rfl

theorem intMin_le_intOf (z : Nat) : intMin ef ≤ intOf ef z := by
  rw [intOf_eq hef, intMin, intSigned]
  split
  · exact BitVec.le_toInt _
  · exact Int.natCast_nonneg _

theorem intOf_le_intMax (z : Nat) : intOf ef z ≤ intMax ef := by
  rw [intOf_eq hef, intMax, intSigned]
  split
  · exact Int.le_sub_one_of_lt BitVec.toInt_lt
  · have := (BitVec.ofNat (efBits ef) z).isLt
    have hcast : (((BitVec.ofNat (efBits ef) z).toNat : Nat) : Int) < (2 ^ efBits ef : Nat) := Int.ofNat_lt.mpr this
    push_cast at hcast
    omega

omit hef in
theorem intMin_nonpos : intMin ef ≤ 0 := by
  unfold intMin
  split
  · have : (0 : Int) < 2 ^ (efBits ef - 1) := Int.pow_pos (by decide)
    omega
  · exact Int.le_refl 0

omit hef in
theorem intMax_nonneg : 0 ≤ intMax ef := by
  have h1 : (0 : Int) < 2 ^ (efBits ef - 1) := Int.pow_pos (by decide)
  have h2 : (0 : Int) < 2 ^ efBits ef := Int.pow_pos (by decide)
  unfold intMax
  split <;> omega

/-- An integer of the range has a code. -/
theorem intOf_lowBits {i : Int} (hlo : intMin ef ≤ i) (hhi : i ≤ intMax ef) : intOf ef (lowBits i (efBits ef)) = i := by
  rw [intOf_eq hef, lowBits_eq, BitVec.ofNat_toNat, BitVec.setWidth_eq]
  obtain ⟨k, hk⟩ : ∃ k, efBits ef = k + 1 := ⟨efBits ef - 1, by have := efBits_pos hef; omega⟩
  rw [intMin, intSigned, hk, Nat.add_sub_cancel] at hlo
  rw [intMax, intSigned, hk, Nat.add_sub_cancel] at hhi
  have hpow : (2 ^ (k + 1) : Nat) = 2 * 2 ^ k := Nat.pow_succ'
  split
  next hs =>
    rw [if_pos hs] at hlo hhi
    rw [BitVec.toInt_ofInt, hk, hpow]
    apply Int.bmod_eq_of_le
    · push_cast
      omega
    · push_cast
      omega
  next hs =>
    rw [if_neg hs] at hlo hhi
    rw [BitVec.toNat_ofInt, hk, Int.toNat_of_nonneg (Int.emod_nonneg _ (Int.natCast_ne_zero.mpr (Nat.ne_of_gt (Nat.two_pow_pos _)))), Int.emod_eq_of_lt hlo]
    push_cast
    omega

theorem valueOf_int (z : Nat) : valueOf ef z = numOfInt (intOf ef z) := if_pos hef

omit hef in
theorem exact_numOfInt (k : Nat) (i : Int) : Exact k (numOfInt i) (i * 2 ^ k) := by
  refine ⟨decide (i < 0), i.natAbs, 0, rfl, by omega, ?_⟩
  rw [Int.zero_add, Int.toNat_natCast, signed_mul, signed_natAbs]
  push_cast
  rfl

theorem scaledCode_int (z : Nat) : scaledCode ef z = some (intOf ef z * 2 ^ 320) := by
  rw [scaledCode, valueOf_int hef, scaledNum_eq_some]
  exact exact_numOfInt 320 _

theorem formatVal_int (z : Nat) : formatVal ef z = some (intOf ef z * 2 ^ 640) := by
  rw [formatVal, scaledCode_int hef, Option.map_some, Int.mul_assoc, ← Int.pow_add]

end IntFormat

end Sys2Proof.Machine
end

section
/-! Delivery of exact values (R84, R87, R90, R252): the integer formats. -/
namespace Sys2Proof.Machine

/-- What a value within the range of a format is delivered as: correctly rounded, NX where inexact, UF only then, and no other flag. -/
def RoundedRight (ef : Nat) (mode : Mode) (draw : Nat) (r : Int) (out : Nat × Fl) : Prop :=
  roundsTo ef mode draw r out.1 ∧ out.2 &&& 7 = 0 ∧ (out.2 &&& 16 = 0 ↔ formatVal ef out.1 = some r) ∧ (out.2 &&& 16 = 0 → out.2 = 0)

theorem roundedRight_exact {ef : Nat} {mode : Mode} {draw c : Nat} {r : Int} (h : formatVal ef c = some r) :
    RoundedRight ef mode draw r (c, 0) := by
  refine ⟨roundsTo_exact h, BitVec.zero_and, ?_, fun _ => rfl⟩
  rw [h]
  exact ⟨fun _ => rfl, fun _ => BitVec.zero_and⟩

/-- The choice between the neighbours of a magnitude, flagged where it is inexact, is right. -/
theorem roundedRight_of_neighbours {ef : Nat} {mode : Mode} {neg : Bool} {n t Q draw c : Nat} {fl : Fl} (h : Neighbours ef neg n Q) (ht : t < Q)
    (hval : formatVal ef c = some (signed neg ((n + b2n (roundsUp mode neg n t Q draw)) * Q)))
    (hpar : c % 2 = (n + b2n (roundsUp mode neg n t Q draw)) % 2) (hexact : t = 0 → fl = 0) (hinexact : t ≠ 0 → fl &&& 23 = 16) :
    RoundedRight ef mode draw (signed neg (n * Q + t)) (c, fl) := by
  by_cases h0 : t = 0
  · subst h0
    rw [roundsUp_exact] at hval
    rw [hexact rfl]
    exact roundedRight_exact hval
  · have hfl := hinexact h0
    have h16 : fl &&& 16 = 16 := by
      revert hfl
      generalize fl = x
      revert x
      decide
    have h7 : fl &&& 7 = 0 := by
      revert hfl
      generalize fl = x
      revert x
      decide
    have hne : signed neg ((n + b2n (roundsUp mode neg n t Q draw)) * Q) ≠ signed neg (n * Q + t) := by
      intro heq
      have habs := congrArg Int.natAbs heq
      rw [natAbs_signed, natAbs_signed, Nat.add_mul] at habs
      cases hup : roundsUp mode neg n t Q draw <;> simp [hup, b2n] at habs <;> omega
    refine ⟨roundsTo_of_neighbours h ht hval hpar, h7, ?_, ?_⟩
    · rw [h16, hval, Option.some_inj]
      exact ⟨fun h => absurd h (by decide), fun h => absurd h hne⟩
    · rw [h16]
      exact fun h => absurd h (by decide)

/-- The parts of `deliveredAs`, by the range of the format. -/
theorem deliveredAs_of {ef : Nat} {mode : Mode} {sat : Bool} {draw : Nat} {r : Int} {out : Nat × Fl} (hlt : out.1 < 2 ^ efBits ef)
    (hin : (∃ z w, formatVal ef z = some w ∧ r ≤ w) → (∃ z w, formatVal ef z = some w ∧ w ≤ r) → RoundedRight ef mode draw r out)
    (habove : (∀ z w, formatVal ef z = some w → w < r) → sat = true →
      out.2 &&& 19 = 16 ∧ ∃ v, formatVal ef out.1 = some v ∧ ∀ z w, formatVal ef z = some w → w ≤ v)
    (hbelow : (∀ z w, formatVal ef z = some w → r < w) → sat = true →
      out.2 &&& 19 = 16 ∧ ∃ v, formatVal ef out.1 = some v ∧ ∀ z w, formatVal ef z = some w → v ≤ w) :
    deliveredAs ef mode sat draw r out := by
  intro _ _ _ _
  refine ⟨hlt, fun hna hnb => hin ?_ ?_, habove, hbelow⟩
  · refine Classical.byContradiction fun hno => ?_
    exact hna fun z w hz => Int.not_le.mp fun hle => hno ⟨z, w, hz, hle⟩
  · refine Classical.byContradiction fun hno => ?_
    exact hnb fun z w hz => Int.not_le.mp fun hle => hno ⟨z, w, hz, hle⟩

/-! ### Rounding keeps within bounds -/

section Bounds
variable {neg : Bool} {n t Q : Nat} {up : Bool} {M : Int}

theorem roundsUp_pos {mode : Mode} {draw : Nat} (h : roundsUp mode neg n t Q draw = true) : t ≠ 0 := by
  rintro rfl
  rw [roundsUp_exact] at h
  cases h

theorem round_le (hM : 0 ≤ M) (hQ : 0 < Q) (hup : up = true → t ≠ 0) (h : signed neg (n * Q + t) ≤ M * Q) :
    signed neg (n + b2n up) ≤ M := by
  obtain ⟨M, rfl⟩ := Int.eq_ofNat_of_zero_le hM
  cases neg with
  | true =>
    rw [signed_true]
    omega
  | false =>
    rw [signed_false] at h ⊢
    norm_cast at h ⊢
    cases up with
    | false => exact Nat.le_of_mul_le_mul_right (Nat.le_of_add_right_le h) hQ
    | true =>
      have := hup rfl
      exact Nat.lt_of_mul_lt_mul_right (a := Q) (by omega)

theorem le_round (hM : M ≤ 0) (hQ : 0 < Q) (hup : up = true → t ≠ 0) (h : M * Q ≤ signed neg (n * Q + t)) :
    M ≤ signed neg (n + b2n up) := by
  have h' : signed (!neg) (n * Q + t) ≤ -M * Q := by
    rw [signed_not, Int.neg_mul]
    exact Int.neg_le_neg h
  have := round_le (Int.neg_nonneg_of_nonpos hM) hQ hup h'
  rw [signed_not] at this
  omega

/-- A magnitude beyond a multiple of Q rounds to no less, and is inexact where it rounds to that. -/
theorem lt_round (hM : 0 ≤ M) (ht : t < Q) (h : M * Q < signed neg (n * Q + t)) :
    M ≤ signed neg (n + b2n up) ∧ (signed neg (n + b2n up) ≤ M → t ≠ 0) := by
  obtain ⟨M, rfl⟩ := Int.eq_ofNat_of_zero_le hM
  cases neg with
  | true =>
    rw [signed_true] at h
    norm_cast at h
    omega
  | false =>
    rw [signed_false] at h ⊢
    norm_cast at h ⊢
    have hle : M ≤ n := Nat.le_of_lt_succ (Nat.lt_of_mul_lt_mul_right (a := Q) (by rw [Nat.succ_mul]; omega))
    refine ⟨by omega, fun hle' h0 => ?_⟩
    have heq : n = M := by omega
    subst heq h0
    omega

theorem round_lt (hM : M ≤ 0) (ht : t < Q) (h : signed neg (n * Q + t) < M * Q) :
    signed neg (n + b2n up) ≤ M ∧ (M ≤ signed neg (n + b2n up) → t ≠ 0) := by
  have h' : -M * Q < signed (!neg) (n * Q + t) := by
    rw [signed_not, Int.neg_mul]
    exact Int.neg_lt_neg h
  have := lt_round (up := up) (Int.neg_nonneg_of_nonpos hM) ht h'
  rw [signed_not] at this
  omega

end Bounds

/-! ### Integer formats -/

section IntFormat
variable {ef : Nat} (hef : efInt ef = true)
include hef

omit hef in
/-- What an integer is delivered as with SAT = 1. -/
theorem deliverInt_sat (i : Int) (inexact : Bool) : deliverInt ef true i inexact =
    (lowBits (max (intMin ef) (min (intMax ef) i)) (efBits ef),
      if i < intMin ef ∨ intMax ef < i then 20 else if inexact = true then flNX else 0) := by
  have hrange : intMin ef ≤ intMax ef := Int.le_trans intMin_nonpos intMax_nonneg
  by_cases hin : intMin ef ≤ i ∧ i ≤ intMax ef
  · have hno : ¬ (i < intMin ef ∨ intMax ef < i) := by omega
    rw [deliverInt, if_pos hin, if_neg hno, Int.min_eq_right hin.2, Int.max_eq_right hin.1]
  · have hout : i < intMin ef ∨ intMax ef < i := by omega
    rw [deliverInt, if_neg hin, if_pos rfl, if_pos hout]
    by_cases hlt : i < intMin ef
    · rw [if_pos hlt, Int.min_eq_right (by omega), Int.max_eq_left (Int.le_of_lt hlt)]
      rfl
    · rw [if_neg hlt, Int.min_eq_left (by omega), Int.max_eq_right hrange]
      rfl

omit hef in
theorem deliverInt_wraps (i : Int) (inexact : Bool) :
    deliverInt ef false i inexact = (lowBits i (efBits ef), if inexact = true then flNX else 0) := by
  simp only [deliverInt, Bool.false_eq_true, if_false, ite_self]

omit hef in
theorem deliverInt_inRange (sat : Bool) {i : Int} (inexact : Bool) (hlo : intMin ef ≤ i) (hhi : i ≤ intMax ef) :
    deliverInt ef sat i inexact = (lowBits i (efBits ef), if inexact = true then flNX else 0) := if_pos ⟨hlo, hhi⟩

theorem deliver_int (mode : Mode) (sat : Bool) (draw : Nat) (neg : Bool) (m : Nat) (e : Int) :
    deliver ef mode sat draw (.fin neg m e false) =
      deliverInt ef sat (signed neg (roundMag mode neg m e false 0 draw).1) (roundMag mode neg m e false 0 draw).2 := if_pos hef

theorem neighbours_int {neg : Bool} {n : Nat} (hlo : intMin ef ≤ signed neg n) (hhi : signed neg n ≤ intMax ef) :
    Neighbours ef neg n (2 ^ 640) := by
  have hcast : ∀ j : Nat, formatVal ef (lowBits (signed neg j) (efBits ef)) = some (intOf ef (lowBits (signed neg j) (efBits ef)) * 2 ^ 640) :=
    fun j => formatVal_int hef _
  have hscale : ∀ j : Nat, signed neg (j * 2 ^ 640) = signed neg j * 2 ^ 640 := fun j => by
    rw [signed_mul, Int.natCast_pow, Int.cast_ofNat_Int]
  have habs : ∀ j : Int, (j * 2 ^ 640).natAbs = j.natAbs * 2 ^ 640 := fun j => by
    rw [Int.natAbs_mul, Int.natAbs_pow, show Int.natAbs 2 = 2 from rfl]
  refine ⟨fun z w hz => ?_, ⟨_, (hcast n).trans ?_⟩, ?_⟩
  · rw [formatVal_int hef, Option.some_inj] at hz
    rw [← hz, habs]
    rcases Nat.lt_or_ge n (intOf ef z).natAbs with hlt | hge
    · exact .inr (Nat.mul_le_mul_right _ hlt)
    · exact .inl (Nat.mul_le_mul_right _ hge)
  · rw [intOf_lowBits hef hlo hhi, hscale]
  · rintro ⟨z, w, hz, hsign, hlt⟩
    rw [formatVal_int hef, Option.some_inj] at hz
    have h1 := intMin_le_intOf hef z
    have h2 := intOf_le_intMax hef z
    rw [← hz, habs] at hlt
    have hn := Nat.lt_of_mul_lt_mul_right hlt
    have hpos : (0 : Int) < 2 ^ 640 := Int.pow_pos (by decide)
    refine ⟨_, (hcast (n + 1)).trans ?_⟩
    cases neg with
    | false =>
      have hw : 0 < intOf ef z := by
        rw [← hz] at hsign
        exact Int.pos_of_mul_pos_left hsign hpos
      rw [intOf_lowBits hef (by have := intMin_nonpos (ef := ef); rw [signed_false]; omega) (by rw [signed_false]; omega), hscale]
    | true =>
      have hw : intOf ef z < 0 := by
        rw [← hz] at hsign
        exact Int.neg_of_mul_neg_left hsign hpos
      rw [intOf_lowBits hef (by rw [signed_true]; omega) (by have := intMax_nonneg (ef := ef); rw [signed_true]; omega), hscale]

/-- An integer rounded from an exact value, whose range is as checked, is delivered as R84, R90 and R252 say. -/
theorem deliverInt_deliveredAs {Q n t : Nat} (hQ : 0 < Q) (ht : t < Q) (hval : ∀ z, formatVal ef z = some (intOf ef z * Q)) (neg : Bool)
    (hN : intMin ef ≤ signed neg n → signed neg n ≤ intMax ef → Neighbours ef neg n Q) (mode : Mode) (sat : Bool) (draw : Nat) :
    deliveredAs ef mode sat draw (signed neg (n * Q + t))
      (deliverInt ef sat (signed neg (n + b2n (roundsUp mode neg n t Q draw))) (decide (t ≠ 0))) := by
  obtain ⟨up, hup⟩ : ∃ up, up = roundsUp mode neg n t Q draw := ⟨_, rfl⟩
  have hpos : up = true → t ≠ 0 := fun h => roundsUp_pos (hup ▸ h)
  have hmin := intMin_nonpos (ef := ef)
  have hmax := intMax_nonneg (ef := ef)
  have hQ' : (0 : Int) ≤ Q := Int.natCast_nonneg Q
  have htop := intOf_lowBits hef (Int.le_trans hmin hmax) (Int.le_refl _)
  have hbottom := intOf_lowBits hef (Int.le_refl _) (Int.le_trans hmin hmax)
  rw [← hup]
  refine deliveredAs_of ?_ ?_ ?_ ?_
  · cases sat
    · rw [deliverInt_wraps]
      exact lowBits_lt ..
    · rw [deliverInt_sat]
      exact lowBits_lt ..
  · rintro ⟨z, w, hz, hle⟩ ⟨z', w', hz', hle'⟩
    rw [hval, Option.some_inj] at hz hz'
    have hr : signed neg (n * Q + t) ≤ intMax ef * Q :=
      Int.le_trans hle (hz ▸ Int.mul_le_mul_of_nonneg_right (intOf_le_intMax hef z) hQ')
    have hr' : intMin ef * Q ≤ signed neg (n * Q + t) :=
      Int.le_trans (Int.mul_le_mul_of_nonneg_right (intMin_le_intOf hef z') hQ') (hz' ▸ hle')
    have hhi := round_le hmax hQ hpos hr
    have hlo := le_round hmin hQ hpos hr'
    rw [deliverInt_inRange sat _ hlo hhi]
    apply roundedRight_of_neighbours (hN (le_round (up := false) hmin hQ nofun hr') (round_le (up := false) hmax hQ nofun hr)) ht
    · rw [hval, intOf_lowBits hef hlo hhi, ← hup, signed_mul]
    · rw [lowBits_mod_two (efBits_pos hef), natAbs_signed, ← hup]
    · rintro rfl
      rfl
    · intro h0
      rw [decide_eq_true h0]
      rfl
  · rintro habove rfl
    have hr : intMax ef * Q < signed neg (n * Q + t) := by
      have := habove _ _ (hval (lowBits (intMax ef) (efBits ef)))
      rwa [htop] at this
    obtain ⟨hge, hne⟩ := lt_round (up := up) hmax ht hr
    rw [deliverInt_sat, Int.min_eq_left hge, Int.max_eq_right (Int.le_trans hmin hmax)]
    refine ⟨?_, intMax ef * Q, by rw [hval, htop], fun z w hz => ?_⟩
    · by_cases hout : signed neg (n + b2n up) < intMin ef ∨ intMax ef < signed neg (n + b2n up)
      · simp only [if_pos hout]
        rfl
      · simp only [if_neg hout, decide_eq_true (hne (by omega))]
        rfl
    · rw [hval, Option.some_inj] at hz
      exact hz ▸ Int.mul_le_mul_of_nonneg_right (intOf_le_intMax hef z) hQ'
  · rintro hbelow rfl
    have hr : signed neg (n * Q + t) < intMin ef * Q := by
      have := hbelow _ _ (hval (lowBits (intMin ef) (efBits ef)))
      rwa [hbottom] at this
    obtain ⟨hle, hne⟩ := round_lt (up := up) hmin ht hr
    rw [deliverInt_sat, Int.min_eq_right (Int.le_trans hle (Int.le_trans hmin hmax)), Int.max_eq_left hle]
    refine ⟨?_, intMin ef * Q, by rw [hval, hbottom], fun z w hz => ?_⟩
    · by_cases hout : signed neg (n + b2n up) < intMin ef ∨ intMax ef < signed neg (n + b2n up)
      · simp only [if_pos hout]
        rfl
      · simp only [if_neg hout, decide_eq_true (hne (by omega))]
        rfl
    · rw [hval, Option.some_inj] at hz
      exact hz ▸ Int.mul_le_mul_of_nonneg_right (intMin_le_intOf hef z) hQ'

/-- An exact value is delivered in an integer format as R84, R90 and R252 say. -/
theorem deliver_int_deliveredAs (mode : Mode) (sat : Bool) (draw : Nat) {x : Num} {r : Int} (hx : Exact 640 x r) :
    deliveredAs ef mode sat draw r (deliver ef mode sat draw x) := by
  obtain ⟨neg, m, e, rfl, he, rfl⟩ := hx
  rw [deliver_int hef, roundMag_eq he (by omega), Int.zero_add, Int.toNat_natCast]
  generalize m * 2 ^ (e + (640 : Nat)).toNat = R
  obtain ⟨Q, hQ⟩ : ∃ Q, Q = 2 ^ 640 := ⟨_, rfl⟩
  have hval : ∀ z, formatVal ef z = some (intOf ef z * Q) := fun z => by
    rw [formatVal_int hef, hQ, Int.natCast_pow, Int.cast_ofNat_Int]
  have hN : ∀ n, intMin ef ≤ signed neg n → signed neg n ≤ intMax ef → Neighbours ef neg n Q := fun n hlo hhi => hQ ▸ neighbours_int hef hlo hhi
  have hpos : 0 < Q := by
    rw [hQ]
    exact Nat.two_pow_pos 640
  rw [← hQ]
  clear hQ
  have hR := deliverInt_deliveredAs hef hpos (Nat.mod_lt R hpos) hval neg (hN (R / Q)) mode sat draw
  rwa [Nat.div_add_mod'] at hR

end IntFormat

end Sys2Proof.Machine
end

section
/-! The codes of the floating formats and the grid of their values (R78, R79). -/
namespace Sys2Proof.Machine

/-! ### The grid -/

/-- How many of the smallest steps of a format with M significand bits a magnitude code stands for: the exponent field counts up in steps
that double after the first. -/
def gridPos (M mag : Nat) : Nat := (mag - (mag / 2 ^ M - 1) * 2 ^ M) * 2 ^ (mag / 2 ^ M - 1)

section Grid
variable {M E n : Nat}

/-- The position of a significand n in the binade E, which may be subnormal only in the first. -/
theorem gridPos_add (hn : n < 2 ^ (M + 1)) (hE : E = 0 ∨ 2 ^ M ≤ n) : gridPos M (E * 2 ^ M + n) = n * 2 ^ E := by
  have hP : 0 < 2 ^ M := Nat.two_pow_pos _
  have hdiv : (E * 2 ^ M + n) / 2 ^ M = E + n / 2 ^ M := by rw [Nat.add_comm, Nat.add_mul_div_right _ _ hP, Nat.add_comm]
  have hdouble : 2 ^ (M + 1) = 2 * 2 ^ M := Nat.pow_succ'
  have hE' : E + n / 2 ^ M - 1 = E := by
    rcases Nat.lt_or_ge n (2 ^ M) with hlt | hge
    · rw [Nat.div_eq_of_lt hlt]
      omega
    · rw [show n / 2 ^ M = 1 from Nat.div_eq_of_lt_le (by omega) (by omega)]
      omega
  rw [gridPos, hdiv, hE', Nat.add_sub_cancel_left]

theorem gridPos_add_top : gridPos M (E * 2 ^ M + 2 ^ (M + 1)) = 2 ^ (M + 1) * 2 ^ E := by
  have hlt : 2 ^ M < 2 ^ (M + 1) := Nat.pow_lt_pow_succ (by decide)
  rw [show E * 2 ^ M + 2 ^ (M + 1) = (E + 1) * 2 ^ M + 2 ^ M by rw [Nat.pow_succ, Nat.succ_mul]; omega,
    gridPos_add hlt (.inr (Nat.le_refl _)), ← Nat.pow_add, ← Nat.pow_add, Nat.add_assoc, Nat.add_comm 1 E]

theorem gridPos_add_le (hn : n ≤ 2 ^ (M + 1)) (hE : E = 0 ∨ 2 ^ M ≤ n) : gridPos M (E * 2 ^ M + n) = n * 2 ^ E := by
  rcases Nat.lt_or_eq_of_le hn with hlt | rfl
  · exact gridPos_add hlt hE
  · exact gridPos_add_top

/-- Every magnitude code is a significand in a binade. -/
theorem exists_binade (M mag : Nat) : ∃ E n, mag = E * 2 ^ M + n ∧ n < 2 ^ (M + 1) ∧ (E = 0 ∨ 2 ^ M ≤ n) := by
  have hP : 0 < 2 ^ M := Nat.two_pow_pos _
  have hmod := Nat.mod_lt mag hP
  have hdiv := Nat.div_add_mod' mag (2 ^ M)
  have hdouble : 2 ^ (M + 1) = 2 * 2 ^ M := Nat.pow_succ'
  rcases Nat.eq_zero_or_pos (mag / 2 ^ M) with h0 | hpos
  · rw [h0] at hdiv
    exact ⟨0, mag, by omega, by omega, .inl rfl⟩
  · obtain ⟨k, hk⟩ := Nat.exists_eq_add_of_le' hpos
    rw [hk, Nat.succ_mul] at hdiv
    exact ⟨k, 2 ^ M + mag % 2 ^ M, by omega, by omega, .inr (by omega)⟩

theorem gridPos_lt_succ (M mag : Nat) : gridPos M mag < gridPos M (mag + 1) := by
  obtain ⟨E, n, rfl, hn, hE⟩ := exists_binade M mag
  rw [Nat.add_assoc, gridPos_add hn hE, gridPos_add_le hn (hE.imp_right fun h => Nat.le_trans h (Nat.le_succ n))]
  exact Nat.mul_lt_mul_of_pos_right (Nat.lt_succ_self n) (Nat.two_pow_pos _)

theorem gridPos_lt {a b : Nat} (h : a < b) : gridPos M a < gridPos M b := by
  induction h with
  | refl => exact gridPos_lt_succ M a
  | step _ ih => exact Nat.lt_trans ih (gridPos_lt_succ M _)

theorem gridPos_le_iff {a b : Nat} : gridPos M a ≤ gridPos M b ↔ a ≤ b := by
  rcases Nat.lt_trichotomy a b with h | rfl | h
  · exact iff_of_true (Nat.le_of_lt (gridPos_lt h)) (Nat.le_of_lt h)
  · exact iff_of_true (Nat.le_refl _) (Nat.le_refl _)
  · exact iff_of_false (Nat.not_le.mpr (gridPos_lt h)) (Nat.not_le.mpr h)

theorem gridPos_lt_iff {a b : Nat} : gridPos M a < gridPos M b ↔ a < b := by
  rw [← Nat.not_le, ← Nat.not_le, gridPos_le_iff]

end Grid

/-! ### The formats -/

/-- The bits of a code below its sign. -/
def FloatFmt.magBits (f : FloatFmt) : Nat := if f.signed then f.bits - 1 else f.bits

/-- What the formats of R78 have in common. -/
structure FloatFmt.Ok (f : FloatFmt) : Prop where
  bits : 0 < f.bits
  mant : 0 < f.mant
  normal : 2 ^ f.mant ≤ f.maxCode
  fits : f.maxCode < 2 ^ f.magBits
  infFits : f.hasInf = true → f.maxCode + 1 < 2 ^ f.magBits
  nanFits : ∀ c ∈ f.nanCode, c < 2 ^ f.bits
  smallest : -320 ≤ 1 - (f.bias : Int) - f.mant

section Formats
variable {ef : Nat} {f : FloatFmt}

theorem floatFmt_ok (h : floatFmt ef = some f) : f.Ok := by
  unfold floatFmt at h
  split at h <;> cases h <;> constructor <;> decide

theorem floatFmt_bits (h : floatFmt ef = some f) : f.bits = efBits ef := by
  unfold floatFmt at h
  split at h <;> cases h <;> rfl

theorem floatFmt_signed (h : floatFmt ef = some f) (hef : ef ≠ 18) : f.signed = true := by
  unfold floatFmt at h
  split at h
  case h_7 => exact absurd rfl hef
  case h_8 => cases h
  all_goals cases h; rfl

theorem floatFmt_kind (h : floatFmt ef = some f) : efInt ef = false ∧ ¬ (ef = 10 ∨ ef = 11) := by
  unfold floatFmt at h
  split at h <;> cases h <;> decide

/-- The kinds of formats (R74). -/
theorem format_kinds (h : ef ≤ 18) (h10 : ef ≠ 10) (h11 : ef ≠ 11) : efInt ef = true ∨ ∃ f, floatFmt ef = some f := by
  rcases Nat.lt_or_ge ef 10 with hlt | hge
  · exact .inl (efInt_iff.mpr (Nat.le_of_lt_succ hlt))
  · have : ef = 12 ∨ ef = 13 ∨ ef = 14 ∨ ef = 15 ∨ ef = 16 ∨ ef = 17 ∨ ef = 18 := by omega
    rcases this with rfl | rfl | rfl | rfl | rfl | rfl | rfl <;> exact .inr ⟨_, rfl⟩

/-- The sign and the magnitude of a code. -/
def FloatFmt.negOf (f : FloatFmt) (z : Nat) : Bool := f.signed && z / 2 ^ (f.bits - 1) % 2 == 1
def FloatFmt.magOf (f : FloatFmt) (z : Nat) : Nat := z % 2 ^ f.magBits

/-- The smallest step of a format, scaled by 2^640. -/
def FloatFmt.unit (f : FloatFmt) : Nat := 2 ^ (1 - (f.bias : Int) - f.mant + 320).toNat * 2 ^ 320

theorem FloatFmt.unit_pos (f : FloatFmt) : 0 < f.unit := by
  unfold FloatFmt.unit
  exact Nat.mul_pos (Nat.two_pow_pos _) (Nat.two_pow_pos _)

theorem unit_mul_pow (h : f.Ok) (E : Nat) : 2 ^ (1 - (f.bias : Int) - f.mant + E + (640 : Nat)).toNat = 2 ^ E * f.unit := by
  have := h.smallest
  rw [FloatFmt.unit, ← Nat.pow_add, ← Nat.pow_add]
  congr 1
  omega

theorem magOf_eq (f : FloatFmt) (z : Nat) : (if f.signed = true then z % 2 ^ (f.bits - 1) else z % 2 ^ f.bits) = f.magOf z := by
  rw [FloatFmt.magOf, FloatFmt.magBits]
  split <;> rfl

theorem valueOf_float (h : floatFmt ef = some f) (z : Nat) : valueOf ef z =
    if f.maxCode < f.magOf z then (if (f.hasInf && f.magOf z == f.maxCode + 1) = true then .inf (f.negOf z) else .nan)
    else if f.magOf z / 2 ^ f.mant = 0 then .fin (f.negOf z) (f.magOf z % 2 ^ f.mant) (1 - (f.bias : Int) - f.mant) false
    else .fin (f.negOf z) (2 ^ f.mant + f.magOf z % 2 ^ f.mant) ((f.magOf z / 2 ^ f.mant : Nat) - (f.bias : Int) - f.mant) false := by
  obtain ⟨hint, hhalf⟩ := floatFmt_kind h
  rw [← magOf_eq]
  simp only [valueOf, hint, hhalf, h, Bool.false_eq_true, if_false]
  rfl

/-- The value of a finite code. -/
theorem exact_valueOf_float (h : floatFmt ef = some f) {z : Nat} (hz : f.magOf z ≤ f.maxCode) :
    Exact 320 (valueOf ef z) (signed (f.negOf z) (gridPos f.mant (f.magOf z) * 2 ^ (1 - (f.bias : Int) - f.mant + 320).toNat)) := by
  have hsmall := (floatFmt_ok h).smallest
  have hmod := Nat.mod_lt (f.magOf z) (show 0 < 2 ^ f.mant from Nat.two_pow_pos _)
  have hdiv := Nat.div_add_mod' (f.magOf z) (2 ^ f.mant)
  have hdouble : 2 ^ (f.mant + 1) = 2 * 2 ^ f.mant := Nat.pow_succ'
  rw [valueOf_float h, if_neg (Nat.not_lt.mpr hz)]
  generalize f.magOf z = mag at *
  split
  next h0 =>
    rw [h0] at hdiv
    refine ⟨_, _, _, rfl, by omega, ?_⟩
    have hpos := gridPos_add (E := 0) (M := f.mant) (n := mag) (by omega) (.inl rfl)
    rw [Nat.zero_mul, Nat.zero_add, Nat.pow_zero, Nat.mul_one] at hpos
    rw [hpos, show mag % 2 ^ f.mant = mag by omega]
    rfl
  next h0 =>
    obtain ⟨E, hE⟩ := Nat.exists_eq_succ_of_ne_zero h0
    rw [hE, Nat.succ_eq_add_one] at hdiv ⊢
    refine ⟨_, _, _, rfl, by omega, ?_⟩
    have hpos := gridPos_add (E := E) (M := f.mant) (n := 2 ^ f.mant + mag % 2 ^ f.mant) (by omega) (.inr (by omega))
    rw [← Nat.add_assoc, ← Nat.succ_mul, Nat.succ_eq_add_one, hdiv] at hpos
    rw [hpos, Nat.mul_assoc, ← Nat.pow_add]
    congr 3
    omega

theorem formatVal_float (h : floatFmt ef = some f) {z : Nat} (hz : f.magOf z ≤ f.maxCode) :
    formatVal ef z = some (signed (f.negOf z) (gridPos f.mant (f.magOf z) * f.unit)) := by
  rw [formatVal, scaledCode, scaledNum_eq_some.mpr (exact_valueOf_float h hz), Option.map_some, FloatFmt.unit, ← Nat.mul_assoc, signed_mul _ _ (2 ^ 320),
    Int.natCast_pow, Int.cast_ofNat_Int]

theorem formatVal_float_inv (h : floatFmt ef = some f) {z : Nat} {w : Int} (hw : formatVal ef z = some w) :
    f.magOf z ≤ f.maxCode ∧ w = signed (f.negOf z) (gridPos f.mant (f.magOf z) * f.unit) := by
  by_cases hz : f.magOf z ≤ f.maxCode
  · exact ⟨hz, Option.some_inj.mp (hw.symm.trans (formatVal_float h hz))⟩
  · rw [formatVal, scaledCode, valueOf_float h, if_pos (Nat.not_le.mp hz)] at hw
    split at hw <;> cases hw

/-! ### Codes with a sign -/

theorem two_pow_magBits_le (f : FloatFmt) : 2 ^ f.magBits ≤ 2 ^ f.bits := by
  refine Nat.pow_le_pow_right (by decide) ?_
  unfold FloatFmt.magBits
  split <;> omega

theorem withSign_lt (h : f.Ok) (neg : Bool) {mag : Nat} (hmag : mag < 2 ^ f.magBits) : withSign f neg mag < 2 ^ f.bits := by
  have hbits := h.bits
  have hle := two_pow_magBits_le f
  unfold withSign
  split
  next hs =>
    have hs' : f.signed = true := by
      cases hf : f.signed <;> simp_all
    have hdouble : 2 ^ f.bits = 2 * 2 ^ (f.bits - 1) := by rw [← Nat.pow_succ', Nat.succ_eq_add_one, Nat.sub_add_cancel hbits]
    rw [FloatFmt.magBits, if_pos hs'] at hmag
    omega
  · omega

theorem magOf_withSign (neg : Bool) {mag : Nat} (hmag : mag < 2 ^ f.magBits) : f.magOf (withSign f neg mag) = mag := by
  unfold withSign FloatFmt.magOf
  split
  next hs =>
    have hs' : f.signed = true := by
      cases hf : f.signed <;> simp_all
    rw [FloatFmt.magBits, if_pos hs'] at hmag ⊢
    rw [Nat.add_mod_right, Nat.mod_eq_of_lt hmag]
  · exact Nat.mod_eq_of_lt hmag

theorem negOf_withSign {neg : Bool} {mag : Nat} (hneg : neg = true → f.signed = true) (hmag : mag < 2 ^ f.magBits) :
    f.negOf (withSign f neg mag) = neg := by
  have hP : 0 < 2 ^ (f.bits - 1) := Nat.two_pow_pos _
  unfold withSign FloatFmt.negOf
  cases hs : f.signed with
  | false => cases neg <;> simp_all
  | true =>
    rw [FloatFmt.magBits, if_pos hs] at hmag
    cases neg with
    | false => simp [Nat.div_eq_of_lt hmag]
    | true => simp [Nat.add_div_right mag hP, Nat.div_eq_of_lt hmag]

theorem formatVal_withSign (h : floatFmt ef = some f) {neg : Bool} {mag : Nat} (hneg : neg = true → f.signed = true) (hmag : mag ≤ f.maxCode) :
    formatVal ef (withSign f neg mag) = some (signed neg (gridPos f.mant mag * f.unit)) := by
  have hlt := Nat.lt_of_le_of_lt hmag (floatFmt_ok h).fits
  have hz := formatVal_float h (z := withSign f neg mag) (by rwa [magOf_withSign neg hlt])
  rwa [magOf_withSign neg hlt, negOf_withSign hneg hlt] at hz

/-- The sign does not touch the last bit. -/
theorem withSign_mod_two (h : f.Ok) (neg : Bool) (mag : Nat) : withSign f neg mag % 2 = mag % 2 := by
  have hmant := h.mant
  have hlt : 2 ^ f.mant < 2 ^ f.magBits := Nat.lt_of_le_of_lt h.normal h.fits
  have hbits : f.mant < f.magBits := (Nat.pow_lt_pow_iff_right (by decide)).mp hlt
  unfold withSign
  split
  next hs =>
    have hs' : f.signed = true := by
      cases hf : f.signed <;> simp_all
    rw [FloatFmt.magBits, if_pos hs'] at hbits
    have heven : 2 ∣ 2 ^ (f.bits - 1) := Nat.pow_dvd_pow (m := 1) 2 (by omega)
    omega
  · rfl

end Formats

end Sys2Proof.Machine
end

section
/-! Delivery into the floating formats (R78, R84, R90, R252). -/
namespace Sys2Proof.Machine

section FloatFormat
variable {f : FloatFmt}

/-- The code of a rounded significand: a carry moves to the next binade. -/
theorem packed_code {M bias E N : Nat} {q : Int} (hq : q = 1 - (bias : Int) - M + E) (hN : N ≤ 2 ^ (M + 1)) (hE : E = 0 ∨ 2 ^ M ≤ N) :
    (if (if N = 2 ^ (M + 1) then (2 ^ M, q + 1) else (N, q)).1 < 2 ^ M then (if N = 2 ^ (M + 1) then (2 ^ M, q + 1) else (N, q)).1
      else ((if N = 2 ^ (M + 1) then (2 ^ M, q + 1) else (N, q)).2 + M + bias).toNat * 2 ^ M
        + ((if N = 2 ^ (M + 1) then (2 ^ M, q + 1) else (N, q)).1 - 2 ^ M)) = E * 2 ^ M + N := by
  have hdouble : 2 ^ (M + 1) = 2 * 2 ^ M := Nat.pow_succ'
  by_cases hcarry : N = 2 ^ (M + 1)
  · simp only [if_pos hcarry, Nat.lt_irrefl, if_false, Nat.sub_self]
    rw [show (q + 1 + M + bias).toNat = E + 2 by omega, hcarry, hdouble, Nat.add_mul, Nat.add_zero]
  · simp only [if_neg hcarry]
    split
    next hlt =>
      obtain rfl : E = 0 := by omega
      rw [Nat.zero_mul, Nat.zero_add]
    next hge =>
      rw [show (q + M + bias).toNat = E + 1 by omega, Nat.succ_mul]
      omega

/-- A rounded significand overflows where its code lies beyond the largest. -/
theorem overflows_iff (h : f.Ok) {E N : Nat} {q : Int} (hq : q = 1 - (f.bias : Int) - f.mant + E) (hN : N ≤ 2 ^ (f.mant + 1))
    (hE : E = 0 ∨ 2 ^ f.mant ≤ N) :
    magLt (2 ^ f.mant + f.maxCode % 2 ^ f.mant) ((f.maxCode / 2 ^ f.mant : Nat) - (f.bias : Int) - f.mant) N q = true
      ↔ f.maxCode < E * 2 ^ f.mant + N := by
  have hsmall := h.smallest
  have hmod := Nat.mod_lt f.maxCode (show 0 < 2 ^ f.mant from Nat.two_pow_pos _)
  have hdiv := Nat.div_add_mod' f.maxCode (2 ^ f.mant)
  have hdouble : 2 ^ (f.mant + 1) = 2 * 2 ^ f.mant := Nat.pow_succ'
  obtain ⟨A, hA⟩ := Nat.exists_eq_add_of_le' (Nat.div_pos h.normal (show 0 < 2 ^ f.mant from Nat.two_pow_pos _))
  rw [hA] at hdiv ⊢
  rw [magLt_iff (k := 640) (by omega) (by omega), show ((A + 1 : Nat) : Int) - f.bias - f.mant = 1 - (f.bias : Int) - f.mant + A by omega,
    hq, unit_mul_pow h, unit_mul_pow h, ← Nat.mul_assoc, ← Nat.mul_assoc, Nat.mul_lt_mul_right f.unit_pos, ← gridPos_add_le hN hE,
    ← gridPos_add (by omega) (.inr (Nat.le_add_right ..)), gridPos_lt_iff, ← Nat.add_assoc, ← Nat.succ_mul, Nat.succ_eq_add_one, hdiv]

theorem two_pow_topExp_le {m : Nat} (hm : m ≠ 0) {e : Int} (he : -640 ≤ e) : 2 ^ (topExp m e + 640).toNat ≤ m * 2 ^ (e + 640).toNat := by
  rw [topExp, show (e + (Nat.log2 m : Int) + 640).toNat = Nat.log2 m + (e + 640).toNat by omega, Nat.pow_add]
  exact Nat.mul_le_mul_right _ (Nat.log2_self_le hm)

theorem lt_two_pow_topExp {m : Nat} {e : Int} (he : -640 ≤ e) : m * 2 ^ (e + 640).toNat < 2 ^ (topExp m e + 641).toNat := by
  rw [topExp, show (e + (Nat.log2 m : Int) + 641).toNat = Nat.log2 m + 1 + (e + 640).toNat by omega, Nat.pow_add]
  exact Nat.mul_lt_mul_of_pos_right Nat.lt_log2_self (Nat.two_pow_pos _)

/-- The rounding step of a floating format: the magnitude lies in a binade of the format, a significand and a rest. -/
theorem exists_significand (h : f.Ok) {m : Nat} (hm : m ≠ 0) {e : Int} (he : -640 ≤ e) :
    ∃ E n t, (if topExp m e < 1 - (f.bias : Int) then 1 - (f.bias : Int) else topExp m e) - f.mant = 1 - (f.bias : Int) - f.mant + (E : Nat)
      ∧ m * 2 ^ (e + 640).toNat = n * (2 ^ E * f.unit) + t ∧ t < 2 ^ E * f.unit ∧ n < 2 ^ (f.mant + 1) ∧ (E = 0 ∨ 2 ^ f.mant ≤ n) := by
  have hsmall := h.smallest
  obtain ⟨T, hT⟩ : ∃ T, T = if topExp m e < 1 - (f.bias : Int) then 1 - (f.bias : Int) else topExp m e := ⟨_, rfl⟩
  have hTle : topExp m e ≤ T ∧ 1 - (f.bias : Int) ≤ T := by
    rw [hT]
    split <;> omega
  obtain ⟨htop, hmin⟩ := hTle
  have hQ := unit_mul_pow h (T - (1 - f.bias)).toNat
  rw [show 1 - (f.bias : Int) - f.mant + (T - (1 - f.bias)).toNat = T - f.mant by omega] at hQ
  have hpos : 0 < 2 ^ (T - (1 - (f.bias : Int))).toNat * f.unit := Nat.mul_pos (Nat.two_pow_pos _) f.unit_pos
  rw [← hT]
  refine ⟨(T - (1 - f.bias)).toNat, m * 2 ^ (e + 640).toNat / (2 ^ (T - (1 - (f.bias : Int))).toNat * f.unit), _, by omega,
    (Nat.div_add_mod' ..).symm, Nat.mod_lt _ hpos, ?_, ?_⟩
  · rw [Nat.div_lt_iff_lt_mul hpos, ← hQ, ← Nat.pow_add]
    refine Nat.lt_of_lt_of_le (lt_two_pow_topExp he) (Nat.pow_le_pow_right (by decide) ?_)
    omega
  · by_cases hE : (T - (1 - (f.bias : Int))).toNat = 0
    · exact .inl hE
    · refine .inr ((Nat.le_div_iff_mul_le hpos).mpr ?_)
      rw [← hQ, ← Nat.pow_add]
      refine Nat.le_trans (Nat.pow_le_pow_right (by decide) ?_) (two_pow_topExp_le hm he)
      have : T = topExp m e := by
        rw [hT] at hE ⊢
        split at hE <;> omega
      omega

/-- The flags of a rounding: NX where it is inexact, and UF where its result is tiny too. -/
def roundFlags (inexact tiny nonzero : Bool) : Fl :=
  (if inexact = true then flNX else 0) ||| (if (inexact && tiny && nonzero) = true then flUF else 0)

theorem roundFlags_exact (tiny nonzero : Bool) : roundFlags false tiny nonzero = 0 := by
  cases tiny <;> cases nonzero <;> rfl

theorem roundFlags_inexact (tiny nonzero : Bool) : roundFlags true tiny nonzero &&& 23 = 16 := by
  cases tiny <;> cases nonzero <;> rfl

theorem roundFlags_inexact_tiny (tiny nonzero : Bool) : roundFlags true tiny nonzero &&& 19 = 16 := by
  cases tiny <;> cases nonzero <;> rfl

theorem overflowFlags : (flOF ||| flNX) &&& 19 = 16 := rfl

/-- Delivery of a magnitude: overflow beyond the largest code, else the code of the rounded significand, with NX where inexact. -/
theorem deliverFloat_eq (h : f.Ok) {m : Nat} (hm : m ≠ 0) {e : Int} (he : -640 ≤ e) {neg : Bool} (hneg : neg = true → f.signed = true)
    (mode : Mode) (sat : Bool) (d : Nat) :
    ∃ E n t tiny nonzero, m * 2 ^ (e + 640).toNat = n * (2 ^ E * f.unit) + t ∧ t < 2 ^ E * f.unit ∧ n < 2 ^ (f.mant + 1) ∧ (E = 0 ∨ 2 ^ f.mant ≤ n)
      ∧ deliverFloat f mode sat d (.fin neg m e false) =
        if f.maxCode < E * 2 ^ f.mant + (n + b2n (roundsUp mode neg n t (2 ^ E * f.unit) d)) then (overflowCode f mode sat neg, flOF ||| flNX)
        else (withSign f neg (E * 2 ^ f.mant + (n + b2n (roundsUp mode neg n t (2 ^ E * f.unit) d))), roundFlags (decide (t ≠ 0)) tiny nonzero) := by
  obtain ⟨E, n, t, hq, hR, ht, hn, hE⟩ := exists_significand h hm he
  have hsmall := h.smallest
  have hQ := unit_mul_pow h E
  have hpos : 0 < 2 ^ E * f.unit := Nat.pos_of_ne_zero (by omega)
  have hround : roundMag mode neg m e false (1 - (f.bias : Int) - f.mant + E) d =
      (n + b2n (roundsUp mode neg n t (2 ^ E * f.unit) d), decide (t ≠ 0)) := by
    rw [roundMag_eq (k := 640) he (by omega), hQ, show ((640 : Nat) : Int) = 640 from rfl, hR, Nat.mul_add_mod_of_lt ht,
      Nat.add_comm (n * _), Nat.add_mul_div_right _ _ hpos, Nat.div_eq_of_lt ht, Nat.zero_add]
  generalize hup : roundsUp mode neg n t (2 ^ E * f.unit) d = up at hround ⊢
  have hN : n + b2n up ≤ 2 ^ (f.mant + 1) := by
    cases up <;> simp [b2n] <;> omega
  have hE' : E = 0 ∨ 2 ^ f.mant ≤ n + b2n up := hE.imp_right fun h => Nat.le_trans h (Nat.le_add_right ..)
  refine ⟨E, n, t, magLt (roundMag mode neg m e false (topExp m e - f.mant) d).1 (topExp m e - f.mant) 1 (1 - (f.bias : Int)),
    (roundMag mode neg m e false (topExp m e - f.mant) d).1 != 0, hR, ht, hn, hE, ?_⟩
  have hsign : ¬ (neg = true ∧ f.signed = false) := fun ⟨h1, h2⟩ => nomatch (hneg h1).symm.trans h2
  rw [hup]
  simp only [deliverFloat, hm, false_and, if_false, if_neg hsign, hq, hround]
  rw [ite_congr (propext (overflows_iff h rfl hN hE')) (fun _ => rfl) (fun _ => rfl), packed_code rfl hN hE']
  rfl

/-- The neighbours of a magnitude within the range of a floating format. -/
theorem neighbours_float {ef : Nat} (h : floatFmt ef = some f) {neg : Bool} (hneg : neg = true → f.signed = true) {E n : Nat}
    (hn : n < 2 ^ (f.mant + 1)) (hE : E = 0 ∨ 2 ^ f.mant ≤ n) (hle : E * 2 ^ f.mant + n ≤ f.maxCode) :
    Neighbours ef neg n (2 ^ E * f.unit) := by
  have hlow : gridPos f.mant (E * 2 ^ f.mant + n) * f.unit = n * (2 ^ E * f.unit) := by rw [gridPos_add hn hE, Nat.mul_assoc]
  have hhigh : gridPos f.mant (E * 2 ^ f.mant + n + 1) * f.unit = (n + 1) * (2 ^ E * f.unit) := by
    rw [Nat.add_assoc, gridPos_add_le hn (hE.imp_right fun h => Nat.le_trans h (Nat.le_succ n)), Nat.mul_assoc]
  refine ⟨fun z w hz => ?_, ⟨_, hlow ▸ formatVal_withSign h hneg hle⟩, ?_⟩
  · obtain ⟨-, rfl⟩ := formatVal_float_inv h hz
    rw [natAbs_signed, ← hlow, ← hhigh]
    rcases Nat.lt_or_ge (E * 2 ^ f.mant + n) (f.magOf z) with hlt | hge
    · exact .inr (Nat.mul_le_mul_right _ (gridPos_le_iff.mpr hlt))
    · exact .inl (Nat.mul_le_mul_right _ (gridPos_le_iff.mpr hge))
  · rintro ⟨z, w, hz, -, hlt⟩
    obtain ⟨hmax, rfl⟩ := formatVal_float_inv h hz
    rw [natAbs_signed, ← hlow, Nat.mul_lt_mul_right f.unit_pos, gridPos_lt_iff] at hlt
    exact ⟨_, hhigh ▸ formatVal_withSign h hneg (Nat.le_trans hlt hmax)⟩

/-- A finite value does not lie beyond the largest code. -/
theorem natAbs_formatVal_le {ef : Nat} (h : floatFmt ef = some f) {z : Nat} {w : Int} (hw : formatVal ef z = some w) :
    w.natAbs ≤ gridPos f.mant f.maxCode * f.unit := by
  obtain ⟨hmax, rfl⟩ := formatVal_float_inv h hw
  rw [natAbs_signed]
  exact Nat.mul_le_mul_right _ (gridPos_le_iff.mpr hmax)

theorem overflowCode_lt (h : f.Ok) (mode : Mode) (sat neg : Bool) : overflowCode f mode sat neg < 2 ^ f.bits := by
  unfold overflowCode
  split
  · exact withSign_lt h neg h.fits
  · split
    next hinf =>
      have hcase : ∀ toInf : Bool, (if toInf = true then f.maxCode + 1 else f.maxCode) < 2 ^ f.magBits := fun toInf => by
        cases toInf
        · exact h.fits
        · exact h.infFits hinf
      exact withSign_lt h neg (hcase _)
    · split
      next hnan => exact h.nanFits _ hnan
      next => exact withSign_lt h neg h.fits

/-- What a nonzero magnitude is delivered as: right within the range, the largest code beyond it with SAT = 1. -/
theorem deliverFloat_spec {ef : Nat} (h : floatFmt ef = some f) {m : Nat} (hm : m ≠ 0) {e : Int} (he : -640 ≤ e) {neg : Bool}
    (hneg : neg = true → f.signed = true) (mode : Mode) (sat : Bool) (d : Nat) :
    (deliverFloat f mode sat d (.fin neg m e false)).1 < 2 ^ f.bits
    ∧ (m * 2 ^ (e + 640).toNat ≤ gridPos f.mant f.maxCode * f.unit →
        RoundedRight ef mode d (signed neg (m * 2 ^ (e + 640).toNat)) (deliverFloat f mode sat d (.fin neg m e false)))
    ∧ (gridPos f.mant f.maxCode * f.unit < m * 2 ^ (e + 640).toNat → sat = true →
        (deliverFloat f mode sat d (.fin neg m e false)).2 &&& 19 = 16
        ∧ formatVal ef (deliverFloat f mode sat d (.fin neg m e false)).1 = some (signed neg (gridPos f.mant f.maxCode * f.unit))) := by
  have hok := floatFmt_ok h
  obtain ⟨E, n, t, tiny, nonzero, hR, ht, hn, hE, heq⟩ := deliverFloat_eq hok hm he hneg mode sat d
  rw [heq, hR]
  clear heq hR
  generalize hup : roundsUp mode neg n t (2 ^ E * f.unit) d = up
  have hN : n + b2n up ≤ 2 ^ (f.mant + 1) := by
    cases up <;> simp [b2n] <;> omega
  have hE' : E = 0 ∨ 2 ^ f.mant ≤ n + b2n up := hE.imp_right fun h => Nat.le_trans h (Nat.le_add_right ..)
  have hlow : gridPos f.mant (E * 2 ^ f.mant + n) * f.unit = n * (2 ^ E * f.unit) := by rw [gridPos_add hn hE, Nat.mul_assoc]
  have hhigh : gridPos f.mant (E * 2 ^ f.mant + n + 1) * f.unit = n * (2 ^ E * f.unit) + 2 ^ E * f.unit := by
    rw [Nat.add_assoc, gridPos_add_le hn (hE.imp_right fun h => Nat.le_trans h (Nat.le_succ n)), Nat.mul_assoc, Nat.succ_mul]
  have hout : gridPos f.mant (E * 2 ^ f.mant + (n + b2n up)) * f.unit = (n + b2n up) * (2 ^ E * f.unit) := by
    rw [gridPos_add_le hN hE', Nat.mul_assoc]
  refine ⟨?_, fun hle => ?_, fun hgt hsat => ?_⟩
  · split
    · exact overflowCode_lt hok ..
    next hfit => exact withSign_lt hok neg (Nat.lt_of_le_of_lt (Nat.not_lt.mp hfit) hok.fits)
  · have hfit : E * 2 ^ f.mant + (n + b2n up) ≤ f.maxCode := by
      cases up with
      | false =>
        have hle' : gridPos f.mant (E * 2 ^ f.mant + n) ≤ gridPos f.mant f.maxCode := Nat.le_of_mul_le_mul_right (by omega) f.unit_pos
        exact gridPos_le_iff.mp hle'
      | true =>
        have h0 := roundsUp_pos hup
        have hlt : gridPos f.mant (E * 2 ^ f.mant + n) < gridPos f.mant f.maxCode :=
          Nat.lt_of_mul_lt_mul_right (a := f.unit) (by omega)
        exact gridPos_lt_iff.mp hlt
    rw [if_neg (Nat.not_lt.mpr hfit)]
    apply roundedRight_of_neighbours (neighbours_float h hneg hn hE (Nat.le_trans (by omega) hfit)) ht
    · rw [hup, ← hout]
      exact formatVal_withSign h hneg hfit
    · rw [hup, withSign_mod_two hok, Nat.add_mod, Nat.mod_eq_zero_of_dvd (Nat.dvd_mul_left_of_dvd (Nat.pow_dvd_pow (m := 1) 2 hok.mant) E), Nat.zero_add, Nat.mod_mod]
    · rintro rfl
      exact roundFlags_exact ..
    · intro h0
      rw [decide_eq_true h0]
      exact roundFlags_inexact ..
  · subst hsat
    have hge : f.maxCode ≤ E * 2 ^ f.mant + n :=
      Nat.le_of_lt_succ (gridPos_lt_iff.mp (Nat.lt_of_mul_lt_mul_right (a := f.unit) (by rw [Nat.succ_eq_add_one, hhigh]; omega)))
    by_cases hover : f.maxCode < E * 2 ^ f.mant + (n + b2n up)
    · rw [if_pos hover]
      exact ⟨overflowFlags, formatVal_withSign h hneg (Nat.le_refl _)⟩
    · rw [if_neg hover]
      have hmax : E * 2 ^ f.mant + n = f.maxCode ∧ b2n up = 0 := by omega
      have h0 : t ≠ 0 := by
        rintro rfl
        rw [← hmax.1, hlow] at hgt
        omega
      refine ⟨?_, ?_⟩
      · rw [decide_eq_true h0]
        exact roundFlags_inexact_tiny ..
      · rw [hmax.2, Nat.add_zero, hmax.1]
        exact formatVal_withSign h hneg (Nat.le_refl _)

/-- An exact value is delivered in a floating format as R84, R90 and R252 say. -/
theorem deliver_float_deliveredAs {ef : Nat} (h : floatFmt ef = some f) (mode : Mode) (sat : Bool) (draw : Nat) {x : Num} {r : Int}
    (hx : Exact 640 x r) : deliveredAs ef mode sat draw r (deliver ef mode sat draw x) := by
  obtain ⟨neg, m, e, rfl, he, rfl⟩ := hx
  by_cases hunsigned : ef = 18 → 0 ≤ signed neg (m * 2 ^ (e + (640 : Nat)).toNat)
  case neg => exact fun _ _ _ h => absurd h hunsigned
  have hok := floatFmt_ok h
  obtain ⟨hint, hhalf⟩ := floatFmt_kind h
  have hdeliver : deliver ef mode sat draw (.fin neg m e false) = deliverFloat f mode sat draw (.fin neg m e false) := by
    simp only [deliver, hint, hhalf, h, Bool.false_eq_true, if_false]
  rw [hdeliver]
  have hzero : ∀ neg, formatVal ef (withSign f neg 0) = some 0 := fun neg => by
    have hmag : f.magOf (withSign f neg 0) = 0 := magOf_withSign neg (Nat.two_pow_pos _)
    rw [formatVal_float h (by rw [hmag]; exact Nat.zero_le _), hmag, gridPos, Nat.zero_sub, Nat.zero_mul, Nat.zero_mul, signed_zero]
  by_cases hm : m = 0
  · have hout : deliverFloat f mode sat draw (.fin neg m e false) = (withSign f neg 0, 0) := if_pos ⟨hm, rfl⟩
    rw [hout, hm, Nat.zero_mul, signed_zero]
    refine deliveredAs_of ?_ (fun _ _ => roundedRight_exact (hzero neg)) (fun h => absurd (h _ _ (hzero neg)) (Int.lt_irrefl 0))
      (fun h => absurd (h _ _ (hzero neg)) (Int.lt_irrefl 0))
    rw [← floatFmt_bits h]
    exact withSign_lt hok neg (Nat.two_pow_pos _)
  have hneg : neg = true → f.signed = true := by
    rintro rfl
    refine floatFmt_signed h fun hef => ?_
    have hR : 0 < m * 2 ^ (e + (640 : Nat)).toNat := Nat.mul_pos (Nat.pos_of_ne_zero hm) (Nat.two_pow_pos _)
    have := hunsigned hef
    rw [signed_true] at this
    omega
  obtain ⟨hlt, hin, hbeyond⟩ := deliverFloat_spec h hm he hneg mode sat draw
  have hbound := fun z w (hz : formatVal ef z = some w) => natAbs_formatVal_le h hz
  rw [floatFmt_bits h] at hlt
  generalize deliverFloat f mode sat draw (.fin neg m e false) = out at *
  change gridPos f.mant f.maxCode * f.unit < m * 2 ^ (e + (640 : Nat)).toNat → _ at hbeyond
  change m * 2 ^ (e + (640 : Nat)).toNat ≤ gridPos f.mant f.maxCode * f.unit → RoundedRight ef mode draw (signed neg (m * 2 ^ (e + (640 : Nat)).toNat)) _ at hin
  have htop := fun h' => formatVal_withSign h (neg := neg) (mag := f.maxCode) h' (Nat.le_refl _)
  generalize m * 2 ^ (e + (640 : Nat)).toNat = R at *
  generalize gridPos f.mant f.maxCode * f.unit = max at *
  refine deliveredAs_of hlt ?_ ?_ ?_
  · rintro ⟨z, w, hz, hle⟩ ⟨z', w', hz', hle'⟩
    have h1 := hbound z w hz
    have h2 := hbound z' w' hz'
    refine hin ?_
    cases neg <;> simp at hle hle' <;> omega
  · intro habove hsat
    have h0 := habove _ _ (hzero false)
    have h1 := habove _ _ (htop hneg)
    cases neg with
    | true =>
      rw [signed_true] at h0
      omega
    | false =>
      rw [signed_false] at h1
      obtain ⟨hfl, hval⟩ := hbeyond (by simpa using h1) hsat
      exact ⟨hfl, _, hval, fun z w hz => by have := hbound z w hz; rw [signed_false]; omega⟩
  · intro hbelow hsat
    have h0 := hbelow _ _ (hzero false)
    have h1 := hbelow _ _ (htop hneg)
    cases neg with
    | false =>
      rw [signed_false] at h0
      omega
    | true =>
      rw [signed_true, signed_true] at h1
      obtain ⟨hfl, hval⟩ := hbeyond (by omega) hsat
      exact ⟨hfl, _, hval, fun z w hz => by have := hbound z w hz; rw [signed_true]; omega⟩

end FloatFormat

/-- An exact value is delivered as R84, R90 and R252 say (R252). -/
theorem Exact.deliveredAs {x : Num} {r : Int} (hx : Exact 640 x r) (ef : Nat) (mode : Mode) (sat : Bool) (draw : Nat) :
    deliveredAs ef mode sat draw r (deliver ef mode sat draw x) := by
  intro h18 h10 h11
  rcases format_kinds h18 h10 h11 with hint | ⟨f, hf⟩
  · exact deliver_int_deliveredAs hint mode sat draw hx h18 h10 h11
  · exact deliver_float_deliveredAs hf mode sat draw hx h18 h10 h11

end Sys2Proof.Machine
end

section
/-! Elements of exact values: what the arithmetic, the conversions and the comparisons of spec/11 give (R255, R256, R258, R262, R265, R266). -/
namespace Sys2Proof.Machine

/-! ### Codes that are delivered unchanged -/

theorem formatVal_eq_some {ef z : Nat} {v : Int} : formatVal ef z = some (v * 2 ^ 320) ↔ scaledCode ef z = some v := by
  rw [formatVal, Option.map_eq_some_iff]
  constructor
  · rintro ⟨w, hw, heq⟩
    rwa [Int.eq_of_mul_eq_mul_right (Int.pow_ne_zero (by decide)) heq] at hw
  · exact fun h => ⟨v, h, rfl⟩

theorem formatVal_nonneg {z : Nat} {v : Int} (h : formatVal 18 z = some v) : 0 ≤ v := by
  obtain ⟨-, rfl⟩ := formatVal_float_inv (f := ⟨8, 5, 4, 0xFE, false, false, some 0xFF⟩) rfl h
  exact Int.natCast_nonneg _

/-- A value of a format is delivered in it as itself. -/
theorem Exact.deliver_of_code {x : Num} {v : Int} (hx : Exact 320 x v) {ef z : Nat} (h18 : ef ≤ 18) (h10 : ef ≠ 10) (h11 : ef ≠ 11)
    (hz : scaledCode ef z = some v) (sat : Bool) (draw : Nat) :
    ∃ c, deliver ef .rne sat draw x = (c, 0) ∧ scaledCode ef c = some v := by
  have hval := formatVal_eq_some.mpr hz
  have hpos : ef = 18 → 0 ≤ v * 2 ^ 320 := by
    rintro rfl
    exact formatVal_nonneg hval
  obtain ⟨-, hin, -, -⟩ := (hx.scale 320).deliveredAs ef .rne sat draw h18 h10 h11 hpos
  obtain ⟨⟨w, hw, hnear⟩, -, hexact, hflags⟩ := hin (fun h => absurd (h z _ hval) (Int.lt_irrefl _)) (fun h => absurd (h z _ hval) (Int.lt_irrefl _))
  have heq : w = v * 2 ^ 320 := by
    have := (hnear z _ hval).1
    rw [Int.sub_self, Int.natAbs_zero, Nat.le_zero, Int.natAbs_eq_zero] at this
    exact Int.sub_eq_zero.mp this
  have hout := heq ▸ hw
  exact ⟨_, Prod.ext rfl (hflags (hexact.mpr hout)), formatVal_eq_some.mp hout⟩

/-! ### The half-step grids -/

section HalfGrid
variable {ef : Nat}

theorem valueOf_half (hef : ef = 10 ∨ ef = 11) (z : Nat) : valueOf ef z =
    .fin (2 * signedNat z (efBits ef) + 1 < 0) (2 * signedNat z (efBits ef) + 1).natAbs (-1) false := by
  rcases hef with rfl | rfl <;> rfl

theorem efBits_half (hef : ef = 10 ∨ ef = 11) : 2 ≤ efBits ef := by
  rcases hef with rfl | rfl <;> decide

theorem signedNat_bounds {w : Nat} (hw : 0 < w) (z : Nat) : -(2 ^ (w - 1)) ≤ signedNat z w ∧ signedNat z w ≤ 2 ^ (w - 1) - 1 := by
  rw [signedNat_eq_toInt z hw]
  exact ⟨BitVec.le_toInt _, Int.le_sub_one_of_lt BitVec.toInt_lt⟩

theorem signedNat_lowBits_signedNat {w : Nat} (hw : 0 < w) (z : Nat) : signedNat (lowBits (signedNat z w) w) w = signedNat z w := by
  rw [signedNat_eq_toInt _ hw, lowBits_eq, BitVec.ofNat_toNat, BitVec.setWidth_eq, signedNat_eq_toInt z hw, BitVec.ofInt_toInt]

theorem deliverHalf_of_odd {w : Nat} {n : Int} (hlo : -(2 ^ (w - 1)) ≤ n) (hhi : n ≤ 2 ^ (w - 1) - 1) (mode : Mode) (d : Nat) :
    deliverHalf w mode d (.fin (2 * n + 1 < 0) (2 * n + 1).natAbs (-1) false) = (lowBits n w, 0) := by
  have hs := signed_natAbs (2 * n + 1)
  rw [signed] at hs
  have hnum : 2 * n + 1 - ((2 ^ (1 - 1) : Nat) : Int) = 2 * n := by simp
  have hdiv : 2 * n / ((2 ^ 1 : Nat) : Int) = n := by simp
  have hmod : (2 * n % ((2 ^ 1 : Nat) : Int)).toNat = 0 := by simp
  simp only [deliverHalf, show (-1 : Int) < 0 by decide, show Int.natAbs (-1) = 1 from rfl, if_true, hs, hnum, hdiv, hmod,
    if_neg (Int.not_lt.mpr hlo), if_neg (Int.not_lt.mpr hhi)]

/-- A value of a half-step grid is delivered in it as itself. -/
theorem deliver_half_of_code (hef : ef = 10 ∨ ef = 11) (mode : Mode) (sat : Bool) (draw z : Nat) :
    ∃ c, deliver ef mode sat draw (valueOf ef z) = (c, 0) ∧ valueOf ef c = valueOf ef z := by
  have hw : 0 < efBits ef := Nat.lt_of_lt_of_le (by decide) (efBits_half hef)
  obtain ⟨hlo, hhi⟩ := signedNat_bounds hw z
  have hint : efInt ef = false := by
    rcases hef with rfl | rfl <;> rfl
  refine ⟨lowBits (signedNat z (efBits ef)) (efBits ef), ?_, ?_⟩
  · rw [valueOf_half hef, deliver, if_neg (by rw [hint]; decide), if_pos hef]
    exact deliverHalf_of_odd hlo hhi mode draw
  · rw [valueOf_half hef, valueOf_half hef, signedNat_lowBits_signedNat hw]

end HalfGrid

/-- The code of a value is that of the same value again. -/
theorem encodeNum_valueOf {ef z : Nat} {v : Int} (h18 : ef ≤ 18) (hz : scaledCode ef z = some v) : scaledCode ef (encodeNum ef (valueOf ef z)) = some v := by
  by_cases hhalf : ef = 10 ∨ ef = 11
  · obtain ⟨c, hc, hval⟩ := deliver_half_of_code hhalf .rne false 0 z
    rw [encodeNum, hc, scaledCode, hval]
    exact hz
  · obtain ⟨c, hc, hval⟩ := (scaledNum_eq_some.mp hz).deliver_of_code h18 (fun h => hhalf (.inl h)) (fun h => hhalf (.inr h)) hz false 0
    rwa [encodeNum, hc]

/-! ### Comparisons -/

section Operands
variable {x : ElemCtx} {a b c : Nat} {va vb vc : Int}

theorem compareCodes_exact {ef : Nat} (ha : scaledCode ef a = some va) (hb : scaledCode ef b = some vb) :
    ∀ p ∈ [(0, decide (va = vb)), (1, decide (va ≠ vb)), (2, decide (va < vb)), (3, decide (va ≤ vb)), (4, decide (vb < va)),
      (5, decide (vb ≤ va)), (6, false), (7, true)], compareCodes ef p.1 a b = (p.2, 0) := by
  have hea := scaledNum_eq_some.mp ha
  have heb := scaledNum_eq_some.mp hb
  have heq : eqNum (valueOf ef a) (valueOf ef b) = decide (va = vb) := Bool.eq_iff_iff.mpr ((hea.eqNum_iff heb).trans decide_eq_true_iff.symm)
  have hlt : ltNum (valueOf ef a) (valueOf ef b) = decide (va < vb) := Bool.eq_iff_iff.mpr ((hea.ltNum_iff heb).trans decide_eq_true_iff.symm)
  have hgt : ltNum (valueOf ef b) (valueOf ef a) = decide (vb < va) := Bool.eq_iff_iff.mpr ((heb.ltNum_iff hea).trans decide_eq_true_iff.symm)
  have hun : (isNan (valueOf ef a) || isNan (valueOf ef b)) = false := by rw [hea.not_nan, heb.not_nan]; rfl
  simp only [List.forall_mem_cons, List.not_mem_nil, compareCodes, heq, hlt, hgt, hun, Bool.false_eq_true, if_false, false_implies,
    implies_true, ← decide_not, Int.not_lt, Bool.not_false, ne_eq, and_self]

/-- The smaller and the larger of two values are values of the format (R256). -/
theorem opMin_exact (h18 : x.ef ≤ 18) (ha : scaledCode x.ef a = some va) (hb : scaledCode x.ef b = some vb) :
    ∃ r, opMin x a b = (r, 0) ∧ scaledCode x.ef r = some (min va vb) := by
  refine ⟨_, rfl, ?_⟩
  rcases (scaledNum_eq_some.mp ha).minNum (scaledNum_eq_some.mp hb) with ⟨heq, hle⟩ | ⟨heq, hle⟩
  · rw [ElemCtx.val, ElemCtx.val, heq, Int.min_eq_left hle]
    exact encodeNum_valueOf h18 ha
  · rw [ElemCtx.val, ElemCtx.val, heq, Int.min_eq_right hle]
    exact encodeNum_valueOf h18 hb

theorem opMax_exact (h18 : x.ef ≤ 18) (ha : scaledCode x.ef a = some va) (hb : scaledCode x.ef b = some vb) :
    ∃ r, opMax x a b = (r, 0) ∧ scaledCode x.ef r = some (max va vb) := by
  refine ⟨_, rfl, ?_⟩
  rcases (scaledNum_eq_some.mp ha).maxNum (scaledNum_eq_some.mp hb) with ⟨heq, hle⟩ | ⟨heq, hle⟩
  · rw [ElemCtx.val, ElemCtx.val, heq, Int.max_eq_left hle]
    exact encodeNum_valueOf h18 ha
  · rw [ElemCtx.val, ElemCtx.val, heq, Int.max_eq_right hle]
    exact encodeNum_valueOf h18 hb

/-! ### Arithmetic -/

theorem give_eq (x : ElemCtx) (r : Num × Fl) :
    x.give r = ((deliver x.ef x.mode x.sat x.draw r.1).1, r.2 ||| (deliver x.ef x.mode x.sat x.draw r.1).2) := rfl

theorem give_of_noFlags (x : ElemCtx) {r : Num × Fl} (h : r.2 = 0) : x.give r = deliver x.ef x.mode x.sat x.draw r.1 := by
  rw [give_eq, h]
  exact Prod.ext rfl BitVec.zero_or

/-- A result that is exact and raises no flag of its own is delivered. -/
theorem give_deliveredAs (x : ElemCtx) {r : Num × Fl} {v : Int} (h : r.2 = 0 ∧ Exact 640 r.1 v) :
    deliveredAs x.ef x.mode x.sat x.draw v (x.give r) := by
  obtain ⟨hflags, hexact⟩ := h
  rw [give_of_noFlags x hflags]
  exact hexact.deliveredAs _ _ _ _

theorem addNum_exact (mode : Mode) {p q : Num} {u v : Int} (hp : Exact 320 p u) (hq : Exact 320 q v) :
    (addNum mode p q).2 = 0 ∧ Exact 640 (addNum mode p q).1 ((u + v) * 2 ^ 320) :=
  ⟨(hp.add mode hq).1, (hp.add mode hq).2.scale 320⟩

theorem mulNum_exact {p q : Num} {u v : Int} (hp : Exact 320 p u) (hq : Exact 320 q v) :
    (mulNum p q).2 = 0 ∧ Exact 640 (mulNum p q).1 (u * v) := hp.mul hq

theorem fmaNum_exact (mode : Mode) {p q r : Num} {u v w : Int} (hp : Exact 320 p u) (hq : Exact 320 q v) (hr : Exact 320 r w) :
    (fmaNum mode p q r).2 = 0 ∧ Exact 640 (fmaNum mode p q r).1 (u * v + w * 2 ^ 320) := hp.fma mode hq (hr.scale 320)

theorem avgNum_exact (mode : Mode) {p q : Num} {u v : Int} (hp : Exact 320 p u) (hq : Exact 320 q v) :
    (addNum mode p q).2 = 0 ∧ Exact 640 (halfNum (addNum mode p q).1) ((u + v) * 2 ^ 319) :=
  ⟨(hp.add mode hq).1, (hp.add mode hq).2.half.scale 319⟩

theorem arithmetic_deliveredAs (f : BX) (i : Nat) (ha : scaledCode x.ef a = some va) (hb : scaledCode x.ef b = some vb) (hc : scaledCode x.ef c = some vc) :
    ∀ p ∈ [(Instr.vadd f, (va + vb) * 2 ^ 320), (.vsub f, (va - vb) * 2 ^ 320), (.vmul f, va * vb), (.vfma f, va * vb + vc * 2 ^ 320),
        (.vfms f, va * vb - vc * 2 ^ 320), (.vfnma f, vc * 2 ^ 320 - va * vb), (.vavg f, (va + vb) * 2 ^ 319)],
      ∃ out, elementResult p.1 f x i a b c = some out ∧ deliveredAs x.ef x.mode x.sat x.draw p.2 out := by
  rw [scaledCode, scaledNum_eq_some] at ha hb hc
  simp only [List.forall_mem_cons, List.not_mem_nil, false_implies, implies_true, and_true]
  refine ⟨⟨_, rfl, give_deliveredAs x (addNum_exact _ ha hb)⟩, ⟨_, rfl, ?_⟩, ⟨_, rfl, give_deliveredAs x (mulNum_exact ha hb)⟩,
    ⟨_, rfl, give_deliveredAs x (fmaNum_exact _ ha hb hc)⟩, ⟨_, rfl, ?_⟩, ⟨_, rfl, ?_⟩, ⟨_, rfl, give_deliveredAs x (avgNum_exact _ ha hb)⟩⟩
  · rw [Int.sub_eq_add_neg]
    exact give_deliveredAs x (addNum_exact _ ha hb.neg)
  · rw [Int.sub_eq_add_neg, ← Int.neg_mul]
    exact give_deliveredAs x (fmaNum_exact _ ha hb hc.neg)
  · rw [Int.sub_eq_add_neg, Int.add_comm, ← Int.neg_mul]
    exact give_deliveredAs x (fmaNum_exact _ ha.neg hb hc)

theorem conversion_deliveredAs (f : BX) (i : Nat) (ha : scaledCode x.ef a = some va) :
    ∀ p ∈ [(Instr.vcvtn f, f.b.toNat), (.vcvtw f, f.b.toNat), (.vcvti f, f.fn.toNat)],
      ∃ out, elementResult p.1 f x i a b c = some out ∧ deliveredAs p.2 x.mode x.sat x.draw (va * 2 ^ 320) out := by
  rw [scaledCode, scaledNum_eq_some] at ha
  have hexact : Exact 640 (x.val a) (va * 2 ^ 320) := ha.scale 320
  simp only [List.forall_mem_cons, List.not_mem_nil, false_implies, implies_true, and_true]
  exact ⟨⟨_, rfl, hexact.deliveredAs _ _ _ _⟩, ⟨_, rfl, hexact.deliveredAs _ _ _ _⟩, ⟨_, rfl, hexact.deliveredAs _ _ _ _⟩⟩

end Operands

/-! ### NaN and infinities (R89, R262) -/

section Special
variable {x : ElemCtx} {nan : Nat}

/-- The formats with a NaN, and its canonical code. -/
theorem deliver_nan (h : (x.ef, nan) ∈ [(12, 0x7E00), (13, 0x7FC0), (14, 0x7FC00000), (15, 0x7F), (16, 0x7E), (18, 0xFF)])
    (mode : Mode) (sat : Bool) (draw : Nat) : deliver x.ef mode sat draw .nan = (nan, 0) := by
  simp only [List.mem_cons, List.not_mem_nil, or_false, Prod.mk.injEq] at h
  rcases h with ⟨hef, rfl⟩ | ⟨hef, rfl⟩ | ⟨hef, rfl⟩ | ⟨hef, rfl⟩ | ⟨hef, rfl⟩ | ⟨hef, rfl⟩ <;> rw [hef] <;> rfl

theorem addNum_nan (mode : Mode) {p q : Num} (h : p = .nan ∨ q = .nan) : addNum mode p q = (.nan, 0) := by
  rcases h with rfl | rfl
  · rfl
  · cases p <;> rfl

theorem mulNum_nan {p q : Num} (h : p = .nan ∨ q = .nan) : mulNum p q = (.nan, 0) := by
  rcases h with rfl | rfl
  · rfl
  · cases p <;> rfl

theorem compareCodes_nan {ef a b : Nat} (h : valueOf ef a = .nan ∨ valueOf ef b = .nan) :
    ∀ p ∈ [(0, false, (0 : Fl)), (1, true, 0), (2, false, 1), (3, false, 1), (4, false, 1), (5, false, 1), (6, true, 0), (7, false, 0)],
      compareCodes ef p.1 a b = p.2 := by
  have hun : (isNan (valueOf ef a) || isNan (valueOf ef b)) = true := by
    rcases h with h | h <;> rw [h] <;> simp [isNan]
  have heq : eqNum (valueOf ef a) (valueOf ef b) = false := by
    rcases h with h | h <;> rw [eqNum, h] <;> simp [isNan]
  simp only [List.forall_mem_cons, List.not_mem_nil, compareCodes, hun, heq, if_true, false_implies, implies_true, Bool.not_false,
    Bool.not_true, flNV, and_self]

theorem give_nan (h : (x.ef, nan) ∈ [(12, 0x7E00), (13, 0x7FC0), (14, 0x7FC00000), (15, 0x7F), (16, 0x7E), (18, 0xFF)]) (fl : Fl) :
    x.give (.nan, fl) = (nan, fl) := by
  rw [give_eq, deliver_nan h]
  exact Prod.ext rfl BitVec.or_zero

theorem Exact.isZero_of_zero {k : Nat} {p : Num} (h : Exact k p 0) : isZero p = true := by
  obtain ⟨neg, m, e, rfl, -, hv⟩ := h
  have habs := congrArg Int.natAbs hv
  rw [natAbs_signed, Int.natAbs_zero] at habs
  have hm : m = 0 := by
    rcases Nat.mul_eq_zero.mp habs.symm with h | h
    · exact h
    · exact absurd h (Nat.ne_of_gt (Nat.two_pow_pos _))
  rw [hm]
  rfl

theorem arithmetic_nan (h : (x.ef, nan) ∈ [(12, 0x7E00), (13, 0x7FC0), (14, 0x7FC00000), (15, 0x7F), (16, 0x7E), (18, 0xFF)]) (f : BX)
    (i : Nat) {a b : Nat} (c : Nat) (hab : valueOf x.ef a = .nan ∨ valueOf x.ef b = .nan) :
    ∀ ins ∈ [Instr.vadd f, .vsub f, .vmul f], elementResult ins f x i a b c = some (nan, 0) := by
  have hval : x.val a = .nan ∨ x.val b = .nan := hab
  have hneg : x.val a = .nan ∨ negNum (x.val b) = .nan := hab.imp_right fun hb => by rw [ElemCtx.val, hb]; rfl
  have hadd : opAdd x a b = (nan, 0) := by rw [opAdd, addNum_nan _ hval, give_nan h]
  have hsub : opSub x a b = (nan, 0) := by rw [opSub, addNum_nan _ hneg, give_nan h]
  have hmul : opMul x a b = (nan, 0) := by rw [opMul, mulNum_nan hval, give_nan h]
  simp only [List.forall_mem_cons, List.not_mem_nil, false_implies, implies_true, and_true, elementResult, hadd, hsub, hmul]

theorem addNum_inf (mode : Mode) (n : Bool) : addNum mode (.inf n) (.inf !n) = (.nan, flNV) := by cases n <;> rfl

theorem mulNum_inf_zero (n : Bool) {q : Num} (h : isZero q = true) : mulNum (.inf n) q = (.nan, flNV) := by
  cases q with
  | fin neg m e st => exact if_pos h
  | nan => cases h
  | inf neg => cases h

theorem arithmetic_inf (h : (x.ef, nan) ∈ [(12, 0x7E00), (13, 0x7FC0), (14, 0x7FC00000), (15, 0x7F), (16, 0x7E), (18, 0xFF)]) (f : BX)
    (i : Nat) {a b : Nat} (c : Nat) {n : Bool} (ha : valueOf x.ef a = .inf n) :
    (valueOf x.ef b = .inf !n → elementResult (.vadd f) f x i a b c = some (nan, 1))
    ∧ (scaledCode x.ef b = some 0 → elementResult (.vmul f) f x i a b c = some (nan, 1)) := by
  refine ⟨fun hb => ?_, fun hb => ?_⟩
  · change some (opAdd x a b) = _
    rw [opAdd, ElemCtx.val, ElemCtx.val, ha, hb, addNum_inf, give_nan h]
    rfl
  · change some (opMul x a b) = _
    rw [opMul, ElemCtx.val, ElemCtx.val, ha, mulNum_inf_zero n (scaledNum_eq_some.mp hb).isZero_of_zero, give_nan h]
    rfl

end Special

end Sys2Proof.Machine
end

section
/-! Integer elements as bit vectors (R255 to R257, R261, R274). -/
namespace Sys2Proof.Machine

/-! ### Integers are delivered whole -/

/-- An exact integer. -/
theorem exact_int (i : Int) : Exact 0 (numOfInt i) i := by
  have h := exact_numOfInt 0 i
  rwa [Int.pow_zero, Int.mul_one] at h

section Deliver
variable {ef : Nat} (hef : efInt ef = true)
include hef

/-- An integer is not rounded by an integer format. -/
theorem deliver_exact_int {p : Num} {i : Int} (hp : Exact 0 p i) (mode : Mode) (sat : Bool) (draw : Nat) :
    deliver ef mode sat draw p = deliverInt ef sat i false := by
  obtain ⟨neg, m, e, rfl, he, rfl⟩ := hp
  rw [deliver_int hef, roundMag_eq he (by omega)]
  have hunit : 2 ^ ((0 : Int) + (0 : Nat)).toNat = 1 := rfl
  rw [hunit, Nat.div_one, Nat.mod_one, roundsUp_exact]
  rfl

/-- The code of a value of the format is the bit vector of the value. -/
theorem ofInt_intOf {w : Nat} (hw : efBits ef = w) (a : BitVec w) : BitVec.ofInt w (intOf ef a.toNat) = a := by
  subst hw
  rw [intOf_eq hef, BitVec.ofNat_toNat, BitVec.setWidth_eq]
  split
  · exact BitVec.ofInt_toInt
  · rw [BitVec.ofInt_natCast, BitVec.ofNat_toNat, BitVec.setWidth_eq]

theorem intOf_toNat {w : Nat} (hw : efBits ef = w) (a : BitVec w) : intOf ef a.toNat = if efSigned ef = true then a.toInt else a.toNat := by
  subst hw
  rw [intOf_eq hef, BitVec.ofNat_toNat, BitVec.setWidth_eq]

end Deliver

section Elements
variable {x : ElemCtx} (hef : efInt x.ef = true) (a b : Nat)
include hef

theorem give_int {r : Num × Fl} {i : Int} (h : r.2 = 0 ∧ Exact 0 r.1 i) : x.give r = deliverInt x.ef x.sat i false := by
  rw [give_of_noFlags x h.1, deliver_exact_int hef h.2]

theorem val_int : Exact 0 (x.val a) (intOf x.ef a) := by
  rw [ElemCtx.val, valueOf_int hef]
  exact exact_int _

theorem opAdd_int : opAdd x a b = deliverInt x.ef x.sat (intOf x.ef a + intOf x.ef b) false :=
  give_int hef ((val_int hef a).add _ (val_int hef b))

theorem opSub_int : opSub x a b = deliverInt x.ef x.sat (intOf x.ef a - intOf x.ef b) false := by
  rw [Int.sub_eq_add_neg]
  exact give_int hef ((val_int hef a).add _ (val_int hef b).neg)

theorem opMul_int : opMul x a b = deliverInt x.ef x.sat (intOf x.ef a * intOf x.ef b) false :=
  give_int hef ((val_int hef a).mul (val_int hef b))

theorem opNeg_int : opNeg x a = deliverInt x.ef x.sat (-intOf x.ef a) false := if_pos hef

theorem opAbs_int : opAbs x a = deliverInt x.ef x.sat (intOf x.ef a).natAbs false := if_pos hef

theorem opDiv_int : opDiv x a b =
    if intOf x.ef b = 0 then (2 ^ x.bits - 1, flDZ) else deliverInt x.ef x.sat ((intOf x.ef a).tdiv (intOf x.ef b)) false := if_pos hef

theorem canonical_int : canonical x.ef a = a := by
  have hnone : floatFmt x.ef = none := by
    cases hf : floatFmt x.ef with
    | none => rfl
    | some f => exact nomatch hef.symm.trans (floatFmt_kind hf).1
  rw [canonical, hnone]

/-- The smaller of two codes is the code of the smaller value. -/
theorem opMin_int : opMin x a b = (lowBits (min (intOf x.ef a) (intOf x.ef b)) x.bits, 0) := by
  have henc : ∀ c, encodeNum x.ef (x.val c) = lowBits (intOf x.ef c) x.bits := fun c => by
    rw [encodeNum, deliver_exact_int hef (val_int hef c), deliverInt_wraps]
    rfl
  rcases (val_int hef a).minNum (val_int hef b) with ⟨heq, hle⟩ | ⟨heq, hle⟩
  · rw [opMin, heq, henc, Int.min_eq_left hle]
  · rw [opMin, heq, henc, Int.min_eq_right hle]

theorem opMax_int : opMax x a b = (lowBits (max (intOf x.ef a) (intOf x.ef b)) x.bits, 0) := by
  have henc : ∀ c, encodeNum x.ef (x.val c) = lowBits (intOf x.ef c) x.bits := fun c => by
    rw [encodeNum, deliver_exact_int hef (val_int hef c), deliverInt_wraps]
    rfl
  rcases (val_int hef a).maxNum (val_int hef b) with ⟨heq, hle⟩ | ⟨heq, hle⟩
  · rw [opMax, heq, henc, Int.max_eq_left hle]
  · rw [opMax, heq, henc, Int.max_eq_right hle]

end Elements

end Sys2Proof.Machine
end

section
/-! The operations on integer elements as those on bit vectors (R255 to R257, R261, R274). -/
namespace Sys2Proof.Machine

section Bits
variable {x : ElemCtx} {w : Nat} (hw : efBits x.ef = w) (hef : efInt x.ef = true)

/-! ### Arithmetic that wraps -/

section Wraps
variable (hsat : x.sat = false)

include hw hsat in
theorem deliverInt_bits (i : Int) : deliverInt x.ef x.sat i false = ((BitVec.ofInt w i).toNat, 0) := by
  rw [hsat, deliverInt_wraps, hw, lowBits_eq]
  rfl

include hw hef hsat
variable (a b : BitVec w)

theorem opAdd_bits : opAdd x a.toNat b.toNat = ((a + b).toNat, 0) := by
  rw [opAdd_int hef, deliverInt_bits hw hsat, BitVec.ofInt_add, ofInt_intOf hef hw, ofInt_intOf hef hw]

theorem opSub_bits : opSub x a.toNat b.toNat = ((a - b).toNat, 0) := by
  rw [opSub_int hef, deliverInt_bits hw hsat, Int.sub_eq_add_neg, BitVec.ofInt_add, BitVec.ofInt_neg, ofInt_intOf hef hw, ofInt_intOf hef hw,
    BitVec.sub_eq_add_neg]

theorem opMul_bits : opMul x a.toNat b.toNat = ((a * b).toNat, 0) := by
  rw [opMul_int hef, deliverInt_bits hw hsat, BitVec.ofInt_mul, ofInt_intOf hef hw, ofInt_intOf hef hw]

theorem opNeg_bits : opNeg x a.toNat = ((-a).toNat, 0) := by
  rw [opNeg_int hef, deliverInt_bits hw hsat, BitVec.ofInt_neg, ofInt_intOf hef hw]

theorem opIota_bits (i : Nat) : opIota x i a.toNat = ((a + BitVec.ofNat w i).toNat, 0) := by
  rw [opIota, deliverInt_bits hw hsat, BitVec.ofInt_add, ofInt_intOf hef hw, BitVec.ofInt_natCast]

theorem opAbs_bits : opAbs x a.toNat = ((if efSigned x.ef = true ∧ a.slt 0 then -a else a).toNat, 0) := by
  have hneg : intOf x.ef a.toNat < 0 ↔ efSigned x.ef = true ∧ a.slt 0 = true := by
    rw [intOf_toNat hef hw, BitVec.slt_iff_toInt_lt]
    by_cases hs : efSigned x.ef = true
    · simp [hs]
    · simp [hs]
  rw [opAbs_int hef, deliverInt_bits hw hsat]
  split
  next h =>
    have := hneg.mpr h
    rw [Int.ofNat_natAbs_of_nonpos (Int.le_of_lt this), BitVec.ofInt_neg, ofInt_intOf hef hw]
  next h =>
    have := mt hneg.mp h
    rw [Int.natAbs_of_nonneg (Int.not_lt.mp this), ofInt_intOf hef hw]

theorem opDiv_bits (hb : b ≠ 0) : opDiv x a.toNat b.toNat = ((if efSigned x.ef = true then a.sdiv b else a / b).toNat, 0) := by
  have hne : intOf x.ef b.toNat ≠ 0 := fun h0 => hb (by rw [← ofInt_intOf hef hw b, h0]; rfl)
  rw [opDiv_int hef, if_neg hne, deliverInt_bits hw hsat, intOf_toNat hef hw, intOf_toNat hef hw]
  by_cases hs : efSigned x.ef = true
  · rw [if_pos hs, if_pos hs, if_pos hs]
    congr 2
    exact BitVec.eq_of_toInt_eq (by rw [BitVec.toInt_ofInt, BitVec.toInt_sdiv])
  · rw [if_neg hs, if_neg hs, if_neg hs]
    congr 2
    change BitVec.ofInt w ((a.toNat / b.toNat : Nat) : Int) = _
    rw [BitVec.ofInt_natCast, ← BitVec.toNat_udiv, BitVec.ofNat_toNat, BitVec.setWidth_eq]

end Wraps

/-! ### Operations that do not deliver -/

section Exact
include hw hef
variable (a b : BitVec w)

theorem opDiv_zero : opDiv x a.toNat (0 : BitVec w).toNat = ((BitVec.allOnes w).toNat, flDZ) := by
  have h0 : intOf x.ef (0 : BitVec w).toNat = 0 := by
    rw [intOf_toNat hef hw]
    split <;> simp
  rw [opDiv_int hef, if_pos h0, BitVec.toNat_allOnes, ElemCtx.bits, hw]

theorem opMulh_bits : opMulh x a.toNat b.toNat =
    ((BitVec.ofInt w ((if efSigned x.ef = true then a.toInt * b.toInt else a.toNat * b.toNat) / 2 ^ w)).toNat, 0) := by
  rw [opMulh, intOf_toNat hef hw, intOf_toNat hef hw, ElemCtx.bits, hw, lowBits_eq]
  by_cases hs : efSigned x.ef = true
  · rw [if_pos hs, if_pos hs, if_pos hs, Int.natCast_pow, Int.cast_ofNat_Int]
  · rw [if_neg hs, if_neg hs, if_neg hs, Int.natCast_pow, Int.cast_ofNat_Int]

theorem opMin_bits : opMin x a.toNat b.toNat =
    ((if efSigned x.ef = true then (if b.slt a then b else a) else (if b.ult a then b else a)).toNat, 0) := by
  have hmin : BitVec.ofInt w (min (intOf x.ef a.toNat) (intOf x.ef b.toNat)) = if intOf x.ef b.toNat < intOf x.ef a.toNat then b else a := by
    split
    next h => rw [Int.min_eq_right (Int.le_of_lt h), ofInt_intOf hef hw]
    next h => rw [Int.min_eq_left (Int.not_lt.mp h), ofInt_intOf hef hw]
  rw [opMin_int hef, ElemCtx.bits, hw, lowBits_eq, hmin, intOf_toNat hef hw, intOf_toNat hef hw]
  by_cases hs : efSigned x.ef = true
  · simp only [if_pos hs, BitVec.slt_iff_toInt_lt]
  · simp only [if_neg hs, BitVec.ult_iff_toNat_lt, Int.ofNat_lt]

theorem opMax_bits : opMax x a.toNat b.toNat =
    ((if efSigned x.ef = true then (if a.slt b then b else a) else (if a.ult b then b else a)).toNat, 0) := by
  have hmax : BitVec.ofInt w (max (intOf x.ef a.toNat) (intOf x.ef b.toNat)) = if intOf x.ef a.toNat < intOf x.ef b.toNat then b else a := by
    split
    next h => rw [Int.max_eq_right (Int.le_of_lt h), ofInt_intOf hef hw]
    next h => rw [Int.max_eq_left (Int.not_lt.mp h), ofInt_intOf hef hw]
  rw [opMax_int hef, ElemCtx.bits, hw, lowBits_eq, hmax, intOf_toNat hef hw, intOf_toNat hef hw]
  by_cases hs : efSigned x.ef = true
  · simp only [if_pos hs, BitVec.slt_iff_toInt_lt]
  · simp only [if_neg hs, BitVec.ult_iff_toNat_lt, Int.ofNat_lt]

omit hef in
theorem opSll_bits : opSll x a.toNat b.toNat = ((a <<< (b.toNat % w)).toNat, 0) := by
  rw [opSll, shiftAmount, ElemCtx.bits, hw, BitVec.toNat_shiftLeft, Nat.shiftLeft_eq]

omit hef in
theorem opSrl_bits : opSrl x a.toNat b.toNat = ((a >>> (b.toNat % w)).toNat, 0) := by
  rw [opSrl, shiftAmount, ElemCtx.bits, hw, BitVec.toNat_ushiftRight, Nat.shiftRight_eq_div_pow]

theorem opSra_bits : opSra x a.toNat b.toNat = ((a.sshiftRight (b.toNat % w)).toNat, 0) := by
  have hpos : 0 < w := hw ▸ efBits_pos hef
  rw [opSra, shiftAmount, ElemCtx.bits, hw, signedNat_eq_toInt _ hpos, BitVec.ofNat_toNat, BitVec.setWidth_eq, lowBits_eq, BitVec.sshiftRight,
    Int.shiftRight_eq_div_pow]

end Exact

/-! ### Carry-less products and counts of bits -/

/-- The product of R261 as a vector of twice the width. -/
def spreadProduct (a b : BitVec w) : BitVec (2 * w) :=
  (List.range w).foldl (fun acc j => if b.getLsbD j then acc ^^^ (a.zeroExtend (2 * w) <<< j) else acc) 0

omit hw hef

theorem getLsbD_iff_bit (a : BitVec w) (i : Nat) : a.getLsbD i = true ↔ a.toNat / 2 ^ i % 2 = 1 := by
  rw [BitVec.getLsbD, Nat.testBit_eq_decide_div_mod_eq, decide_eq_true_eq]

theorem foldl_eq_of_mem {α β : Type} {f g : β → α → β} (l : List α) (b : β) (h : ∀ c, ∀ a ∈ l, f c a = g c a) : l.foldl f b = l.foldl g b := by
  induction l generalizing b with
  | nil => rfl
  | cons a l ih =>
    rw [List.foldl_cons, List.foldl_cons, h b a List.mem_cons_self]
    exact ih _ fun c a' ha => h c a' (List.mem_cons_of_mem _ ha)

theorem spreadProduct_toNat (a b : BitVec w) : (spreadProduct a b).toNat = clmulNat w a.toNat b.toNat := by
  rw [spreadProduct, clmulNat, foldUp_eq_foldl]
  rw [← List.foldl_hom BitVec.toNat (g₂ := fun acc j => if b.toNat / 2 ^ j % 2 = 1 then Nat.xor acc ((a.zeroExtend (2 * w) <<< j).toNat) else acc)]
  · refine foldl_eq_of_mem _ _ fun acc j hj => ?_
    have hlt : a.toNat * 2 ^ j < 2 ^ (2 * w) := by
      have hj' := List.mem_range.mp hj
      calc a.toNat * 2 ^ j < 2 ^ w * 2 ^ j := Nat.mul_lt_mul_of_pos_right a.isLt (Nat.two_pow_pos _)
        _ = 2 ^ (w + j) := (Nat.pow_add ..).symm
        _ ≤ 2 ^ (2 * w) := Nat.pow_le_pow_right (by decide) (by omega)
    have ha : a.toNat % 2 ^ (2 * w) = a.toNat := Nat.mod_eq_of_lt (Nat.lt_of_lt_of_le a.isLt (Nat.pow_le_pow_right (by decide) (by omega)))
    rw [BitVec.toNat_shiftLeft, BitVec.toNat_setWidth, ha, Nat.shiftLeft_eq, Nat.mod_eq_of_lt hlt]
  · intro acc j
    simp only [getLsbD_iff_bit]
    split
    · rw [BitVec.toNat_xor]
      rfl
    · rfl

theorem popcount_bits (k : Nat) (a : BitVec w) : popcount k a.toNat = ((List.range k).filter a.getLsbD).length := by
  induction k with
  | zero => rfl
  | succ k ih =>
    rw [List.range_succ, List.filter_append, List.length_append, ← ih]
    change popcount k a.toNat + a.toNat / 2 ^ k % 2 = _
    congr 1
    cases hb : a.getLsbD k with
    | true => rw [List.filter_cons_of_pos hb, (getLsbD_iff_bit a k).mp hb]; rfl
    | false =>
      have hn : ¬ a.getLsbD k = true := Bool.eq_false_iff.mp hb
      rw [List.filter_cons_of_neg hn, List.filter_nil, List.length_nil]
      rw [getLsbD_iff_bit] at hn
      omega

/-- The numbers below n at the front of which p holds, when it first fails at k. -/
theorem length_takeWhile_range {p : Nat → Bool} {k n : Nat} (hk : k ≤ n) (hbelow : ∀ j < k, p j = true) (hat : k < n → p k = false) :
    ((List.range n).takeWhile p).length = k := by
  obtain ⟨m, rfl⟩ := Nat.exists_eq_add_of_le hk
  have hfront : ∀ j ∈ List.range k, p j = true := fun j hj => hbelow j (List.mem_range.mp hj)
  rw [List.range_add, List.takeWhile_append_of_pos hfront, List.length_append, List.length_range]
  cases m with
  | zero => rfl
  | succ m =>
    have hstop := hat (by omega)
    rw [List.range_succ_eq_map, List.map_cons, Nat.add_zero, List.takeWhile_cons_of_neg (by rw [hstop]; decide), List.length_nil,
      Nat.add_zero]

theorem leadingZeros_bits (a : BitVec w) : leadingZeros w a.toNat = ((List.range w).takeWhile fun j => !a.getMsbD j).length := by
  obtain ⟨habove, hbit⟩ := leadingZeros_bounds a.isLt
  refine (length_takeWhile_range (leadingZeros_le ..) (fun j hj => ?_) fun hlt => ?_).symm
  · have hlt : a.toNat < 2 ^ (w - 1 - j) := Nat.lt_of_lt_of_le habove (Nat.pow_le_pow_right (by decide) (by omega))
    rw [BitVec.getMsbD_eq_getLsbD, BitVec.getLsbD, Nat.testBit_lt_two_pow hlt, Bool.and_false, Bool.not_false]
  · have hone : a.toNat / 2 ^ (w - 1 - leadingZeros w a.toNat) = 1 := by
      refine Nat.div_eq_of_lt_le ?_ ?_
      · rw [Nat.one_mul]
        exact hbit hlt
      · rw [← Nat.pow_succ']
        exact Nat.lt_of_lt_of_le habove (Nat.pow_le_pow_right (by decide) (by omega))
    rw [BitVec.getMsbD_eq_getLsbD, decide_eq_true hlt, (getLsbD_iff_bit a _).mpr (by rw [hone])]
    rfl

include hw in
theorem opClmul_bits (a b : BitVec w) : opClmul x a.toNat b.toNat = (((spreadProduct a b).truncate w).toNat, 0) := by
  rw [opClmul, ElemCtx.bits, hw, BitVec.toNat_setWidth, spreadProduct_toNat]

include hw in
theorem opClmulh_bits (a b : BitVec w) : opClmulh x a.toNat b.toNat = (((spreadProduct a b >>> w).truncate w).toNat, 0) := by
  have hlt : clmulNat w a.toNat b.toNat < 2 ^ w * 2 ^ w := by
    rw [← spreadProduct_toNat, ← Nat.pow_add, ← Nat.two_mul]
    exact BitVec.isLt _
  rw [opClmulh, ElemCtx.bits, hw, BitVec.toNat_setWidth, BitVec.toNat_ushiftRight, spreadProduct_toNat, Nat.shiftRight_eq_div_pow,
    Nat.mod_eq_of_lt (Nat.div_lt_of_lt_mul hlt)]

include hw in
theorem opPopc_bits (a : BitVec w) : opPopc x a.toNat = ((BitVec.ofNat w ((List.range w).filter a.getLsbD).length).toNat, 0) := by
  have hle : ((List.range w).filter a.getLsbD).length < 2 ^ w :=
    Nat.lt_of_le_of_lt (List.length_filter_le ..) (by rw [List.length_range]; exact Nat.lt_two_pow_self)
  rw [opPopc, ElemCtx.bits, hw, popcount_bits, BitVec.toNat_ofNat, Nat.mod_eq_of_lt hle]

include hw in
theorem opClz_bits (a : BitVec w) : opClz x a.toNat = ((BitVec.ofNat w ((List.range w).takeWhile fun j => !a.getMsbD j).length).toNat, 0) := by
  rw [opClz, ElemCtx.bits, hw, ← leadingZeros_bits, BitVec.toNat_ofNat, Nat.mod_eq_of_lt (Nat.lt_of_le_of_lt (leadingZeros_le ..) Nat.lt_two_pow_self)]

end Bits

/-! ### Saturation -/

/-- An integer result with SAT = 1: clamped, with OF and NX where it is (R90). -/
theorem deliverInt_saturates {ef : Nat} (hef : efInt ef = true) (i : Int) :
    ∃ r, deliverInt ef true i false = (r, if i < intMin ef ∨ intMax ef < i then 20 else 0) ∧ intOf ef r = max (intMin ef) (min (intMax ef) i) :=
  ⟨_, by rw [deliverInt_sat, if_neg (by decide : ¬ false = true)], intOf_lowBits hef (Int.le_max_left ..)
    (Int.max_le.mpr ⟨Int.le_trans intMin_nonpos intMax_nonneg, Int.min_le_left ..⟩)⟩

end Sys2Proof.Machine
end

section
/-! Summation trees, reductions and scatters of integers (R96, R256, R277 to R282). -/
namespace Sys2Proof.Machine

/-! ### The tree of R96 -/

section Tree
variable {β : Type} (add : β → β → β)

theorem treeN_single (fuel : Nat) (t : β) : treeN add fuel [t] = some t := by cases fuel <;> rfl

/-- Where a list of two or more terms is split. -/
theorem split_bounds {n : Nat} (hn : 2 ≤ n) : 0 < 2 ^ Nat.log2 (n - 1) ∧ 2 ^ Nat.log2 (n - 1) < n := by
  have hle := Nat.log2_self_le (n := n - 1) (by omega)
  exact ⟨Nat.two_pow_pos _, by omega⟩

theorem parts_ne_nil {m : Nat} {ts : List β} (hpos : 0 < m) (hm : m < ts.length) : ts.take m ≠ [] ∧ ts.drop m ≠ [] := by
  constructor
  · exact List.ne_nil_of_length_pos (by rw [List.length_take]; omega)
  · exact List.ne_nil_of_length_pos (by rw [List.length_drop]; omega)

theorem treeN_split (fuel : Nat) {ts : List β} (hts : 2 ≤ ts.length) {x y : β} (hx : treeN add fuel (ts.take (2 ^ Nat.log2 (ts.length - 1))) = some x)
    (hy : treeN add fuel (ts.drop (2 ^ Nat.log2 (ts.length - 1))) = some y) : treeN add (fuel + 1) ts = some (add x y) := by
  match ts, hts with
  | t :: t' :: ts, _ =>
    simp only [treeN, hx, hy]

/-- What holds of the terms, and of a sum of two parts where it holds of the parts, holds of the tree; it does not depend on the fuel. -/
theorem treeN_induction {P : List β → β → Prop} (single : ∀ t, P [t] t)
    (merge : ∀ xs ys x y, P xs x → P ys y → P (xs ++ ys) (add x y)) :
    ∀ (fuel : Nat) (ts : List β), ts ≠ [] → ts.length ≤ fuel → ∃ r, treeN add fuel ts = some r ∧ P ts r := by
  intro fuel
  induction fuel with
  | zero =>
    intro ts hne hlen
    exact absurd (List.eq_nil_of_length_eq_zero (Nat.le_zero.mp hlen)) hne
  | succ fuel ih =>
    intro ts hne hlen
    rcases Nat.lt_or_ge ts.length 2 with hlt | hge
    · match ts, hne, hlt with
      | [t], _, _ => exact ⟨t, treeN_single add _ t, single t⟩
    · obtain ⟨hpos, hm⟩ := split_bounds hge
      generalize hk : 2 ^ Nat.log2 (ts.length - 1) = m at hpos hm
      obtain ⟨hfront, hback⟩ := parts_ne_nil hpos hm
      obtain ⟨x, hx, hPx⟩ := ih (ts.take m) hfront (by simp; omega)
      obtain ⟨y, hy, hPy⟩ := ih (ts.drop m) hback (by simp; omega)
      subst hk
      exact ⟨_, treeN_split add fuel hge hx hy, List.take_append_drop _ ts ▸ merge _ _ _ _ hPx hPy⟩

theorem treeN_some {fuel : Nat} {ts : List β} (hne : ts ≠ []) (hlen : ts.length ≤ fuel) : ∃ r, treeN add fuel ts = some r := by
  obtain ⟨r, hr, -⟩ := treeN_induction add (P := fun _ _ => True) (fun _ => trivial) (fun _ _ _ _ _ _ => trivial) fuel ts hne hlen
  exact ⟨r, hr⟩

/-- The fuel does not matter as long as it lasts. -/
theorem treeN_fuel : ∀ (fuel fuel' : Nat) (ts : List β), ts.length ≤ fuel → ts.length ≤ fuel' → treeN add fuel ts = treeN add fuel' ts := by
  intro fuel
  induction fuel with
  | zero =>
    intro fuel' ts hlen _
    rw [List.eq_nil_of_length_eq_zero (Nat.le_zero.mp hlen)]
    cases fuel' <;> rfl
  | succ fuel ih =>
    intro fuel' ts hlen hlen'
    rcases Nat.lt_or_ge ts.length 2 with hlt | hge
    · match ts, hlt with
      | [], _ => cases fuel' <;> rfl
      | [t], _ => rw [treeN_single, treeN_single]
    · obtain ⟨n, rfl⟩ := Nat.exists_eq_add_of_le' (show 1 ≤ fuel' by omega)
      obtain ⟨hpos, hm⟩ := split_bounds hge
      generalize hk : 2 ^ Nat.log2 (ts.length - 1) = m at hpos hm
      obtain ⟨hfront, hback⟩ := parts_ne_nil hpos hm
      obtain ⟨x, hx⟩ := treeN_some add (fuel := fuel) hfront (by simp; omega)
      obtain ⟨y, hy⟩ := treeN_some add (fuel := fuel) hback (by simp; omega)
      have hx' := (ih n (ts.take m) (by simp; omega) (by simp; omega)).symm.trans hx
      have hy' := (ih n (ts.drop m) (by simp; omega) (by simp; omega)).symm.trans hy
      subst hk
      rw [treeN_split add fuel hge hx hy, treeN_split add n hge hx' hy']

theorem tree_induction {P : List β → β → Prop} (single : ∀ t, P [t] t) (merge : ∀ xs ys x y, P xs x → P ys y → P (xs ++ ys) (add x y))
    {ts : List β} (hne : ts ≠ []) : ∃ r, tree add ts = some r ∧ P ts r := treeN_induction add single merge _ ts hne (Nat.le_refl _)

/-- The tree of a list is the sum of the trees of its parts. -/
theorem tree_split {k : Nat} {ts : List β} (hlo : 2 ^ k < ts.length) (hhi : ts.length ≤ 2 ^ (k + 1)) (d : β) :
    tree add ts = some (add ((tree add (ts.take (2 ^ k))).getD d) ((tree add (ts.drop (2 ^ k))).getD d)) := by
  have hpos : 0 < 2 ^ k := Nat.two_pow_pos _
  have hlog : Nat.log2 (ts.length - 1) = k := by
    rw [Nat.log2_eq_iff (by omega)]
    omega
  obtain ⟨n, hn⟩ := Nat.exists_eq_add_of_le' (show 1 ≤ ts.length by omega)
  obtain ⟨hfront, hback⟩ := parts_ne_nil hpos hlo
  obtain ⟨x, hx⟩ := treeN_some add (fuel := n) hfront (by simp; omega)
  obtain ⟨y, hy⟩ := treeN_some add (fuel := n) hback (by simp; omega)
  have hx' : tree add (ts.take (2 ^ k)) = some x := (treeN_fuel add _ _ _ (Nat.le_refl _) (by simp; omega)).trans hx
  have hy' : tree add (ts.drop (2 ^ k)) = some y := (treeN_fuel add _ _ _ (Nat.le_refl _) (by simp; omega)).trans hy
  rw [hx', hy', tree, hn]
  exact treeN_split add n (by omega) (by rwa [hlog]) (by rwa [hlog])

end Tree

/-- A sum splits as the tree does (R96, R279). -/
theorem sumCodes_split (ef : Nat) (mode : Mode) (sat : Bool) (draw : Nat) {k : Nat} {ts : List Nat} (hlo : 2 ^ k < ts.length) (hhi : ts.length ≤ 2 ^ (k + 1)) :
    sumCodes ef mode sat draw ts =
      addCodes ef mode sat draw (sumCodes ef mode sat draw (ts.take (2 ^ k))) (sumCodes ef mode sat draw (ts.drop (2 ^ k))) := by
  rw [sumCodes, sumCodes, sumCodes, tree_split _ (by rwa [List.length_map]) (by rwa [List.length_map]) (0, 0), Option.getD_some, List.map_take,
    List.map_drop]

/-! ### Sums of integers -/

theorem addCodes_eq (ef : Nat) (mode : Mode) (sat : Bool) (draw : Nat) (p q : Nat × Fl) : addCodes ef mode sat draw p q =
    ((deliver ef mode sat draw (addNum mode (valueOf ef p.1) (valueOf ef q.1)).1).1,
      p.2 ||| q.2 ||| (addNum mode (valueOf ef p.1) (valueOf ef q.1)).2
        ||| (deliver ef mode sat draw (addNum mode (valueOf ef p.1) (valueOf ef q.1)).1).2) := rfl

section Sum
variable {ef : Nat} (hef : efInt ef = true)
include hef

theorem lowBits_intOf_add (a b : Nat) : lowBits (intOf ef a + intOf ef b) (efBits ef) = (a + b) % 2 ^ efBits ef := by
  have h : ∀ z, BitVec.ofInt (efBits ef) (intOf ef z) = BitVec.ofNat (efBits ef) z := fun z => by
    rw [intOf_eq hef]
    split
    · exact BitVec.ofInt_toInt
    · rw [BitVec.ofInt_natCast, BitVec.ofNat_toNat, BitVec.setWidth_eq]
  rw [lowBits_eq, BitVec.ofInt_add, h, h, ← BitVec.ofNat_add, BitVec.toNat_ofNat]

/-- An addition of integer codes that wraps. -/
theorem addCodes_int (mode : Mode) (draw : Nat) (p q : Nat × Fl) :
    addCodes ef mode false draw p q = ((p.1 + q.1) % 2 ^ efBits ef, p.2 ||| q.2) := by
  have hval : ∀ z, Exact 0 (valueOf ef z) (intOf ef z) := fun z => by
    rw [valueOf_int hef]
    exact exact_int _
  obtain ⟨hflags, hexact⟩ := (hval p.1).add mode (hval q.1)
  have hdeliver := deliver_exact_int hef hexact mode false draw
  rw [deliverInt_wraps, lowBits_intOf_add hef] at hdeliver
  rw [addCodes_eq, hdeliver, hflags]
  exact Prod.ext rfl ((congrArg (· ||| 0) BitVec.or_zero).trans BitVec.or_zero)

omit hef in
theorem canonical_of_int (hef : efInt ef = true) (z : Nat) : canonical ef z = z :=
  canonical_int (x := ⟨ef, .rne, false, 0⟩) hef z

/-- Codes of the format without flags sum to their wrapped sum. -/
def SumsTo (w : Nat) (ts : List (Nat × Fl)) (r : Nat × Fl) : Prop :=
  (∀ t ∈ ts, t.1 < 2 ^ w ∧ t.2 = 0) → r = ((ts.map Prod.fst).sum % 2 ^ w, 0)

theorem sumsTo_append (mode : Mode) (draw : Nat) {xs ys : List (Nat × Fl)} {p q : Nat × Fl} (hp : SumsTo (efBits ef) xs p)
    (hq : SumsTo (efBits ef) ys q) : SumsTo (efBits ef) (xs ++ ys) (addCodes ef mode false draw p q) := by
  intro h
  rw [hp fun t ht => h t (List.mem_append_left _ ht), hq fun t ht => h t (List.mem_append_right _ ht), addCodes_int hef, ← Nat.add_mod,
    List.map_append, List.sum_append]
  exact Prod.ext rfl BitVec.or_zero

/-- A sum of integers is that of R96 whatever the tree: it wraps. -/
theorem sumCodes_int (mode : Mode) (draw : Nat) {vs : List Nat} (hvs : ∀ v ∈ vs, v < 2 ^ efBits ef) :
    sumCodes ef mode false draw vs = (vs.sum % 2 ^ efBits ef, 0) := by
  rcases Decidable.em (vs = []) with rfl | hne
  · simp [sumCodes, tree, treeN]
  · have hcanon : (vs.map fun c => ((canonical ef c, 0) : Nat × Fl)) = vs.map fun c => (c, 0) := by simp only [canonical_of_int hef]
    have hsingle : ∀ t, SumsTo (efBits ef) [t] t := fun t h => by
      obtain ⟨hlt, hflags⟩ := h t List.mem_cons_self
      refine Prod.ext ?_ hflags
      simpa using (Nat.mod_eq_of_lt hlt).symm
    obtain ⟨r, hr, hsum⟩ := tree_induction (addCodes ef mode false draw) hsingle (fun _ _ _ _ => sumsTo_append hef mode draw)
      (ts := vs.map fun c => ((c, 0) : Nat × Fl)) (by simpa using hne)
    have hmem : ∀ t ∈ vs.map (fun c => ((c, 0) : Nat × Fl)), t.1 < 2 ^ efBits ef ∧ t.2 = 0 := fun t ht => by
      obtain ⟨c, hc, rfl⟩ := List.mem_map.mp ht
      exact ⟨hvs c hc, rfl⟩
    rw [sumCodes, hcanon, hr, Option.getD_some, hsum hmem, List.map_map]
    simp [Function.comp_def]

/-! ### The largest and the smallest -/

theorem intOf_lt_of_lt {z : Nat} (hz : z < 2 ^ efBits ef) : lowBits (intOf ef z) (efBits ef) = z := by
  have h := ofInt_intOf hef rfl (BitVec.ofNat (efBits ef) z)
  rw [BitVec.toNat_ofNat, Nat.mod_eq_of_lt hz] at h
  rw [lowBits_eq, h, BitVec.toNat_ofNat, Nat.mod_eq_of_lt hz]

/-- A number that is the largest of some codes' values, or the smallest. -/
def IsExtremum (ef : Nat) (mx : Bool) (vs : List Nat) (p : Num) : Prop :=
  ∃ r ∈ vs, Exact 0 p (intOf ef r) ∧ ∀ v ∈ vs, if mx = true then intOf ef v ≤ intOf ef r else intOf ef r ≤ intOf ef v

theorem isExtremum_append {mx : Bool} {vs : List Nat} {p : Num} (h : IsExtremum ef mx vs p) (c : Nat) :
    IsExtremum ef mx (vs ++ [c]) (if mx = true then maxNum p (valueOf ef c) else minNum p (valueOf ef c)) := by
  obtain ⟨r, hr, hp, hall⟩ := h
  have hc : Exact 0 (valueOf ef c) (intOf ef c) := by
    rw [valueOf_int hef]
    exact exact_int _
  have hkeep : r ∈ vs ++ [c] := List.mem_append_left _ hr
  have hnew : c ∈ vs ++ [c] := List.mem_append_right _ List.mem_cons_self
  cases mx with
  | true =>
    simp only [if_true] at hall ⊢
    rcases hp.maxNum hc with ⟨heq, hle⟩ | ⟨heq, hle⟩
    · rw [heq]
      refine ⟨r, hkeep, hp, fun v hv => ?_⟩
      rcases List.mem_append.mp hv with hv | hv
      · exact hall v hv
      · exact List.mem_singleton.mp hv ▸ hle
    · rw [heq]
      refine ⟨c, hnew, hc, fun v hv => ?_⟩
      rcases List.mem_append.mp hv with hv | hv
      · exact Int.le_trans (hall v hv) hle
      · exact (List.mem_singleton.mp hv ▸ Int.le_refl _)
  | false =>
    simp only [Bool.false_eq_true, if_false] at hall ⊢
    rcases hp.minNum hc with ⟨heq, hle⟩ | ⟨heq, hle⟩
    · rw [heq]
      refine ⟨r, hkeep, hp, fun v hv => ?_⟩
      rcases List.mem_append.mp hv with hv | hv
      · exact hall v hv
      · exact List.mem_singleton.mp hv ▸ hle
    · rw [heq]
      refine ⟨c, hnew, hc, fun v hv => ?_⟩
      rcases List.mem_append.mp hv with hv | hv
      · exact Int.le_trans hle (hall v hv)
      · exact (List.mem_singleton.mp hv ▸ Int.le_refl _)

theorem isExtremum_foldl {mx : Bool} (cs : List Nat) {vs : List Nat} {p : Num} (h : IsExtremum ef mx vs p) :
    IsExtremum ef mx (vs ++ cs)
      (cs.foldl (fun acc c => if mx = true then maxNum acc (valueOf ef c) else minNum acc (valueOf ef c)) p) := by
  induction cs generalizing vs p with
  | nil => rwa [List.append_nil]
  | cons c cs ih =>
    rw [List.foldl_cons, List.append_cons]
    exact ih (isExtremum_append hef h c)

/-- The extremum of integer codes is one of them, without flags (R256). -/
theorem extremum_int (mx : Bool) {vs : List Nat} (hne : vs ≠ []) (hvs : ∀ v ∈ vs, v < 2 ^ efBits ef) (d : Nat) :
    ∃ r ∈ vs, (extremum ef mx vs).getD d = r ∧ ∀ v ∈ vs, if mx = true then intOf ef v ≤ intOf ef r else intOf ef r ≤ intOf ef v := by
  cases vs with
  | nil => exact absurd rfl hne
  | cons t ts =>
    have hstart : IsExtremum ef mx [t] (valueOf ef t) := by
      refine ⟨t, List.mem_cons_self, ?_, fun v hv => ?_⟩
      · rw [valueOf_int hef]
        exact exact_int _
      · rw [List.mem_singleton.mp hv]
        split <;> exact Int.le_refl _
    obtain ⟨r, hr, hexact, hall⟩ := isExtremum_foldl hef ts hstart
    refine ⟨r, hr, ?_, hall⟩
    rw [extremum, Option.getD_some, encodeNum, deliver_exact_int hef hexact, deliverInt_wraps]
    exact intOf_lt_of_lt hef (hvs r hr)

end Sum

/-! ### Bitwise reductions and searches -/

theorem foldl_land_testBit (ts : List (Nat × Nat)) (acc j : Nat) :
    (ts.foldl (fun acc p => Nat.land acc p.2) acc).testBit j = true ↔ acc.testBit j = true ∧ ∀ p ∈ ts, p.2.testBit j = true := by
  induction ts generalizing acc with
  | nil => simp
  | cons p ts ih =>
    rw [List.foldl_cons, ih, List.forall_mem_cons, ← and_assoc]
    change (acc &&& p.2).testBit j = true ∧ _ ↔ _
    rw [Nat.testBit_and, Bool.and_eq_true]

theorem foldl_lor_testBit (ts : List (Nat × Nat)) (acc j : Nat) :
    (ts.foldl (fun acc p => Nat.lor acc p.2) acc).testBit j = true ↔ acc.testBit j = true ∨ ∃ p ∈ ts, p.2.testBit j = true := by
  induction ts generalizing acc with
  | nil => simp
  | cons p ts ih =>
    rw [List.foldl_cons, ih]
    simp only [List.mem_cons, or_and_right, exists_or, exists_eq_left, ← or_assoc]
    change (acc ||| p.2).testBit j = true ∨ _ ↔ _
    rw [Nat.testBit_or, Bool.or_eq_true]

theorem foldl_xor_testBit (ts : List (Nat × Nat)) (acc j : Nat) :
    (ts.foldl (fun acc p => Nat.xor acc p.2) acc).testBit j = true ↔ ((acc.testBit j).toNat + (ts.filter fun p => p.2.testBit j).length) % 2 = 1 := by
  induction ts generalizing acc with
  | nil => cases h : acc.testBit j <;> simp [h]
  | cons p ts ih =>
    have hbit : (Nat.xor acc p.2).testBit j = (acc.testBit j ^^ p.2.testBit j) := Nat.testBit_xor ..
    rw [List.foldl_cons, ih, hbit]
    rw [List.filter_cons]
    cases p.2.testBit j with
    | true =>
      rw [if_pos rfl, List.length_cons]
      cases acc.testBit j <;> simp <;> omega
    | false => simp

end Sys2Proof.Machine
end

section
/-! Reductions, scatters and sparse merges of integers (R277 to R282, R286). -/
namespace Sys2Proof.Machine

/-! ### Reductions and scatters -/

section Reductions
variable {x : ElemCtx} (hef : efInt x.ef = true)
include hef

theorem reduceTerms_vredsum (f : BX) (fn : Nat) (hsat : x.sat = false) {ts : List (Nat × Nat)} (hts : ∀ t ∈ ts, t.2 < 2 ^ efBits x.ef) :
    reduceTerms (.vredsum f) x fn ts = ((ts.map fun t => t.2).sum % 2 ^ efBits x.ef, 0) := by
  change sumCodes x.ef x.mode x.sat x.draw (ts.map fun t => t.2) = _
  rw [hsat, sumCodes_int hef _ _ (List.forall_mem_map.mpr hts)]

theorem scatterUpdate_vscatadd (f : BX) (hsat : x.sat = false) {vs : List Nat} (hvs : ∀ v ∈ vs, v < 2 ^ efBits x.ef) (old : Nat) :
    scatterUpdate (.vscatadd f) x old vs = ((old + vs.sum) % 2 ^ efBits x.ef, 0) := by
  change addCodes x.ef x.mode x.sat x.draw (old, 0) (sumCodes x.ef x.mode x.sat x.draw vs) = _
  rw [hsat, sumCodes_int hef _ _ hvs, addCodes_int hef, Nat.add_mod_mod]
  exact Prod.ext rfl BitVec.or_zero

theorem reduceTerms_empty (f : BX) (fn : Nat) :
    intOf x.ef (reduceTerms (.vredmax f) x fn []).1 = intMin x.ef ∧ intOf x.ef (reduceTerms (.vredmin f) x fn []).1 = intMax x.ef := by
  have hrange : intMin x.ef ≤ intMax x.ef := Int.le_trans intMin_nonpos intMax_nonneg
  have hmax : (reduceTerms (.vredmax f) x fn []).1 = lowBits (intMin x.ef) (efBits x.ef) := if_pos hef
  have hmin : (reduceTerms (.vredmin f) x fn []).1 = lowBits (intMax x.ef) (efBits x.ef) := if_pos hef
  rw [hmax, hmin]
  exact ⟨intOf_lowBits hef (Int.le_refl _) hrange, intOf_lowBits hef hrange (Int.le_refl _)⟩

theorem reduceTerms_extrema (f : BX) (fn : Nat) {ts : List (Nat × Nat)} (hts : ∀ t ∈ ts, t.2 < 2 ^ efBits x.ef) (hne : ts ≠ []) :
    (∃ r ∈ ts.map fun t => t.2, reduceTerms (.vredmax f) x fn ts = (r, 0) ∧ ∀ v ∈ ts.map fun t => t.2, intOf x.ef v ≤ intOf x.ef r)
    ∧ ∃ r ∈ ts.map fun t => t.2, reduceTerms (.vredmin f) x fn ts = (r, 0) ∧ ∀ v ∈ ts.map fun t => t.2, intOf x.ef r ≤ intOf x.ef v := by
  have hne' : (ts.map fun t => t.2) ≠ [] := mt List.map_eq_nil_iff.mp hne
  obtain ⟨r, hr, heq, hall⟩ := extremum_int hef true hne' (List.forall_mem_map.mpr hts) (reduceIdentity (.vredmax f) x.ef fn)
  obtain ⟨r', hr', heq', hall'⟩ := extremum_int hef false hne' (List.forall_mem_map.mpr hts) (reduceIdentity (.vredmin f) x.ef fn)
  exact ⟨⟨r, hr, Prod.ext heq rfl, hall⟩, r', hr', Prod.ext heq' rfl, hall'⟩

theorem scatterUpdate_extrema (f : BX) {old : Nat} {vs : List Nat} (hvs : ∀ v ∈ old :: vs, v < 2 ^ efBits x.ef) :
    (∃ r ∈ old :: vs, scatterUpdate (.vscatmax f) x old vs = (r, 0) ∧ ∀ v ∈ old :: vs, intOf x.ef v ≤ intOf x.ef r)
    ∧ ∃ r ∈ old :: vs, scatterUpdate (.vscatmin f) x old vs = (r, 0) ∧ ∀ v ∈ old :: vs, intOf x.ef r ≤ intOf x.ef v := by
  obtain ⟨r, hr, heq, hall⟩ := extremum_int hef true (List.cons_ne_nil old vs) hvs old
  obtain ⟨r', hr', heq', hall'⟩ := extremum_int hef false (List.cons_ne_nil old vs) hvs old
  exact ⟨⟨r, hr, Prod.ext heq rfl, hall⟩, r', hr', Prod.ext heq' rfl, hall'⟩

end Reductions

/-- Bit j of the bitwise reductions (R277, R279). -/
theorem reduceTerms_vredbit (f : BX) (x : ElemCtx) (ts : List (Nat × Nat)) {j : Nat} (hj : j < efBits x.ef) :
    ((reduceTerms (.vredbit f) x 0 ts).1.testBit j = true ↔ ∀ v ∈ ts.map fun t => t.2, v.testBit j = true)
    ∧ ((reduceTerms (.vredbit f) x 1 ts).1.testBit j = true ↔ ∃ v ∈ ts.map fun t => t.2, v.testBit j = true)
    ∧ ((reduceTerms (.vredbit f) x 2 ts).1.testBit j = true ↔ ((ts.map fun t => t.2).filter fun v => v.testBit j).length % 2 = 1) := by
  refine ⟨?_, ?_, ?_⟩
  · refine (foldl_land_testBit ts (2 ^ efBits x.ef - 1) j).trans ?_
    rw [Nat.testBit_two_pow_sub_one, decide_eq_true hj, List.forall_mem_map]
    exact and_iff_right rfl
  · refine (foldl_lor_testBit ts 0 j).trans ?_
    rw [Nat.zero_testBit]
    constructor
    · rintro (h | ⟨p, hp, hbit⟩)
      · cases h
      · exact ⟨p.2, List.mem_map_of_mem hp, hbit⟩
    · rintro ⟨v, hv, hbit⟩
      obtain ⟨p, hp, rfl⟩ := List.mem_map.mp hv
      exact .inr ⟨p, hp, hbit⟩
  · refine (foldl_xor_testBit ts 0 j).trans ?_
    rw [List.filter_map, List.length_map]
    simp [Function.comp_def]

theorem bne_zero_eq : (fun t : Nat × Nat => t.2 != 0) = fun t => decide (t.2 ≠ 0) := by
  funext t
  by_cases h : t.2 = 0 <;> simp [h]

theorem reduceTerms_vfirst (f : BX) (x : ElemCtx) (fn : Nat) (ts : List (Nat × Nat)) :
    reduceTerms (.vfirst f) x fn ts = (((ts.find? fun t => t.2 ≠ 0).map fun t => t.1).getD (2 ^ 64 - 1), 0) := by
  rw [← bne_zero_eq]
  unfold reduceTerms reduceIdentity
  cases ts.find? fun t => t.2 != 0 <;> rfl

theorem reduceTerms_vcount (f : BX) (x : ElemCtx) (fn : Nat) (ts : List (Nat × Nat)) :
    reduceTerms (.vcount f) x fn ts = ((ts.filter fun t => t.2 ≠ 0).length, 0) := by
  rw [← bne_zero_eq]
  rfl

/-! ### Sparse merges -/

/-- The code at a coordinate of a sparse list. -/
def pairCode (l : List (Nat × Nat)) (k : Nat) : Option Nat := (l.find? fun p => p.1 == k).map fun p => p.2

section PairCode
variable {l : List (Nat × Nat)}

theorem pairCode_eq_none {k : Nat} : pairCode l k = none ↔ ¬ ∃ p ∈ l, p.1 = k := by
  rw [pairCode, Option.map_eq_none_iff, List.find?_eq_none, not_exists]
  simp only [beq_iff_eq, not_and]

theorem eq_of_key_eq (hl : l.Pairwise fun p q => p.1 < q.1) {p q : Nat × Nat} (hp : p ∈ l) (hq : q ∈ l) (h : p.1 = q.1) : p = q := by
  induction hl with
  | nil => cases hp
  | cons hall _ ih =>
    rcases List.mem_cons.mp hp with rfl | hp' <;> rcases List.mem_cons.mp hq with rfl | hq'
    · rfl
    · exact absurd h (Nat.ne_of_lt (hall _ hq'))
    · exact absurd h.symm (Nat.ne_of_lt (hall _ hp'))
    · exact ih hp' hq'

/-- In a list of ascending coordinates each pair is the one at its coordinate. -/
theorem pairCode_of_mem (hl : (l.map fun p => p.1).Pairwise (· < ·)) {p : Nat × Nat} (hp : p ∈ l) : pairCode l p.1 = some p.2 := by
  have hne : ∃ p' ∈ l, p'.1 = p.1 := ⟨p, hp, rfl⟩
  obtain ⟨q, hq⟩ := Option.ne_none_iff_exists'.mp (mt List.find?_eq_none.mp (show ¬ ∀ x ∈ l, ¬ (x.1 == p.1) = true by simpa using hne))
  have hkey : q.1 = p.1 := by simpa using List.find?_some hq
  have heq : q = p := eq_of_key_eq (List.pairwise_map.mp hl) (List.mem_of_find?_eq_some hq) hp hkey
  rw [pairCode, hq, heq, Option.map_some]

end PairCode

/-- The coordinates of a union, and its entry at each (R286). -/
def unionKeys (as bs : List (Nat × Nat)) : List Nat := ((as.map fun p => p.1) ++ (bs.map fun p => p.1)).eraseDups.mergeSort

def unionEntry (x : ElemCtx) (as bs : List (Nat × Nat)) (k : Nat) : Nat × Nat × Fl :=
  match pairCode as k, pairCode bs k with
  | some p, some q => (k, opAdd x p q)
  | some p, none => (k, x.give (x.val p, 0))
  | none, some q => (k, x.give (x.val q, 0))
  | none, none => (k, 0, 0)

section Merge
variable {x : ElemCtx} {as bs : List (Nat × Nat)}

theorem mergePairs_vspadd (f : BX) : mergePairs (.vspadd f) x as bs = (unionKeys as bs).map (unionEntry x as bs) := rfl

theorem mergePairs_vspmul (f : BX) :
    mergePairs (.vspmul f) x as bs = as.filterMap fun p => (pairCode bs p.1).map fun q => (p.1, opMul x p.2 q) := rfl

theorem unionEntry_key (k : Nat) : (unionEntry x as bs k).1 = k := by
  unfold unionEntry
  split <;> rfl

theorem mem_unionKeys {k : Nat} : k ∈ unionKeys as bs ↔ (∃ p ∈ as, p.1 = k) ∨ ∃ p ∈ bs, p.1 = k := by
  rw [unionKeys, List.mem_mergeSort, List.mem_eraseDups, List.mem_append, List.mem_map, List.mem_map]

theorem nodup_eraseDups (l : List Nat) : l.eraseDups.Nodup := by
  induction h : l.length using Nat.strongRecOn generalizing l with
  | ind n ih =>
    cases l with
    | nil => exact List.nodup_nil
    | cons a l =>
      rw [List.eraseDups_cons, List.nodup_cons, List.mem_eraseDups]
      refine ⟨by simp, ih _ ?_ _ rfl⟩
      rw [← h]
      exact Nat.lt_of_le_of_lt (List.length_filter_le ..) (Nat.lt_succ_self _)

/-- The coordinates of a union ascend. -/
theorem unionKeys_ascend : (unionKeys as bs).Pairwise (· < ·) := by
  have hsorted := List.pairwise_mergeSort (le := fun a b : Nat => decide (a ≤ b)) (fun a b c hab hbc => by simp at *; omega)
    (fun a b => by simp; omega) ((as.map fun p => p.1) ++ (bs.map fun p => p.1)).eraseDups
  have hnodup : (unionKeys as bs).Nodup := (List.mergeSort_perm ..).nodup_iff.mpr (nodup_eraseDups _)
  exact (hsorted.and hnodup).imp fun ⟨hle, hne⟩ => Nat.lt_of_le_of_ne (by simpa using hle) hne

theorem mergePairs_vspadd_keys (f : BX) : ((mergePairs (.vspadd f) x as bs).map fun p => p.1) = unionKeys as bs := by
  rw [mergePairs_vspadd, List.map_map]
  exact (List.map_congr_left fun k _ => unionEntry_key k).trans (List.map_id _)

theorem exists_mem_vspadd (f : BX) {k : Nat} : (∃ p ∈ mergePairs (.vspadd f) x as bs, p.1 = k) ↔ (∃ p ∈ as, p.1 = k) ∨ ∃ p ∈ bs, p.1 = k := by
  rw [← mem_unionKeys, ← mergePairs_vspadd_keys f (x := x), List.mem_map]

theorem mem_mergePairs_vspadd (f : BX) {k : Nat} {e : Nat × Nat × Fl} (hk : k ∈ unionKeys as bs) (he : unionEntry x as bs k = e) :
    e ∈ mergePairs (.vspadd f) x as bs := by
  rw [mergePairs_vspadd]
  exact List.mem_map.mpr ⟨k, hk, he⟩

theorem mem_mergePairs_vspmul (f : BX) {e : Nat × Nat × Fl} :
    e ∈ mergePairs (.vspmul f) x as bs ↔ ∃ p ∈ as, ∃ q, pairCode bs p.1 = some q ∧ (p.1, opMul x p.2 q) = e := by
  rw [mergePairs_vspmul, List.mem_filterMap]
  simp only [Option.map_eq_some_iff]

theorem exists_mem_vspmul (f : BX) {k : Nat} : (∃ p ∈ mergePairs (.vspmul f) x as bs, p.1 = k) ↔ (∃ p ∈ as, p.1 = k) ∧ ∃ p ∈ bs, p.1 = k := by
  constructor
  · rintro ⟨e, he, rfl⟩
    obtain ⟨p, hp, q, hq, rfl⟩ := (mem_mergePairs_vspmul f).mp he
    refine ⟨⟨p, hp, rfl⟩, ?_⟩
    refine Classical.byContradiction fun hno => ?_
    rw [pairCode_eq_none.mpr hno] at hq
    cases hq
  · rintro ⟨⟨p, hp, rfl⟩, hq⟩
    obtain ⟨q, hq⟩ := Option.ne_none_iff_exists'.mp (mt pairCode_eq_none.mp (Classical.not_not.mpr hq))
    exact ⟨_, (mem_mergePairs_vspmul f).mpr ⟨p, hp, q, hq, rfl⟩, rfl⟩

theorem mergePairs_vspmul_ascend (f : BX) (has : (as.map fun p => p.1).Pairwise (· < ·)) :
    ((mergePairs (.vspmul f) x as bs).map fun p => p.1).Pairwise (· < ·) := by
  rw [mergePairs_vspmul, List.pairwise_map, List.pairwise_filterMap]
  refine (List.pairwise_map.mp has).imp fun h e he e' he' => ?_
  obtain ⟨q, -, rfl⟩ := Option.map_eq_some_iff.mp he
  obtain ⟨q', -, rfl⟩ := Option.map_eq_some_iff.mp he'
  exact h

/-! The codes of a merge of integers. -/

section IntMerge
variable (hef : efInt x.ef = true) (hsat : x.sat = false)
include hef hsat

theorem give_code {p : Nat} (hp : p < 2 ^ efBits x.ef) : x.give (x.val p, 0) = (p, 0) := by
  rw [give_int hef ⟨rfl, val_int hef p⟩, hsat, deliverInt_wraps, intOf_lt_of_lt hef hp]
  rfl

theorem opAdd_code (p q : Nat) : opAdd x p q = ((p + q) % 2 ^ efBits x.ef, 0) := by
  rw [opAdd_int hef, hsat, deliverInt_wraps, lowBits_intOf_add hef]
  rfl

theorem opMul_code {p q : Nat} (hp : p < 2 ^ efBits x.ef) (hq : q < 2 ^ efBits x.ef) : opMul x p q = (p * q % 2 ^ efBits x.ef, 0) := by
  have h := opMul_bits rfl hef hsat (BitVec.ofNat (efBits x.ef) p) (BitVec.ofNat (efBits x.ef) q)
  rwa [← BitVec.ofNat_mul, BitVec.toNat_ofNat, BitVec.toNat_ofNat, BitVec.toNat_ofNat, Nat.mod_eq_of_lt hp, Nat.mod_eq_of_lt hq] at h

/-- Where both lists have a coordinate the union holds the sum and the intersection the product. -/
theorem merge_both (f : BX) (has : (as.map fun p => p.1).Pairwise (· < ·)) (hbs : (bs.map fun p => p.1).Pairwise (· < ·))
    (hlt : ∀ p ∈ as ++ bs, p.2 < 2 ^ efBits x.ef) {p q : Nat × Nat} (hp : p ∈ as) (hq : q ∈ bs) (hkey : p.1 = q.1) :
    (p.1, (p.2 + q.2) % 2 ^ efBits x.ef, 0) ∈ mergePairs (.vspadd f) x as bs
    ∧ (p.1, p.2 * q.2 % 2 ^ efBits x.ef, 0) ∈ mergePairs (.vspmul f) x as bs := by
  have ha := pairCode_of_mem has hp
  have hb : pairCode bs p.1 = some q.2 := hkey ▸ pairCode_of_mem hbs hq
  refine ⟨mem_mergePairs_vspadd f (mem_unionKeys.mpr (.inl ⟨p, hp, rfl⟩)) ?_, (mem_mergePairs_vspmul f).mpr ⟨p, hp, _, hb, ?_⟩⟩
  · rw [unionEntry, ha, hb]
    exact congrArg _ (opAdd_code hef hsat ..)
  · rw [opMul_code hef hsat (hlt p (List.mem_append_left _ hp)) (hlt q (List.mem_append_right _ hq))]

/-- A coordinate of one list alone keeps its code in the union. -/
theorem merge_left (f : BX) (has : (as.map fun p => p.1).Pairwise (· < ·)) (hlt : ∀ p ∈ as ++ bs, p.2 < 2 ^ efBits x.ef) {p : Nat × Nat}
    (hp : p ∈ as) (hno : ¬ ∃ q ∈ bs, q.1 = p.1) : (p.1, p.2, 0) ∈ mergePairs (.vspadd f) x as bs := by
  refine mem_mergePairs_vspadd f (mem_unionKeys.mpr (.inl ⟨p, hp, rfl⟩)) ?_
  rw [unionEntry, pairCode_of_mem has hp, pairCode_eq_none.mpr hno]
  exact congrArg _ (give_code hef hsat (hlt p (List.mem_append_left _ hp)))

theorem merge_right (f : BX) (hbs : (bs.map fun p => p.1).Pairwise (· < ·)) (hlt : ∀ p ∈ as ++ bs, p.2 < 2 ^ efBits x.ef) {p : Nat × Nat}
    (hp : p ∈ bs) (hno : ¬ ∃ q ∈ as, q.1 = p.1) : (p.1, p.2, 0) ∈ mergePairs (.vspadd f) x as bs := by
  refine mem_mergePairs_vspadd f (mem_unionKeys.mpr (.inr ⟨p, hp, rfl⟩)) ?_
  rw [unionEntry, pairCode_of_mem hbs hp, pairCode_eq_none.mpr hno]
  exact congrArg _ (give_code hef hsat (hlt p (List.mem_append_right _ hp)))

end IntMerge

end Merge

end Sys2Proof.Machine
end

section
/-! Codes in a frame: what is laid out is read back (R318, R328). -/
namespace Sys2Proof.Machine

/-! ### Digits -/

theorem foldUp_succ {β : Type} (n : Nat) (f : Nat → β → β) (b : β) : foldUp (n + 1) f b = f n (foldUp n f b) := rfl

/-- A number written in digits of w bits is below the next power. -/
theorem digits_lt {w : Nat} {x : Nat → Nat} (hx : ∀ t, x t < 2 ^ w) (n : Nat) : foldUp n (fun t acc => acc + x t * 2 ^ (w * t)) 0 < 2 ^ (w * n) := by
  induction n with
  | zero => exact Nat.one_pos
  | succ n ih =>
    rw [foldUp_succ, Nat.mul_succ, Nat.pow_add]
    have hle : (x n + 1) * 2 ^ (w * n) ≤ 2 ^ w * 2 ^ (w * n) := Nat.mul_le_mul_right _ (hx n)
    rw [Nat.succ_mul, Nat.mul_comm (2 ^ w)] at hle
    omega

/-- Each digit is read back. -/
theorem digit_of_digits {w : Nat} {x : Nat → Nat} (hx : ∀ t, x t < 2 ^ w) {n t : Nat} (ht : t < n) :
    foldUp n (fun t acc => acc + x t * 2 ^ (w * t)) 0 / 2 ^ (w * t) % 2 ^ w = x t := by
  induction n with
  | zero => exact absurd ht (Nat.not_lt_zero t)
  | succ n ih =>
    rw [foldUp_succ]
    rcases Nat.lt_or_eq_of_le (Nat.le_of_lt_succ ht) with hlt | rfl
    · have hpow : x n * 2 ^ (w * n) = x n * 2 ^ (w * (n - t - 1)) * 2 ^ w * 2 ^ (w * t) := by
        rw [Nat.mul_assoc, Nat.mul_assoc, ← Nat.pow_add, ← Nat.pow_add]
        congr 2
        obtain ⟨k, rfl⟩ := Nat.exists_eq_add_of_lt hlt
        rw [show t + k + 1 - t - 1 = k by omega]
        simp only [Nat.mul_add, Nat.mul_one]
        omega
      rw [hpow, Nat.add_mul_div_right _ _ (Nat.two_pow_pos _), Nat.add_mul_mod_self_right, ih hlt]
    · rw [Nat.add_mul_div_right _ _ (Nat.two_pow_pos _), Nat.div_eq_of_lt (digits_lt hx t), Nat.zero_add, Nat.mod_eq_of_lt (hx t)]

/-- The bytes of a number put together again. -/
theorem bytes_of_number (v n : Nat) : foldUp n (fun j acc => acc + v / 2 ^ (8 * j) % 256 * 2 ^ (8 * j)) 0 = v % 2 ^ (8 * n) := by
  induction n with
  | zero => rw [Nat.mul_zero, Nat.pow_zero, Nat.mod_one]; rfl
  | succ n ih => rw [foldUp_succ, ih, Nat.mul_succ, Nat.pow_add, Nat.mod_mul, Nat.mul_comm (2 ^ (8 * n)), show 2 ^ 8 = 256 from rfl]

/-! ### One element -/

/-- The widths of the formats. -/
theorem efBits_width {ef : Nat} (h : ef ≤ 18) : efBits ef = 2 ∨ efBits ef = 4 ∨ 8 ∣ efBits ef ∧ 8 ≤ efBits ef := by
  have hall : ∀ ef < 19, efBits ef = 2 ∨ efBits ef = 4 ∨ 8 ∣ efBits ef ∧ 8 ≤ efBits ef := by decide
  exact hall ef (Nat.lt_succ_of_le h)

/-- A cell of fewer than 8 bits, packed in a byte, is read back. -/
theorem codeAt_packed {d : FrameData} {base w i : Nat} (hw : w = 2 ∨ w = 4) {cell : Nat → Nat}
    (hd : d (base + i * w / 8) = foldUp (8 / w) (fun t acc => acc + cell (i * w / 8 * (8 / w) + t) % 2 ^ w * 2 ^ (w * t)) 0) :
    codeAt d base w i = cell i % 2 ^ w := by
  have hlt : i % (8 / w) < 8 / w := Nat.mod_lt _ (by rcases hw with rfl | rfl <;> decide)
  have hbits : i * w % 8 = w * (i % (8 / w)) := by rcases hw with rfl | rfl <;> omega
  have hindex : i * w / 8 * (8 / w) + i % (8 / w) = i := by rcases hw with rfl | rfl <;> omega
  rw [codeAt, if_pos (by omega), hd, hbits, digit_of_digits (x := fun t => cell (i * w / 8 * (8 / w) + t) % 2 ^ w)
    (fun t => Nat.mod_lt _ (Nat.two_pow_pos _)) hlt, hindex]

/-- A cell of whole bytes is read back. -/
theorem codeAt_bytes {d : FrameData} {base w i v : Nat} (h8 : 8 ∣ w) (hw : 8 ≤ w)
    (hd : ∀ j < w / 8, d (base + i * (w / 8) + j) = v / 2 ^ (8 * j) % 256) : codeAt d base w i = v % 2 ^ w := by
  have hfold : ∀ n ≤ w / 8, foldUp n (fun j acc => acc + d (base + i * (w / 8) + j) * 2 ^ (8 * j)) 0 =
      foldUp n (fun j acc => acc + v / 2 ^ (8 * j) % 256 * 2 ^ (8 * j)) 0 := by
    intro n
    induction n with
    | zero => exact fun _ => rfl
    | succ n ih =>
      intro hn
      rw [foldUp_succ, foldUp_succ, ih (Nat.le_of_succ_le hn), hd n hn]
  rw [codeAt, if_neg (Nat.not_lt.mpr hw), hfold _ (Nat.le_refl _), bytes_of_number, Nat.mul_div_cancel' h8]

/-! ### The layouts -/

section Layout
variable {R C r c : Nat} (hR : 4 ∣ R) (hC : 4 ∣ C) (hr : r < R) (hc : c < C)
include hR hC hr hc

theorem layIndex_lt (lay : Nat) : layIndex lay R C r c < R * C := by
  have hrow : ∀ {a b m n : Nat}, a < m → b < n → a * n + b < m * n := fun {a b m n} ha hb => by
    have h := Nat.mul_le_mul_right n (Nat.succ_le_of_lt ha)
    rw [Nat.succ_mul] at h
    omega
  unfold layIndex
  split
  · exact hrow hr hc
  · rw [Nat.mul_comm R C]
    exact hrow hc hr
  · obtain ⟨R', rfl⟩ := hR
    obtain ⟨C', rfl⟩ := hC
    have hcell := hrow (show r / 4 < R' by omega) (show c / 4 < C' by omega)
    rw [Nat.mul_div_cancel_left C' (by decide), Nat.mul_mul_mul_comm, Nat.mul_comm (4 * 4)]
    omega

omit hR in
theorem layInverse_layIndex (lay : Nat) : layInverse lay R C (layIndex lay R C r c) = (r, c) := by
  have hdiv : ∀ {a b n : Nat}, b < n → (a * n + b) / n = a := fun {a b n} hb => by
    rw [Nat.add_comm, Nat.add_mul_div_right _ _ (Nat.zero_lt_of_lt hb), Nat.div_eq_of_lt hb, Nat.zero_add]
  have hmod : ∀ {a b n : Nat}, b < n → (a * n + b) % n = b := fun {a b n} hb => by
    rw [Nat.add_comm, Nat.add_mul_mod_self_right, Nat.mod_eq_of_lt hb]
  match lay with
  | 0 => exact Prod.ext (hdiv hc) (hmod hc)
  | 1 => exact Prod.ext (hmod hr) (hdiv hr)
  | lay + 2 =>
    obtain ⟨C', rfl⟩ := hC
    have hc' : c / 4 < C' := by omega
    simp only [layInverse, layIndex, Nat.mul_div_cancel_left C' (show 0 < 4 by decide)]
    generalize hb : r / 4 * C' + c / 4 = b
    have h1 : (b * 16 + r % 4 * 4 + c % 4) / 16 = b := by omega
    have h2 : b / C' = r / 4 := hb ▸ hdiv hc'
    have h3 : b % C' = c / 4 := hb ▸ hmod hc'
    rw [h1, h2, h3]
    exact Prod.ext (by simp only; omega) (by simp only; omega)

end Layout

/-! ### A dense unscaled tile -/

/-- The frame of a tile in layouts 0, 1 and 3, byte by byte, and its cells. -/
def cellOf (k : Nat) (code : Nat → Nat → Nat) (i : Nat) : Nat :=
  if i < keyRows k * keyCols k then code (layInverse (keyLay k) (keyRows k) (keyCols k) i).1 (layInverse (keyLay k) (keyRows k) (keyCols k) i).2 else 0

section Frame
variable {k : Nat} (code : Nat → Nat → Nat)

theorem frameOf_packed (hlay : keyLay k ≠ 2) (hw : fmtBits (keyFmt k) < 8) (j : Nat) : frameOf k code j =
    foldUp (8 / fmtBits (keyFmt k)) (fun t acc => acc + cellOf k code (j * (8 / fmtBits (keyFmt k)) + t) % 2 ^ fmtBits (keyFmt k)
      * 2 ^ (fmtBits (keyFmt k) * t)) 0 := by
  simp only [frameOf, if_neg hlay, if_pos hw]
  rfl

theorem frameOf_bytes (hlay : keyLay k ≠ 2) (hw : 8 ≤ fmtBits (keyFmt k)) (j : Nat) : frameOf k code j =
    cellOf k code (j / (fmtBits (keyFmt k) / 8)) / 2 ^ (8 * (j % (fmtBits (keyFmt k) / 8))) % 256 := by
  simp only [frameOf, if_neg hlay, if_neg (Nat.not_lt.mpr hw)]
  rfl

/-- The columns of layout 2: column c stands in the 256 bytes of c mod 32, behind those of the columns before it. -/
structure ColumnFits (k c col : Nat) : Prop where
  size : col = keyRows k * fmtBits (keyFmt k) / 8
  fits : (c / 32 + 1) * col ≤ 256
  column : c < keyCols k

section Column
variable {c col o : Nat} (hfit : ColumnFits k c col) (ho : o < col)
include hfit ho

theorem column_offset : (256 * (c % 32) + c / 32 * col + o) % 256 = c / 32 * col + o ∧ (256 * (c % 32) + c / 32 * col + o) / 256 = c % 32
    ∧ (c / 32 * col + o) / col = c / 32 ∧ (c / 32 * col + o) % col = o := by
  have hfits := hfit.fits
  rw [Nat.succ_mul] at hfits
  refine ⟨by omega, by omega, ?_, ?_⟩
  · rw [Nat.add_comm, Nat.add_mul_div_right _ _ (Nat.zero_lt_of_lt ho), Nat.div_eq_of_lt ho, Nat.zero_add]
  · rw [Nat.add_comm, Nat.add_mul_mod_self_right, Nat.mod_eq_of_lt ho]

theorem frameOf_column (hlay : keyLay k = 2) : frameOf k code (256 * (c % 32) + c / 32 * col + o) =
    if fmtBits (keyFmt k) < 8 then foldUp (8 / fmtBits (keyFmt k)) (fun t acc => acc
      + code (o * (8 / fmtBits (keyFmt k)) + t) c % 2 ^ fmtBits (keyFmt k) * 2 ^ (fmtBits (keyFmt k) * t)) 0
    else code (o / (fmtBits (keyFmt k) / 8)) c / 2 ^ (8 * (o % (fmtBits (keyFmt k) / 8))) % 256 := by
  obtain ⟨hmod, hdiv, hcol, hoff⟩ := column_offset hfit ho
  have hback : c / 32 * 32 + c % 32 = c := Nat.div_add_mod' c 32
  have hin : ¬ (col = 0 ∨ keyCols k ≤ c ∨ 32 ≤ c % 32) := by
    have := hfit.column
    omega
  simp only [frameOf, if_pos hlay, ← hfit.size, hmod, hdiv, hcol, hoff, hback, if_neg hin]
  by_cases hw : fmtBits (keyFmt k) < 8
  · simp only [if_pos hw]
  · simp only [if_neg hw]

end Column

end Frame

theorem keyRows_dvd (k : Nat) : 16 ∣ keyRows k := ⟨_, rfl⟩
theorem keyCols_dvd (k : Nat) : 16 ∣ keyCols k := ⟨_, rfl⟩

/-- What the key of a dense unscaled tile says: its format, and that its payload fits (R318, R319). -/
theorem keyValid_dense {k : Nat} (hvalid : keyValid k = true) (hspc : keySpc k = 0) (hscaled : isScaled (keyFmt k) = false) :
    fmtBits (keyFmt k) = efBits (keyFmt k) ∧ keyFmt k ≤ 18
    ∧ (keyLay k = 2 → (keyCols k + 31) / 32 * (keyRows k * fmtBits (keyFmt k) / 8) ≤ 256) := by
  have hno : ¬ (1 ≤ keySpc k ∧ keySpc k ≤ 4) := by omega
  simp only [keyValid, hscaled, Bool.or_false, Bool.and_eq_true, decide_eq_true_eq, payloadOk, if_neg hno] at hvalid
  obtain ⟨⟨hfmt, hpayload⟩, -⟩ := hvalid
  refine ⟨by rw [fmtBits, hscaled]; rfl, hfmt, fun hlay => ?_⟩
  rw [if_pos hlay] at hpayload
  exact of_decide_eq_true hpayload

/-- The code laid out for an element is read back, modulo its width. -/
theorem tileCode_frameOf {k : Nat} (hvalid : keyValid k = true) (hspc : keySpc k = 0) (hscaled : isScaled (keyFmt k) = false) {r c : Nat}
    (hr : r < keyRows k) (hc : c < keyCols k) (code : Nat → Nat → Nat) : tileCode k (frameOf k code) r c = code r c % 2 ^ efBits (keyFmt k) := by
  obtain ⟨hbits, hfmt, hfits⟩ := keyValid_dense hvalid hspc hscaled
  have hwidth := efBits_width hfmt
  rw [← hbits] at hwidth ⊢
  have hR : 4 ∣ keyRows k := Nat.dvd_trans (by decide : 4 ∣ 16) (keyRows_dvd k)
  have hC : 4 ∣ keyCols k := Nat.dvd_trans (by decide : 4 ∣ 16) (keyCols_dvd k)
  by_cases hlay : keyLay k = 2
  · obtain ⟨col, hcol⟩ : ∃ col, col = keyRows k * fmtBits (keyFmt k) / 8 := ⟨_, rfl⟩
    have hcolumn : ColumnFits k c col := by
      refine ⟨hcol, Nat.le_trans (Nat.mul_le_mul_right _ ?_) (hcol ▸ hfits hlay), hc⟩
      omega
    simp only [tileCode, if_pos hlay, ← hcol]
    rcases Nat.lt_or_ge (fmtBits (keyFmt k)) 8 with hlt | hge
    · have ho : r * fmtBits (keyFmt k) / 8 < col := by
        obtain ⟨n, hn⟩ := keyRows_dvd k
        rcases (show fmtBits (keyFmt k) = 2 ∨ fmtBits (keyFmt k) = 4 by omega) with hw | hw <;> rw [hw] at hcol ⊢ <;> omega
      refine codeAt_packed (cell := fun i => code i c) (by omega) ?_
      rw [frameOf_column code hcolumn ho hlay, if_pos hlt]
    · obtain ⟨n, hn⟩ : 8 ∣ fmtBits (keyFmt k) := by omega
      have hcol' : col = keyRows k * n := by
        rw [hcol, hn, Nat.mul_left_comm, Nat.mul_div_cancel_left _ (by decide)]
      refine codeAt_bytes ⟨n, hn⟩ hge fun j hj => ?_
      have ho : r * (fmtBits (keyFmt k) / 8) + j < col := by
        rw [hn, Nat.mul_div_cancel_left n (by decide)] at hj ⊢
        have := Nat.mul_le_mul_right n (Nat.succ_le_of_lt hr)
        rw [Nat.succ_mul] at this
        omega
      rw [Nat.add_assoc _ (r * _), frameOf_column code hcolumn ho hlay, if_neg (Nat.not_lt.mpr hge), Nat.mul_comm r,
        Nat.mul_add_div (Nat.zero_lt_of_lt hj), Nat.div_eq_of_lt hj, Nat.add_zero, Nat.mul_add_mod, Nat.mod_eq_of_lt hj]
  · have hcell : cellOf k code (layIndex (keyLay k) (keyRows k) (keyCols k) r c) = code r c := by
      rw [cellOf, if_pos (layIndex_lt hR hC hr hc _), layInverse_layIndex hC hr hc]
    simp only [tileCode, if_neg hlay]
    rw [← hcell]
    generalize layIndex (keyLay k) (keyRows k) (keyCols k) r c = i
    rcases Nat.lt_or_ge (fmtBits (keyFmt k)) 8 with hlt | hge
    · refine codeAt_packed (by omega) ?_
      rw [Nat.zero_add]
      exact frameOf_packed code hlay hlt _
    · refine codeAt_bytes (by omega) hge fun j hj => ?_
      rw [Nat.zero_add, frameOf_bytes code hlay hge, Nat.mul_comm i, Nat.mul_add_div (Nat.zero_lt_of_lt hj), Nat.div_eq_of_lt hj, Nat.add_zero,
        Nat.mul_add_mod, Nat.mod_eq_of_lt hj]

end Sys2Proof.Machine
end

section
/-! Matrix products and tile kernels of exact values (R98, R99, R328, R337, R339). -/
namespace Sys2Proof.Machine

/-! ### The accumulator of a matrix product -/

/-- One group: its sum is rounded, and the accumulator with it. -/
def mmaStep (acc : Nat × Fl) (ps : List Num) : Nat × Fl :=
  let mid := deliver 14 .rne false 0 (groupSum ps).1
  let x := addNum .rne (valueOf 14 acc.1) (valueOf 14 mid.1)
  let out := deliver 14 .rne false 0 x.1
  (out.1, acc.2 ||| (groupSum ps).2 ||| mid.2 ||| x.2 ||| out.2)

theorem mmaAccumulate_eq (c0 : Nat) (gs : List (List Num)) : mmaAccumulate c0 gs = gs.foldl mmaStep (c0, 0) := rfl

theorem mmaStep_flags (acc : Nat × Fl) (ps : List Num) : mmaStep acc ps = ((mmaStep (acc.1, 0) ps).1, acc.2 ||| (mmaStep (acc.1, 0) ps).2) := by
  refine Prod.ext rfl ?_
  simp only [mmaStep, BitVec.ofNat_eq_ofNat, BitVec.zero_or, BitVec.or_assoc]

theorem foldl_mmaStep_flags (gs : List (List Num)) (acc : Nat × Fl) :
    gs.foldl mmaStep acc = ((gs.foldl mmaStep (acc.1, 0)).1, acc.2 ||| (gs.foldl mmaStep (acc.1, 0)).2) := by
  induction gs generalizing acc with
  | nil => exact Prod.ext rfl BitVec.or_zero.symm
  | cons ps gs ih =>
    rw [List.foldl_cons, List.foldl_cons, ih (mmaStep acc ps), ih (mmaStep (acc.1, 0) ps), mmaStep_flags acc ps]
    exact Prod.ext rfl (BitVec.or_assoc ..)

/-- The groups come one after another. -/
theorem mmaAccumulate_cons (c0 : Nat) (ps : List Num) (gs : List (List Num)) : mmaAccumulate c0 (ps :: gs) =
    ((mmaAccumulate (mmaAccumulate c0 [ps]).1 gs).1, (mmaAccumulate c0 [ps]).2 ||| (mmaAccumulate (mmaAccumulate c0 [ps]).1 gs).2) := by
  rw [mmaAccumulate_eq, mmaAccumulate_eq, mmaAccumulate_eq, List.foldl_cons, foldl_mmaStep_flags]
  rfl

/-- The sum of exact products is exact, and raises nothing (R99). -/
theorem foldl_addNum_exact {ps : List Num} {qs : List Int} (h : ps.map scaledNum = qs.map some) {p : Num} {v : Int} (hp : Exact 320 p v) :
    Exact 320 (ps.foldl (fun acc q => (addNum .rne acc q).1) p) (v + qs.sum) := by
  induction ps generalizing qs p v with
  | nil =>
    obtain rfl := List.map_eq_nil_iff.mp h.symm
    rwa [List.sum_nil, Int.add_zero]
  | cons q ps ih =>
    cases qs with
    | nil => cases h
    | cons w qs =>
      rw [List.map_cons, List.map_cons, List.cons.injEq] at h
      obtain ⟨hq, h⟩ := h
      rw [List.foldl_cons, List.sum_cons, ← Int.add_assoc]
      exact ih h (hp.add .rne (scaledNum_eq_some.mp hq)).2

theorem groupSum_exact {ps : List Num} {qs : List Int} (h : ps.map scaledNum = qs.map some) :
    (groupSum ps).2 = 0 ∧ Exact 320 (groupSum ps).1 qs.sum := by
  cases ps with
  | nil =>
    obtain rfl := List.map_eq_nil_iff.mp h.symm
    exact ⟨rfl, false, 0, 0, rfl, by decide, by rw [Nat.zero_mul, signed_zero, List.sum_nil]⟩
  | cons p ps =>
    cases qs with
    | nil => cases h
    | cons w qs =>
      rw [List.map_cons, List.map_cons, List.cons.injEq] at h
      obtain ⟨hp, h⟩ := h
      have hexact := foldl_addNum_exact h (scaledNum_eq_some.mp hp)
      rw [List.sum_cons]
      exact ⟨if_neg (by rw [hexact.not_nan]; decide), hexact⟩

/-- One group of exact products: its sum is delivered, and then the accumulator plus that (R98). -/
theorem mmaAccumulate_group (c0 : Nat) {ps : List Num} {qs : List Int} (h : ps.map scaledNum = qs.map some) :
    ∃ mid out, mmaAccumulate c0 [ps] = (out.1, mid.2 ||| out.2) ∧ deliveredAs 14 .rne false 0 (qs.sum * 2 ^ 320) mid
      ∧ ∀ vm vc, scaledCode 14 mid.1 = some vm → scaledCode 14 c0 = some vc → deliveredAs 14 .rne false 0 ((vm + vc) * 2 ^ 320) out := by
  obtain ⟨hflags, hexact⟩ := groupSum_exact h
  obtain ⟨mid, hmid⟩ : ∃ mid, mid = deliver 14 .rne false 0 (groupSum ps).1 := ⟨_, rfl⟩
  obtain ⟨x, hx⟩ : ∃ x, x = addNum .rne (valueOf 14 c0) (valueOf 14 mid.1) := ⟨_, rfl⟩
  refine ⟨mid, (⟨14, .rne, false, 0⟩ : ElemCtx).give x, ?_, ?_, fun vm vc hm hc => ?_⟩
  · rw [mmaAccumulate_eq, List.foldl_cons, List.foldl_nil, give_eq]
    simp only [mmaStep, ← hmid, ← hx, hflags]
    refine Prod.ext rfl ?_
    simp only [BitVec.ofNat_eq_ofNat, BitVec.zero_or, BitVec.or_zero, BitVec.or_assoc]
  · rw [hmid]
    exact (hexact.scale 320).deliveredAs _ _ _ _
  · rw [Int.add_comm vm, hx]
    exact give_deliveredAs ⟨14, .rne, false, 0⟩ (addNum_exact .rne (scaledNum_eq_some.mp hc) (scaledNum_eq_some.mp hm))

/-- A row of the product with an F32 accumulator and an uncompressed a: groups of 32 positions (R98). -/
theorem mmaRow_dense {y : Dispatched} (dc da db : FrameData) (mask r : Nat) (hd : keyFmt y.keys.d = 14) (ha : keySpc y.keys.a = 0) :
    mmaRow y dc da db mask r = (List.range (keyCols y.keys.d)).map fun j => mmaAccumulate (tileCode y.keys.d dc r j)
      ((List.range ((keyCols y.keys.a + 31) / 32)).map fun g => ((List.range (keyCols y.keys.a)).filter fun k => k / 32 == g).map fun k =>
        (mulNum (tileValue y.keys.a da r k) (tileValue y.keys.b db k j)).1) := by
  have hplain : ¬ (1 ≤ keySpc y.keys.a ∧ keySpc y.keys.a ≤ 4) := by omega
  have hrow : presentRow y.keys.a da mask r = (List.range (keyCols y.keys.a)).map fun k => (k, tileValue y.keys.a da r k) := by
    rw [presentRow, if_neg hplain, ha]
    exact congrArg _ (List.filter_eq_self.mpr fun _ _ => rfl)
  have hformed : (1 ≤ keySpc y.keys.a && keySpc y.keys.a ≤ 4 && bandMalformed y.keys.a da (r / (nmParams (keySpc y.keys.a)).2.2)) = false := by
    rw [ha]
    rfl
  simp only [mmaRow, mmaElement, hrow, hd, hformed, Bool.false_eq_true, if_true, if_false, List.filter_map, List.map_map, Function.comp_def]

/-! ### The kernels -/

theorem deliveredAs_mod {ef : Nat} {mode : Mode} {sat : Bool} {draw : Nat} {v : Int} {out : Nat × Fl} (h : deliveredAs ef mode sat draw v out) :
    deliveredAs ef mode sat draw v (out.1 % 2 ^ efBits ef, out.2) := by
  intro h18 h10 h11 hpos
  have h' := h h18 h10 h11 hpos
  rw [Nat.mod_eq_of_lt h'.1]
  exact h'

theorem canonical_lt {ef code : Nat} (h : code < 2 ^ efBits ef) : canonical ef code < 2 ^ efBits ef := by
  unfold canonical
  split
  next f hf =>
    split
    · cases hnan : f.nanCode with
      | none => exact h
      | some c => exact floatFmt_bits hf ▸ (floatFmt_ok hf).nanFits c hnan
    · exact h
  · exact h

section Kernels
variable {y : Dispatched} {i j : Nat} (hvalid : keyValid y.result = true) (hspc : keySpc y.result = 0)
  (hscaled : isScaled (keyFmt y.result) = false) (hi : i < keyRows y.result) (hj : j < keyCols y.result)

/-- The context of a kernel's element. -/
def kernelCtx (cap : Capture) (base : Nat) (y : Dispatched) (i j : Nat) : ElemCtx :=
  ⟨keyFmt y.result, modeOf (kernelRnd (mtArg y.method)) cap.ectrl, kernelSat (mtArg y.method), drawOf cap (base + i * keyCols y.result + j)⟩

/-- The contents of the operands of a kernel. -/
def kernelA (y : Dispatched) : FrameData := (y.a.map fun o => o.data).getD fun _ => 0
def kernelB (y : Dispatched) : FrameData := (y.b.map fun o => o.data).getD fun _ => 0

/-- The output of a kernel that computes each element. -/
def kernelBuild (y : Dispatched) (el : Nat → Nat → Nat × Fl) : KernelOut := (frameOf y.result fun i j => (el i j).1, fun i j => (el i j).2)

/-- An element of a kernel's output: its code as it is read back, and its flags. -/
def outElement (y : Dispatched) (out : KernelOut) (i j : Nat) : Nat × Fl := (tileCode y.result out.1 i j, out.2 i j)

/-- The number that the element-wise kernel delivers (R337). -/
def tewNum (fn : Nat) (mode : Mode) (a b : Num) : Num × Fl :=
  match fn with
  | 0 => addNum mode a b
  | 1 => addNum mode a (negNum b)
  | 2 => mulNum a b
  | 3 => (maxNum a b, 0)
  | _ => (minNum a b, 0)

section Equations
variable (fn splat : Nat) (cap : Capture) (base : Nat) (t : TX)

theorem runKernel_tew : runKernel (.tew t) fn splat cap base y = kernelBuild y fun i j =>
    (kernelCtx cap base y i j).give (tewNum fn (kernelCtx cap base y i j).mode (tileValue y.keys.a (kernelA y) i j) (tileValue y.keys.b (kernelB y) i j)) := by
  match fn with
  | 0 => rfl
  | 1 => rfl
  | 2 => rfl
  | 3 => rfl
  | n + 4 => rfl

theorem runKernel_tcvt (hscaled : isScaled (keyFmt y.result) = false) : runKernel (.tcvt t) fn splat cap base y = kernelBuild y fun i j =>
    (kernelCtx cap base y i j).give (tileValue y.keys.a (kernelA y) i j, 0) := by
  have hif : ∀ p q : KernelOut, (if isScaled (keyFmt y.result) = true then p else q) = q := fun p q => if_neg (by rw [hscaled]; decide)
  exact hif ..

theorem runKernel_ttrn : runKernel (.ttrn t) fn splat cap base y = kernelBuild y fun i j =>
    (canonical (keyFmt y.result) (tileCode y.keys.a (kernelA y) j i), 0) := rfl

theorem runKernel_tfill : runKernel (.tfill t) fn splat cap base y = kernelBuild y fun _ _ =>
    (canonical (keyFmt y.result) (splat % 2 ^ efBits (keyFmt y.result)), 0) := rfl

theorem runKernel_tcpy : (runKernel (.tcpy t) fn splat cap base y).1 = kernelA y := rfl

end Equations

include hvalid hspc hscaled hi hj

theorem outElement_kernelBuild (el : Nat → Nat → Nat × Fl) :
    outElement y (kernelBuild y el) i j = ((el i j).1 % 2 ^ efBits (keyFmt y.result), (el i j).2) := by
  rw [outElement, kernelBuild, tileCode_frameOf hvalid hspc hscaled hi hj]

/-- An element of a kernel that delivers each element from an exact value. -/
theorem outElement_deliveredAs (cap : Capture) (base : Nat) {el : Nat → Nat → Nat × Fl} {num : Num × Fl} {v : Int}
    (hel : el i j = (kernelCtx cap base y i j).give num) (hnum : num.2 = 0 ∧ Exact 640 num.1 v) :
    deliveredAs (keyFmt y.result) (modeOf (kernelRnd (mtArg y.method)) cap.ectrl) (kernelSat (mtArg y.method))
      (drawOf cap (base + i * keyCols y.result + j)) v (outElement y (kernelBuild y el) i j) := by
  rw [outElement_kernelBuild hvalid hspc hscaled hi hj, hel]
  exact deliveredAs_mod (give_deliveredAs (kernelCtx cap base y i j) hnum)

/-- The element-wise kernels and the conversion of finite elements (R337, R339). -/
theorem kernels_deliveredAs (t : TX) (fn splat : Nat) (cap : Capture) (base : Nat) {p q : Int}
    (hp : scaledNum (tileValue y.keys.a (kernelA y) i j) = some p) (hq : scaledNum (tileValue y.keys.b (kernelB y) i j) = some q) :
    ∀ o ∈ [(Instr.tew t, 0, (p + q) * 2 ^ 320), (.tew t, 1, (p - q) * 2 ^ 320), (.tew t, 2, p * q), (.tew t, 3, max p q * 2 ^ 320),
        (.tew t, 4, min p q * 2 ^ 320), (.tcvt t, fn, p * 2 ^ 320)],
      deliveredAs (keyFmt y.result) (modeOf (kernelRnd (mtArg y.method)) cap.ectrl) (kernelSat (mtArg y.method))
        (drawOf cap (base + i * keyCols y.result + j)) o.2.2 (outElement y (runKernel o.1 o.2.1 splat cap base y) i j) := by
  rw [scaledNum_eq_some] at hp hq
  have hmax : Exact 640 (maxNum (tileValue y.keys.a (kernelA y) i j) (tileValue y.keys.b (kernelB y) i j)) (max p q * 2 ^ 320) := by
    rcases hp.maxNum hq with ⟨heq, hle⟩ | ⟨heq, hle⟩
    · rw [heq, Int.max_eq_left hle]
      exact hp.scale 320
    · rw [heq, Int.max_eq_right hle]
      exact hq.scale 320
  have hmin : Exact 640 (minNum (tileValue y.keys.a (kernelA y) i j) (tileValue y.keys.b (kernelB y) i j)) (min p q * 2 ^ 320) := by
    rcases hp.minNum hq with ⟨heq, hle⟩ | ⟨heq, hle⟩
    · rw [heq, Int.min_eq_left hle]
      exact hp.scale 320
    · rw [heq, Int.min_eq_right hle]
      exact hq.scale 320
  have hnum := fun {el : Nat → Nat → Nat × Fl} {num : Num × Fl} {v : Int} =>
    outElement_deliveredAs hvalid hspc hscaled hi hj cap base (el := el) (num := num) (v := v)
  simp only [List.forall_mem_cons, List.not_mem_nil, false_implies, implies_true, and_true, runKernel_tew,
    runKernel_tcvt fn splat cap base t hscaled]
  refine ⟨hnum rfl (addNum_exact _ hp hq), ?_, hnum rfl (mulNum_exact hp hq), hnum rfl ⟨rfl, hmax⟩, hnum rfl ⟨rfl, hmin⟩, hnum rfl ⟨rfl, hp.scale 320⟩⟩
  rw [Int.sub_eq_add_neg]
  exact hnum rfl (addNum_exact _ hp hq.neg)

/-- The transpose and the fill (R339). -/
theorem outElement_ttrn (t : TX) (fn splat : Nat) (cap : Capture) (base : Nat) : outElement y (runKernel (.ttrn t) fn splat cap base y) i j =
    (canonical (keyFmt y.result) (tileCode y.keys.a (kernelA y) j i) % 2 ^ efBits (keyFmt y.result), 0) := by
  rw [runKernel_ttrn, outElement_kernelBuild hvalid hspc hscaled hi hj]

theorem outElement_tfill (t : TX) (fn splat : Nat) (cap : Capture) (base : Nat) : outElement y (runKernel (.tfill t) fn splat cap base y) i j =
    (canonical (keyFmt y.result) (splat % 2 ^ efBits (keyFmt y.result)), 0) := by
  rw [runKernel_tfill, outElement_kernelBuild hvalid hspc hscaled hi hj]
  exact Prod.ext (Nat.mod_eq_of_lt (canonical_lt (Nat.mod_lt _ (Nat.two_pow_pos _)))) rfl

end Kernels

end Sys2Proof.Machine
end

section
/-! The values of elements (R84 to R98, R255 to R286, R318 to R339): the obligation. -/
namespace Sys2Proof.Machine

/-! ### Integer operations -/

section IntegerOps
variable {x : ElemCtx} {w : Nat} (f : BX) (i c : Nat) (a b : BitVec w)

/-- An element instruction's code for element i. -/
def Gives (x : ElemCtx) (f : BX) (i c : Nat) (a b : BitVec w) (ins : Instr) (r : BitVec w) : Prop :=
  ∃ fl, elementResult ins f x i a.toNat b.toNat c = some (r.toNat, fl)

theorem gives_of_eq {ins : Instr} {r : BitVec w} {p : Nat × Fl} {fl : Fl} (h : elementResult ins f x i a.toNat b.toNat c = some p)
    (hp : p = (r.toNat, fl)) : Gives x f i c a b ins r := ⟨fl, hp ▸ h⟩

variable (hw : efBits x.ef = w) (hef : efInt x.ef = true)
include hw hef

theorem wrapping_operations (hsat : x.sat = false) :
    Gives x f i c a b (.vadd f) (a + b) ∧ Gives x f i c a b (.vsub f) (a - b) ∧ Gives x f i c a b (.vmul f) (a * b)
    ∧ Gives x f i c a b (.viota f) (a + BitVec.ofNat w i) ∧ Gives x f i c a b (.vneg f) (-a)
    ∧ Gives x f i c a b (.vabs f) (if efSigned x.ef = true ∧ a.slt 0 then -a else a)
    ∧ (b ≠ 0 → Gives x f i c a b (.vdiv f) (if efSigned x.ef = true then a.sdiv b else a / b))
    ∧ (b = 0 → Gives x f i c a b (.vdiv f) (BitVec.allOnes w)) := by
  refine ⟨gives_of_eq f i c a b rfl (opAdd_bits hw hef hsat a b), gives_of_eq f i c a b rfl (opSub_bits hw hef hsat a b),
    gives_of_eq f i c a b rfl (opMul_bits hw hef hsat a b), gives_of_eq f i c a b rfl (opIota_bits hw hef hsat a i),
    gives_of_eq f i c a b rfl (opNeg_bits hw hef hsat a), gives_of_eq f i c a b rfl (opAbs_bits hw hef hsat a),
    fun hb => gives_of_eq f i c a b rfl (opDiv_bits hw hef hsat a b hb), ?_⟩
  rintro rfl
  exact gives_of_eq f i c a 0 rfl (opDiv_zero hw hef a)

omit hw in
theorem saturating_operations (hsat : x.sat = true) :
    ∀ p ∈ [(Instr.vadd f, intOf x.ef a.toNat + intOf x.ef b.toNat), (.vsub f, intOf x.ef a.toNat - intOf x.ef b.toNat),
        (.vmul f, intOf x.ef a.toNat * intOf x.ef b.toNat), (.vneg f, -(intOf x.ef a.toNat)), (.vabs f, ((intOf x.ef a.toNat).natAbs : Int))],
      ∃ r, elementResult p.1 f x i a.toNat b.toNat c = some (r, if p.2 < intMin x.ef ∨ intMax x.ef < p.2 then 20 else 0)
        ∧ intOf x.ef r = max (intMin x.ef) (min (intMax x.ef) p.2) := by
  have hclamp : ∀ {ins : Instr} {p : Nat × Fl} {v : Int}, elementResult ins f x i a.toNat b.toNat c = some p →
      p = deliverInt x.ef x.sat v false → ∃ r, elementResult ins f x i a.toNat b.toNat c = some (r, if v < intMin x.ef ∨ intMax x.ef < v then 20 else 0)
        ∧ intOf x.ef r = max (intMin x.ef) (min (intMax x.ef) v) := by
    intro ins p v hins hp
    obtain ⟨r, hr, hval⟩ := deliverInt_saturates hef v
    rw [hsat, hr] at hp
    exact ⟨r, hp ▸ hins, hval⟩
  simp only [List.forall_mem_cons, List.not_mem_nil, false_implies, implies_true, and_true]
  exact ⟨hclamp rfl (opAdd_int hef ..), hclamp rfl (opSub_int hef ..), hclamp rfl (opMul_int hef ..), hclamp rfl (opNeg_int hef ..),
    hclamp rfl (opAbs_int hef ..)⟩

end IntegerOps

/-! ### The obligation -/

/-- Settles O35: integers as bit vectors, exact values as they are delivered, trees and merges by their recursion, tiles by their layouts. -/
theorem integerElementsFollowTheirOperations : Obligations.IntegerElementsFollowTheirOperations := by
  unfold Obligations.IntegerElementsFollowTheirOperations
  refine ⟨?_, ?_, ?_, ?_, ?_, ?_, ?_, ?_, ?_⟩
  · intro f x w i c a b hw hef
    refine ⟨wrapping_operations f i c a b hw hef, ⟨_, congrArg some (opMulh_bits hw hef a b)⟩, ⟨0, rfl⟩, ⟨0, rfl⟩, ⟨0, rfl⟩,
      ⟨_, congrArg some (opSll_bits hw a b)⟩, ⟨_, congrArg some (opSrl_bits hw a b)⟩, ⟨_, congrArg some (opSra_bits hw hef a b)⟩,
      ⟨_, congrArg some (opClmul_bits hw a b)⟩, ⟨_, congrArg some (opClmulh_bits hw a b)⟩, ⟨_, congrArg some (opPopc_bits hw a)⟩,
      ⟨_, congrArg some (opClz_bits hw a)⟩, ⟨_, congrArg some (opMin_bits hw hef a b)⟩, ⟨_, congrArg some (opMax_bits hw hef a b)⟩,
      ⟨0, ?_⟩, ⟨0, ?_⟩, ⟨0, ?_⟩, saturating_operations f i c a b hef⟩
    all_goals exact congrArg (fun r => some (r, 0)) (canonical_int hef a.toNat)
  · intro f x i a b c va vb vc ha hb hc
    exact ⟨arithmetic_deliveredAs f i ha hb hc, conversion_deliveredAs f i ha, fun h18 =>
      ⟨(opMin_exact h18 ha hb).imp fun _ h => ⟨congrArg some h.1, h.2⟩, (opMax_exact h18 ha hb).imp fun _ h => ⟨congrArg some h.1, h.2⟩⟩,
      compareCodes_exact ha hb⟩
  · intro f x i a b c nan hnan
    exact ⟨fun hab => ⟨arithmetic_nan hnan f i c hab, compareCodes_nan hab⟩, fun n ha => arithmetic_inf hnan f i c ha⟩
  · intro f x fn ts hef hts
    have hvs : ∀ v ∈ ts.map fun t => t.2, v < 2 ^ efBits x.ef := List.forall_mem_map.mpr hts
    refine ⟨fun hsat => ⟨reduceTerms_vredsum hef f fn hsat hts, fun old _ => scatterUpdate_vscatadd hef f hsat hvs old⟩, ?_,
      reduceTerms_extrema hef f fn hts, fun old hold => scatterUpdate_extrema hef f (List.forall_mem_cons.mpr ⟨hold, hvs⟩),
      fun j hj => reduceTerms_vredbit f x ts hj, reduceTerms_vfirst f x fn ts, reduceTerms_vcount f x fn ts⟩
    rintro rfl
    exact reduceTerms_empty hef f fn
  · intro f x fn k ts hlo hhi
    have hsplit := sumCodes_split x.ef x.mode x.sat x.draw (ts := ts.map fun t => t.2) (by rwa [List.length_map]) (by rwa [List.length_map])
    rwa [← List.map_take, ← List.map_drop] at hsplit
  · intro f x as bs hef hsat has hbs hlt
    exact ⟨mergePairs_vspadd_keys f ▸ unionKeys_ascend, mergePairs_vspmul_ascend f has, fun k => exists_mem_vspadd f, fun k => exists_mem_vspmul f,
      fun p hp q hq hkey => merge_both hef hsat f has hbs hlt hp hq hkey, fun p hp hno => merge_left hef hsat f has hlt hp hno,
      fun p hp hno => merge_right hef hsat f hbs hlt hp hno⟩
  · exact fun c0 ps qs gs => ⟨mmaAccumulate_group c0, mmaAccumulate_cons c0 ps gs⟩
  · exact fun y dc da db mask r => mmaRow_dense dc da db mask r
  · intro t fn splat base i j cap y r hvalid hspc hscaled hi hj da db el is
    refine ⟨fun p q hp hq => ?_, outElement_ttrn hvalid hspc hscaled hi hj t fn splat cap base,
      outElement_tfill hvalid hspc hscaled hi hj t fn splat cap base, runKernel_tcpy fn splat cap base t⟩
    have hkernels := kernels_deliveredAs hvalid hspc hscaled hi hj t fn splat cap base hp hq
    simp only [List.forall_mem_cons, List.not_mem_nil, false_implies, implies_true, and_true] at hkernels
    exact hkernels

end Sys2Proof.Machine
end
